-- ==== Sys2Proof/Word.lean ====
section
/-! DEFINITION. The word types of the Twisel 960 and the type of a sparse map (a sorted list of key and value pairs). -/

namespace Sys2Proof

/-- One byte of memory (R5). -/
abbrev Byte := BitVec 8

/-- One lane of a vector register (R9). -/
abbrev W32 := BitVec 32

/-- A uniform register, a generic address, a special register (R9, R28). -/
abbrev W64 := BitVec 64

/-- A sparse map: keys strictly rising, every key that is not listed reads as the map's default. -/
abbrev SMap (α : Type) := List (Nat × α)

end Sys2Proof
end

