-- ==== Sys2Proof/Config.lean ====
section
/-! DEFINITION. What the manual leaves to the implementation: free values. Each is opaque, so that no statement can
rest on a value of it; where the manual bounds a free value, the meaning that uses it keeps the bound. -/

namespace Sys2Proof.Config

/-- A choice the device makes among listed outcomes (R8), indexed by the state's counter `free`. -/
opaque pick : Nat → Nat

/-- The nanoseconds of package time one step takes (R21: GTIME never decreases). -/
opaque stepNs : Nat → Nat

/-- R155: whether `vfrcp` of this operand (format code, bits) returns the upper of the two bracketing values. -/
opaque rcpUp : Nat → Nat → Bool

/-- R155: whether `vfrsq` of this operand returns the upper of the two bracketing values. -/
opaque rsqUp : Nat → Nat → Bool

/-- R156: the result `vfex2` gives for an operand without an exact value, before the bound of 2 ulp is applied. -/
opaque ex2 : W32 → W32

/-- R156: likewise for `vflg2`. -/
opaque lg2 : W32 → W32

/-- R156: likewise for `vfsin`. -/
opaque sin : W32 → W32

/-- R156: likewise for `vfcos`. -/
opaque cos : W32 → W32

/-- R199: whether a 4-byte word of a basin last held by the same context keeps its value at `balloc`
(first argument the state's counter, second the word). -/
opaque keepWord : Nat → Nat → Bool

/-- R439: the measurement value reported for an index, over the state digest the model passes. -/
opaque measure : Nat → Nat → Nat

/-- R439: the key of this device, generated on its first boot. -/
opaque identityKey : Nat

/-- R439: the chain that certifies it, rooted in the vendor's key. -/
opaque certChain : List Nat

end Sys2Proof.Config
end

