-- ==== Sys2Proof/Syntax.lean ====
section
/-! DEFINITION. The instruction set: one constructor per row of the opcode table. The first 188 are words (R55 to
R256); the others are the machine's own events, which the opcode table lists as steps beside the words. -/

namespace Sys2Proof

/-- The offset or immediate of a word with a short and a long form: X in the 64-bit word, I32 in the 96-bit word (R62, R75). -/
inductive Off where
  | i11 (x : BitVec 11)
  | i32 (x : BitVec 32)
  deriving DecidableEq, Repr

/-- The immediate of `movi`: X, I32 or I64 (R118). -/
inductive Imm where
  | i11 (x : BitVec 11)
  | i32 (x : BitVec 32)
  | i64 (x : BitVec 64)
  deriving DecidableEq, Repr

/-- The second source of a two-operand uniform word: G = 7 register form, G = 6 immediate form (R112). -/
inductive Src where
  | reg (b : BitVec 8)
  | imm11 (x : BitVec 11)
  | imm32 (x : BitVec 32)
  deriving DecidableEq, Repr

/-- The second source of a vector word: v(B), or I32 of the 96-bit word (R134). -/
inductive VSrc where
  | reg (b : BitVec 8)
  | imm (x : BitVec 32)
  deriving DecidableEq, Repr

/-- The displacement of an XD word: DISP8, or I32 of the 96-bit word (R64). -/
inductive Disp where
  | d8 (x : BitVec 8)
  | d32 (x : BitVec 32)
  deriving DecidableEq, Repr

/-- The displacement of an atomic word: none in the 64-bit word, I32 in the 96-bit word (R87, R178). -/
inductive ADisp where
  | none
  | d32 (x : BitVec 32)
  deriving DecidableEq, Repr

/-- The fields of a word as R55 lays them out (a hint keeps all of them, R73). -/
structure Raw where
  len : BitVec 2
  s : BitVec 1
  op : BitVec 9
  g : BitVec 3
  d : BitVec 8
  a : BitVec 8
  b : BitVec 8
  c : BitVec 8
  m : BitVec 6
  x : BitVec 11
  tail : BitVec 64
  deriving DecidableEq, Repr

/-- Operands of two-operand uniform integer word (R112, R114). -/
structure UBin where
  sw : Bool
  ty : BitVec 3
  d : BitVec 8
  a : BitVec 8
  src : Src
  deriving DecidableEq, Repr

/-- Operands of one-operand uniform word popc, clz, ctz, brev (R114). -/
structure UUn where
  sw : Bool
  ty : BitVec 3
  d : BitVec 8
  a : BitVec 8
  deriving DecidableEq, Repr

/-- Operands of abs; long is the 96-bit form with a zero tail (R114). -/
structure UAbs where
  sw : Bool
  ty : BitVec 3
  d : BitVec 8
  a : BitVec 8
  long : Bool
  deriving DecidableEq, Repr

/-- Operands of bfx (R117). -/
structure UBfx where
  sw : Bool
  ty : BitVec 3
  d : BitVec 8
  a : BitVec 8
  width : BitVec 8
  pos : BitVec 11
  deriving DecidableEq, Repr

/-- Operands of bfi (R117). -/
structure UBfi where
  sw : Bool
  ty : BitVec 3
  d : BitVec 8
  a : BitVec 8
  b : BitVec 8
  width : BitVec 8
  pos : BitVec 11
  deriving DecidableEq, Repr

/-- Operands of cmp with its condition (R84, R114). -/
structure UCmp where
  sw : Bool
  cond : BitVec 3
  ty : BitVec 3
  d : BitVec 8
  a : BitVec 8
  src : Src
  deriving DecidableEq, Repr

/-- Operands of sel (R114). -/
structure USel where
  sw : Bool
  ty : BitVec 3
  d : BitVec 8
  a : BitVec 8
  c : BitVec 8
  src : Src
  deriving DecidableEq, Repr

/-- Operands of mov (R114). -/
structure UMov where
  sw : Bool
  ty : BitVec 3
  d : BitVec 8
  src : Src
  deriving DecidableEq, Repr

/-- Operands of movi (R118). -/
structure UMovi where
  sw : Bool
  d : BitVec 8
  imm : Imm
  deriving DecidableEq, Repr

/-- Operands of lea with M = 0 (R118). -/
structure ULea where
  sw : Bool
  d : BitVec 8
  a : BitVec 8
  off : Off
  deriving DecidableEq, Repr

/-- Operands of lea with M = 1 (R118). -/
structure ULeaPc where
  sw : Bool
  d : BitVec 8
  off : Off
  deriving DecidableEq, Repr

/-- Operands of b and skipz (R121, R125). -/
structure Br where
  sw : Bool
  off : Off
  deriving DecidableEq, Repr

/-- Operands of bz, bnz and loop (R121). -/
structure BrR where
  sw : Bool
  a : BitVec 8
  off : Off
  deriving DecidableEq, Repr

/-- Operands of bc (R121). -/
structure Bc where
  sw : Bool
  cond : BitVec 3
  ty : BitVec 3
  a : BitVec 8
  b : BitVec 8
  off : Off
  deriving DecidableEq, Repr

/-- Operands of call (R121). -/
structure Call where
  sw : Bool
  d : BitVec 8
  off : Off
  deriving DecidableEq, Repr

/-- Operands of ret, jmp and setmask (R121, R122). -/
structure OneA where
  sw : Bool
  a : BitVec 8
  deriving DecidableEq, Repr

/-- Operands of ballot and ballot.nz; g is a guard (R123). -/
structure Ballot where
  sw : Bool
  g : BitVec 3
  d : BitVec 8
  pa : BitVec 3
  deriving DecidableEq, Repr

/-- Operands of mpop, mffs, mwait, eprov: a destination and a source register (R124, R175, R235). -/
structure TwoDA where
  sw : Bool
  d : BitVec 8
  a : BitVec 8
  deriving DecidableEq, Repr

/-- Operands of numbered barrier n with expected count e (R127). -/
structure Bar where
  sw : Bool
  n : BitVec 4
  e : BitVec 8
  deriving DecidableEq, Repr

/-- Operands of a word without operands. -/
structure Plain where
  sw : Bool
  deriving DecidableEq, Repr

/-- Operands of nop of any of its three lengths (R77). -/
structure Nop where
  sw : Bool
  len : BitVec 2
  deriving DecidableEq, Repr

/-- Operands of two-source vector integer word; shifts take the immediate as a count (R134, R136). -/
structure VBin where
  sw : Bool
  g : BitVec 3
  ty : BitVec 3
  sat : Bool
  d : BitVec 8
  a : BitVec 8
  src : VSrc
  deriving DecidableEq, Repr

/-- Operands of vmad (R136). -/
structure VMad where
  sw : Bool
  g : BitVec 3
  ty : BitVec 3
  sat : Bool
  d : BitVec 8
  a : BitVec 8
  src : VSrc
  c : BitVec 8
  deriving DecidableEq, Repr

/-- Operands of vabs and vnot, with a 96-bit form whose tail is zero (R134). -/
structure VUnL where
  sw : Bool
  g : BitVec 3
  ty : BitVec 3
  sat : Bool
  d : BitVec 8
  a : BitVec 8
  long : Bool
  deriving DecidableEq, Repr

/-- Operands of vrotl (R136). -/
structure VRotl where
  sw : Bool
  g : BitVec 3
  ty : BitVec 3
  d : BitVec 8
  a : BitVec 8
  b : BitVec 8
  deriving DecidableEq, Repr

/-- Operands of vpopc, vclz, vctz, vbrev (R136). -/
structure VUn where
  sw : Bool
  g : BitVec 3
  ty : BitVec 3
  d : BitVec 8
  a : BitVec 8
  deriving DecidableEq, Repr

/-- Operands of vbfx (R138). -/
structure VBfx where
  sw : Bool
  g : BitVec 3
  ty : BitVec 3
  d : BitVec 8
  a : BitVec 8
  width : BitVec 8
  pos : BitVec 11
  deriving DecidableEq, Repr

/-- Operands of vbfi (R138). -/
structure VBfi where
  sw : Bool
  g : BitVec 3
  ty : BitVec 3
  d : BitVec 8
  a : BitVec 8
  b : BitVec 8
  width : BitVec 8
  pos : BitVec 11
  deriving DecidableEq, Repr

/-- Operands of vcmp (R139). -/
structure VCmp where
  sw : Bool
  g : BitVec 3
  cond : BitVec 3
  ty : BitVec 3
  pd : BitVec 3
  a : BitVec 8
  b : BitVec 8
  deriving DecidableEq, Repr

/-- Operands of vsel (R139). -/
structure VSel where
  sw : Bool
  g : BitVec 3
  ty : BitVec 3
  d : BitVec 8
  a : BitVec 8
  b : BitVec 8
  pc : BitVec 3
  deriving DecidableEq, Repr

/-- Operands of vmov (R139). -/
structure VMov where
  sw : Bool
  g : BitVec 3
  ty : BitVec 3
  d : BitVec 8
  src : VSrc
  deriving DecidableEq, Repr

/-- Operands of vbcast (R139). -/
structure VBcast where
  sw : Bool
  g : BitVec 3
  ty : BitVec 3
  d : BitVec 8
  a : BitVec 8
  deriving DecidableEq, Repr

/-- Operands of vlane (R139). -/
structure VLane where
  sw : Bool
  g : BitVec 3
  ty : BitVec 3
  d : BitVec 8
  deriving DecidableEq, Repr

/-- Operands of conversions: vcvt, vsat, vfcvt, vfi, vif (R140, R150). -/
structure VCvt where
  sw : Bool
  g : BitVec 3
  td : BitVec 3
  ts : BitVec 3
  rnd : BitVec 3
  sat : Bool
  d : BitVec 8
  a : BitVec 8
  deriving DecidableEq, Repr

/-- Operands of vshfl (R143). -/
structure VShfl where
  sw : Bool
  g : BitVec 3
  ty : BitVec 3
  d : BitVec 8
  a : BitVec 8
  b : BitVec 8
  off : Off
  deriving DecidableEq, Repr

/-- Operands of vrot (R143). -/
structure VRot where
  sw : Bool
  g : BitVec 3
  ty : BitVec 3
  d : BitVec 8
  a : BitVec 8
  off : Off
  deriving DecidableEq, Repr

/-- Operands of vred and vscan: operation and type of R85 (R144). -/
structure VRed where
  sw : Bool
  g : BitVec 3
  op : BitVec 3
  ty : BitVec 3
  d : BitVec 8
  a : BitVec 8
  deriving DecidableEq, Repr

/-- Operands of vredx (R144). -/
structure VRedx where
  sw : Bool
  g : BitVec 3
  op : BitVec 3
  ty : BitVec 3
  d : BitVec 8
  a : BitVec 8
  c : BitVec 8
  deriving DecidableEq, Repr

/-- Operands of vextract and vinsert (R147). -/
structure VLaneMove where
  sw : Bool
  ty : BitVec 3
  d : BitVec 8
  a : BitVec 8
  lane : Off
  deriving DecidableEq, Repr

/-- Operands of vmatch; long is the 96-bit form with a zero tail (R148). -/
structure VMatch where
  sw : Bool
  g : BitVec 3
  ty : BitVec 3
  d : BitVec 8
  a : BitVec 8
  long : Bool
  deriving DecidableEq, Repr

/-- Operands of two-source vector floating word (R150). -/
structure VF2 where
  sw : Bool
  g : BitVec 3
  ty : BitVec 3
  rnd : BitVec 3
  sat : Bool
  d : BitVec 8
  a : BitVec 8
  b : BitVec 8
  deriving DecidableEq, Repr

/-- Operands of vffma (R150). -/
structure VF3 where
  sw : Bool
  g : BitVec 3
  ty : BitVec 3
  rnd : BitVec 3
  sat : Bool
  d : BitVec 8
  a : BitVec 8
  b : BitVec 8
  c : BitVec 8
  deriving DecidableEq, Repr

/-- Operands of one-source vector floating word (R150). -/
structure VF1 where
  sw : Bool
  g : BitVec 3
  ty : BitVec 3
  rnd : BitVec 3
  sat : Bool
  d : BitVec 8
  a : BitVec 8
  deriving DecidableEq, Repr

/-- Operands of vfcmp (R154). -/
structure VFcmp where
  sw : Bool
  g : BitVec 3
  cond : BitVec 3
  ty : BitVec 3
  pd : BitVec 3
  a : BitVec 8
  b : BitVec 8
  deriving DecidableEq, Repr

/-- Operands of fadd and fmul (R161). -/
structure UF2 where
  sw : Bool
  ty : BitVec 3
  rnd : BitVec 3
  sat : Bool
  d : BitVec 8
  a : BitVec 8
  b : BitVec 8
  deriving DecidableEq, Repr

/-- Operands of ffma (R161). -/
structure UF3 where
  sw : Bool
  ty : BitVec 3
  rnd : BitVec 3
  sat : Bool
  d : BitVec 8
  a : BitVec 8
  b : BitVec 8
  c : BitVec 8
  deriving DecidableEq, Repr

/-- Operands of fcvt of kind 0 to 2 (R161). -/
structure UFcvt where
  sw : Bool
  kind : BitVec 2
  td : BitVec 3
  ts : BitVec 3
  rnd : BitVec 3
  sat : Bool
  d : BitVec 8
  a : BitVec 8
  deriving DecidableEq, Repr

/-- Operands of vdot2, vdot4 and vdotds (R164). -/
structure VDot where
  sw : Bool
  g : BitVec 3
  ty : BitVec 3
  sen : Bool
  kv : BitVec 2
  af : BitVec 2
  bs : BitVec 2
  j : BitVec 7
  d : BitVec 8
  a : BitVec 8
  b : BitVec 8
  c : BitVec 8
  deriving DecidableEq, Repr

/-- Operands of vcvtds (R168). -/
structure VCvtds where
  sw : Bool
  g : BitVec 3
  ts : BitVec 3
  d : BitVec 8
  a : BitVec 8
  pos : BitVec 2
  deriving DecidableEq, Repr

/-- Operands of vbpl and vbpu (R170). -/
structure VBp where
  sw : Bool
  g : BitVec 3
  signed : Bool
  k : BitVec 2
  d : BitVec 8
  a : BitVec 8
  deriving DecidableEq, Repr

/-- Operands of vbpdot (R170). -/
structure VBpdot where
  sw : Bool
  g : BitVec 3
  signed : Bool
  m : BitVec 3
  k : BitVec 2
  d : BitVec 8
  a : BitVec 8
  b : BitVec 8
  deriving DecidableEq, Repr

/-- Operands of vbpsel (R170). -/
structure VBpsel where
  sw : Bool
  g : BitVec 3
  k : BitVec 2
  d : BitVec 8
  a : BitVec 8
  b : BitVec 8
  deriving DecidableEq, Repr

/-- Operands of ld and marm (R175). -/
structure MLd where
  sw : Bool
  scope : BitVec 3
  ord : BitVec 3
  sgn : Bool
  wid : BitVec 2
  d : BitVec 8
  a : BitVec 8
  disp : Disp
  deriving DecidableEq, Repr

/-- Operands of st (R175). -/
structure MSt where
  sw : Bool
  scope : BitVec 3
  ord : BitVec 3
  wid : BitVec 2
  a : BitVec 8
  b : BitVec 8
  disp : Disp
  deriving DecidableEq, Repr

/-- Operands of vld (R175). -/
structure MVld where
  sw : Bool
  g : BitVec 3
  scope : BitVec 3
  ord : BitVec 3
  sgn : Bool
  wid : BitVec 2
  d : BitVec 8
  a : BitVec 8
  disp : Disp
  deriving DecidableEq, Repr

/-- Operands of vst (R175). -/
structure MVst where
  sw : Bool
  g : BitVec 3
  scope : BitVec 3
  ord : BitVec 3
  wid : BitVec 2
  a : BitVec 8
  b : BitVec 8
  disp : Disp
  deriving DecidableEq, Repr

/-- Operands of vprefetch (R182). -/
structure MPref where
  sw : Bool
  g : BitVec 3
  a : BitVec 8
  disp : Disp
  deriving DecidableEq, Repr

/-- Operands of atom: operation code of R87 (R175). -/
structure MAtom where
  sw : Bool
  scope : BitVec 3
  ord : BitVec 3
  op : BitVec 8
  sgn : Bool
  wid : BitVec 2
  d : BitVec 8
  a : BitVec 8
  b : BitVec 8
  disp : ADisp
  deriving DecidableEq, Repr

/-- Operands of cas (R175). -/
structure MCas where
  sw : Bool
  scope : BitVec 3
  ord : BitVec 3
  wid : BitVec 2
  d : BitVec 8
  a : BitVec 8
  b : BitVec 8
  c : BitVec 8
  disp : ADisp
  deriving DecidableEq, Repr

/-- Operands of vatom and vfatom (R175). -/
structure MVatom where
  sw : Bool
  g : BitVec 3
  scope : BitVec 3
  ord : BitVec 3
  op : BitVec 8
  sgn : Bool
  wid : BitVec 2
  d : BitVec 8
  a : BitVec 8
  b : BitVec 8
  disp : ADisp
  deriving DecidableEq, Repr

/-- Operands of vcas (R175). -/
structure MVcas where
  sw : Bool
  g : BitVec 3
  scope : BitVec 3
  ord : BitVec 3
  wid : BitVec 2
  d : BitVec 8
  a : BitVec 8
  b : BitVec 8
  c : BitVec 8
  disp : ADisp
  deriving DecidableEq, Repr

/-- Operands of vscadd (R175). -/
structure MVscadd where
  sw : Bool
  g : BitVec 3
  scope : BitVec 3
  ord : BitVec 3
  op : BitVec 8
  wid : BitVec 2
  a : BitVec 8
  b : BitVec 8
  disp : ADisp
  deriving DecidableEq, Repr

/-- Operands of vbin (R175). -/
structure MVbin where
  sw : Bool
  g : BitVec 3
  scope : BitVec 3
  ord : BitVec 3
  d : BitVec 8
  a : BitVec 8
  b : BitVec 8
  disp : ADisp
  deriving DecidableEq, Repr

/-- Operands of fence (R175). -/
structure MFence where
  sw : Bool
  scope : BitVec 3
  ord : BitVec 3
  deriving DecidableEq, Repr

/-- Operands of cinv and cwb (R175). -/
structure MCache where
  sw : Bool
  scope : BitVec 3
  a : BitVec 8
  disp : Disp
  deriving DecidableEq, Repr

/-- Operands of waitc (R175). -/
structure MWaitc where
  sw : Bool
  path : BitVec 3
  a : BitVec 8
  deriving DecidableEq, Repr

/-- Operands of balloc, bfree, bmap, bzero, take, take.test: status register and slot (R196). -/
structure BSlot where
  sw : Bool
  d : BitVec 8
  slot : BitVec 4
  deriving DecidableEq, Repr

/-- Operands of give (R196). -/
structure BGive where
  sw : Bool
  d : BitVec 8
  slot : BitVec 4
  core : BitVec 3
  dslot : BitVec 4
  deriving DecidableEq, Repr

/-- Operands of bshare (R196). -/
structure BShare where
  sw : Bool
  d : BitVec 8
  slot : BitVec 4
  cmask : BitVec 8
  deriving DecidableEq, Repr

/-- Operands of kick: two source registers (R209). -/
structure TwoAB where
  sw : Bool
  a : BitVec 8
  b : BitVec 8
  deriving DecidableEq, Repr

/-- Operands of copy: list address and number of descriptors minus 1 (R210). -/
structure QCopy where
  addr : BitVec 20
  n1 : BitVec 10
  deriving DecidableEq, Repr

/-- Operands of binit (R211). -/
structure QBinit where
  addr : BitVec 20
  count : BitVec 32
  deriving DecidableEq, Repr

/-- Operands of queue bwait (R211). -/
structure QBwait where
  slot : BitVec 4
  off : BitVec 16
  deriving DecidableEq, Repr

/-- Operands of tdset on the Stoker (R212). -/
structure GTdset where
  sw : Bool
  d : BitVec 4
  a : BitVec 8
  disp : Disp
  deriving DecidableEq, Repr

/-- Operands of tdset in the queue (R212). -/
structure QTdset where
  d : BitVec 4
  addr : BitVec 20
  deriving DecidableEq, Repr

/-- Operands of the engine extension of R65. -/
structure QExt where
  wbar : BitVec 4
  wen : Bool
  abar : BitVec 4
  aen : Bool
  rdbar : BitVec 4
  rden : Bool
  steam : BitVec 5
  lsel : BitVec 2
  vidx : BitVec 8
  vmeta : BitVec 8
  vscl : BitVec 8
  kval : BitVec 7
  sbs : BitVec 2
  deriving DecidableEq, Repr

/-- Operands of mma, mmas and mmag (R213). -/
structure QMma where
  ty : BitVec 3
  d : BitVec 3
  a : BitVec 4
  b : BitVec 4
  ext : QExt
  deriving DecidableEq, Repr

/-- Operands of accld and accst: accumulator half, tile half, optional 128E wait and arrive (R221). -/
structure QAcc where
  m5 : BitVec 3
  m2 : BitVec 3
  d : BitVec 3
  a : BitVec 4
  ext : Option QExt
  deriving DecidableEq, Repr

/-- Operands of acczero (R221). -/
structure QAccz where
  ta : BitVec 3
  d : BitVec 3
  ext : Option QExt
  deriving DecidableEq, Repr

/-- Operands of wwin (R225). -/
structure QWwin where
  t : BitVec 11
  deriving DecidableEq, Repr

/-- Operands of wcfg: true selects MAX (R225). -/
structure QWcfg where
  max : Bool
  deriving DecidableEq, Repr

/-- Operands of wload: slot, optional barrier, and the rows of the 96-bit form (R225). -/
structure QWload where
  slot : BitVec 4
  wt : Option (BitVec 4)
  rows : Option (BitVec 8 × BitVec 8)
  deriving DecidableEq, Repr

/-- Operands of wlaunch and wcapture: slot, optional barrier, offset (short: off div 256) (R225). -/
structure QWrow where
  slot : BitVec 4
  bar : Option (BitVec 4)
  short : Bool
  off : BitVec 16
  deriving DecidableEq, Repr

/-- Operands of eseg (R235). -/
structure GEseg where
  sw : Bool
  d : BitVec 8
  cmask : BitVec 8
  tid : BitVec 16
  size : BitVec 32
  deriving DecidableEq, Repr

/-- Operands of emit, 128K form (R235). -/
structure GEmitR where
  sw : Bool
  a : BitVec 8
  n : BitVec 32
  deriving DecidableEq, Repr

/-- Operands of emitq, 64-bit form (R235). -/
structure GEmitq where
  sw : Bool
  a : BitVec 8
  core : BitVec 3
  deriving DecidableEq, Repr

/-- Operands of emitq, 128K form (R235). -/
structure GEmitqM where
  sw : Bool
  a : BitVec 8
  cmask : BitVec 8
  n : BitVec 32
  deriving DecidableEq, Repr

/-- Operands of epatch (R235). -/
structure GEpatch where
  sw : Bool
  a : BitVec 8
  b : BitVec 8
  fld : BitVec 3
  off : BitVec 32
  deriving DecidableEq, Repr

/-- Operands of eseal: a destination register (R235). -/
structure OneD where
  sw : Bool
  d : BitVec 8
  deriving DecidableEq, Repr

/-- Operands of tgo (R235). -/
structure GTgo where
  sw : Bool
  d : BitVec 8
  a : BitVec 8
  b : BitVec 8
  team : BitVec 5
  entry : BitVec 32
  deriving DecidableEq, Repr

/-- Operands of estat (R235). -/
structure GEstat where
  sw : Bool
  d : BitVec 8
  sel : BitVec 2
  deriving DecidableEq, Repr

/-- Operands of spawn and dlaunch: D, A and B registers (R245). -/
structure SThree where
  sw : Bool
  d : BitVec 8
  a : BitVec 8
  b : BitVec 8
  deriving DecidableEq, Repr

/-- Operands of svc (R245). -/
structure SSvc where
  sw : Bool
  g : BitVec 3
  num : BitVec 11
  d : BitVec 8
  a : BitVec 8
  n : BitVec 3
  deriving DecidableEq, Repr

/-- Operands of strap and brk: a code (R245). -/
structure SCode where
  sw : Bool
  code : BitVec 11
  deriving DecidableEq, Repr

/-- Operands of getsr (R245). -/
structure SGetsr where
  sw : Bool
  d : BitVec 8
  num : BitVec 11
  deriving DecidableEq, Repr

/-- Operands of setsr (R245). -/
structure SSetsr where
  sw : Bool
  a : BitVec 8
  num : BitVec 11
  deriving DecidableEq, Repr

/-- Operands of vgrow and vshrink: granules (R245). -/
structure SGran where
  sw : Bool
  d : BitVec 8
  n : BitVec 11
  deriving DecidableEq, Repr

/-- Who issues words or stops: a team, a generator thread or an engine queue, each by its key in the state (R3, R356). -/
inductive Agent where
  | team (t : Nat)
  | gen (g : Nat)
  | queue (core : Nat)
  deriving DecidableEq, Repr

/-- Who writes a register: PF0 of a port or a service pair, in PF0 BAR 2 (R371, R379), or a virtual interface on a port, in
its own BAR 0 (R382, R385). -/
inductive Writer where
  | pf0 (port : Nat)
  | pair (die : Nat)
  | vi (port vi : Nat)
  deriving DecidableEq, Repr

/-- Where an uncorrectable error strikes (R431): a sector of HBM4, of the copy that a holder has, of a home slice; sector `k` of the first
cistern entry of a line; a word of a basin; a control array of a die; a word of a thread's uniform registers, of a team's vector registers,
of an accumulator of a block on a core; a word of a core's code store; word `n` of its flue or of its engine queue. Besides, the failure of
a router or of the hearth die (R436). -/
inductive ErrLoc where
  | sector (n : Nat)
  | copy (h n : Nat)
  | slice (n : Nat)
  | cistern (cl line k : Nat)
  | basinWord (cl word : Nat)
  | control (die : Nat)
  | uniform (a : Agent) (word : Nat)
  | vector (team r lane : Nat)
  | acc (blk core d elem : Nat)
  | codeWord (core word : Nat)
  | flueWord (core n : Nat)
  | queueWord (core n : Nat)
  | router (r : Nat)
  | hearth
  deriving DecidableEq, Repr

/-- What a register access other than a write does (R368, R370, R371, R382): a read; through a virtual interface, a read of its partition's
registers; through PF0, a read of the state of a port, the shape of a partition (its clusters and page sets, none to remove it), the
binding of a virtual interface (its partition and the ports it is enabled on), a firmware image left for the next reset: its number of
R439, version, digest and the security version it asks for, 0 for none (R438). The service kernel or the host drives the rings of an endpoint
(R422, R423): it binds endpoint `e` to a context with a completion ring of 2^lg entries, none to take it away, posts a receive buffer,
writes a send descriptor. -/
inductive RegOp where
  | read (off : Nat)
  | view (off : Nat)
  | readPort (n : Nat)
  | shape (p : Nat) (clusters pages : List Nat)
  | bind (vi : Nat) (p : Option Nat) (port0 port1 : Bool)
  | stage (image version digest asks : Nat)
  | endpoint (e ctx : Nat) (ring : W64) (lg : Nat)
  | postBuffer (e : Nat) (va : W64) (size : Nat)
  | postSend (e : Nat) (desc : List Byte)
  deriving DecidableEq, Repr

/-- An access of a service pair hart (R375, R377). -/
inductive PairAccess where
  | load (pa n : Nat)
  | store (pa : Nat) (bytes : List Byte)
  /-- `op`: 0 swap, 1 add, 2 xor, 3 and, 4 or, 5 min, 6 max, 7 minu, 8 maxu; 64 bits wide, or 32 -/
  | amo (op : Nat) (wide : Bool) (pa : Nat) (v : W64)
  | loadReserved (wide : Bool) (pa : Nat)
  | storeConditional (wide : Bool) (pa : Nat) (v : W64)
  | fence
  deriving DecidableEq, Repr

/-- The steps of the opcode table, one constructor a row. -/
inductive Instr where
  | add (o : UBin) -- ADD (R115)
  | sub (o : UBin) -- SUB (R115)
  | mul (o : UBin) -- MUL (R115)
  | mulh (o : UBin) -- MULH (R115)
  | div (o : UBin) -- DIV (R116)
  | rem (o : UBin) -- REM (R116)
  | abs (o : UAbs) -- ABS (R115)
  | min (o : UBin) -- MIN (R115)
  | max (o : UBin) -- MAX (R115)
  | and (o : UBin) -- AND (R115)
  | or (o : UBin) -- OR (R115)
  | xor (o : UBin) -- XOR (R115)
  | andn (o : UBin) -- ANDN (R115)
  | shl (o : UBin) -- SHL (R115)
  | shr (o : UBin) -- SHR (R115)
  | sar (o : UBin) -- SAR (R115)
  | rotl (o : UBin) -- ROTL (R115)
  | popc (o : UUn) -- POPC (R115)
  | clz (o : UUn) -- CLZ (R115)
  | ctz (o : UUn) -- CTZ (R115)
  | brev (o : UUn) -- BREV (R115)
  | bfx (o : UBfx) -- BFX (R117)
  | bfi (o : UBfi) -- BFI (R117)
  | cmp (o : UCmp) -- CMP (R115)
  | sel (o : USel) -- SEL (R115)
  | mov (o : UMov) -- MOV (R115)
  | movi (o : UMovi) -- MOVI (R118)
  | lea (o : ULea) -- LEA (R118)
  | leaPc (o : ULeaPc) -- LEA_PC (R118)
  | b (o : Br) -- B (R121)
  | bz (o : BrR) -- BZ (R121)
  | bnz (o : BrR) -- BNZ (R121)
  | bc (o : Bc) -- BC (R121)
  | call (o : Call) -- CALL (R121)
  | ret (o : OneA) -- RET (R121)
  | jmp (o : OneA) -- JMP (R121)
  | loop (o : BrR) -- LOOP (R121)
  | skipz (o : Br) -- SKIPZ (R125)
  | setmask (o : OneA) -- SETMASK (R122)
  | ballot (o : Ballot) -- BALLOT (R123)
  | ballotNz (o : Ballot) -- BALLOT_NZ (R123)
  | mpop (o : TwoDA) -- MPOP (R124)
  | mffs (o : TwoDA) -- MFFS (R124)
  | barArrive (o : Bar) -- BAR_ARRIVE (R127)
  | barWait (o : Bar) -- BAR_WAIT (R127)
  | barSync (o : Bar) -- BAR_SYNC (R127)
  | yield (o : Plain) -- YIELD (R130)
  | exit (o : Plain) -- EXIT (R131)
  | nop (o : Nop) -- NOP (R132)
  | hint (o : Raw) -- HINT (R73)
  | vadd (o : VBin) -- VADD (R137)
  | vsub (o : VBin) -- VSUB (R137)
  | vmul (o : VBin) -- VMUL (R137)
  | vmulh (o : VBin) -- VMULH (R137)
  | vmad (o : VMad) -- VMAD (R137)
  | vabs (o : VUnL) -- VABS (R137)
  | vmin (o : VBin) -- VMIN (R137)
  | vmax (o : VBin) -- VMAX (R137)
  | vand (o : VBin) -- VAND (R137)
  | vor (o : VBin) -- VOR (R137)
  | vxor (o : VBin) -- VXOR (R137)
  | vandn (o : VBin) -- VANDN (R137)
  | vnot (o : VUnL) -- VNOT (R137)
  | vshl (o : VBin) -- VSHL (R137)
  | vshr (o : VBin) -- VSHR (R137)
  | vsar (o : VBin) -- VSAR (R137)
  | vrotl (o : VRotl) -- VROTL (R137)
  | vpopc (o : VUn) -- VPOPC (R137)
  | vclz (o : VUn) -- VCLZ (R137)
  | vctz (o : VUn) -- VCTZ (R137)
  | vbrev (o : VUn) -- VBREV (R137)
  | vbfx (o : VBfx) -- VBFX (R138)
  | vbfi (o : VBfi) -- VBFI (R138)
  | vcmp (o : VCmp) -- VCMP (R139)
  | vsel (o : VSel) -- VSEL (R139)
  | vmov (o : VMov) -- VMOV (R139)
  | vbcast (o : VBcast) -- VBCAST (R139)
  | vlane (o : VLane) -- VLANE (R139)
  | vcvt (o : VCvt) -- VCVT (R140)
  | vsat (o : VCvt) -- VSAT (R140)
  | vshfl (o : VShfl) -- VSHFL (R143)
  | vrot (o : VRot) -- VROT (R143)
  | vred (o : VRed) -- VRED (R144)
  | vredx (o : VRedx) -- VREDX (R144)
  | vscan (o : VRed) -- VSCAN (R144)
  | vextract (o : VLaneMove) -- VEXTRACT (R147)
  | vinsert (o : VLaneMove) -- VINSERT (R147)
  | vmatch (o : VMatch) -- VMATCH (R148)
  | vfadd (o : VF2) -- VFADD (R152)
  | vfsub (o : VF2) -- VFSUB (R152)
  | vfmul (o : VF2) -- VFMUL (R152)
  | vffma (o : VF3) -- VFFMA (R152)
  | vfdiv (o : VF2) -- VFDIV (R152)
  | vfsqrt (o : VF1) -- VFSQRT (R152)
  | vfmin (o : VF2) -- VFMIN (R153)
  | vfmax (o : VF2) -- VFMAX (R153)
  | vfcmp (o : VFcmp) -- VFCMP (R154)
  | vfrcp (o : VF1) -- VFRCP (R155)
  | vfrsq (o : VF1) -- VFRSQ (R155)
  | vfex2 (o : VF1) -- VFEX2 (R156)
  | vflg2 (o : VF1) -- VFLG2 (R156)
  | vfsin (o : VF1) -- VFSIN (R156)
  | vfcos (o : VF1) -- VFCOS (R156)
  | vfclass (o : VF1) -- VFCLASS (R157)
  | vfscale (o : VF2) -- VFSCALE (R158)
  | vfrnd (o : VF1) -- VFRND (R159)
  | vfcvt (o : VCvt) -- VFCVT (R160)
  | vfi (o : VCvt) -- VFI (R160)
  | vif (o : VCvt) -- VIF (R160)
  | fadd (o : UF2) -- FADD (R161)
  | fmul (o : UF2) -- FMUL (R161)
  | ffma (o : UF3) -- FFMA (R161)
  | fcvt (o : UFcvt) -- FCVT (R161)
  | vdot2 (o : VDot) -- VDOT2 (R165)
  | vdot4 (o : VDot) -- VDOT4 (R165)
  | vdotds (o : VDot) -- VDOTDS (R165)
  | vcvtds (o : VCvtds) -- VCVTDS (R168)
  | vbpl (o : VBp) -- VBPL (R171)
  | vbpu (o : VBp) -- VBPU (R171)
  | vbpdot (o : VBpdot) -- VBPDOT (R172)
  | vbpsel (o : VBpsel) -- VBPSEL (R173)
  | ld (o : MLd) -- LD (R181)
  | st (o : MSt) -- ST (R181)
  | vld (o : MVld) -- VLD (R181)
  | vst (o : MVst) -- VST (R181)
  | vprefetch (o : MPref) -- VPREFETCH (R182)
  | atom (o : MAtom) -- ATOM (R183)
  | cas (o : MCas) -- CAS (R183)
  | vatom (o : MVatom) -- VATOM (R183)
  | vcas (o : MVcas) -- VCAS (R183)
  | vfatom (o : MVatom) -- VFATOM (R184)
  | vscadd (o : MVscadd) -- VSCADD (R185)
  | vbin (o : MVbin) -- VBIN (R186)
  | fence (o : MFence) -- FENCE (R188)
  | cinv (o : MCache) -- CINV (R189)
  | cwb (o : MCache) -- CWB (R189)
  | marm (o : MLd) -- MARM (R190)
  | mwait (o : TwoDA) -- MWAIT (R191)
  | waitc (o : MWaitc) -- WAITC (R193)
  | balloc (o : BSlot) -- BALLOC (R199)
  | bfree (o : BSlot) -- BFREE (R200)
  | give (o : BGive) -- GIVE (R201)
  | take (o : BSlot) -- TAKE (R203)
  | takeTest (o : BSlot) -- TAKE_TEST (R203)
  | bshare (o : BShare) -- BSHARE (R204)
  | bmap (o : BSlot) -- BMAP (R205)
  | bzero (o : BSlot) -- BZERO (R206)
  | kick (o : TwoAB) -- KICK (R209)
  | copy (o : QCopy) -- COPY (R210)
  | binit (o : QBinit) -- BINIT (R211)
  | bwait (o : TwoDA) -- BWAIT (R211)
  | bwaitQueue (o : QBwait) -- BWAIT_QUEUE (R211)
  | tdset (o : GTdset) -- TDSET (R212)
  | tdsetQueue (o : QTdset) -- TDSET_QUEUE (R212)
  | mma (o : QMma) -- MMA (R217)
  | mmas (o : QMma) -- MMAS (R217)
  | mmag (o : QMma) -- MMAG (R217)
  | accld (o : QAcc) -- ACCLD (R221)
  | accst (o : QAcc) -- ACCST (R221)
  | acczero (o : QAccz) -- ACCZERO (R221)
  | wwin (o : QWwin) -- WWIN (R226)
  | wcfg (o : QWcfg) -- WCFG (R226)
  | wload (o : QWload) -- WLOAD (R227)
  | wlaunch (o : QWrow) -- WLAUNCH (R228)
  | wcapture (o : QWrow) -- WCAPTURE (R231)
  | wreset -- WRESET (R230)
  | eseg (o : GEseg) -- ESEG (R239)
  | emit (o : OneA) -- EMIT (R236)
  | emitRegs (o : GEmitR) -- EMIT_REGS (R236)
  | emitm (o : GEmitR) -- EMITM (R236)
  | emitq (o : GEmitq) -- EMITQ (R236)
  | emitqMulti (o : GEmitqM) -- EMITQ_MULTI (R236)
  | epatch (o : GEpatch) -- EPATCH (R242)
  | eseal (o : OneD) -- ESEAL (R241)
  | tgo (o : GTgo) -- TGO (R243)
  | eprov (o : TwoDA) -- EPROV (R244)
  | estat (o : GEstat) -- ESTAT (R244)
  | spawn (o : SThree) -- SPAWN (R246)
  | svc (o : SSvc) -- SVC (R249)
  | strap (o : SCode) -- STRAP (R251)
  | rfh (o : Plain) -- RFH (R252)
  | getsr (o : SGetsr) -- GETSR (R253)
  | setsr (o : SSetsr) -- SETSR (R253)
  | vgrow (o : SGran) -- VGROW (R254)
  | vshrink (o : SGran) -- VSHRINK (R254)
  | trig (o : Plain) -- TRIG (R248)
  | dlaunch (o : SThree) -- DLAUNCH (R247)
  | brk (o : SCode) -- BRK (R255)
  | stokerFetchDecode (g : Nat) -- STOKER_FETCH_DECODE (R70)
  | variableLatencyResult (a : Agent) (n : Nat) (word : Option Nat) -- VARIABLE_LATENCY_RESULT (R19)
  | switchMarkerIssue (t : Nat) -- SWITCH_MARKER_ISSUE (R261)
  | teamWake (a : Agent) -- TEAM_WAKE (R290)
  | slotIssueChoice (core slot : Nat) -- SLOT_ISSUE_CHOICE (R291)
  | teamBoost (t : Nat) -- TEAM_BOOST (R291)
  | accessFault (a : Agent) (n : Nat) -- ACCESS_FAULT (R263)
  | firstTouchFill (ctx : Nat) (va : W64) -- FIRST_TOUCH_FILL (R404)
  | generatorFault (g : Nat) -- GENERATOR_FAULT (R353)
  | storeBufferToCistern (h : Nat) -- STORE_BUFFER_TO_CISTERN (R303)
  | cisternDrain (cl line : Nat) -- CISTERN_DRAIN (R304)
  | cisternAgeExpiry (cl line : Nat) -- CISTERN_AGE_EXPIRY (R304)
  | basinAccessServed (a : Agent) (n lane : Nat) -- BASIN_ACCESS_SERVED (R297)
  | giveDrainDone (core slot : Nat) -- GIVE_DRAIN_DONE (R201)
  | zeroEngineClear (cl basin : Nat) -- ZERO_ENGINE_CLEAR (R199)
  | engineArrival (blk bar : Nat) -- ENGINE_ARRIVAL (R127)
  | engineCommandIssue (core : Nat) -- ENGINE_COMMAND_ISSUE (R218)
  | engineReadDone (core job : Nat) (part : List Nat) -- ENGINE_READ_DONE (R219)
  | engineJobComplete (core job : Nat) -- ENGINE_JOB_COMPLETE (R219)
  | copyBytesCounted (core job row n : Nat) -- COPY_BYTES_COUNTED (R208)
  | weirLeaseAcquire (cl : Nat) -- WEIR_LEASE_ACQUIRE (R224)
  | flueCodeWrite (core : Nat) -- FLUE_CODE_WRITE (R238)
  | flueQueueMove (core : Nat) -- FLUE_QUEUE_MOVE (R367)
  | segmentRetire (core seg : Nat) -- SEGMENT_RETIRE (R241)
  | handlerImageCopy (core ctx : Nat) -- HANDLER_IMAGE_COPY (R349)
  | unitDispatch (l die cl : Nat) -- UNIT_DISPATCH (R284)
  | unitSteal (l thief victim : Nat) -- UNIT_STEAL (R284)
  | floatingUnitMove (l src dst : Nat) -- FLOATING_UNIT_MOVE (R285)
  | coresidentReserve (l : Nat) -- CORESIDENT_RESERVE (R286)
  | blockStart (l blk cl : Nat) (cores : List Nat) -- BLOCK_START (R287)
  | teamRetire (t : Nat) -- TEAM_RETIRE (R131)
  | blockRetire (b : Nat) -- BLOCK_RETIRE (R295)
  | launchRetire (l : Nat) -- LAUNCH_RETIRE (R295)
  | vgrowGrant (core : Nat) -- VGROW_GRANT (R292)
  | registerStall (core : Nat) -- REGISTER_STALL (R293)
  | switchedOutReturn (t : Nat) -- SWITCHED_OUT_RETURN (R293)
  | teamSwitchOutSave (t slot : Nat) -- TEAM_SWITCH_OUT_SAVE (R409)
  | svcResume (t : Nat) -- SVC_RESUME (R366)
  | preemption (ctx : Nat) -- PREEMPTION (R296)
  | preemptionCommand (ctx : Nat) -- PREEMPTION (R296, R372)
  | preemptionDeadline (ctx : Nat) -- PREEMPTION_DEADLINE (R359)
  | watchdog (a : Agent) -- WATCHDOG (R354)
  | haltLine (ctx cause : Nat) -- HALT_LINE (R355)
  | agentStop (a : Agent) -- AGENT_STOP (R356)
  | debuggerHalt (ctx : Nat) -- DEBUGGER_HALT (R358)
  | debuggerRelease (ctx : Nat) (a : Option Agent) -- DEBUGGER_RELEASE (R358)
  | inspectionSave (ctx : Nat) -- INSPECTION_SAVE (R411)
  | saveLost (ctx cause : Nat) -- SAVE_LOST (R411)
  | forcedReset (ctx : Nat) -- FORCED_RESET (R414)
  | routerRead (n : Nat) -- ROUTER_READ (R317)
  | clusterMiss (h line : Nat) -- CLUSTER_MISS (R317)
  | reply (n : Nat) -- REPLY (R319)
  | own (n : Nat) -- OWN (R320)
  | grant (n : Nat) -- GRANT (R320)
  | inval (n : Nat) -- INVAL (R321)
  | ack (n : Nat) -- ACK (R321)
  | prune (n : Nat) -- PRUNE (R323)
  | holderEviction (h line : Nat) -- HOLDER_EVICTION (R323)
  | cut (n : Nat) -- CUT (R324)
  | treeEntryEviction (r set : Nat) -- TREE_ENTRY_EVICTION (R324)
  | atomicUnitOp (unit : Nat) -- ATOMIC_UNIT_OP (R309)
  | tileWriteFabric (line pkg : Nat) -- TILE_WRITE_FABRIC (R330)
  | tileReadFabric (line pkg : Nat) -- TILE_WRITE_FABRIC (R330)
  | tileAnswerFabric (line pkg off : Nat) (bytes : List Byte) -- TILE_WRITE_FABRIC (R330)
  | tclimWrite (r : Nat) (v : W64) -- TCLIM_WRITE (R329)
  | portTraining (port width rate cxl : Nat) -- PORT_TRAINING (R368)
  | leaseRenew (port : Nat) (v : W64) -- LEASE_RENEW (R373)
  | leaseTake (port : Nat) (v : W64) -- LEASE_TAKE (R374)
  | leaseTakeoverComplete -- LEASE_TAKEOVER_COMPLETE (R374)
  | leaseExpiry -- LEASE_EXPIRY (R373)
  | registerWrite (w : Writer) (off : Nat) (v : W64) -- REGISTER_WRITE (R371)
  | registerAccess (w : Writer) (op : RegOp) -- REGISTER_WRITE (R371)
  | heartbeat (die : Nat) (v : W64) -- HEARTBEAT (R378)
  | leaderTakeover (die : Nat) (v : W64) -- LEADER_TAKEOVER (R378)
  | heartbeatTimeout -- HEARTBEAT_TIMEOUT (R378)
  | lockstepMismatch (die : Nat) -- LOCKSTEP_MISMATCH (R375)
  | ringRecordPost (p : Nat) (vi : Option Nat) -- RING_RECORD_POST (R381)
  | rpost (w : Writer) (p : Nat) (v : W64) -- RPOST (R383)
  | hrpost (port vi : Nat) (v : W64) -- HRPOST (R382)
  | qctlWrite (port vi q : Nat) (v : W64) -- QCTL_WRITE (R385)
  | qpiDoorbell (port vi q : Nat) (v : W64) -- QPI_DOORBELL (R385)
  | queueNop (vi q : Nat) -- QUEUE_NOP (R386)
  | launch (vi q : Nat) -- LAUNCH (R388)
  | queueWait (vi q : Nat) -- QUEUE_WAIT (R386)
  | signal (vi q : Nat) -- SIGNAL (R386)
  | launchHandleDispatch (l : Nat) -- LAUNCH_HANDLE_DISPATCH (R390)
  | completionRecord (l : Nat) -- COMPLETION_RECORD (R393)
  | ctxgenWrite (w : Writer) (p c : Nat) (v : W64) -- CTXGEN_WRITE (R402)
  | generationDone (p c : Nat) -- GENERATION_DONE (R402)
  | ftppush (w : Writer) (p : Nat) (v : W64) -- FTPPUSH (R403)
  | ctxrecWrite (w : Writer) (p c : Nat) (v : W64) -- CTXREC_WRITE (R405)
  | err0Clear (w : Writer) (p : Nat) (v : W64) -- ERR0_CLEAR (R413)
  | fabricTableWrite (reg : Nat) (v : W64) -- FABRIC_TABLE_WRITE (R418)
  | fibrePairFailure (pair : Nat) -- FIBRE_PAIR_FAILURE (R421)
  | put (ep dst : Nat) -- PUT (R423)
  | get (ep : Nat) -- GET (R422)
  | putFabric (pkg dst tag : Nat) (bytes : List (Byte × Bool)) -- PUT (R423)
  | putAnswerFabric (ep n status placed : Nat) -- PUT (R423)
  | getFabric (pkg dst tag va len : Nat) -- GET (R422)
  | getAnswerFabric (ep n status : Nat) (bytes : List (Byte × Bool)) -- GET (R422)
  | powerEvaluation (avg : Nat) -- POWER_EVALUATION (R426)
  | thermalVoltageTrip (die : Option Nat) -- THERMAL_VOLTAGE_TRIP (R427)
  | routerGate (r : Nat) -- ROUTER_GATE (R429)
  | routerWake (r : Nat) -- ROUTER_WAKE (R430)
  | uncorrectableError (loc : ErrLoc) -- UNCORRECTABLE_ERROR (R431)
  | correctableError (die : Nat) -- CORRECTABLE_ERROR (R431)
  | correctableSector (n : Nat) -- CORRECTABLE_ERROR of an HBM4 sector (R431, R433)
  | linkSpare (link : Nat) -- LINK_SPARE (R433)
  | scrub (sector : Nat) (bad : Bool) -- SCRUB (R434)
  | errcntWrite (w : Writer) (d : Nat) -- ERRCNT_WRITE (R435)
  | isolate (w : Writer) (v : W64) -- ISOLATE (R436)
  | diagdata (w : Writer) (v : Option W64) -- DIAGDATA (R437)
  | spdmRequest (port index : Nat) -- SPDM_REQUEST (R439)
  | deviceReset (healthy : BitVec 8) (verified : Bool) -- DEVICE_RESET (R376)
  | contextRestore (ctx : Nat) -- CONTEXT_RESTORE (R296)
  | hostMemoryAccess (port pa : Nat) (bytes : List Byte) (write : Bool) -- HOST_MEMORY_ACCESS (R368)
  | servicePairAccess (die : Nat) (acc : PairAccess) -- SERVICE_PAIR_ACCESS (R375)
  | debuggerAttach (ctx : Nat) (on : Bool) -- DEBUGGER_ATTACH (R255)
  deriving DecidableEq, Repr

end Sys2Proof
end

