-- ==== Sys2Proof/WellFormed.lean ====
section
/-! DEFINITION. Which instructions an encoding exists for: the limits that R72 steps 6 and 7 check on the word alone.
Limits that depend on the launch (VREGS, the lane count, granules) are checked when the word issues. -/

namespace Sys2Proof

/-- A uniform register number, s0 to s159 (R9, R59). -/
def sOk (r : BitVec 8) : Bool := decide (r.toNat < 160)

/-- Width in bits of an INT3 code (R61). -/
def tyBits (ty : BitVec 3) : Nat := 8 * 2 ^ (ty.toNat % 4)

/-- INT3 bit 2: a signed type (R61). -/
def tySigned (ty : BitVec 3) : Bool := decide (4 ≤ ty.toNat)

/-- A vector operand of a type of the given width: an even register for 64 bits (R10). -/
def vPair (wide : Bool) (r : BitVec 8) : Bool := !wide || decide (r.toNat % 2 = 0)

/-- The type is 64 bits wide. -/
def tyWide (ty : BitVec 3) : Bool := decide (tyBits ty = 64)

/-- The floating type is .f64 (R61). -/
def fWide (ty : BitVec 3) : Bool := decide (ty = 0#3)

/-- A vector immediate fits n bits under the type's signedness (R134). -/
def immFits (ty : BitVec 3) : VSrc → Bool
  | .reg _ => true
  | .imm x =>
    if tySigned ty then
      decide (64 ≤ tyBits ty) || (decide (-(2 ^ (tyBits ty - 1) : Int) ≤ x.toInt) && decide (x.toInt < (2 ^ (tyBits ty - 1) : Int)))
    else decide (x.toNat < 2 ^ tyBits ty)

/-- The register of a vector second source is even for 64-bit types (R10). -/
def vSrcPair (wide : Bool) : VSrc → Bool
  | .reg b => vPair wide b
  | .imm _ => true

/-- The register of a uniform second source (R112). -/
def srcOk : Src → Bool
  | .reg b => sOk b
  | _ => true

/-- RND codes 0b001 to 0b011 are reserved (R63). -/
def rndOk (r : BitVec 3) : Bool := decide (r = 0#3) || decide (4 ≤ r.toNat)

def UBin.wf (o : UBin) : Bool := sOk o.d && sOk o.a && srcOk o.src
def UUn.wf (o : UUn) : Bool := sOk o.d && sOk o.a

/-- bfx, bfi, vbfx, vbfi: width 1 to 64, pos 0 to 63, pos + width at most n (R117, R138). -/
def bfOk (ty : BitVec 3) (width : BitVec 8) (pos : BitVec 11) : Bool :=
  decide (1 ≤ width.toNat) && decide (width.toNat ≤ 64) && decide (pos.toNat ≤ 63) && decide (pos.toNat + width.toNat ≤ tyBits ty)

def VBin.wf (sat count : Bool) (o : VBin) : Bool :=
  (sat || !o.sat) && vPair (tyWide o.ty) o.d && vPair (tyWide o.ty) o.a &&
    (count || (vSrcPair (tyWide o.ty) o.src && immFits o.ty o.src))

def VF2.wf (rnd sat : Bool) (o : VF2) : Bool :=
  decide (o.ty.toNat ≤ 3) && rndOk o.rnd && (rnd || decide (o.rnd = 0#3)) && (sat || !o.sat) &&
    vPair (fWide o.ty) o.d && vPair (fWide o.ty) o.a && vPair (fWide o.ty) o.b

def VF1.wf (rnd sat only32 : Bool) (o : VF1) : Bool :=
  (if only32 then decide (o.ty = 1#3) else decide (o.ty.toNat ≤ 3)) && rndOk o.rnd && (rnd || decide (o.rnd = 0#3)) &&
    (sat || !o.sat) && vPair (fWide o.ty) o.d && vPair (fWide o.ty) o.a

/-- Operation and type of a reduction (R85): integer types for 0 to 4, FLT3 0 to 3 for 5 to 7. -/
def redTyOk (op ty : BitVec 3) : Bool := decide (op.toNat < 5) || decide (ty.toNat ≤ 3)

/-- The value of a reduction is held in a pair. -/
def redWide (op ty : BitVec 3) : Bool := if op.toNat < 5 then tyWide ty else fWide ty

def VDot.wf (lo hi kvMax : Nat) (ds : Bool) (o : VDot) : Bool :=
  decide (lo ≤ o.ty.toNat) && decide (o.ty.toNat ≤ hi) && decide (o.kv.toNat ≤ kvMax) && (ds || decide (o.af = 0#2)) &&
    (o.sen || (decide (o.bs = 0#2) && decide (o.j = 0#7) && decide (o.c = 0#8))) &&
    decide (o.bs.toNat + o.j.toNat / 32 ≤ 3) && vPair (ds && decide (o.af.toNat ≤ 1)) o.b

/-- SCOPE and ORD of an access: the scope is 0 with plain order (R61, R177). -/
def soOk (ords : List Nat) (scope ord : BitVec 3) : Bool :=
  decide (ord.toNat ∈ ords) && decide (scope.toNat ≤ 5) && (decide (ord ≠ 0#3) || decide (scope = 0#3))

def MLd.wf (o : MLd) : Bool := soOk [0, 1, 4] o.scope o.ord && !(decide (o.wid = 3#2) && o.sgn) && sOk o.d && sOk o.a

/-- Widths of the atomic types, .b32 and .b64; SGN only for integer min and max (R87, R176). -/
def atomOk (ops : List Nat) (op : BitVec 8) (wid : BitVec 2) (sgn : Bool) : Bool :=
  decide (op.toNat ∈ ops) && decide (2 ≤ wid.toNat) && (!sgn || decide (op.toNat = 4) || decide (op.toNat = 5))

def MVatom.wf (ops : List Nat) (o : MVatom) : Bool :=
  soOk [0, 1, 2, 3, 4] o.scope o.ord && atomOk ops o.op o.wid o.sgn && vPair true o.a &&
    vPair (decide (o.wid = 3#2)) o.d && vPair (decide (o.wid = 3#2)) o.b

/-- A field of the engine extension whose enable bit is zero is zero (R65). -/
def extOk (e : QExt) : Bool :=
  (e.wen || decide (e.wbar = 0#4)) && (e.aen || decide (e.abar = 0#4)) && (e.rden || decide (e.rdbar = 0#4))

/-- The staging fields of a matrix command: those it does not use are zero (R66, R213). -/
def mmaExtOk (idx useMeta staged : Bool) (e : QExt) : Bool :=
  extOk e && (idx || decide (e.vidx = 0#8)) && (useMeta || decide (e.vmeta = 0#8)) &&
    (decide (e.vscl ≠ 0#8) || decide (e.sbs = 0#2)) &&
    (staged || decide (e.vscl ≠ 0#8) || (decide (e.steam = 0#5) && decide (e.lsel = 0#2)))

/-- The extension of an accumulator move uses WBAR, WEN, ABAR and AEN only (R221). -/
def accExtOk : Option QExt → Bool
  | none => true
  | some e => extOk e && !e.rden && decide (e.steam = 0#5) && decide (e.lsel = 0#2) && decide (e.vidx = 0#8) &&
      decide (e.vmeta = 0#8) && decide (e.vscl = 0#8) && decide (e.kval = 0#7) && decide (e.sbs = 0#2)

/-- A byte count of the emit group: a multiple of 4 from 8 to the limit (R235). -/
def cntOk (n : BitVec 32) (lim : Nat) : Bool := decide (n.toNat % 4 = 0) && decide (8 ≤ n.toNat) && decide (n.toNat ≤ lim)

/-- wlaunch and wcapture offsets (R225). -/
def QWrow.wf (o : QWrow) : Bool :=
  if o.short then decide (o.off.toNat % 256 = 0) else decide (o.off.toNat % 4 = 0) && decide (o.off.toNat + 256 ≤ 65536)

/-- The limits of the encoding, word by word. An event is always well formed. -/
def Instr.wf : Instr → Bool
  | .add o | .sub o | .mul o | .mulh o | .div o | .rem o | .min o | .max o | .and o | .or o | .xor o | .andn o
  | .shl o | .shr o | .sar o =>
    o.wf
  | .rotl o => o.wf && (match o.src with
      | .imm32 _ => false
      | _ => true)
  | .popc o | .clz o | .ctz o | .brev o => o.wf
  | .abs o => sOk o.d && sOk o.a && tySigned o.ty
  | .bfx o => sOk o.d && sOk o.a && bfOk o.ty o.width o.pos
  | .bfi o => sOk o.d && sOk o.a && sOk o.b && bfOk o.ty o.width o.pos
  | .cmp o => sOk o.d && sOk o.a && srcOk o.src && decide (o.cond.toNat < 6)
  | .sel o => sOk o.d && sOk o.a && sOk o.c && srcOk o.src
  | .mov o => sOk o.d && srcOk o.src
  | .movi o => sOk o.d
  | .lea o => sOk o.d && sOk o.a
  | .leaPc o => sOk o.d
  | .bz o | .bnz o | .loop o => sOk o.a
  | .bc o => sOk o.a && sOk o.b && decide (o.cond.toNat < 6)
  | .call o => sOk o.d
  | .ret o | .jmp o | .setmask o | .emit o => sOk o.a
  | .ballot o | .ballotNz o => sOk o.d
  | .mpop o | .mffs o | .mwait o | .bwait o | .eprov o => sOk o.d && sOk o.a
  | .barArrive o | .barWait o | .barSync o => decide (1 ≤ o.e.toNat)
  | .nop o => decide (o.len ≠ 3#2)
  | .hint r => decide (0x1F8 ≤ r.op.toNat) && decide (r.len ≠ 3#2) && (decide (r.len ≠ 0#2) || decide (r.tail = 0#64)) &&
      (decide (r.len ≠ 1#2) || decide (r.tail.toNat < 2 ^ 32))
  | .vadd o | .vsub o | .vmul o => o.wf true false
  | .vmulh o | .vmin o | .vmax o | .vand o | .vor o | .vxor o | .vandn o => o.wf false false
  | .vshl o => o.wf true true
  | .vshr o | .vsar o => o.wf false true
  | .vmad o => vPair (tyWide o.ty) o.d && vPair (tyWide o.ty) o.a && vPair (tyWide o.ty) o.c && vSrcPair (tyWide o.ty) o.src &&
      immFits o.ty o.src
  | .vabs o => tySigned o.ty && vPair (tyWide o.ty) o.d && vPair (tyWide o.ty) o.a
  | .vnot o => !o.sat && vPair (tyWide o.ty) o.d && vPair (tyWide o.ty) o.a
  | .vrotl o => vPair (tyWide o.ty) o.d && vPair (tyWide o.ty) o.a
  | .vpopc o | .vclz o | .vctz o => vPair (tyWide o.ty) o.a
  | .vbrev o => vPair (tyWide o.ty) o.d && vPair (tyWide o.ty) o.a
  | .vbfx o => vPair (tyWide o.ty) o.d && vPair (tyWide o.ty) o.a && bfOk o.ty o.width o.pos
  | .vbfi o => vPair (tyWide o.ty) o.d && vPair (tyWide o.ty) o.a && vPair (tyWide o.ty) o.b && bfOk o.ty o.width o.pos
  | .vcmp o => vPair (tyWide o.ty) o.a && vPair (tyWide o.ty) o.b && decide (o.cond.toNat < 6)
  | .vsel o => vPair (tyWide o.ty) o.d && vPair (tyWide o.ty) o.a && vPair (tyWide o.ty) o.b
  | .vmov o => vPair (tyWide o.ty) o.d && vSrcPair (tyWide o.ty) o.src && immFits o.ty o.src
  | .vbcast o => vPair (tyWide o.ty) o.d && sOk o.a
  | .vlane o => vPair (tyWide o.ty) o.d
  | .vcvt o => decide (o.rnd = 0#3) && vPair (tyWide o.td) o.d && vPair (tyWide o.ts) o.a
  | .vsat o => decide (o.rnd = 0#3) && !o.sat && vPair (tyWide o.ts) o.d && vPair (tyWide o.ts) o.a
  | .vshfl o => decide (32 ≤ tyBits o.ty) && vPair (tyWide o.ty) o.d && vPair (tyWide o.ty) o.a
  | .vrot o => decide (32 ≤ tyBits o.ty) && vPair (tyWide o.ty) o.d && vPair (tyWide o.ty) o.a
  | .vred o => redTyOk o.op o.ty && sOk o.d && vPair (redWide o.op o.ty) o.a
  | .vredx o => redTyOk o.op o.ty && decide (o.op.toNat ∈ [1, 2, 6, 7]) && sOk o.d && sOk o.c && decide (o.c ≠ o.d) &&
      vPair (redWide o.op o.ty) o.a
  | .vscan o => redTyOk o.op o.ty && decide (o.op.toNat ≤ 5) && (decide (o.op.toNat = 5) || decide (32 ≤ tyBits o.ty)) &&
      vPair (redWide o.op o.ty) o.d && vPair (redWide o.op o.ty) o.a
  | .vextract o => decide (32 ≤ tyBits o.ty) && sOk o.d && vPair (tyWide o.ty) o.a
  | .vinsert o => decide (32 ≤ tyBits o.ty) && vPair (tyWide o.ty) o.d && sOk o.a
  | .vmatch o => decide (32 ≤ tyBits o.ty) && vPair (tyWide o.ty) o.a
  | .vfadd o | .vfsub o | .vfmul o | .vfdiv o => o.wf true true
  | .vfmin o | .vfmax o => o.wf false false
  | .vffma o => decide (o.ty.toNat ≤ 3) && rndOk o.rnd && vPair (fWide o.ty) o.d && vPair (fWide o.ty) o.a &&
      vPair (fWide o.ty) o.b && vPair (fWide o.ty) o.c
  | .vfsqrt o | .vfrnd o => o.wf true false false
  | .vfrcp o => o.wf false true false
  | .vfrsq o => o.wf false false false
  | .vfex2 o => o.wf false true true
  | .vflg2 o | .vfsin o | .vfcos o => o.wf false false true
  | .vfclass o => decide (o.ty.toNat ≤ 3) && decide (o.rnd = 0#3) && !o.sat && vPair (fWide o.ty) o.a
  | .vfscale o => decide (o.ty.toNat ≤ 3) && rndOk o.rnd && vPair (fWide o.ty) o.d && vPair (fWide o.ty) o.a
  | .vfcmp o => decide (o.ty.toNat ≤ 3) && vPair (fWide o.ty) o.a && vPair (fWide o.ty) o.b
  | .vfcvt o => decide (o.td.toNat ≤ 5) && decide (o.ts.toNat ≤ 5) && rndOk o.rnd && vPair (fWide o.td) o.d && vPair (fWide o.ts) o.a
  | .vfi o => decide (o.ts.toNat ≤ 3) && rndOk o.rnd && !o.sat && vPair (tyWide o.td) o.d && vPair (fWide o.ts) o.a
  | .vif o => decide (o.td.toNat ≤ 3) && rndOk o.rnd && vPair (fWide o.td) o.d && vPair (tyWide o.ts) o.a
  | .fadd o | .fmul o => decide (o.ty.toNat ≤ 1) && rndOk o.rnd && sOk o.d && sOk o.a && sOk o.b
  | .ffma o => decide (o.ty.toNat ≤ 1) && rndOk o.rnd && sOk o.d && sOk o.a && sOk o.b && sOk o.c
  | .fcvt o => rndOk o.rnd && sOk o.d && sOk o.a &&
      (match o.kind.toNat with
       | 0 => decide (o.td.toNat ≤ 5) && decide (o.ts.toNat ≤ 5)
       | 1 => decide (o.ts.toNat ≤ 1) && !o.sat
       | 2 => decide (o.td.toNat ≤ 1)
       | _ => false)
  | .vdot2 o => o.wf 2 3 1 false
  | .vdot4 o => o.wf 4 5 3 false
  | .vdotds o => o.wf 6 6 3 true
  | .vcvtds o => decide (o.ts.toNat ≤ 5) && vPair (fWide o.ts) o.a
  | .vbpl _ | .vbpu _ => true
  | .vbpdot o => decide (o.m.toNat < 2 ^ o.k.toNat) && vPair true o.a && sOk o.b
  | .vbpsel o => vPair true o.d && vPair true o.a && sOk o.b
  | .ld o | .marm o => o.wf
  | .st o => soOk [0, 2, 4] o.scope o.ord && sOk o.a && sOk o.b
  | .vld o => soOk [0, 1, 4] o.scope o.ord && !(decide (2 ≤ o.wid.toNat) && o.sgn) && vPair true o.a &&
      vPair (decide (o.wid = 3#2)) o.d
  | .vst o => soOk [0, 2, 4] o.scope o.ord && vPair true o.a && vPair (decide (o.wid = 3#2)) o.b
  | .vprefetch o => vPair true o.a
  | .atom o => soOk [0, 1, 2, 3, 4] o.scope o.ord && atomOk [0, 1, 2, 3, 4, 5, 6] o.op o.wid o.sgn && sOk o.d && sOk o.a && sOk o.b
  | .cas o => soOk [0, 1, 2, 3, 4] o.scope o.ord && decide (2 ≤ o.wid.toNat) && sOk o.d && sOk o.a && sOk o.b && sOk o.c
  | .vatom o => o.wf [0, 1, 2, 3, 4, 5, 6]
  | .vfatom o => o.wf [0x10, 0x14, 0x15] && !o.sgn
  | .vcas o => soOk [0, 1, 2, 3, 4] o.scope o.ord && decide (2 ≤ o.wid.toNat) && vPair true o.a &&
      vPair (decide (o.wid = 3#2)) o.d && vPair (decide (o.wid = 3#2)) o.b && vPair (decide (o.wid = 3#2)) o.c
  | .vscadd o => soOk [0, 2] o.scope o.ord && decide (o.op.toNat = 0 ∨ o.op.toNat = 0x10) && decide (2 ≤ o.wid.toNat) &&
      vPair true o.a && vPair (decide (o.wid = 3#2)) o.b
  | .vbin o => soOk [0, 1, 2, 3] o.scope o.ord && sOk o.a
  | .fence o => decide (1 ≤ o.ord.toNat) && decide (o.ord.toNat ≤ 4) && decide (o.scope.toNat ≤ 5)
  | .cinv o | .cwb o => decide (2 ≤ o.scope.toNat) && decide (o.scope.toNat ≤ 5) && sOk o.a
  | .waitc o => decide (o.path.toNat ≤ 4) && sOk o.a
  | .balloc o | .bfree o | .take o | .takeTest o | .bmap o | .bzero o => sOk o.d
  | .give o => sOk o.d
  | .bshare o => sOk o.d && decide (o.cmask ≠ 0#8)
  | .kick o => sOk o.a && sOk o.b
  | .copy o => decide (o.addr.toNat % 64 = 0)
  | .binit o => decide (o.addr.toNat % 8 = 0)
  | .tdset o => sOk o.a
  | .tdsetQueue o => decide (o.addr.toNat % 16 = 0)
  | .mma o => decide (o.ty.toNat ≤ 6) && mmaExtOk false false false o.ext
  | .mmas o => decide (2 ≤ o.ty.toNat) && decide (o.ty.toNat ≤ 6) && mmaExtOk false true true o.ext
  | .mmag o => decide (2 ≤ o.ty.toNat) && decide (o.ty.toNat ≤ 6) && mmaExtOk true false true o.ext
  | .accld o => decide (o.m5.toNat ≤ 1) && decide (o.m2.toNat ≤ 5) && accExtOk o.ext
  | .accst o => decide (o.m5.toNat ≤ 5) && decide (o.m2.toNat ≤ 1) && accExtOk o.ext
  | .acczero o => decide (o.ta.toNat ≤ 1) && accExtOk o.ext
  | .wwin o => decide (1 ≤ o.t.toNat) && decide (o.t.toNat ≤ 255)
  | .wload o => match o.rows with
      | none => true
      | some (r, n) => decide (r.toNat + n.toNat + 1 ≤ 256)
  | .wlaunch o | .wcapture o => o.wf
  | .eseg o => sOk o.d && decide (o.cmask ≠ 0#8) && decide (o.size.toNat % 32 = 0) && decide (32 ≤ o.size.toNat) && decide (o.size.toNat ≤ 196608)
  | .emitRegs o => sOk o.a && cntOk o.n (8 * (160 - o.a.toNat))
  | .emitm o => sOk o.a && cntOk o.n 196608
  | .emitq o => sOk o.a
  | .emitqMulti o => sOk o.a && decide (o.cmask ≠ 0#8) && cntOk o.n 4096
  | .epatch o => sOk o.a && sOk o.b && decide (o.off.toNat % 4 = 0)
  | .eseal o => sOk o.d
  | .tgo o => sOk o.d && sOk o.a && decide (o.b.toNat ≤ 152) && decide (o.entry.toNat % 4 = 0)
  | .estat o => sOk o.d
  | .spawn o => sOk o.d && decide (o.a.toNat ≤ 152) && sOk o.b
  | .dlaunch o => sOk o.d && sOk o.a && sOk o.b
  | .svc o => decide (o.n.toNat ≤ 4) && vPair true o.d && vPair true o.a && (decide (o.n ≠ 0#3) || decide (o.a = 0#8))
  | .getsr o => sOk o.d
  | .setsr o => sOk o.a
  | .vgrow o | .vshrink o => sOk o.d && decide (1 ≤ o.n.toNat) && decide (o.n.toNat ≤ 31)
  | _ => true

end Sys2Proof
end

