-- ==== Sys2Proof/Decode.lean ====
section
/-! DEFINITION. The decoder, total on any word in any place (R69 to R73, R89), rejecting by name, and after it the
encoder, written from the encoding tables of R55 to R67 and R75 to R88 and of each entry. -/

namespace Sys2Proof

/-- The path a word arrived by: a code store, a generator's fetch, an engine queue (R89). -/
inductive Place where
  | team
  | gen
  | queue
  deriving DecidableEq, Repr

/-- Why a word is no instruction where it stands (R72, R89). -/
inductive DecodeError where
  | illegalEncoding
  | placeViolation
  | illegalField
  deriving DecidableEq, Repr

/-- Bytes of a word by its LEN field (R55). -/
def Raw.bytes (r : Raw) : Nat := 8 + 4 * r.len.toNat

/-- The bits of a word, head and tail (R55, R56). -/
def Raw.toBits (r : Raw) : BitVec 128 :=
  r.tail ++ r.x ++ r.m ++ r.c ++ r.b ++ r.a ++ r.d ++ r.g ++ r.op ++ r.s ++ r.len

/-- The tail as far as the word's length reaches (R56). -/
def tailOf (len : BitVec 2) (t : BitVec 64) : BitVec 64 :=
  if len = 0#2 then 0#64 else if len = 1#2 then 0#32 ++ t.setWidth 32 else t

/-- The fields of a word (R55). -/
def Raw.ofBits (w : BitVec 128) : Raw :=
  { len := w.extractLsb' 0 2, s := w.extractLsb' 2 1, op := w.extractLsb' 3 9, g := w.extractLsb' 12 3
    d := w.extractLsb' 15 8, a := w.extractLsb' 23 8, b := w.extractLsb' 31 8, c := w.extractLsb' 39 8
    m := w.extractLsb' 47 6, x := w.extractLsb' 53 11, tail := tailOf (w.extractLsb' 0 2) (w.extractLsb' 64 64) }

/-- A row of the group tables R76 to R83: `n` opcodes from `op`, the places, the lengths as LEN codes, and the lengths
offered in the generator place only. -/
structure OpRow where
  op : Nat
  n : Nat
  places : List Place
  lens : List Nat
  gLens : List Nat
  deriving DecidableEq, Repr


/-- R76: uniform integer. -/
def opsUniform : List OpRow :=
  [⟨0x000, 9, [.team, .gen], [0, 1], []⟩,
   ⟨0x009, 7, [.team, .gen], [0, 1], []⟩,
   ⟨0x010, 5, [.team, .gen], [0], []⟩,
   ⟨0x015, 2, [.team, .gen], [0], []⟩,
   ⟨0x017, 3, [.team, .gen], [0, 1], []⟩,
   ⟨0x01A, 1, [.team, .gen], [0, 1, 2], []⟩,
   ⟨0x01B, 1, [.team, .gen], [0, 1], []⟩]

/-- R77: control and masks. -/
def opsControl : List OpRow :=
  [⟨0x040, 3, [.team, .gen], [0, 1], []⟩,
   ⟨0x043, 1, [.team, .gen], [0, 1], []⟩,
   ⟨0x044, 1, [.team, .gen], [0, 1], []⟩,
   ⟨0x045, 2, [.team, .gen], [0], []⟩,
   ⟨0x047, 1, [.team, .gen], [0, 1], []⟩,
   ⟨0x048, 1, [.team], [0, 1], []⟩,
   ⟨0x049, 4, [.team], [0], []⟩,
   ⟨0x04D, 1, [.team], [0], []⟩,
   ⟨0x04E, 2, [.team, .gen], [0], []⟩,
   ⟨0x050, 1, [.team, .gen, .queue], [0, 1, 2], []⟩]

/-- R78: vector integer and cross-lane. -/
def opsVector : List OpRow :=
  [⟨0x080, 8, [.team], [0, 1], []⟩,
   ⟨0x088, 8, [.team], [0, 1], []⟩,
   ⟨0x090, 5, [.team], [0], []⟩,
   ⟨0x095, 2, [.team], [0], []⟩,
   ⟨0x097, 2, [.team], [0], []⟩,
   ⟨0x099, 1, [.team], [0, 1], []⟩,
   ⟨0x09A, 2, [.team], [0], []⟩,
   ⟨0x09C, 2, [.team], [0], []⟩,
   ⟨0x0A0, 2, [.team], [0, 1], []⟩,
   ⟨0x0A2, 3, [.team], [0], []⟩,
   ⟨0x0A5, 3, [.team], [0, 1], []⟩]

/-- R79: floating point. -/
def opsFloat : List OpRow :=
  [⟨0x0C0, 7, [.team], [0], []⟩,
   ⟨0x0C7, 4, [.team], [0], []⟩,
   ⟨0x0CB, 4, [.team], [0], []⟩,
   ⟨0x0CF, 3, [.team], [0], []⟩,
   ⟨0x0D2, 3, [.team], [0], []⟩,
   ⟨0x0E0, 3, [.team, .gen], [0], []⟩,
   ⟨0x0E3, 1, [.team, .gen], [0], []⟩]

/-- R80: narrow formats and bit-plane. -/
def opsNarrow : List OpRow :=
  [⟨0x100, 3, [.team], [0], []⟩,
   ⟨0x103, 1, [.team], [0], []⟩,
   ⟨0x104, 4, [.team], [0], []⟩]

/-- R81: memory, atomics and fences. -/
def opsMemory : List OpRow :=
  [⟨0x140, 2, [.team, .gen], [0, 1], []⟩,
   ⟨0x142, 3, [.team], [0, 1], []⟩,
   ⟨0x145, 2, [.team, .gen], [0, 1], []⟩,
   ⟨0x147, 4, [.team], [0, 1], []⟩,
   ⟨0x14B, 1, [.team], [0, 1], []⟩,
   ⟨0x14C, 1, [.team, .gen], [0], []⟩,
   ⟨0x14D, 2, [.team, .gen], [0, 1], []⟩,
   ⟨0x14F, 1, [.team, .gen], [0, 1], []⟩,
   ⟨0x150, 1, [.team, .gen], [0], []⟩,
   ⟨0x151, 1, [.team], [0], []⟩]

/-- R82: basins, engines and Weir. -/
def opsEngine : List OpRow :=
  [⟨0x180, 7, [.team], [0], []⟩,
   ⟨0x188, 1, [.team], [0], []⟩,
   ⟨0x189, 1, [.queue], [2], []⟩,
   ⟨0x18A, 1, [.team, .queue], [0], []⟩,
   ⟨0x18B, 1, [.queue], [2], []⟩,
   ⟨0x18C, 3, [.queue], [2], []⟩,
   ⟨0x18F, 3, [.queue], [0, 2], []⟩,
   ⟨0x192, 1, [.gen, .queue], [1], [0]⟩,
   ⟨0x198, 1, [.queue], [0], []⟩,
   ⟨0x199, 1, [.queue], [0], []⟩,
   ⟨0x19A, 3, [.queue], [0, 1], []⟩,
   ⟨0x19D, 1, [.queue], [0], []⟩]

/-- R83: Stoker and system. -/
def opsSystem : List OpRow :=
  [⟨0x1C0, 1, [.gen], [2], []⟩,
   ⟨0x1C1, 1, [.gen], [0, 2], []⟩,
   ⟨0x1C2, 1, [.gen], [2], []⟩,
   ⟨0x1C3, 1, [.gen], [0, 2], []⟩,
   ⟨0x1C4, 1, [.gen], [2], []⟩,
   ⟨0x1C5, 1, [.gen], [0], []⟩,
   ⟨0x1C6, 1, [.gen], [2], []⟩,
   ⟨0x1C7, 2, [.gen], [0], []⟩,
   ⟨0x1D0, 1, [.team], [0], []⟩,
   ⟨0x1D1, 1, [.team], [0], []⟩,
   ⟨0x1D2, 1, [.team, .gen], [0], []⟩,
   ⟨0x1D3, 1, [.team], [0], []⟩,
   ⟨0x1D4, 2, [.team, .gen], [0], []⟩,
   ⟨0x1D6, 2, [.team], [0], []⟩,
   ⟨0x1D8, 1, [.team], [0], []⟩,
   ⟨0x1D9, 1, [.team, .gen], [0], []⟩,
   ⟨0x1DA, 1, [.team, .gen], [0], []⟩]

/-- The rows of R76 to R83. -/
def opRows : List OpRow :=
  opsUniform ++ opsControl ++ opsVector ++ opsFloat ++ opsNarrow ++ opsMemory ++ opsEngine ++ opsSystem

/-- The row that assigns an opcode (R75: the others are reserved). -/
def opRow (op : Nat) : Option OpRow := opRows.find? fun r => decide (r.op ≤ op) && decide (op < r.op + r.n)

/-! ### Field readers -/

/-- The switch marker (R58). -/
def Raw.sw (r : Raw) : Bool := r.s == 1#1

/-- M[5:3] (R60). -/
def Raw.sub (r : Raw) : BitVec 3 := r.m.extractLsb' 3 3

/-- M[2:0] (R60). -/
def Raw.ty (r : Raw) : BitVec 3 := r.m.extractLsb' 0 3

/-- I32 (R56). -/
def Raw.i32 (r : Raw) : BitVec 32 := r.tail.extractLsb' 0 32

def Raw.off (r : Raw) : Off := if r.len = 0#2 then .i11 r.x else .i32 r.i32

def Raw.src (r : Raw) : Src := if r.g = 7#3 then .reg r.b else if r.len = 0#2 then .imm11 r.x else .imm32 r.i32

def Raw.vsrc (r : Raw) : VSrc := if r.len = 0#2 then .reg r.b else .imm r.i32

def Raw.disp (r : Raw) : Disp := if r.len = 0#2 then .d8 (r.x.extractLsb' 3 8) else .d32 r.i32

def Raw.adisp (r : Raw) : ADisp := if r.len = 0#2 then .none else .d32 r.i32

/-- SGN of an XD word (R62). -/
def Raw.sgn (r : Raw) : Bool := r.x.extractLsb' 2 1 == 1#1

/-- WID of an XD word (R62). -/
def Raw.wid (r : Raw) : BitVec 2 := r.x.extractLsb' 0 2

/-- DISP8 as the operation code of an atomic word (R87). -/
def Raw.aop (r : Raw) : BitVec 8 := r.x.extractLsb' 3 8

/-- SAT of an XA word (R62). -/
def Raw.sat (r : Raw) : Bool := r.x.extractLsb' 3 1 == 1#1

/-- RND of an XA word (R63). -/
def Raw.rnd (r : Raw) : BitVec 3 := r.x.extractLsb' 0 3

def Raw.long (r : Raw) : Bool := r.len == 1#2

/-- The engine extension of R65. -/
def Raw.ext (r : Raw) : QExt :=
  { wbar := r.tail.extractLsb' 60 4, wen := r.tail.extractLsb' 59 1 == 1#1, abar := r.tail.extractLsb' 55 4
    aen := r.tail.extractLsb' 54 1 == 1#1, rdbar := r.tail.extractLsb' 50 4, rden := r.tail.extractLsb' 49 1 == 1#1
    steam := r.tail.extractLsb' 44 5, lsel := r.tail.extractLsb' 42 2, vidx := r.tail.extractLsb' 34 8
    vmeta := r.tail.extractLsb' 26 8, vscl := r.tail.extractLsb' 18 8, kval := r.tail.extractLsb' 11 7
    sbs := r.tail.extractLsb' 9 2 }

/-- The extension of an accumulator move, present in the 128E form (R221). -/
def Raw.ext? (r : Raw) : Option QExt := if r.len = 2#2 then some r.ext else none

/-- WT and AR of the Weir words (R225). -/
def Raw.bar? (r : Raw) : Option (BitVec 4) := if r.c.extractLsb' 4 1 = 1#1 then some (r.c.extractLsb' 0 4) else none

/-- CNT of the Stoker extension (R67). -/
def Raw.cnt (r : Raw) : BitVec 32 := r.tail.extractLsb' 0 32

/-- CMASK of the Stoker extension (R67). -/
def Raw.cmask (r : Raw) : BitVec 8 := r.tail.extractLsb' 56 8

/-! ### The instruction a word of an assigned opcode would be, before its reserved bits and limits are checked -/

/-- Opcodes 0x000 to 0x03F (R74). -/
def candUniform (op : Nat) (r : Raw) : Option Instr :=
  match op with
  | 0x00 => some (.add ⟨r.sw, r.ty, r.d, r.a, r.src⟩)
  | 0x01 => some (.sub ⟨r.sw, r.ty, r.d, r.a, r.src⟩)
  | 0x02 => some (.mul ⟨r.sw, r.ty, r.d, r.a, r.src⟩)
  | 0x03 => some (.mulh ⟨r.sw, r.ty, r.d, r.a, r.src⟩)
  | 0x04 => some (.div ⟨r.sw, r.ty, r.d, r.a, r.src⟩)
  | 0x05 => some (.rem ⟨r.sw, r.ty, r.d, r.a, r.src⟩)
  | 0x06 => some (.abs ⟨r.sw, r.ty, r.d, r.a, r.long⟩)
  | 0x07 => some (.min ⟨r.sw, r.ty, r.d, r.a, r.src⟩)
  | 0x08 => some (.max ⟨r.sw, r.ty, r.d, r.a, r.src⟩)
  | 0x09 => some (.and ⟨r.sw, r.ty, r.d, r.a, r.src⟩)
  | 0x0A => some (.or ⟨r.sw, r.ty, r.d, r.a, r.src⟩)
  | 0x0B => some (.xor ⟨r.sw, r.ty, r.d, r.a, r.src⟩)
  | 0x0C => some (.andn ⟨r.sw, r.ty, r.d, r.a, r.src⟩)
  | 0x0D => some (.shl ⟨r.sw, r.ty, r.d, r.a, r.src⟩)
  | 0x0E => some (.shr ⟨r.sw, r.ty, r.d, r.a, r.src⟩)
  | 0x0F => some (.sar ⟨r.sw, r.ty, r.d, r.a, r.src⟩)
  | 0x10 => some (.rotl ⟨r.sw, r.ty, r.d, r.a, r.src⟩)
  | 0x11 => some (.popc ⟨r.sw, r.ty, r.d, r.a⟩)
  | 0x12 => some (.clz ⟨r.sw, r.ty, r.d, r.a⟩)
  | 0x13 => some (.ctz ⟨r.sw, r.ty, r.d, r.a⟩)
  | 0x14 => some (.brev ⟨r.sw, r.ty, r.d, r.a⟩)
  | 0x15 => some (.bfx ⟨r.sw, r.ty, r.d, r.a, r.c, r.x⟩)
  | 0x16 => some (.bfi ⟨r.sw, r.ty, r.d, r.a, r.b, r.c, r.x⟩)
  | 0x17 => some (.cmp ⟨r.sw, r.sub, r.ty, r.d, r.a, r.src⟩)
  | 0x18 => some (.sel ⟨r.sw, r.ty, r.d, r.a, r.c, r.src⟩)
  | 0x19 => some (.mov ⟨r.sw, r.ty, r.d, r.src⟩)
  | 0x1A => some (.movi ⟨r.sw, r.d, if r.len = 0#2 then .i11 r.x else if r.len = 1#2 then .i32 r.i32 else .i64 r.tail⟩)
  | 0x1B => some (if r.m = 0#6 then .lea ⟨r.sw, r.d, r.a, r.off⟩ else .leaPc ⟨r.sw, r.d, r.off⟩)
  | _ => none

/-- Opcodes 0x040 to 0x07F (R74). -/
def candControl (op : Nat) (r : Raw) : Option Instr :=
  match op with
  | 0x00 => some (.b ⟨r.sw, r.off⟩)
  | 0x01 => some (.bz ⟨r.sw, r.a, r.off⟩)
  | 0x02 => some (.bnz ⟨r.sw, r.a, r.off⟩)
  | 0x03 => some (.bc ⟨r.sw, r.sub, r.ty, r.a, r.b, r.off⟩)
  | 0x04 => some (.call ⟨r.sw, r.d, r.off⟩)
  | 0x05 => some (.ret ⟨r.sw, r.a⟩)
  | 0x06 => some (.jmp ⟨r.sw, r.a⟩)
  | 0x07 => some (.loop ⟨r.sw, r.a, r.off⟩)
  | 0x08 => some (.skipz ⟨r.sw, r.off⟩)
  | 0x09 => some (.setmask ⟨r.sw, r.a⟩)
  | 0x0A => some (if r.m = 0#6 then .ballot ⟨r.sw, r.g, r.d, r.a.extractLsb' 0 3⟩ else .ballotNz ⟨r.sw, r.g, r.d, r.a.extractLsb' 0 3⟩)
  | 0x0B => some (.mpop ⟨r.sw, r.d, r.a⟩)
  | 0x0C => some (.mffs ⟨r.sw, r.d, r.a⟩)
  | 0x0D => some (if r.ty = 0#3 then .barArrive ⟨r.sw, r.a.extractLsb' 0 4, r.b⟩ else if r.ty = 1#3 then .barWait ⟨r.sw, r.a.extractLsb' 0 4, r.b⟩ else .barSync ⟨r.sw, r.a.extractLsb' 0 4, r.b⟩)
  | 0x0E => some (.yield ⟨r.sw⟩)
  | 0x0F => some (.exit ⟨r.sw⟩)
  | 0x10 => some (.nop ⟨r.sw, r.len⟩)
  | _ => none

/-- Opcodes 0x080 to 0x0BF (R74). -/
def candVector (op : Nat) (r : Raw) : Option Instr :=
  match op with
  | 0x00 => some (.vadd ⟨r.sw, r.g, r.ty, r.sat, r.d, r.a, r.vsrc⟩)
  | 0x01 => some (.vsub ⟨r.sw, r.g, r.ty, r.sat, r.d, r.a, r.vsrc⟩)
  | 0x02 => some (.vmul ⟨r.sw, r.g, r.ty, r.sat, r.d, r.a, r.vsrc⟩)
  | 0x03 => some (.vmulh ⟨r.sw, r.g, r.ty, r.sat, r.d, r.a, r.vsrc⟩)
  | 0x04 => some (.vmad ⟨r.sw, r.g, r.ty, r.sat, r.d, r.a, r.vsrc, r.c⟩)
  | 0x05 => some (.vabs ⟨r.sw, r.g, r.ty, r.sat, r.d, r.a, r.long⟩)
  | 0x06 => some (.vmin ⟨r.sw, r.g, r.ty, r.sat, r.d, r.a, r.vsrc⟩)
  | 0x07 => some (.vmax ⟨r.sw, r.g, r.ty, r.sat, r.d, r.a, r.vsrc⟩)
  | 0x08 => some (.vand ⟨r.sw, r.g, r.ty, r.sat, r.d, r.a, r.vsrc⟩)
  | 0x09 => some (.vor ⟨r.sw, r.g, r.ty, r.sat, r.d, r.a, r.vsrc⟩)
  | 0x0A => some (.vxor ⟨r.sw, r.g, r.ty, r.sat, r.d, r.a, r.vsrc⟩)
  | 0x0B => some (.vandn ⟨r.sw, r.g, r.ty, r.sat, r.d, r.a, r.vsrc⟩)
  | 0x0C => some (.vnot ⟨r.sw, r.g, r.ty, r.sat, r.d, r.a, r.long⟩)
  | 0x0D => some (.vshl ⟨r.sw, r.g, r.ty, r.sat, r.d, r.a, r.vsrc⟩)
  | 0x0E => some (.vshr ⟨r.sw, r.g, r.ty, r.sat, r.d, r.a, r.vsrc⟩)
  | 0x0F => some (.vsar ⟨r.sw, r.g, r.ty, r.sat, r.d, r.a, r.vsrc⟩)
  | 0x10 => some (.vrotl ⟨r.sw, r.g, r.ty, r.d, r.a, r.b⟩)
  | 0x11 => some (.vpopc ⟨r.sw, r.g, r.ty, r.d, r.a⟩)
  | 0x12 => some (.vclz ⟨r.sw, r.g, r.ty, r.d, r.a⟩)
  | 0x13 => some (.vctz ⟨r.sw, r.g, r.ty, r.d, r.a⟩)
  | 0x14 => some (.vbrev ⟨r.sw, r.g, r.ty, r.d, r.a⟩)
  | 0x15 => some (.vbfx ⟨r.sw, r.g, r.ty, r.d, r.a, r.c, r.x⟩)
  | 0x16 => some (.vbfi ⟨r.sw, r.g, r.ty, r.d, r.a, r.b, r.c, r.x⟩)
  | 0x17 => some (.vcmp ⟨r.sw, r.g, r.sub, r.ty, r.d.extractLsb' 0 3, r.a, r.b⟩)
  | 0x18 => some (.vsel ⟨r.sw, r.g, r.ty, r.d, r.a, r.b, r.c.extractLsb' 0 3⟩)
  | 0x19 => some (.vmov ⟨r.sw, r.g, r.ty, r.d, r.vsrc⟩)
  | 0x1A => some (.vbcast ⟨r.sw, r.g, r.ty, r.d, r.a⟩)
  | 0x1B => some (.vlane ⟨r.sw, r.g, r.ty, r.d⟩)
  | 0x1C => some (.vcvt ⟨r.sw, r.g, r.sub, r.ty, r.rnd, r.sat, r.d, r.a⟩)
  | 0x1D => some (.vsat ⟨r.sw, r.g, r.sub, r.ty, r.rnd, r.sat, r.d, r.a⟩)
  | 0x20 => some (.vshfl ⟨r.sw, r.g, r.ty, r.d, r.a, r.b, r.off⟩)
  | 0x21 => some (.vrot ⟨r.sw, r.g, r.ty, r.d, r.a, r.off⟩)
  | 0x22 => some (.vred ⟨r.sw, r.g, r.sub, r.ty, r.d, r.a⟩)
  | 0x23 => some (.vredx ⟨r.sw, r.g, r.sub, r.ty, r.d, r.a, r.c⟩)
  | 0x24 => some (.vscan ⟨r.sw, r.g, r.sub, r.ty, r.d, r.a⟩)
  | 0x25 => some (.vextract ⟨r.sw, r.ty, r.d, r.a, r.off⟩)
  | 0x26 => some (.vinsert ⟨r.sw, r.ty, r.d, r.a, r.off⟩)
  | 0x27 => some (.vmatch ⟨r.sw, r.g, r.ty, r.d, r.a, r.long⟩)
  | _ => none

/-- Opcodes 0x0C0 to 0x0FF (R74). -/
def candFloat (op : Nat) (r : Raw) : Option Instr :=
  match op with
  | 0x00 => some (.vfadd ⟨r.sw, r.g, r.ty, r.rnd, r.sat, r.d, r.a, r.b⟩)
  | 0x01 => some (.vfsub ⟨r.sw, r.g, r.ty, r.rnd, r.sat, r.d, r.a, r.b⟩)
  | 0x02 => some (.vfmul ⟨r.sw, r.g, r.ty, r.rnd, r.sat, r.d, r.a, r.b⟩)
  | 0x03 => some (.vffma ⟨r.sw, r.g, r.ty, r.rnd, r.sat, r.d, r.a, r.b, r.c⟩)
  | 0x04 => some (.vfmin ⟨r.sw, r.g, r.ty, r.rnd, r.sat, r.d, r.a, r.b⟩)
  | 0x05 => some (.vfmax ⟨r.sw, r.g, r.ty, r.rnd, r.sat, r.d, r.a, r.b⟩)
  | 0x06 => some (.vfcmp ⟨r.sw, r.g, r.sub, r.ty, r.d.extractLsb' 0 3, r.a, r.b⟩)
  | 0x07 => some (.vfrcp ⟨r.sw, r.g, r.ty, r.rnd, r.sat, r.d, r.a⟩)
  | 0x08 => some (.vfrsq ⟨r.sw, r.g, r.ty, r.rnd, r.sat, r.d, r.a⟩)
  | 0x09 => some (.vfsqrt ⟨r.sw, r.g, r.ty, r.rnd, r.sat, r.d, r.a⟩)
  | 0x0A => some (.vfdiv ⟨r.sw, r.g, r.ty, r.rnd, r.sat, r.d, r.a, r.b⟩)
  | 0x0B => some (.vfex2 ⟨r.sw, r.g, r.ty, r.rnd, r.sat, r.d, r.a⟩)
  | 0x0C => some (.vflg2 ⟨r.sw, r.g, r.ty, r.rnd, r.sat, r.d, r.a⟩)
  | 0x0D => some (.vfsin ⟨r.sw, r.g, r.ty, r.rnd, r.sat, r.d, r.a⟩)
  | 0x0E => some (.vfcos ⟨r.sw, r.g, r.ty, r.rnd, r.sat, r.d, r.a⟩)
  | 0x0F => some (.vfcvt ⟨r.sw, r.g, r.sub, r.ty, r.rnd, r.sat, r.d, r.a⟩)
  | 0x10 => some (.vfi ⟨r.sw, r.g, r.sub, r.ty, r.rnd, r.sat, r.d, r.a⟩)
  | 0x11 => some (.vif ⟨r.sw, r.g, r.sub, r.ty, r.rnd, r.sat, r.d, r.a⟩)
  | 0x12 => some (.vfclass ⟨r.sw, r.g, r.ty, r.rnd, r.sat, r.d, r.a⟩)
  | 0x13 => some (.vfscale ⟨r.sw, r.g, r.ty, r.rnd, r.sat, r.d, r.a, r.b⟩)
  | 0x14 => some (.vfrnd ⟨r.sw, r.g, r.ty, r.rnd, r.sat, r.d, r.a⟩)
  | 0x20 => some (.fadd ⟨r.sw, r.ty, r.rnd, r.sat, r.d, r.a, r.b⟩)
  | 0x21 => some (.fmul ⟨r.sw, r.ty, r.rnd, r.sat, r.d, r.a, r.b⟩)
  | 0x22 => some (.ffma ⟨r.sw, r.ty, r.rnd, r.sat, r.d, r.a, r.b, r.c⟩)
  | 0x23 => some (.fcvt ⟨r.sw, r.c.extractLsb' 0 2, r.sub, r.ty, r.rnd, r.sat, r.d, r.a⟩)
  | _ => none

/-- Opcodes 0x100 to 0x13F (R74). -/
def candNarrow (op : Nat) (r : Raw) : Option Instr :=
  match op with
  | 0x00 => some (.vdot2 ⟨r.sw, r.g, r.ty, r.m.extractLsb' 5 1 == 1#1, r.m.extractLsb' 3 2, r.x.extractLsb' 9 2, r.x.extractLsb' 7 2, r.x.extractLsb' 0 7, r.d, r.a, r.b, r.c⟩)
  | 0x01 => some (.vdot4 ⟨r.sw, r.g, r.ty, r.m.extractLsb' 5 1 == 1#1, r.m.extractLsb' 3 2, r.x.extractLsb' 9 2, r.x.extractLsb' 7 2, r.x.extractLsb' 0 7, r.d, r.a, r.b, r.c⟩)
  | 0x02 => some (.vdotds ⟨r.sw, r.g, r.ty, r.m.extractLsb' 5 1 == 1#1, r.m.extractLsb' 3 2, r.x.extractLsb' 9 2, r.x.extractLsb' 7 2, r.x.extractLsb' 0 7, r.d, r.a, r.b, r.c⟩)
  | 0x03 => some (.vcvtds ⟨r.sw, r.g, r.ty, r.d, r.a, r.b.extractLsb' 0 2⟩)
  | 0x04 => some (.vbpl ⟨r.sw, r.g, r.m.extractLsb' 5 1 == 1#1, r.m.extractLsb' 0 2, r.d, r.a⟩)
  | 0x05 => some (.vbpu ⟨r.sw, r.g, r.m.extractLsb' 5 1 == 1#1, r.m.extractLsb' 0 2, r.d, r.a⟩)
  | 0x06 => some (.vbpdot ⟨r.sw, r.g, r.m.extractLsb' 5 1 == 1#1, r.m.extractLsb' 2 3, r.m.extractLsb' 0 2, r.d, r.a, r.b⟩)
  | 0x07 => some (.vbpsel ⟨r.sw, r.g, r.m.extractLsb' 0 2, r.d, r.a, r.b⟩)
  | _ => none

/-- Opcodes 0x140 to 0x17F (R74). -/
def candMemory (op : Nat) (r : Raw) : Option Instr :=
  match op with
  | 0x00 => some (.ld ⟨r.sw, r.sub, r.ty, r.sgn, r.wid, r.d, r.a, r.disp⟩)
  | 0x01 => some (.st ⟨r.sw, r.sub, r.ty, r.wid, r.a, r.b, r.disp⟩)
  | 0x02 => some (.vld ⟨r.sw, r.g, r.sub, r.ty, r.sgn, r.wid, r.d, r.a, r.disp⟩)
  | 0x03 => some (.vst ⟨r.sw, r.g, r.sub, r.ty, r.wid, r.a, r.b, r.disp⟩)
  | 0x04 => some (.vprefetch ⟨r.sw, r.g, r.a, r.disp⟩)
  | 0x05 => some (.atom ⟨r.sw, r.sub, r.ty, r.aop, r.sgn, r.wid, r.d, r.a, r.b, r.adisp⟩)
  | 0x06 => some (.cas ⟨r.sw, r.sub, r.ty, r.wid, r.d, r.a, r.b, r.c, r.adisp⟩)
  | 0x07 => some (.vatom ⟨r.sw, r.g, r.sub, r.ty, r.aop, r.sgn, r.wid, r.d, r.a, r.b, r.adisp⟩)
  | 0x08 => some (.vcas ⟨r.sw, r.g, r.sub, r.ty, r.wid, r.d, r.a, r.b, r.c, r.adisp⟩)
  | 0x09 => some (.vfatom ⟨r.sw, r.g, r.sub, r.ty, r.aop, r.sgn, r.wid, r.d, r.a, r.b, r.adisp⟩)
  | 0x0A => some (.vscadd ⟨r.sw, r.g, r.sub, r.ty, r.aop, r.wid, r.a, r.b, r.adisp⟩)
  | 0x0B => some (.vbin ⟨r.sw, r.g, r.sub, r.ty, r.d, r.a, r.b, r.adisp⟩)
  | 0x0C => some (.fence ⟨r.sw, r.sub, r.ty⟩)
  | 0x0D => some (.cinv ⟨r.sw, r.sub, r.a, r.disp⟩)
  | 0x0E => some (.cwb ⟨r.sw, r.sub, r.a, r.disp⟩)
  | 0x0F => some (.marm ⟨r.sw, r.sub, r.ty, r.sgn, r.wid, r.d, r.a, r.disp⟩)
  | 0x10 => some (.mwait ⟨r.sw, r.d, r.a⟩)
  | 0x11 => some (.waitc ⟨r.sw, r.ty, r.a⟩)
  | _ => none

/-- Opcodes 0x180 to 0x1BF (R74). -/
def candEngine (pl : Place) (op : Nat) (r : Raw) : Option Instr :=
  match op with
  | 0x00 => some (.balloc ⟨r.sw, r.d, r.a.extractLsb' 0 4⟩)
  | 0x01 => some (.bfree ⟨r.sw, r.d, r.a.extractLsb' 0 4⟩)
  | 0x02 => some (.give ⟨r.sw, r.d, r.a.extractLsb' 0 4, r.b.extractLsb' 0 3, r.c.extractLsb' 0 4⟩)
  | 0x03 => some (if r.m = 0#6 then .take ⟨r.sw, r.d, r.a.extractLsb' 0 4⟩ else .takeTest ⟨r.sw, r.d, r.a.extractLsb' 0 4⟩)
  | 0x04 => some (.bshare ⟨r.sw, r.d, r.a.extractLsb' 0 4, r.b⟩)
  | 0x05 => some (.bmap ⟨r.sw, r.d, r.a.extractLsb' 0 4⟩)
  | 0x06 => some (.bzero ⟨r.sw, r.d, r.a.extractLsb' 0 4⟩)
  | 0x08 => some (.kick ⟨r.sw, r.a, r.b⟩)
  | 0x09 => some (.copy ⟨r.tail.extractLsb' 0 20, r.tail.extractLsb' 32 10⟩)
  | 0x0A => some (if pl = .queue then .bwaitQueue ⟨r.a.extractLsb' 0 4, r.b ++ r.c⟩ else .bwait ⟨r.sw, r.d, r.a⟩)
  | 0x0B => some (.binit ⟨r.tail.extractLsb' 32 20, r.tail.extractLsb' 0 32⟩)
  | 0x0C => some (.mma ⟨r.ty, r.d.extractLsb' 0 3, r.a.extractLsb' 0 4, r.b.extractLsb' 0 4, r.ext⟩)
  | 0x0D => some (.mmas ⟨r.ty, r.d.extractLsb' 0 3, r.a.extractLsb' 0 4, r.b.extractLsb' 0 4, r.ext⟩)
  | 0x0E => some (.mmag ⟨r.ty, r.d.extractLsb' 0 3, r.a.extractLsb' 0 4, r.b.extractLsb' 0 4, r.ext⟩)
  | 0x0F => some (.accld ⟨r.sub, r.ty, r.d.extractLsb' 0 3, r.a.extractLsb' 0 4, r.ext?⟩)
  | 0x10 => some (.accst ⟨r.sub, r.ty, r.d.extractLsb' 0 3, r.a.extractLsb' 0 4, r.ext?⟩)
  | 0x11 => some (.acczero ⟨r.sub, r.d.extractLsb' 0 3, r.ext?⟩)
  | 0x12 => some (if pl = .queue then .tdsetQueue ⟨r.d.extractLsb' 0 4, r.tail.extractLsb' 0 20⟩ else .tdset ⟨r.sw, r.d.extractLsb' 0 4, r.a, r.disp⟩)
  | 0x18 => some (.wwin ⟨r.x⟩)
  | 0x19 => some (.wcfg ⟨r.m.extractLsb' 0 1 == 1#1⟩)
  | 0x1A => some (.wload ⟨r.a.extractLsb' 0 4, r.bar?, if r.len = 1#2 then some (r.tail.extractLsb' 0 8, r.tail.extractLsb' 8 8) else none⟩)
  | 0x1B => some (.wlaunch ⟨r.a.extractLsb' 0 4, r.bar?, r.len == 0#2, if r.len = 0#2 then r.x.extractLsb' 0 8 ++ 0#8 else r.tail.extractLsb' 0 16⟩)
  | 0x1C => some (.wcapture ⟨r.a.extractLsb' 0 4, r.bar?, r.len == 0#2, if r.len = 0#2 then r.x.extractLsb' 0 8 ++ 0#8 else r.tail.extractLsb' 0 16⟩)
  | 0x1D => some (.wreset)
  | _ => none

/-- Opcodes 0x1C0 to 0x1FF (R74). -/
def candSystem (op : Nat) (r : Raw) : Option Instr :=
  match op with
  | 0x00 => some (.eseg ⟨r.sw, r.d, r.cmask, r.tail.extractLsb' 40 16, r.cnt⟩)
  | 0x01 => some (if r.len = 0#2 then .emit ⟨r.sw, r.a⟩ else .emitRegs ⟨r.sw, r.a, r.cnt⟩)
  | 0x02 => some (.emitm ⟨r.sw, r.a, r.cnt⟩)
  | 0x03 => some (if r.len = 0#2 then .emitq ⟨r.sw, r.a, r.b.extractLsb' 0 3⟩ else .emitqMulti ⟨r.sw, r.a, r.cmask, r.cnt⟩)
  | 0x04 => some (.epatch ⟨r.sw, r.a, r.b, r.c.extractLsb' 0 3, r.cnt⟩)
  | 0x05 => some (.eseal ⟨r.sw, r.d⟩)
  | 0x06 => some (.tgo ⟨r.sw, r.d, r.a, r.b, r.c.extractLsb' 0 5, r.cnt⟩)
  | 0x07 => some (.eprov ⟨r.sw, r.d, r.a⟩)
  | 0x08 => some (.estat ⟨r.sw, r.d, r.a.extractLsb' 0 2⟩)
  | 0x10 => some (.spawn ⟨r.sw, r.d, r.a, r.b⟩)
  | 0x11 => some (.svc ⟨r.sw, r.g, r.x, r.d, r.a, r.b.extractLsb' 0 3⟩)
  | 0x12 => some (.strap ⟨r.sw, r.x⟩)
  | 0x13 => some (.rfh ⟨r.sw⟩)
  | 0x14 => some (.getsr ⟨r.sw, r.d, r.x⟩)
  | 0x15 => some (.setsr ⟨r.sw, r.a, r.x⟩)
  | 0x16 => some (.vgrow ⟨r.sw, r.d, r.x⟩)
  | 0x17 => some (.vshrink ⟨r.sw, r.d, r.x⟩)
  | 0x18 => some (.trig ⟨r.sw⟩)
  | 0x19 => some (.dlaunch ⟨r.sw, r.d, r.a, r.b⟩)
  | 0x1A => some (.brk ⟨r.sw, r.x⟩)
  | _ => none

/-- The candidate of any assigned opcode. -/
def cand (pl : Place) (r : Raw) : Option Instr :=
  match r.op.toNat / 64 with
  | 0 => candUniform (r.op.toNat % 64) r
  | 1 => candControl (r.op.toNat % 64) r
  | 2 => candVector (r.op.toNat % 64) r
  | 3 => candFloat (r.op.toNat % 64) r
  | 4 => candNarrow (r.op.toNat % 64) r
  | 5 => candMemory (r.op.toNat % 64) r
  | 6 => candEngine pl (r.op.toNat % 64) r
  | 7 => candSystem (r.op.toNat % 64) r
  | _ => none

/-! ### The encoder -/

/-- A 64-bit word of an opcode with every operand field zero. -/
def mkRaw (op : BitVec 9) (sw : Bool) (g : BitVec 3) : Raw :=
  { len := 0#2, s := BitVec.ofBool sw, op := op, g := g, d := 0#8, a := 0#8, b := 0#8, c := 0#8, m := 0#6, x := 0#11, tail := 0#64 }

/-- Make a word 96 bits long with I32 = v (R56). -/
def Raw.put32 (r : Raw) (v : BitVec 32) : Raw := { r with len := 1#2, tail := 0#32 ++ v }

def Off.put (o : Off) (r : Raw) : Raw :=
  match o with
  | .i11 x => { r with x := x }
  | .i32 x => r.put32 x

def Src.put (o : Src) (r : Raw) : Raw :=
  match o with
  | .reg b => { r with b := b }
  | .imm11 x => { r with g := 6#3, x := x }
  | .imm32 x => { r with g := 6#3 }.put32 x

def VSrc.put (o : VSrc) (r : Raw) : Raw :=
  match o with
  | .reg b => { r with b := b }
  | .imm x => r.put32 x

def Disp.put (o : Disp) (sgn : Bool) (wid : BitVec 2) (r : Raw) : Raw :=
  match o with
  | .d8 x => { r with x := x ++ BitVec.ofBool sgn ++ wid }
  | .d32 x => { r with x := 0#8 ++ BitVec.ofBool sgn ++ wid }.put32 x

def ADisp.put (o : ADisp) (op : BitVec 8) (sgn : Bool) (wid : BitVec 2) (r : Raw) : Raw :=
  match o with
  | .none => { r with x := op ++ BitVec.ofBool sgn ++ wid }
  | .d32 x => { r with x := op ++ BitVec.ofBool sgn ++ wid }.put32 x

/-- X of an XA word (R62). -/
def xa (sat : Bool) (rnd : BitVec 3) : BitVec 11 := 0#7 ++ BitVec.ofBool sat ++ rnd

/-- Make a word 96 bits long with a zero tail. -/
def Raw.putLong (r : Raw) (long : Bool) : Raw := if long then r.put32 0#32 else r

/-- The engine extension (R65). -/
def QExt.bits (e : QExt) : BitVec 64 :=
  e.wbar ++ BitVec.ofBool e.wen ++ e.abar ++ BitVec.ofBool e.aen ++ e.rdbar ++ BitVec.ofBool e.rden ++ e.steam ++ e.lsel ++
    e.vidx ++ e.vmeta ++ e.vscl ++ e.kval ++ e.sbs ++ 0#9

def Raw.putExt (r : Raw) (e : QExt) : Raw := { r with len := 2#2, tail := e.bits }

def Raw.putExt? (r : Raw) : Option QExt → Raw
  | none => r
  | some e => r.putExt e

/-- C of the Weir words (R225). -/
def barC : Option (BitVec 4) → BitVec 8
  | none => 0#8
  | some b => 0#3 ++ 1#1 ++ b

/-- The Stoker extension (R67). -/
def Raw.putK (r : Raw) (cmask : BitVec 8) (tid : BitVec 16) (cnt : BitVec 32) : Raw :=
  { r with len := 2#2, tail := cmask ++ tid ++ 0#8 ++ cnt }

def UBin.enc (op : BitVec 9) (o : UBin) : Raw :=
  o.src.put { mkRaw op o.sw 7#3 with d := o.d, a := o.a, m := 0#3 ++ o.ty }

def UUn.enc (op : BitVec 9) (o : UUn) : Raw :=
  { mkRaw op o.sw 7#3 with d := o.d, a := o.a, m := 0#3 ++ o.ty }

def UAbs.enc (op : BitVec 9) (o : UAbs) : Raw :=
  { mkRaw op o.sw 7#3 with d := o.d, a := o.a, m := 0#3 ++ o.ty }.putLong o.long

def UBfx.enc (op : BitVec 9) (o : UBfx) : Raw :=
  { mkRaw op o.sw 7#3 with d := o.d, a := o.a, c := o.width, m := 0#3 ++ o.ty, x := o.pos }

def UBfi.enc (op : BitVec 9) (o : UBfi) : Raw :=
  { mkRaw op o.sw 7#3 with d := o.d, a := o.a, b := o.b, c := o.width, m := 0#3 ++ o.ty, x := o.pos }

def UCmp.enc (op : BitVec 9) (o : UCmp) : Raw :=
  o.src.put { mkRaw op o.sw 7#3 with d := o.d, a := o.a, m := o.cond ++ o.ty }

def USel.enc (op : BitVec 9) (o : USel) : Raw :=
  o.src.put { mkRaw op o.sw 7#3 with d := o.d, a := o.a, c := o.c, m := 0#3 ++ o.ty }

def UMov.enc (op : BitVec 9) (o : UMov) : Raw :=
  o.src.put { mkRaw op o.sw 7#3 with d := o.d, m := 0#3 ++ o.ty }

def UMovi.enc (op : BitVec 9) (o : UMovi) : Raw :=
  match o.imm with
  | .i11 x => { mkRaw op o.sw 7#3 with d := o.d, x := x }
  | .i32 x => { mkRaw op o.sw 7#3 with d := o.d }.put32 x
  | .i64 x => { mkRaw op o.sw 7#3 with d := o.d, len := 2#2, tail := x }

def ULea.enc (op : BitVec 9) (o : ULea) : Raw :=
  o.off.put { mkRaw op o.sw 7#3 with d := o.d, a := o.a }

def ULeaPc.enc (op : BitVec 9) (o : ULeaPc) : Raw :=
  o.off.put { mkRaw op o.sw 7#3 with d := o.d, m := 1#6 }

def Br.enc (op : BitVec 9) (o : Br) : Raw :=
  o.off.put (mkRaw op o.sw 7#3)

def BrR.enc (op : BitVec 9) (o : BrR) : Raw :=
  o.off.put { mkRaw op o.sw 7#3 with a := o.a }

def Bc.enc (op : BitVec 9) (o : Bc) : Raw :=
  o.off.put { mkRaw op o.sw 7#3 with a := o.a, b := o.b, m := o.cond ++ o.ty }

def Call.enc (op : BitVec 9) (o : Call) : Raw :=
  o.off.put { mkRaw op o.sw 7#3 with d := o.d }

def OneA.enc (op : BitVec 9) (o : OneA) : Raw :=
  { mkRaw op o.sw 7#3 with a := o.a }

def Ballot.enc (op : BitVec 9) (m : BitVec 6) (o : Ballot) : Raw :=
  { mkRaw op o.sw o.g with d := o.d, a := 0#5 ++ o.pa, m := m }

def TwoDA.enc (op : BitVec 9) (o : TwoDA) : Raw :=
  { mkRaw op o.sw 7#3 with d := o.d, a := o.a }

def Bar.enc (op : BitVec 9) (m : BitVec 6) (o : Bar) : Raw :=
  { mkRaw op o.sw 7#3 with a := 0#4 ++ o.n, b := o.e, m := m }

def Plain.enc (op : BitVec 9) (o : Plain) : Raw :=
  mkRaw op o.sw 7#3

def Nop.enc (op : BitVec 9) (o : Nop) : Raw :=
  { mkRaw op o.sw 7#3 with len := o.len }

def VBin.enc (op : BitVec 9) (o : VBin) : Raw :=
  o.src.put { mkRaw op o.sw o.g with d := o.d, a := o.a, m := 0#3 ++ o.ty, x := xa o.sat 0#3 }

def VMad.enc (op : BitVec 9) (o : VMad) : Raw :=
  o.src.put { mkRaw op o.sw o.g with d := o.d, a := o.a, c := o.c, m := 0#3 ++ o.ty, x := xa o.sat 0#3 }

def VUnL.enc (op : BitVec 9) (o : VUnL) : Raw :=
  { mkRaw op o.sw o.g with d := o.d, a := o.a, m := 0#3 ++ o.ty, x := xa o.sat 0#3 }.putLong o.long

def VRotl.enc (op : BitVec 9) (o : VRotl) : Raw :=
  { mkRaw op o.sw o.g with d := o.d, a := o.a, b := o.b, m := 0#3 ++ o.ty }

def VUn.enc (op : BitVec 9) (o : VUn) : Raw :=
  { mkRaw op o.sw o.g with d := o.d, a := o.a, m := 0#3 ++ o.ty }

def VBfx.enc (op : BitVec 9) (o : VBfx) : Raw :=
  { mkRaw op o.sw o.g with d := o.d, a := o.a, c := o.width, m := 0#3 ++ o.ty, x := o.pos }

def VBfi.enc (op : BitVec 9) (o : VBfi) : Raw :=
  { mkRaw op o.sw o.g with d := o.d, a := o.a, b := o.b, c := o.width, m := 0#3 ++ o.ty, x := o.pos }

def VCmp.enc (op : BitVec 9) (o : VCmp) : Raw :=
  { mkRaw op o.sw o.g with d := 0#5 ++ o.pd, a := o.a, b := o.b, m := o.cond ++ o.ty }

def VSel.enc (op : BitVec 9) (o : VSel) : Raw :=
  { mkRaw op o.sw o.g with d := o.d, a := o.a, b := o.b, c := 0#5 ++ o.pc, m := 0#3 ++ o.ty }

def VMov.enc (op : BitVec 9) (o : VMov) : Raw :=
  o.src.put { mkRaw op o.sw o.g with d := o.d, m := 0#3 ++ o.ty }

def VBcast.enc (op : BitVec 9) (o : VBcast) : Raw :=
  { mkRaw op o.sw o.g with d := o.d, a := o.a, m := 0#3 ++ o.ty }

def VLane.enc (op : BitVec 9) (o : VLane) : Raw :=
  { mkRaw op o.sw o.g with d := o.d, m := 0#3 ++ o.ty }

def VCvt.enc (op : BitVec 9) (o : VCvt) : Raw :=
  { mkRaw op o.sw o.g with d := o.d, a := o.a, m := o.td ++ o.ts, x := xa o.sat o.rnd }

def VShfl.enc (op : BitVec 9) (o : VShfl) : Raw :=
  o.off.put { mkRaw op o.sw o.g with d := o.d, a := o.a, b := o.b, m := 0#3 ++ o.ty }

def VRot.enc (op : BitVec 9) (o : VRot) : Raw :=
  o.off.put { mkRaw op o.sw o.g with d := o.d, a := o.a, m := 0#3 ++ o.ty }

def VRed.enc (op : BitVec 9) (o : VRed) : Raw :=
  { mkRaw op o.sw o.g with d := o.d, a := o.a, m := o.op ++ o.ty }

def VRedx.enc (op : BitVec 9) (o : VRedx) : Raw :=
  { mkRaw op o.sw o.g with d := o.d, a := o.a, c := o.c, m := o.op ++ o.ty }

def VLaneMove.enc (op : BitVec 9) (o : VLaneMove) : Raw :=
  o.lane.put { mkRaw op o.sw 7#3 with d := o.d, a := o.a, m := 0#3 ++ o.ty }

def VMatch.enc (op : BitVec 9) (o : VMatch) : Raw :=
  { mkRaw op o.sw o.g with d := o.d, a := o.a, m := 0#3 ++ o.ty }.putLong o.long

def VF2.enc (op : BitVec 9) (o : VF2) : Raw :=
  { mkRaw op o.sw o.g with d := o.d, a := o.a, b := o.b, m := 0#3 ++ o.ty, x := xa o.sat o.rnd }

def VF3.enc (op : BitVec 9) (o : VF3) : Raw :=
  { mkRaw op o.sw o.g with d := o.d, a := o.a, b := o.b, c := o.c, m := 0#3 ++ o.ty, x := xa o.sat o.rnd }

def VF1.enc (op : BitVec 9) (o : VF1) : Raw :=
  { mkRaw op o.sw o.g with d := o.d, a := o.a, m := 0#3 ++ o.ty, x := xa o.sat o.rnd }

def VFcmp.enc (op : BitVec 9) (o : VFcmp) : Raw :=
  { mkRaw op o.sw o.g with d := 0#5 ++ o.pd, a := o.a, b := o.b, m := o.cond ++ o.ty }

def UF2.enc (op : BitVec 9) (o : UF2) : Raw :=
  { mkRaw op o.sw 7#3 with d := o.d, a := o.a, b := o.b, m := 0#3 ++ o.ty, x := xa o.sat o.rnd }

def UF3.enc (op : BitVec 9) (o : UF3) : Raw :=
  { mkRaw op o.sw 7#3 with d := o.d, a := o.a, b := o.b, c := o.c, m := 0#3 ++ o.ty, x := xa o.sat o.rnd }

def UFcvt.enc (op : BitVec 9) (o : UFcvt) : Raw :=
  { mkRaw op o.sw 7#3 with d := o.d, a := o.a, c := 0#6 ++ o.kind, m := o.td ++ o.ts, x := xa o.sat o.rnd }

def VDot.enc (op : BitVec 9) (o : VDot) : Raw :=
  { mkRaw op o.sw o.g with d := o.d, a := o.a, b := o.b, c := o.c, m := BitVec.ofBool o.sen ++ o.kv ++ o.ty, x := o.af ++ o.bs ++ o.j }

def VCvtds.enc (op : BitVec 9) (o : VCvtds) : Raw :=
  { mkRaw op o.sw o.g with d := o.d, a := o.a, b := 0#6 ++ o.pos, m := 6#3 ++ o.ts }

def VBp.enc (op : BitVec 9) (o : VBp) : Raw :=
  { mkRaw op o.sw o.g with d := o.d, a := o.a, m := BitVec.ofBool o.signed ++ 0#3 ++ o.k }

def VBpdot.enc (op : BitVec 9) (o : VBpdot) : Raw :=
  { mkRaw op o.sw o.g with d := o.d, a := o.a, b := o.b, m := BitVec.ofBool o.signed ++ o.m ++ o.k }

def VBpsel.enc (op : BitVec 9) (o : VBpsel) : Raw :=
  { mkRaw op o.sw o.g with d := o.d, a := o.a, b := o.b, m := 0#4 ++ o.k }

def MLd.enc (op : BitVec 9) (o : MLd) : Raw :=
  o.disp.put o.sgn o.wid { mkRaw op o.sw 7#3 with d := o.d, a := o.a, m := o.scope ++ o.ord }

def MSt.enc (op : BitVec 9) (o : MSt) : Raw :=
  o.disp.put false o.wid { mkRaw op o.sw 7#3 with a := o.a, b := o.b, m := o.scope ++ o.ord }

def MVld.enc (op : BitVec 9) (o : MVld) : Raw :=
  o.disp.put o.sgn o.wid { mkRaw op o.sw o.g with d := o.d, a := o.a, m := o.scope ++ o.ord }

def MVst.enc (op : BitVec 9) (o : MVst) : Raw :=
  o.disp.put false o.wid { mkRaw op o.sw o.g with a := o.a, b := o.b, m := o.scope ++ o.ord }

def MPref.enc (op : BitVec 9) (o : MPref) : Raw :=
  o.disp.put false 0#2 { mkRaw op o.sw o.g with a := o.a }

def MAtom.enc (op : BitVec 9) (o : MAtom) : Raw :=
  o.disp.put o.op o.sgn o.wid { mkRaw op o.sw 7#3 with d := o.d, a := o.a, b := o.b, m := o.scope ++ o.ord }

def MCas.enc (op : BitVec 9) (o : MCas) : Raw :=
  o.disp.put 0#8 false o.wid { mkRaw op o.sw 7#3 with d := o.d, a := o.a, b := o.b, c := o.c, m := o.scope ++ o.ord }

def MVatom.enc (op : BitVec 9) (o : MVatom) : Raw :=
  o.disp.put o.op o.sgn o.wid { mkRaw op o.sw o.g with d := o.d, a := o.a, b := o.b, m := o.scope ++ o.ord }

def MVcas.enc (op : BitVec 9) (o : MVcas) : Raw :=
  o.disp.put 0#8 false o.wid { mkRaw op o.sw o.g with d := o.d, a := o.a, b := o.b, c := o.c, m := o.scope ++ o.ord }

def MVscadd.enc (op : BitVec 9) (o : MVscadd) : Raw :=
  o.disp.put o.op false o.wid { mkRaw op o.sw o.g with a := o.a, b := o.b, m := o.scope ++ o.ord }

def MVbin.enc (op : BitVec 9) (o : MVbin) : Raw :=
  o.disp.put 0#8 false 2#2 { mkRaw op o.sw o.g with d := o.d, a := o.a, b := o.b, m := o.scope ++ o.ord }

def MFence.enc (op : BitVec 9) (o : MFence) : Raw :=
  { mkRaw op o.sw 7#3 with m := o.scope ++ o.ord }

def MCache.enc (op : BitVec 9) (o : MCache) : Raw :=
  o.disp.put false 0#2 { mkRaw op o.sw 7#3 with a := o.a, m := o.scope ++ 0#3 }

def MWaitc.enc (op : BitVec 9) (o : MWaitc) : Raw :=
  { mkRaw op o.sw 7#3 with a := o.a, m := 0#3 ++ o.path }

def BSlot.enc (op : BitVec 9) (m : BitVec 6) (o : BSlot) : Raw :=
  { mkRaw op o.sw 7#3 with d := o.d, a := 0#4 ++ o.slot, m := m }

def BGive.enc (op : BitVec 9) (o : BGive) : Raw :=
  { mkRaw op o.sw 7#3 with d := o.d, a := 0#4 ++ o.slot, b := 0#5 ++ o.core, c := 0#4 ++ o.dslot }

def BShare.enc (op : BitVec 9) (o : BShare) : Raw :=
  { mkRaw op o.sw 7#3 with d := o.d, a := 0#4 ++ o.slot, b := o.cmask }

def TwoAB.enc (op : BitVec 9) (o : TwoAB) : Raw :=
  { mkRaw op o.sw 7#3 with a := o.a, b := o.b }

def QCopy.enc (op : BitVec 9) (o : QCopy) : Raw :=
  { mkRaw op false 7#3 with len := 2#2, tail := 0#22 ++ o.n1 ++ 0#12 ++ o.addr }

def QBinit.enc (op : BitVec 9) (o : QBinit) : Raw :=
  { mkRaw op false 7#3 with len := 2#2, tail := 0#12 ++ o.addr ++ o.count }

def QBwait.enc (op : BitVec 9) (o : QBwait) : Raw :=
  { mkRaw op false 7#3 with a := 0#4 ++ o.slot, b := o.off.extractLsb' 8 8, c := o.off.extractLsb' 0 8 }

def GTdset.enc (op : BitVec 9) (o : GTdset) : Raw :=
  o.disp.put false 3#2 { mkRaw op o.sw 7#3 with d := 0#4 ++ o.d, a := o.a }

def QTdset.enc (op : BitVec 9) (o : QTdset) : Raw :=
  { mkRaw op false 7#3 with d := 0#4 ++ o.d, x := 3#11 }.put32 (0#12 ++ o.addr)

def QMma.enc (op : BitVec 9) (o : QMma) : Raw :=
  { mkRaw op false 7#3 with d := 0#5 ++ o.d, a := 0#4 ++ o.a, b := 0#4 ++ o.b, m := 0#3 ++ o.ty }.putExt o.ext

def QAcc.enc (op : BitVec 9) (o : QAcc) : Raw :=
  { mkRaw op false 7#3 with d := 0#5 ++ o.d, a := 0#4 ++ o.a, m := o.m5 ++ o.m2 }.putExt? o.ext

def QAccz.enc (op : BitVec 9) (o : QAccz) : Raw :=
  { mkRaw op false 7#3 with d := 0#5 ++ o.d, m := o.ta ++ 0#3 }.putExt? o.ext

def QWwin.enc (op : BitVec 9) (o : QWwin) : Raw :=
  { mkRaw op false 7#3 with x := o.t }

def QWcfg.enc (op : BitVec 9) (o : QWcfg) : Raw :=
  { mkRaw op false 7#3 with m := 0#5 ++ BitVec.ofBool o.max }

def QWload.enc (op : BitVec 9) (o : QWload) : Raw :=
  match o.rows with
  | none => { mkRaw op false 7#3 with a := 0#4 ++ o.slot, c := barC o.wt }
  | some (r, n) => { mkRaw op false 7#3 with a := 0#4 ++ o.slot, c := barC o.wt }.put32 (0#16 ++ n ++ r)

def QWrow.enc (op : BitVec 9) (o : QWrow) : Raw :=
  if o.short then { mkRaw op false 7#3 with a := 0#4 ++ o.slot, c := barC o.bar, x := 0#3 ++ o.off.extractLsb' 8 8 }
  else { mkRaw op false 7#3 with a := 0#4 ++ o.slot, c := barC o.bar }.put32 (0#16 ++ o.off)

def GEseg.enc (op : BitVec 9) (o : GEseg) : Raw :=
  { mkRaw op o.sw 7#3 with d := o.d }.putK o.cmask o.tid o.size

def GEmitR.enc (op : BitVec 9) (o : GEmitR) : Raw :=
  { mkRaw op o.sw 7#3 with a := o.a }.putK 0#8 0#16 o.n

def GEmitq.enc (op : BitVec 9) (o : GEmitq) : Raw :=
  { mkRaw op o.sw 7#3 with a := o.a, b := 0#5 ++ o.core }

def GEmitqM.enc (op : BitVec 9) (o : GEmitqM) : Raw :=
  { mkRaw op o.sw 7#3 with a := o.a }.putK o.cmask 0#16 o.n

def GEpatch.enc (op : BitVec 9) (o : GEpatch) : Raw :=
  { mkRaw op o.sw 7#3 with a := o.a, b := o.b, c := 0#5 ++ o.fld }.putK 0#8 0#16 o.off

def OneD.enc (op : BitVec 9) (o : OneD) : Raw :=
  { mkRaw op o.sw 7#3 with d := o.d }

def GTgo.enc (op : BitVec 9) (o : GTgo) : Raw :=
  { mkRaw op o.sw 7#3 with d := o.d, a := o.a, b := o.b, c := 0#3 ++ o.team }.putK 0#8 0#16 o.entry

def GEstat.enc (op : BitVec 9) (o : GEstat) : Raw :=
  { mkRaw op o.sw 7#3 with d := o.d, a := 0#6 ++ o.sel }

def SThree.enc (op : BitVec 9) (o : SThree) : Raw :=
  { mkRaw op o.sw 7#3 with d := o.d, a := o.a, b := o.b }

def SSvc.enc (op : BitVec 9) (o : SSvc) : Raw :=
  { mkRaw op o.sw o.g with d := o.d, a := o.a, b := 0#5 ++ o.n, x := o.num }

def SCode.enc (op : BitVec 9) (o : SCode) : Raw :=
  { mkRaw op o.sw 7#3 with x := o.code }

def SGetsr.enc (op : BitVec 9) (o : SGetsr) : Raw :=
  { mkRaw op o.sw 7#3 with d := o.d, x := o.num }

def SSetsr.enc (op : BitVec 9) (o : SSetsr) : Raw :=
  { mkRaw op o.sw 7#3 with a := o.a, x := o.num }

def SGran.enc (op : BitVec 9) (o : SGran) : Raw :=
  { mkRaw op o.sw 7#3 with d := o.d, x := o.n }

/-- The fields of an instruction's word, none for an event (R55 to R67, R75). -/
def encode : Instr → Option Raw
  | .add o => some (o.enc 0x000#9)
  | .sub o => some (o.enc 0x001#9)
  | .mul o => some (o.enc 0x002#9)
  | .mulh o => some (o.enc 0x003#9)
  | .div o => some (o.enc 0x004#9)
  | .rem o => some (o.enc 0x005#9)
  | .abs o => some (o.enc 0x006#9)
  | .min o => some (o.enc 0x007#9)
  | .max o => some (o.enc 0x008#9)
  | .and o => some (o.enc 0x009#9)
  | .or o => some (o.enc 0x00A#9)
  | .xor o => some (o.enc 0x00B#9)
  | .andn o => some (o.enc 0x00C#9)
  | .shl o => some (o.enc 0x00D#9)
  | .shr o => some (o.enc 0x00E#9)
  | .sar o => some (o.enc 0x00F#9)
  | .rotl o => some (o.enc 0x010#9)
  | .popc o => some (o.enc 0x011#9)
  | .clz o => some (o.enc 0x012#9)
  | .ctz o => some (o.enc 0x013#9)
  | .brev o => some (o.enc 0x014#9)
  | .bfx o => some (o.enc 0x015#9)
  | .bfi o => some (o.enc 0x016#9)
  | .cmp o => some (o.enc 0x017#9)
  | .sel o => some (o.enc 0x018#9)
  | .mov o => some (o.enc 0x019#9)
  | .movi o => some (o.enc 0x01A#9)
  | .lea o => some (o.enc 0x01B#9)
  | .leaPc o => some (o.enc 0x01B#9)
  | .b o => some (o.enc 0x040#9)
  | .bz o => some (o.enc 0x041#9)
  | .bnz o => some (o.enc 0x042#9)
  | .bc o => some (o.enc 0x043#9)
  | .call o => some (o.enc 0x044#9)
  | .ret o => some (o.enc 0x045#9)
  | .jmp o => some (o.enc 0x046#9)
  | .loop o => some (o.enc 0x047#9)
  | .skipz o => some (o.enc 0x048#9)
  | .setmask o => some (o.enc 0x049#9)
  | .ballot o => some (o.enc 0x04A#9 0#6)
  | .ballotNz o => some (o.enc 0x04A#9 1#6)
  | .mpop o => some (o.enc 0x04B#9)
  | .mffs o => some (o.enc 0x04C#9)
  | .barArrive o => some (o.enc 0x04D#9 0#6)
  | .barWait o => some (o.enc 0x04D#9 1#6)
  | .barSync o => some (o.enc 0x04D#9 2#6)
  | .yield o => some (o.enc 0x04E#9)
  | .exit o => some (o.enc 0x04F#9)
  | .nop o => some (o.enc 0x050#9)
  | .hint r => some r
  | .vadd o => some (o.enc 0x080#9)
  | .vsub o => some (o.enc 0x081#9)
  | .vmul o => some (o.enc 0x082#9)
  | .vmulh o => some (o.enc 0x083#9)
  | .vmad o => some (o.enc 0x084#9)
  | .vabs o => some (o.enc 0x085#9)
  | .vmin o => some (o.enc 0x086#9)
  | .vmax o => some (o.enc 0x087#9)
  | .vand o => some (o.enc 0x088#9)
  | .vor o => some (o.enc 0x089#9)
  | .vxor o => some (o.enc 0x08A#9)
  | .vandn o => some (o.enc 0x08B#9)
  | .vnot o => some (o.enc 0x08C#9)
  | .vshl o => some (o.enc 0x08D#9)
  | .vshr o => some (o.enc 0x08E#9)
  | .vsar o => some (o.enc 0x08F#9)
  | .vrotl o => some (o.enc 0x090#9)
  | .vpopc o => some (o.enc 0x091#9)
  | .vclz o => some (o.enc 0x092#9)
  | .vctz o => some (o.enc 0x093#9)
  | .vbrev o => some (o.enc 0x094#9)
  | .vbfx o => some (o.enc 0x095#9)
  | .vbfi o => some (o.enc 0x096#9)
  | .vcmp o => some (o.enc 0x097#9)
  | .vsel o => some (o.enc 0x098#9)
  | .vmov o => some (o.enc 0x099#9)
  | .vbcast o => some (o.enc 0x09A#9)
  | .vlane o => some (o.enc 0x09B#9)
  | .vcvt o => some (o.enc 0x09C#9)
  | .vsat o => some (o.enc 0x09D#9)
  | .vshfl o => some (o.enc 0x0A0#9)
  | .vrot o => some (o.enc 0x0A1#9)
  | .vred o => some (o.enc 0x0A2#9)
  | .vredx o => some (o.enc 0x0A3#9)
  | .vscan o => some (o.enc 0x0A4#9)
  | .vextract o => some (o.enc 0x0A5#9)
  | .vinsert o => some (o.enc 0x0A6#9)
  | .vmatch o => some (o.enc 0x0A7#9)
  | .vfadd o => some (o.enc 0x0C0#9)
  | .vfsub o => some (o.enc 0x0C1#9)
  | .vfmul o => some (o.enc 0x0C2#9)
  | .vffma o => some (o.enc 0x0C3#9)
  | .vfdiv o => some (o.enc 0x0CA#9)
  | .vfsqrt o => some (o.enc 0x0C9#9)
  | .vfmin o => some (o.enc 0x0C4#9)
  | .vfmax o => some (o.enc 0x0C5#9)
  | .vfcmp o => some (o.enc 0x0C6#9)
  | .vfrcp o => some (o.enc 0x0C7#9)
  | .vfrsq o => some (o.enc 0x0C8#9)
  | .vfex2 o => some (o.enc 0x0CB#9)
  | .vflg2 o => some (o.enc 0x0CC#9)
  | .vfsin o => some (o.enc 0x0CD#9)
  | .vfcos o => some (o.enc 0x0CE#9)
  | .vfclass o => some (o.enc 0x0D2#9)
  | .vfscale o => some (o.enc 0x0D3#9)
  | .vfrnd o => some (o.enc 0x0D4#9)
  | .vfcvt o => some (o.enc 0x0CF#9)
  | .vfi o => some (o.enc 0x0D0#9)
  | .vif o => some (o.enc 0x0D1#9)
  | .fadd o => some (o.enc 0x0E0#9)
  | .fmul o => some (o.enc 0x0E1#9)
  | .ffma o => some (o.enc 0x0E2#9)
  | .fcvt o => some (o.enc 0x0E3#9)
  | .vdot2 o => some (o.enc 0x100#9)
  | .vdot4 o => some (o.enc 0x101#9)
  | .vdotds o => some (o.enc 0x102#9)
  | .vcvtds o => some (o.enc 0x103#9)
  | .vbpl o => some (o.enc 0x104#9)
  | .vbpu o => some (o.enc 0x105#9)
  | .vbpdot o => some (o.enc 0x106#9)
  | .vbpsel o => some (o.enc 0x107#9)
  | .ld o => some (o.enc 0x140#9)
  | .st o => some (o.enc 0x141#9)
  | .vld o => some (o.enc 0x142#9)
  | .vst o => some (o.enc 0x143#9)
  | .vprefetch o => some (o.enc 0x144#9)
  | .atom o => some (o.enc 0x145#9)
  | .cas o => some (o.enc 0x146#9)
  | .vatom o => some (o.enc 0x147#9)
  | .vcas o => some (o.enc 0x148#9)
  | .vfatom o => some (o.enc 0x149#9)
  | .vscadd o => some (o.enc 0x14A#9)
  | .vbin o => some (o.enc 0x14B#9)
  | .fence o => some (o.enc 0x14C#9)
  | .cinv o => some (o.enc 0x14D#9)
  | .cwb o => some (o.enc 0x14E#9)
  | .marm o => some (o.enc 0x14F#9)
  | .mwait o => some (o.enc 0x150#9)
  | .waitc o => some (o.enc 0x151#9)
  | .balloc o => some (o.enc 0x180#9 0#6)
  | .bfree o => some (o.enc 0x181#9 0#6)
  | .give o => some (o.enc 0x182#9)
  | .take o => some (o.enc 0x183#9 0#6)
  | .takeTest o => some (o.enc 0x183#9 1#6)
  | .bshare o => some (o.enc 0x184#9)
  | .bmap o => some (o.enc 0x185#9 0#6)
  | .bzero o => some (o.enc 0x186#9 0#6)
  | .kick o => some (o.enc 0x188#9)
  | .copy o => some (o.enc 0x189#9)
  | .binit o => some (o.enc 0x18B#9)
  | .bwait o => some (o.enc 0x18A#9)
  | .bwaitQueue o => some (o.enc 0x18A#9)
  | .tdset o => some (o.enc 0x192#9)
  | .tdsetQueue o => some (o.enc 0x192#9)
  | .mma o => some (o.enc 0x18C#9)
  | .mmas o => some (o.enc 0x18D#9)
  | .mmag o => some (o.enc 0x18E#9)
  | .accld o => some (o.enc 0x18F#9)
  | .accst o => some (o.enc 0x190#9)
  | .acczero o => some (o.enc 0x191#9)
  | .wwin o => some (o.enc 0x198#9)
  | .wcfg o => some (o.enc 0x199#9)
  | .wload o => some (o.enc 0x19A#9)
  | .wlaunch o => some (o.enc 0x19B#9)
  | .wcapture o => some (o.enc 0x19C#9)
  | .wreset => some (mkRaw 0x19D#9 false 7#3)
  | .eseg o => some (o.enc 0x1C0#9)
  | .emit o => some (o.enc 0x1C1#9)
  | .emitRegs o => some (o.enc 0x1C1#9)
  | .emitm o => some (o.enc 0x1C2#9)
  | .emitq o => some (o.enc 0x1C3#9)
  | .emitqMulti o => some (o.enc 0x1C3#9)
  | .epatch o => some (o.enc 0x1C4#9)
  | .eseal o => some (o.enc 0x1C5#9)
  | .tgo o => some (o.enc 0x1C6#9)
  | .eprov o => some (o.enc 0x1C7#9)
  | .estat o => some (o.enc 0x1C8#9)
  | .spawn o => some (o.enc 0x1D0#9)
  | .svc o => some (o.enc 0x1D1#9)
  | .strap o => some (o.enc 0x1D2#9)
  | .rfh o => some (o.enc 0x1D3#9)
  | .getsr o => some (o.enc 0x1D4#9)
  | .setsr o => some (o.enc 0x1D5#9)
  | .vgrow o => some (o.enc 0x1D6#9)
  | .vshrink o => some (o.enc 0x1D7#9)
  | .trig o => some (o.enc 0x1D8#9)
  | .dlaunch o => some (o.enc 0x1D9#9)
  | .brk o => some (o.enc 0x1DA#9)
  | _ => none

/-- The places an instruction is valid in (R75); a hint is valid everywhere (R73). -/
def encPlaces (i : Instr) : List Place :=
  match i, encode i with
  | .bwait _, _ => [.team]
  | .bwaitQueue _, _ => [.queue]
  | .tdset _, _ => [.gen]
  | .tdsetQueue _, _ => [.queue]
  | .hint _, _ => [.team, .gen, .queue]
  | _, some r => match opRow r.op.toNat with
    | some row => row.places
    | none => []
  | _, none => []

/-- A word whose LEN and placement are sound, checked in the order of R72, steps 2 to 7 (launch limits are checked as
the instruction issues). -/
def decodeRaw (pl : Place) (r : Raw) : Except DecodeError Instr :=
  if r.len = 3#2 then .error .illegalEncoding
  else if 0x1F8 ≤ r.op.toNat then .ok (.hint r)
  else match opRow r.op.toNat with
    | none => .error .illegalEncoding
    | some row =>
      if pl ∉ row.places then .error .placeViolation
      else if r.len.toNat ∉ row.lens ∧ ¬ (pl = .gen ∧ r.len.toNat ∈ row.gLens) then .error .illegalEncoding
      else match cand pl r with
        | none => .error .illegalEncoding
        | some i =>
          if i.wf = true ∧ encode i = some r ∧ (pl = .queue → r.s = 0#1) then .ok i else .error .illegalField

/-- R57, R69, R70: a word of `n` bytes at address `pc` lies in one 32-byte fetch block and does not end at its byte 28. -/
def placedOk (pc n : Nat) : Bool := decide (pc % 32 + n ≤ 32) && decide (pc % 32 + n ≠ 28)

/-- The word at address `pc` of a code store or the global window, from its 128 bits as they stand there. -/
def decodeAt (pl : Place) (pc : Nat) (w : BitVec 128) : Except DecodeError Instr :=
  let r := Raw.ofBits w
  if r.len = 3#2 ∨ ¬ placedOk pc r.bytes then .error .illegalEncoding else decodeRaw pl r

/-- The number of the 16 bytes at an instruction's address (R5), then the word. -/
def bytesBits (bs : List Byte) : BitVec 128 :=
  BitVec.ofNat 128 (bs.foldr (fun b n => b.toNat + 256 * n) 0)

/-- The bytes of a word, least significant first (R5). -/
def bitsBytes (n : Nat) (w : BitVec 128) : List Byte := (List.range n).map fun i => w.extractLsb' (8 * i) 8

/-- The instruction the decoder reads from the bytes at an address, total on any bytes (R69 to R73). -/
def decodeBytes (pl : Place) (pc : Nat) (bs : List Byte) : Except DecodeError Instr := decodeAt pl pc (bytesBits bs)

/-- The place the host's question is asked in: the first of team, generator and queue that takes the word. -/
def tablePlace (w : BitVec 128) : Place :=
  match opRow (Raw.ofBits w).op.toNat with
  | some row => match row.places with
    | p :: _ => p
    | [] => .team
  | none => .team

/-- The instruction read from a word whose bits are numbered as the opcode table numbers them, at a fetch block's start. -/
def decodeTableWord (_nbits w : Nat) : Option Instr :=
  let b := bitsBytes 16 (BitVec.ofNat 128 w)
  match decodeBytes (tablePlace (BitVec.ofNat 128 w)) 0 b with
  | .ok i => some i
  | .error _ => none

/-- The switch marker of an instruction (R58). -/
def Instr.marked (i : Instr) : Bool :=
  match encode i with
  | some r => r.sw
  | none => false

/-- Bytes of an instruction's word (R55), 0 for an event. -/
def Instr.bytes (i : Instr) : Nat :=
  match encode i with
  | some r => r.bytes
  | none => 0

end Sys2Proof
end

