-- ==== Sys2Proof/Machine/Map.lean ====
section
/-! DEFINITION. Sparse maps in one canonical form: keys strictly rising, no entry equal to the default that an
unlisted key reads as. Registers, basins, code stores, tables and physical memory are all held in this form. -/

namespace Sys2Proof.Machine

/-- The value at key `k`, the default `d` where nothing is listed. -/
def mget {α : Type} (d : α) : SMap α → Nat → α
  | [], _ => d
  | (k', v) :: r, k => if k' = k then v else mget d r k

/-- The map without key `k`. -/
def merase {α : Type} : SMap α → Nat → SMap α
  | [], _ => []
  | (k', v) :: r, k => if k' = k then merase r k else (k', v) :: merase r k

/-- Insert a new key before the first larger one. -/
def mins {α : Type} (k : Nat) (v : α) : SMap α → SMap α
  | [] => [(k, v)]
  | (k', w) :: r => if k < k' then (k, v) :: (k', w) :: r else (k', w) :: mins k v r

/-- Write key `k`; writing the default removes the entry. -/
def mput {α : Type} [DecidableEq α] (d : α) (m : SMap α) (k : Nat) (v : α) : SMap α :=
  if v = d then merase m k else mins k v (merase m k)

/-- The value listed at key `k`, if any. -/
def lget {α : Type} : SMap α → Nat → Option α
  | [], _ => none
  | (k', v) :: r, k => if k' = k then some v else lget r k

/-- List `v` at key `k`. -/
def lset {α : Type} (m : SMap α) (k : Nat) (v : α) : SMap α := mins k v (merase m k)

/-- The first number from `k` upwards that is no key, within `fuel` tries. -/
def freeKey {α : Type} (m : SMap α) (k : Nat) : Nat → Option Nat
  | 0 => none
  | f + 1 => if (lget m k).isSome then freeKey m (k + 1) f else some k

/-- Keep the entries whose key satisfies `f`; every other key reads as the default afterwards. -/
def mkeep {α : Type} (f : Nat → Bool) : SMap α → SMap α
  | [] => []
  | (k, v) :: r => if f k then (k, v) :: mkeep f r else mkeep f r

/-- Write a list of consecutive keys from `k` upwards. -/
def mputs {α : Type} [DecidableEq α] (d : α) (m : SMap α) (k : Nat) : List α → SMap α
  | [] => m
  | v :: vs => mputs d (mput d m k v) (k + 1) vs

/-- The `n` values from key `k` upwards. -/
def mgets {α : Type} (d : α) (m : SMap α) (k : Nat) : Nat → List α
  | 0 => []
  | n + 1 => mget d m k :: mgets d m (k + 1) n

/-- The canonical form: keys strictly rising and no entry equal to the default. -/
def mwf {α : Type} [DecidableEq α] (d : α) : SMap α → Bool
  | [] => true
  | [(_, v)] => decide (v ≠ d)
  | (k, v) :: (k', v') :: r => decide (k < k') && decide (v ≠ d) && mwf d ((k', v') :: r)

/-- The value of little-endian bytes (R5). -/
def leNat : List Byte → Nat
  | [] => 0
  | b :: r => b.toNat + 256 * leNat r

/-- The `n` low bytes of a number, least significant first (R5). -/
def natLe : Nat → Nat → List Byte
  | 0, _ => []
  | n + 1, x => BitVec.ofNat 8 x :: natLe n (x / 256)

/-- The bit field [lo + n - 1 : lo] of a number. -/
def bits (x lo n : Nat) : Nat := x / 2 ^ lo % 2 ^ n

/-- One bit of a number. -/
def bitAt (x n : Nat) : Bool := x / 2 ^ n % 2 == 1

/-- A Boolean as a number. -/
def b2n (b : Bool) : Nat := if b then 1 else 0

/-- Sign extension of the low `n` bits to a 64-bit register. -/
def sext64 (n : Nat) (x : Nat) : W64 := BitVec.ofInt 64 (if x % 2 ^ n < 2 ^ (n - 1) then ((x % 2 ^ n : Nat) : Int) else ((x % 2 ^ n : Nat) : Int) - ((2 ^ n : Nat) : Int))

end Sys2Proof.Machine
end

