-- ==== Sys2Proof/Machine/State.lean ====
section
/-! DEFINITION. The state of the package as plain data: every register, table, queue, buffer and mode bit that the
manual gives it, the reasons a step can stop, and the state right after reset. The keys of the maps:
cluster `64 * die + k` (R308), core `8 * cluster + CORE`, team `256 * core + TEAMID`, generator thread
`16 * cluster + GTHREAD`, router `24 * y + x`, context `16 * partition + c`, virtual interface 1 to 64,
holder of a line `16 * cluster + n` (n = 0 to 7 the L1 of a core, 8 the Stoker data cache), `8192 + slice` for an RDC slice, and
`8256 + cluster` for the home slice of a cluster, whose lines are clean (.e) or changed (.m) against HBM4 (R309). -/

namespace Sys2Proof.Machine

/-! ### Outstanding work of a thread (R19, R192, R260 to R263) -/

/-- Where the value of an access goes: nowhere, s(r), or v(r) (a pair for 8 bytes). -/
inductive Dest where
  | none
  | s (r : Nat)
  | v (r : Nat)
  deriving DecidableEq, Repr

/-- What a memory instruction does at each address (R181 to R190). -/
inductive MemKind where
  | ld
  | st
  | atom (op : Nat)
  | cas
  | scadd (op : Nat)
  | bin
  | cwb
  | cinv
  | marm
  deriving DecidableEq, Repr

/-- Progress of a piece of a lane's access: not translated, translated and checked, sent to an atomic unit, performed with
the value it returns (and whether a poisoned unit was read, R432). -/
inductive LaneStage where
  | fresh
  | checked
  | sent
  | performed (v : W64) (poison : Bool)
  deriving DecidableEq, Repr

/-- What a piece of an access covers: the physical address of each byte with the home that the entry of the first gives (R308; the
cluster plus 1, 0 for an interleaved line), basin bytes, or nothing. -/
inductive Spot where
  | mem (pas : List Nat) (home : Nat)
  | basin (slot n off len : Nat)
  | nothing
  deriving DecidableEq, Repr

/-- One single-copy-atomic piece of a lane's access (R178, R179, R181): its lane, the generic address of the whole access,
the bytes of it that this piece covers, and the operands. -/
structure LaneReq where
  lane : Nat
  addr : W64
  off : Nat
  len : Nat
  b : W64
  c : W64
  stage : LaneStage
  /-- what it covers, once it is translated and checked (R401), and the number of generation changes before that (R402) -/
  spot : Option Spot
  gen : Nat
  /-- the data it stores was read from a poisoned register (R432) -/
  bad : Bool
  deriving DecidableEq, Repr

/-- A memory instruction with the lanes that are not finished. -/
structure MemOp where
  kind : MemKind
  /-- a vector instruction: its lanes are the team's -/
  vec : Bool
  wid : Nat
  sgn : Bool
  scope : Nat
  ord : Nat
  dst : Dest
  lanes : List LaneReq
  /-- `vbin`: NCELL and CAP once they are read (R186). -/
  header : Option (Nat × Nat)
  deriving DecidableEq, Repr

/-- A register write that a variable-latency result makes when it returns. -/
inductive RegWrite where
  | s (r : Nat) (v : W64)
  | v (r lane : Nat) (v : W32)
  deriving DecidableEq, Repr

/-- Progress of a `give` or `bfree`: not begun, or BUSY is set and the slot drains (R200, R201). -/
inductive DrainStage where
  | idle
  | draining
  deriving DecidableEq, Repr

/-- An open segment (R239, R240). -/
structure OpenSeg where
  cmask : Nat
  tid : Nat
  off : Nat
  size : Nat
  emitted : Nat
  starts : List Nat
  lastTag : Nat
  deriving DecidableEq, Repr

/-- The instructions that are performed after they issue (R198, R209, R241 to R247). -/
inductive HeldOp where
  | balloc (d slot : Nat)
  | bfree (d slot : Nat) (stage : DrainStage)
  | give (d slot core dslot : Nat) (stage : DrainStage)
  | takeTest (d slot : Nat)
  | bshare (d slot cmask : Nat)
  | bmap (d slot : Nat)
  /-- the basin, once the first word is cleared (R206) -/
  | bzero (d slot : Nat) (basin : Option Nat)
  | kick (a : W64) (n : Nat)
  | dlaunch (d : Nat) (a : W64) (q : W64)
  | trig
  | spawn (d : Nat) (args : List W64) (pc : W64)
  | eseal (d : Nat) (o : OpenSeg)
  /-- team index, handle, PC and s0 to s7 of the team to start (R243) -/
  | tgo (d team : Nat) (handle pc : W64) (args : List W64)
  | barArrive (n e : Nat)
  /-- a generator's `tdset` with the image it read (R212) -/
  | tdset (d : Nat) (img : BitVec 128)
  /-- a fence (R188): later accesses wait for it as its order says -/
  | fence (scope ord : Nat)
  deriving DecidableEq, Repr

/-- The work of one issued instruction. -/
inductive Work where
  | result (ws : List RegWrite) (flags : BitVec 5)
  | mem (m : MemOp)
  | held (o : HeldOp)
  deriving DecidableEq, Repr

/-- The in-flight counter paths (R86, R192). -/
inductive Path where
  | gl
  | bl
  | st
  | at
  | rq
  deriving DecidableEq, Repr

/-- An issued instruction whose effect is outstanding, and the counters it raised (R192). A finished one stays until
every earlier one on its counters is finished. -/
structure Pend where
  id : Nat
  pc : W64
  prov : Nat
  work : Work
  paths : List Path
  finished : Bool
  deriving DecidableEq, Repr

/-- A monitor: none, armed on a line (PA div 128), triggered (R190). -/
inductive Monitor where
  | none
  | armed (line : Nat)
  | triggered
  deriving DecidableEq, Repr

/-- What teams and generator threads share (R35): PC, s0 to s159, MODE.RM, FPFLAGS, outstanding work, monitor. -/
structure Thread where
  pc : W64
  s : SMap W64
  rm : BitVec 2
  flags : BitVec 5
  pend : List Pend
  mon : Monitor
  /-- GTIME at which it began to wait, and the watchdog period of that wait in µs (R354) -/
  since : Nat
  period : Nat
  /-- poisoned 4-byte words of s0 to s159, 2 r and 2 r + 1 of s(r) (R431, R432) -/
  marks : List Nat
  deriving DecidableEq, Repr

/-- Why a team was switched out (R249, R293, R352, R408). -/
inductive SwitchReason where
  /-- destination pair, the calling lanes in ascending order -/
  | svc (d : Nat) (lanes : List Nat)
  /-- the address of the lowest unfinished faulting lane (R352), and the servicer that SPLIT named when it was raised (R372) -/
  | fault (addr : W64) (host : Bool)
  /-- a pending `vgrow` (destination, granules) or a `bar` wait (barrier) -/
  | stallGrow (d granules : Nat)
  | stallBar (n seen : Nat)
  | inspect
  deriving DecidableEq, Repr

/-- What a parked team or a waiting generator thread waits for (R290). -/
inductive Wait where
  /-- a generator thread's interlock (R58), fence (R342), read of device memory (R236) or patch (R242): the word at PC issues again -/
  | retry
  /-- a team at a switch marker (R261), at full counters (R192), at a fault of its own instruction while an older access may
  still fault (R263), and in `rfh` (R350): the word at PC issues again -/
  | marker
  | counter (paths : List Path)
  | older
  | leave
  /-- the fence among the outstanding work (R188, R290) -/
  | fence (id : Nat)
  /-- a generator thread: room in a flue, or for a segment of that many bytes on the cores named (R238, R239) -/
  | flue
  | eseg (cmask size : Nat)
  | waitc (path : Path) (n : W64)
  /-- a numbered barrier, with the phases it had completed when the wait began (R127) -/
  | bar (n seen : Nat)
  | take (d slot : Nat)
  | mwait (d : Nat) (deadline : W64)
  | bwait (d : Nat) (a : W64)
  | vgrow (d granules : Nat)
  /-- a service call waiting for its results, its release and room in the ring: number, D, A, N (R249) -/
  | svc (num d a n : Nat) (lanes : List Nat)
  /-- a service call whose record is raised, to be saved to the slot that holds its reply area (R249, R366): slot, D, calling lanes,
  and whether the reply is posted -/
  | called (slot d : Nat) (lanes : List Nat) (replied : Bool)
  /-- a team to be saved to a switch-out area (R409) -/
  | saving (why : SwitchReason)
  | exit
  /-- a generator thread waiting for the answer to its fault (R353) -/
  | answer
  deriving DecidableEq, Repr

/-- The states of a team or thread (R243, R289, R290, R356). -/
inductive Status where
  | allocated
  | ready
  | parked (w : Wait)
  | switchedOut (slot : Nat) (why : SwitchReason) (replied : Bool)
  | broken
  | stopped
  | exited
  deriving DecidableEq, Repr

/-- A team (R35). -/
structure Team where
  th : Thread
  status : Status
  /-- the lane-word contexts of its core that it holds, or has left (R366) -/
  place : List Nat
  v : SMap W32
  p : SMap Bool
  vregs : Nat
  words : Nat
  idx : Nat
  blk : Nat
  ctx : Nat
  prio : Nat
  stack : Nat
  mbase : BitVec 8
  hcause : W64
  haddr : W64
  hprov : W64
  hpc : W64
  hmbase : W64
  hmsave : List W64
  /-- partial-completion mask: the lanes the instruction at PC is still to do (R263, R352) -/
  partialMask : Option (List Nat)
  /-- barrier tokens by barrier number (R126) -/
  tokens : SMap Bool
  trig : Bool
  /-- the order of its start (R291, R293) -/
  age : Nat
  /-- boosted, with the order of boosting (R291) -/
  boost : Option Nat
  /-- behind the ready teams of its class since a `yield`, with the order of yielding (R130) -/
  behind : Option Nat
  /-- poisoned words of its vector registers (R431, R432) -/
  vmarks : List Nat
  /-- granules of the `vgrow` that was pending when it stopped (R408) -/
  pvgrow : Nat
  deriving DecidableEq, Repr

/-- An emitting instruction whose words are entering the flues (R236 to R238): the bytes still to enter, read when it issued;
once the first has entered, its tag and the number of its run. -/
structure Emission where
  left : List Byte
  taken : Option (Nat × Nat)
  cmask : Nat
  queue : Bool
  deriving DecidableEq, Repr

/-- A generator thread (R35, R288). -/
structure Gen where
  th : Thread
  status : Status
  blk : Nat
  ctx : Nat
  eseq : Nat
  open? : Option OpenSeg
  /-- the last 1,024 tags with the PC of their emitting instruction, newest first (R244) -/
  tags : List (Nat × W64)
  emitting : Option Emission
  /-- the flues whose room it waits for, with when it began to, plus 1 (R367) -/
  flueWait : SMap Nat
  /-- an `epatch` of a sealed segment in progress: the handle, the cores still to write (R242) -/
  patching : Option (W64 × List Nat)
  /-- the fault the thread waits to have answered, none otherwise (R353) -/
  faulted : Option Nat
  /-- stopped at an instruction boundary by a pre-emption (R296) -/
  frozen : Bool
  /-- its next fetch turn goes to the other threads (R130) -/
  skip : Bool
  deriving DecidableEq, Repr

/-- A bank-map register (R26): MODE 0 empty, 1 private, 2 shared. -/
structure Slot where
  busy : Bool
  owner : Nat
  mode : Nat
  basin : Nat
  deriving DecidableEq, Repr

def Slot.empty : Slot := ⟨false, 0, 0, 0⟩

/-- Where a flue word goes (R238). -/
inductive FlueDest where
  | code (off : Nat)
  | queue
  deriving DecidableEq, Repr

/-- A word with its tag in a flue or an engine queue (R68, R238); `run` numbers the words of one emit. -/
structure Emitted where
  bytes : List Byte
  tag : Nat
  gen : Nat
  blk : Nat
  dest : FlueDest
  run : Nat
  /-- poisoned (R431) -/
  bad : Bool
  deriving DecidableEq, Repr

/-- A copy descriptor (R207). -/
structure CopyDesc where
  src : W64
  dst : W64
  rowlen : Nat
  rows : Nat
  sstride : W32
  dstride : W32
  idx : W64
  glim : Nat
  ben : Bool
  bco : Nat
  kind : Nat
  iw : Bool
  deriving DecidableEq, Repr

/-- A tile descriptor as stored (R32). -/
abbrev TDesc := BitVec 128

/-- A region of a job (R340): rows of `len` bytes from `lo`, `stride` apart, in a basin or the global window; `count` for
the byte-count object that the job only counts down. -/
structure Region where
  basin : Option Nat
  lo : Int
  stride : Int
  rows : Nat
  len : Nat
  count : Bool
  deriving DecidableEq, Repr

/-- What an engine job computes (R208 to R221, R226 to R231). -/
inductive JobKind where
  /-- the bytes still to move, as runs (first byte, length) of the ROWS · ROWLEN bytes, and those moved but not yet counted
  down at BCO -/
  | copy (d : CopyDesc) (left : List (Nat × Nat)) (uncounted : Nat)
  | matrix (i : Instr)
  | accMove (i : Instr)
  | weir (i : Instr)
  deriving DecidableEq, Repr

/-- An engine job that has issued and not completed (R217 to R219, R340). -/
structure Job where
  kind : JobKind
  id : Nat
  /-- the index of a copy's descriptor in its list (R209, R412) -/
  num : Nat
  prov : Nat
  blk : Nat
  ctx : Nat
  reads : List Region
  writes : List Region
  /-- descriptors A and B, read at issue (R212) -/
  da : TDesc
  db : TDesc
  /-- the slots it names, resolved at issue: slot and basin, none for an empty or foreign slot (R29, R340) -/
  slots : List (Nat × Option Nat)
  /-- registers staged from the team, lane by lane (R218) -/
  idx : List W32
  pos : List W32
  scl : List W32
  /-- elements read so far, by element number, plus 1 (R219, R342) -/
  got : SMap Nat
  readDone : Bool
  /-- K steps of a matrix job whose sums stand in the accumulator already (R356, R358) -/
  steps : Nat
  deriving DecidableEq, Repr

/-- Where the head command of a queue stands (R218): not begun, waiting on WBAR, which had completed that many phases when it
arrived. -/
inductive HeadStage where
  | fresh
  | waitBar (n seen : Nat)
  | ready
  deriving DecidableEq, Repr

/-- A core (R35). -/
structure Core where
  bmap : SMap Slot
  code : SMap Byte
  ctag : SMap Nat
  /-- poisoned 4-byte words of the code store (R431) -/
  codeMarks : List Nat
  /-- the context whose handler image stands at the top of the code store, and its bytes (R349) -/
  himg : Option (Nat × Nat)
  flue : List Emitted
  queue : List Emitted
  head : HeadStage
  jobs : List Job
  /-- pending `vgrow` requests, oldest first: team keys (R292) -/
  grow : List Nat
  /-- switched-out teams waiting to return, oldest first (R292, R293) -/
  returning : List Nat
  /-- since when the head command of the queue waits, and the watchdog period in µs (R354) -/
  stamp : Option (Nat × Nat)
  deriving DecidableEq, Repr

/-- A store-buffer entry: sector (PA div 32), bytes by offset, the agents whose stores it holds or who have seen it (R303, R336), the
home that the last store's entry gave (R308), and its poison mark (R432). -/
structure SEntry where
  sector : Nat
  bytes : SMap (Option Byte)
  owners : List Agent
  home : Nat
  bad : Bool
  deriving DecidableEq, Repr

/-- A cistern entry: line (PA div 128), bytes by offset, the core that stored last, draining, CYCLE of the core that opened it
then (R304, R305), the line's home (R308) and its poisoned sectors (R432). -/
structure CEntry where
  line : Nat
  bytes : SMap (Option Byte)
  holder : Nat
  draining : Bool
  opener : Nat
  since : Nat
  home : Nat
  marks : List Nat
  deriving DecidableEq, Repr

/-- The Weir array of a cluster (R223, R224). -/
structure Weir where
  lease : Option Nat
  waiting : List Nat
  w : SMap Byte
  window : Nat
  max : Bool
  rows : List Nat
  cols : List Nat
  out : SMap Byte
  deriving DecidableEq, Repr

/-- A basin's bookkeeping (R199, R200, R287): set aside for a block, allocated, last context, being cleared. -/
structure BInfo where
  blk : Option Nat
  allocated : Bool
  last : Option Nat
  clearing : Bool
  deriving DecidableEq, Repr

def BInfo.free : BInfo := ⟨none, false, none, false⟩

/-- A sealed or open segment of a cluster (R239 to R242). -/
structure Seg where
  launch : Nat
  gen : Nat
  cmask : Nat
  /-- the cores that still hold it (R241) -/
  held : Nat
  tid : Nat
  off : Nat
  size : Nat
  starts : List Nat
  sealed : Bool
  deriving DecidableEq, Repr

/-- A cluster (R4, R297 to R307, R223). -/
structure Cluster where
  basin : SMap Byte
  binfo : SMap BInfo
  cistern : List CEntry
  weir : Weir
  segs : List Seg
  /-- engine arrivals on their way to a barrier: block, barrier (R127, R128) -/
  arrivals : List (Nat × Nat)
  /-- the generator thread that fetched last (R294) -/
  lastFetch : Nat
  deriving DecidableEq, Repr

/-- A numbered barrier (R126): PH, CNT, EXP, and how many phases have completed, by which a waiter knows that its phase has. -/
structure BarSt where
  ph : Bool
  cnt : Nat
  exp : Nat
  flips : Nat
  deriving DecidableEq, Repr

def BarSt.zero : BarSt := ⟨false, 0, 0, 0⟩

/-- A block (R35, R287). -/
structure Block where
  launch : Nat
  ctx : Nat
  cluster : Nat
  gthread : Nat
  cores : List Nat
  blkidx : Nat
  /-- team index to team key, live teams only -/
  teams : SMap Nat
  /-- indices whose team has exited or been released -/
  gone : List Nat
  bars : SMap BarSt
  td : SMap TDesc
  /-- accumulators by (core, register, element) -/
  acc : SMap W32
  /-- basins held of its share -/
  held : Nat
  /-- physical cores on which CODE bytes are reserved for it (R287) -/
  codeRes : List Nat
  /-- poisoned words of its accumulators (R431, R432) -/
  accMarks : List Nat
  deriving DecidableEq, Repr

/-- The cache state of a holder (R312, R318). -/
inductive Moes where
  | i
  | s
  | e
  | o
  | m
  deriving DecidableEq, Repr

/-- Why a teardown runs at a router: for the own at the root, for the parent's inval, for an eviction, for `cinv.sys`, for another
package. -/
inductive TearWhy where
  | own (req : Nat) (path : List (Nat × Nat))
  | parent (port : Nat) (keep : Option Nat)
  | evict
  | cinv (req : Nat)
  /-- for a write by another package (R330) -/
  | tile (pkg : Nat)
  deriving DecidableEq, Repr

/-- A teardown in progress: the links still to answer, one entry for each inval sent, what the answers carried, and whether this router
began it to free a way (R324), whomever it answers in the end (R328). -/
structure Tear where
  why : TearWhy
  wait : List Nat
  data : Bool
  kept : Bool
  evict : Bool
  deriving DecidableEq, Repr

/-- A tree-cache entry (R314): ports 0 N, 1 E, 2 S, 3 W, 4 CL (as ROOT: this router is the root). -/
structure TEntry where
  line : Nat
  root : Nat
  own : Bool
  /-- hop distance by port, 0 no link -/
  links : SMap Nat
  tear : Option Tear
  /-- reads steered through it whose reply has not passed (R316) -/
  pins : Nat
  /-- the way of its set -/
  way : Nat
  /-- its parent has no link to it: it stands for its pins alone -/
  orphan : Bool
  /-- it lies outside the geometry that TCLIM has taken (R329) -/
  outside : Bool
  deriving DecidableEq, Repr

/-- A router (R312 to R330, R429): entries most recently used first. -/
structure Router where
  tree : List TEntry
  setlg : Nat
  ways : Nat
  gated : Bool
  /-- lines and links that answered an inval through a prune: their NOCOPY ack is still to come (R327) -/
  owed : List (Nat × Nat)
  deriving DecidableEq, Repr

/-- What a coherence message is (R313); paths are routers with the port entered (plus 8 where a read was steered, which pins
the entry, R316), newest first. -/
inductive MsgKind where
  /-- `mode` 0 on its way to the home, 1 steered along a link, 2 on its way back from a router or interface that held
  nothing (R325); `c` the length of the path up to the router that first steered it, 0 before (R319); `home` the home router that the
  entry of its access gives (R308, R401) -/
  | read (req mode c : Nat) (path : List (Nat × Nat)) (home : Nat)
  | own (req : Nat) (held : Bool) (path : List (Nat × Nat)) (home : Nat)
  /-- `c` as in the read; `rdc` while an RDC slice on the way is still to take a copy (R310); the poisoned sectors of its data (R432) -/
  | reply (req : Nat) (st : Moes) (path : List (Nat × Nat)) (c : Nat) (rdc : Bool) (marks : List Nat)
  | grant (req : Nat) (data : Bool) (path : List (Nat × Nat))
  | inval (keep : Option Nat)
  | ack (data nocopy kept : Bool)
  | prune (dirty reportsE clears : Bool)
  | cut
  deriving DecidableEq, Repr

/-- A message on its way into router `dest` through port `port` (4: from its cluster interface), or from router `dest` to
its own cluster interface (port 5); `held` when the router keeps it (R319, R325), with the order in which it began to. -/
structure Msg where
  dest : Nat
  port : Nat
  line : Nat
  kind : MsgKind
  held : Bool
  turn : Nat
  deriving DecidableEq, Repr

/-- A write to a tile at the chimney: its line, the package that writes, the packages still to answer (R330). -/
structure TileOp where
  line : Nat
  pkg : Nat
  wait : Nat
  deriving DecidableEq, Repr

/-- An atomic waiting at an atomic unit, 8 × the home router + the bank (R309): the agent and its outstanding work, lane; whether the
packages that share its tile have been asked to give it up (R330). -/
structure AtomReq where
  unit : Nat
  pa : Nat
  who : Agent
  n : Nat
  lane : Nat
  asked : Bool
  deriving DecidableEq, Repr

/-! ### Launches, contexts, partitions (R276 to R296, R370 to R415) -/

/-- A LEVELS entry (R280). -/
structure Level where
  domain : Nat
  scope : Nat
  span : Nat
  deriving DecidableEq, Repr

/-- A RANGES entry (R280). -/
structure Range where
  first : Nat
  last : Nat
  en : Bool
  flt : Bool
  deriving DecidableEq, Repr

/-- A launch record as read (R279, R280). -/
structure Record where
  ver : Nat
  nlvl : Nat
  flags : Nat
  prio : Nat
  trig : Nat
  nteam : Nat
  ncore : Nat
  entry : Nat
  params : Nat
  psize : Nat
  vregs : Nat
  basins : Nat
  accs : Nat
  code : Nat
  stack : Nat
  tdg : Nat
  shape : List (Nat × Nat)
  levels : List Level
  fbase : Nat
  /-- handle and MODE of each declared buffer, use entries joined in (R280, R390) -/
  bufs : List (Nat × Nat)
  ranges : List Range
  deriving DecidableEq, Repr

/-- Where a launch stands: waiting under R390 or R392, dispatched, ended with a state of R393. -/
inductive Phase where
  | waiting
  | reserving
  | running
  | ended (state : Nat)
  deriving DecidableEq, Repr

/-- The queue a launch came from: a VI and queue number, native or v1; device-list entries have no use entries. -/
structure Origin where
  vi : Nat
  q : Nat
  v1 : Bool
  irq : Bool
  deriving DecidableEq, Repr

/-- A launch (R388 to R395). -/
structure Launch where
  rcd : Record
  ctx : Nat
  ser : Nat
  from? : Origin
  crec : W64
  crsize : Nat
  reason : Nat
  phase : Phase
  /-- launches whose retirement it waits for, and the v1 producer whose triggers it waits for (R390, R392) -/
  waits : List Nat
  waitTrig : Option Nat
  /-- undispatched units by die: first and last block -/
  dies : SMap (List (Nat × Nat))
  /-- units handed to a cluster distributor and not started, by cluster: blocks -/
  clusters : SMap (List (Nat × Nat))
  /-- places reserved for a co-resident launch, by cluster (R286) -/
  reserved : SMap Nat
  /-- retired blocks with their die -/
  retired : List (Nat × Nat)
  /-- primary cause of the halt that ended it (R393) -/
  cause : Nat
  /-- its completion record is written, or it has none to write (R393) -/
  recorded : Bool
  deriving DecidableEq, Repr

/-- The context record as read (R406). -/
structure CtxRec where
  cid : Nat
  rsplit : Bool
  gh : Bool
  root : Nat
  hentry : Nat
  ptwin : W64
  ftpva : W64
  savebase : Nat
  savesize : Nat
  swva : W64
  vswva : W64
  swlg : Nat
  himage : W64
  hsize : Nat
  stkva : W64
  stklg : Nat
  deriving DecidableEq, Repr

def CtxRec.zero : CtxRec := ⟨0, false, false, 0, 0, 0, 0, 0, 0, 0, 0, 0, 0, 0, 0, 0⟩

/-- A handle entry: last accepted writer and readers since (R390), launches by key. -/
structure Handle where
  writer : Option Nat
  readers : List Nat
  deriving DecidableEq, Repr

/-- Whose answer a record waits for (R383). -/
inductive RecWho where
  | team (t : Nat)
  | gen (g : Nat)
  | halt (ctx : Nat)
  deriving DecidableEq, Repr

/-- A record of the service path: KIND 0 to 3 with its bytes, for the partition's ring or a host ring. -/
structure SvcRec where
  kind : Nat
  who : RecWho
  bytes : List Byte
  host : Bool
  deriving DecidableEq, Repr

/-- How a context stands (R296, R355 to R358, R411). -/
inductive CtxMode where
  | idle
  | running
  | preempting
  | saved
  | halted
  | debugHalted
  | lost
  deriving DecidableEq, Repr

/-- A cached translation: page (VA div 65,536), physical page, leaf bits [63:48], generation (R400). -/
structure Tlb where
  page : Nat
  frame : Nat
  attrs : Nat
  gen : Nat
  deriving DecidableEq, Repr

/-- A stop record (R412). -/
structure StopRec where
  kind : Nat
  fl : Nat
  cause : Nat
  loc : Nat
  id : Nat
  pc : W64
  gtime : W64
  tag : Nat
  prog : Nat
  done : Nat
  wait : Nat
  deriving DecidableEq, Repr

/-- A basin saved by a pre-emption with a block that waits for service calls (R366, R410): its number and bookkeeping, the slots
that map it by core, and where its entry lies. -/
structure SavedBasin where
  basin : Nat
  info : BInfo
  maps : List (Nat × Nat × Slot)
  entry : Nat
  deriving DecidableEq, Repr

/-- A block saved by a pre-emption (R296, R410): the block and its thread as the device keeps them, its flue words by core,
the team indices to allocate again, its basins, and where its generator entry lies. -/
structure SavedBlock where
  key : Nat
  blk : Block
  gen : Gen
  flue : List (Nat × Emitted)
  teams : List Nat
  basins : List SavedBasin
  entry : Nat
  deriving DecidableEq, Repr

/-- A segment saved by a pre-emption: its cluster, and the tags beside its words and where its bytes lie. -/
structure SavedSeg where
  cluster : Nat
  seg : Seg
  tags : List Nat
  entry : Nat
  deriving DecidableEq, Repr

/-- A context (R405, R406). -/
structure Ctx where
  /-- values a block runs with, and the values the command unit checks with (R406) -/
  run : CtxRec
  acc : CtxRec
  mode : CtxMode
  ser : Nat
  handles : SMap Handle
  slots : List Nat
  stops : List StopRec
  /-- how many of its stop records stand in the save area (R412) -/
  written : Nat
  debugger : Bool
  /-- it was being pre-empted when a debugger halted it (R358) -/
  leaving : Bool
  gen : Nat
  gendone : Nat
  /-- generation changes so far (R402) -/
  genSeq : Nat
  /-- stores still on their way when GEN was last written: holder and line (R402) -/
  genWait : List (Nat × Nat)
  ctxrec : W64
  tlb : List Tlb
  /-- the queue served last (R388) -/
  lastQ : Nat
  /-- pre-emption: GTIME at which it began, its deadline in µs, and whether it expired (R296, R359) -/
  since : Nat
  limit : Nat
  late : Bool
  /-- primary cause of its halt, 0 for none (R355) -/
  cause : Nat
  /-- the record that tells the servicer of error recovery of the halt, raised once the halt is complete (R356) -/
  note : Option SvcRec
  saved : List SavedBlock
  savedSegs : List SavedSeg
  deriving DecidableEq, Repr

def Ctx.zero : Ctx :=
  { run := .zero, acc := .zero, mode := .idle, ser := 0, handles := [], slots := [], stops := [], written := 0, debugger := false, leaving := false
    gen := 0, gendone := 0, genSeq := 0, genWait := [], ctxrec := 0, tlb := [], lastQ := 2047, since := 0
    limit := 0, late := false, cause := 0, note := none, saved := [], savedSegs := [] }

/-- A request or host ring (R381, R382). -/
structure Ring where
  base : W64
  ctx : Nat
  lg : Nat
  pi : Nat
  ci : Nat
  deriving DecidableEq, Repr

def Ring.zero : Ring := ⟨0, 0, 0, 0, 0⟩

/-- A record in a ring that is not answered: VI (0 for the partition's own ring), unit, record. -/
structure Posted where
  vi : Nat
  unit : Nat
  rcd : SvcRec
  deriving DecidableEq, Repr

/-- A partition (R370, R371, R381, R401, R403, R413). -/
structure Part where
  exists_ : Bool
  clusters : List Nat
  pages : List Nat
  ft : Bool
  svc : Bool
  lo : Bool
  ps : Bool
  er : Bool
  wdtime : Nat
  pdeadline : Nat
  ring : Ring
  waiting : List SvcRec
  posted : List Posted
  ftpbase : Nat
  ftplg : Nat
  err0v : Bool
  err0lost : Bool
  err0cause : Nat
  err1loc : Nat
  err1cid : Nat
  err2 : W64
  err3 : Nat
  /-- the co-resident launch that reserves now (R286) -/
  reserving : Option Nat
  deriving DecidableEq, Repr

def Part.zero : Part :=
  { exists_ := false, clusters := [], pages := [], ft := false, svc := false, lo := false, ps := false, er := false
    wdtime := 1000000, pdeadline := 4000, ring := .zero, waiting := [], posted := [], ftpbase := 0, ftplg := 0
    err0v := false, err0lost := false, err0cause := 0, err1loc := 0, err1cid := 0, err2 := 0, err3 := 0, reserving := none }

/-- A SIGNAL that has been taken and is not yet written (R386): its address and value, its context, the launches whose completion
records it waits for, IRQ. -/
structure Signal where
  addr : W64
  value : W64
  ctx : Nat
  after : List Nat
  irq : Bool
  deriving DecidableEq, Repr

/-- A queue of a virtual interface (R385, R387). -/
structure Queue where
  base : W64
  ctx : Nat
  lg : Nat
  fmt : Bool
  en : Bool
  pi : Nat
  ci : Nat
  err : Nat
  /-- launch records enqueued by `dlaunch`, 256 bytes each (R387) -/
  dev : List (List Byte)
  /-- take the next command from the device list (R387) -/
  turn : Bool
  /-- the last v1 launch (R392) and the launches a SIGNAL waits for -/
  lastV1 : Option Nat
  launches : List Nat
  signals : List Signal
  /-- a WAIT that has been read and still holds the queue: its context and its entry (R386) -/
  wait : Option (Nat × List Byte)
  deriving DecidableEq, Repr

def Queue.zero : Queue :=
  { base := 0, ctx := 0, lg := 4, fmt := false, en := false, pi := 0, ci := 0, err := 0, dev := [], turn := false
    lastV1 := none, launches := [], signals := [], wait := none }

/-- A virtual interface (R370, R382, R385). -/
structure VI where
  part : Option Nat
  port0 : Bool
  port1 : Bool
  queues : SMap Queue
  ring : Ring
  deriving DecidableEq, Repr

def VI.zero : VI := ⟨none, false, false, [], .zero⟩

/-- A host port (R368). -/
structure Port where
  up : Bool
  width : Nat
  rate : Nat
  cxl : Nat
  deriving DecidableEq, Repr

/-- An interrupt raised and not yet acknowledged: function (0 for PF0), vector, port (R372 to R374, R386). -/
structure Irq where
  fn : Nat
  vec : Nat
  port : Nat
  deriving DecidableEq, Repr

/-- An endpoint of the messaging engine (R422, R423): its partition and context, its send and receive-buffer rings as lists, the
descriptors sent to another package whose answer is to come; where its completion ring begins in memory, log₂ of its entries, and how many
completions it has had. -/
structure Endpoint where
  part : Nat
  ctx : Nat
  send : List (List Byte)
  bufs : List (W64 × Nat)
  flying : List (List Byte)
  cring : W64
  clg : Nat
  cpi : Nat
  deriving DecidableEq, Repr

/-- A route to a package (R418): V and the mask of fibre pairs. -/
structure Route where
  v : Bool
  mask : Nat
  deriving DecidableEq, Repr

def Route.zero : Route := ⟨false, 0⟩

/-- An aperture entry (R418). -/
structure Aper where
  v : Bool
  w : Bool
  r : Bool
  pkg : Nat
  part : Nat
  first : Nat
  last : Nat
  deriving DecidableEq, Repr

def Aper.zero : Aper := ⟨false, false, false, 0, 0, 0, 0⟩

/-- A firmware image (R438): its version and digest, and the security version that it asks for, 0 for none. -/
structure Image where
  version : Nat
  digest : Nat
  asks : Nat
  deriving DecidableEq, Repr

/-- What the device hands to the outside: values of register reads, memory reads, debug events, SPDM answers. -/
inductive Out where
  | reg (off : Nat) (v : W64)
  /-- bytes of memory, with the sectors of them that are poisoned (R432) -/
  | mem (pa : Nat) (bytes : List Byte) (bad : List Nat)
  | unsupported (port : Nat)
  /-- the state of a host port (R368), with the outcome of the firmware check that PF0 reports (R438) -/
  | port (n : Nat) (up : Bool) (width rate cxl : Nat) (verified : Bool)
  /-- an access fault of a service-pair hart (R377) -/
  | hartFault (die pa : Nat)
  /-- the outcome of a store-conditional of a service-pair hart (R375) -/
  | conditional (die : Nat) (stored : Bool)
  | debug (a : Agent) (code : Nat) (pc : W64) (tag : Nat)
  /-- a measurement, with the certificates of the key that signs it (R439) -/
  | measurement (port index value : Nat) (certs : List Nat)
  /-- the answer to a `put` or a `get` of another package (R422, R423): the package, the tag, the status, the bytes placed, the bytes
  read with their poison -/
  | fabric (pkg tag status placed : Nat) (bytes : List (Byte × Bool))
  deriving DecidableEq, Repr

/-- Device-wide registers and records (R373 to R378, R417, R418, R425, R431 to R439). -/
structure Dev where
  pwrWindow : Nat
  pwrLimit : Nat
  pwrStep : Nat
  pwrAvg : Nat
  pwrCap : Bool
  pwrFloor : Bool
  /-- GTIME of the last evaluation, and the STEP at which the clocks run, which follows within 20 µs (R426) -/
  pwrAt : Nat
  pwrRun : Nat
  rgateEn : Bool
  rgateIdle : Nat
  scrubEn : Bool
  scrubHours : Nat
  errUe : SMap Nat
  errCe : SMap Nat
  isolate : Nat
  rasps : Nat
  diagsel : Nat
  /-- corrected errors of a page set in this scrub pass (R433) -/
  pageCe : SMap Nat
  /-- GTIME at which the scrub pass began (R434) -/
  scrubSince : Nat
  epoch : Nat
  period : Nat
  leaseState : Nat
  holder : Nat
  /-- the port taking over in STATE 0b11, and GTIME of the last renewal -/
  taker : Option Nat
  /-- the port to which a takeover has moved the doorbells and interrupts (R374) -/
  moved : Option Nat
  renewed : Nat
  hbTerm : Nat
  hbCount : Nat
  hbDie : Nat
  /-- how many 10 ms periods have passed without an accepted write (R378) -/
  hbStage : Nat
  /-- from which place behind the leader in ring order the successor is sought (R378) -/
  hbNext : Nat
  /-- GTIME of the last accepted write to HBEAT -/
  hbSince : Nat
  sphealth : Nat
  ports : SMap Port
  irqs : List Irq
  off : List Nat
  spared : List Nat
  lostLinks : List Nat
  failedPairs : List Nat
  fpkg : Nat
  /-- the tables of the chimney dies: FROUTE p of die c by 8c + p, FAPER e by 256c + e (R418) -/
  froute : SMap Route
  faper : SMap Aper
  eps : SMap Endpoint
  images : SMap Image
  /-- images that take effect at the next reset (R438) -/
  staged : SMap Image
  /-- the device's identity key, generated on its first boot, and the chain that certifies it (R439) -/
  identity : Nat
  certs : List Nat
  fuses : Nat
  secver : Nat
  verified : Bool
  out : List Out
  deriving DecidableEq, Repr

/-- A turn still to come: an event of the machine, or the current agent's next word. -/
inductive Turn where
  | issue
  | event (i : Instr)
  deriving DecidableEq, Repr

/-- The package. -/
structure State where
  agenda : List Turn
  cur : Option Agent
  /-- the issue slot that chose the team in turn (R291) -/
  slot : Nat
  free : Nat
  uid : Nat
  gtime : Nat
  /-- thousandths of a cycle that the clocks of the cores, by core, and of the Stokers, by 4,096 + cluster, have counted (R20, R21) -/
  cycles : SMap Nat
  mem : List Host.Cell
  teams : SMap Team
  gens : SMap Gen
  cores : SMap Core
  clusters : SMap Cluster
  sbufs : SMap (List SEntry)
  blocks : SMap Block
  launches : SMap Launch
  ctxs : SMap Ctx
  parts : SMap Part
  vis : SMap VI
  routers : SMap Router
  lines : SMap Moes
  /-- the lines of a holder, the one used last first (R307) -/
  recent : SMap (List Nat)
  /-- home cluster plus 1 of the lines whose page-table entry names a die (R308); 0 for interleaved lines -/
  homes : SMap Nat
  /-- what a home slice holds at bytes whose last writes stand only in a core's copy, or are on their way home (R305, R323, R360) -/
  under : SMap (Option Byte)
  /-- lines of this package of which a host holds a copy under CXL 3.1 (R368) -/
  hostLines : List Nat
  /-- the line that the hart of a service pair has reserved, plus 1, by die (R375) -/
  resv : SMap Nat
  msgs : List Msg
  atomq : List AtomReq
  tiles : SMap Nat
  tileOps : List TileOp
  /-- the package, plus 1, that owns a line of this one (R330) -/
  away : SMap Nat
  /-- poisoned 32-byte sectors of the newest device-scope bytes (R432) -/
  poison : List Nat
  /-- poisoned 4-byte words of basins -/
  bpoison : List Nat
  /-- poisoned sectors of HBM4, beneath what a home slice holds (R309, R431) -/
  hpoison : List Nat
  /-- poisoned sectors of a home slice beneath a dirty copy -/
  umarks : List Nat
  /-- poisoned sectors of clean copies: 16,384 × sector + holder (R431) -/
  cmarks : List Nat
  /-- the sectors of a held line that no request has touched, by 16,384 × line + holder (R307) -/
  unfilled : SMap (List Nat)
  dev : Dev
  deriving DecidableEq, Repr

/-- Why a step stops. -/
inductive Fault where
  /-- raised by every word's meaning when no agent is issuing; `step` never runs a word without one (safe) -/
  | noIssuer
  deriving DecidableEq, Repr

/-- Why an instruction has no meaning. -/
inductive Refusal where
  /-- raised by an arm of `exec` whose instruction is not modelled (safe) -/
  | notModelled (mnemonic : String)
  deriving DecidableEq, Repr

def Thread.zero : Thread := ⟨0, [], 0#2, 0#5, [], .none, 0, 0, []⟩

def Core.zero : Core :=
  { bmap := [], code := [], ctag := [], codeMarks := [], himg := none, flue := [], queue := [], head := .fresh, jobs := [], grow := []
    returning := [], stamp := none }

/-- R223: the array before its first lease. -/
def Weir.zero : Weir :=
  { lease := none, waiting := [], w := [], window := 255, max := false, rows := [], cols := [], out := [] }

def Cluster.zero : Cluster := { basin := [], binfo := [], cistern := [], weir := .zero, segs := [], arrivals := [], lastFetch := 15 }

/-- R329: SETLG 9, WAYS 8. -/
def Router.zero : Router := { tree := [], setlg := 9, ways := 8, gated := false, owed := [] }

/-- The reset values of R373, R376, R417, R418, R425 and R435; every pair healthy, every port down until it trains. -/
def Dev.reset : Dev :=
  { pwrWindow := 10, pwrLimit := 6200, pwrStep := 22, pwrAvg := 0, pwrCap := false, pwrFloor := false, pwrAt := 0, pwrRun := 22
    rgateEn := true, rgateIdle := 4096, scrubEn := true, scrubHours := 24, errUe := [], errCe := [], isolate := 0
    rasps := 0x7FF, diagsel := 0, pageCe := [], scrubSince := 0, epoch := 0, period := 100, leaseState := 0, holder := 0, taker := none, moved := none
    renewed := 0, hbTerm := 1, hbCount := 0, hbDie := 0, hbStage := 0, hbNext := 0, hbSince := 0, sphealth := 0xFF, ports := [], irqs := []
    off := [], spared := [], lostLinks := [], failedPairs := [], fpkg := 0, froute := [], faper := [], eps := []
    images := [], staged := [], identity := Config.identityKey, certs := Config.certChain, fuses := 0, secver := 0, verified := true, out := [] }

/-- The package right after reset: no partition, no context and no work exists (R370, R405). -/
def State.reset : State :=
  { agenda := [], cur := none, slot := 0, free := 0, uid := 0, gtime := 0, cycles := [], mem := [], teams := [], gens := [], cores := []
    clusters := [], sbufs := [], blocks := [], launches := [], ctxs := [], parts := [], vis := [], routers := [], lines := [], recent := [], homes := []
    under := [], hostLines := [], resv := [], msgs := [], atomq := [], tiles := [], tileOps := [], away := []
    poison := [], bpoison := [], hpoison := [], umarks := [], cmarks := [], unfilled := [], dev := .reset }

end Sys2Proof.Machine
end

