-- ==== Sys2Proof/Machine/Ops.lean ====
section
/-! DEFINITION. The named operations over registers, memory and tables that the meanings share: who issues, reading and
writing threads, locations, translation (R396 to R399), steering (R28 to R31, R417), memory bytes, numbered barriers,
halting (R355, R356, R412, R413), taking a fault (R25, R347, R348, R352) and returning from a handler (R252). -/

namespace Sys2Proof.Machine

/-! ### Accessors -/

def State.team? (s : State) (t : Nat) : Option Team := lget s.teams t

def State.setTeam (s : State) (t : Nat) (T : Team) : State := { s with teams := lset s.teams t T }

def State.gen? (s : State) (g : Nat) : Option Gen := lget s.gens g

def State.setGen (s : State) (g : Nat) (G : Gen) : State := { s with gens := lset s.gens g G }

def State.core (s : State) (c : Nat) : Core := mget .zero s.cores c

def State.setCore (s : State) (c : Nat) (C : Core) : State := { s with cores := mput .zero s.cores c C }

def State.cluster (s : State) (c : Nat) : Cluster := mget .zero s.clusters c

def State.setCluster (s : State) (c : Nat) (C : Cluster) : State := { s with clusters := mput .zero s.clusters c C }

def State.block? (s : State) (b : Nat) : Option Block := lget s.blocks b

def State.setBlock (s : State) (b : Nat) (B : Block) : State := { s with blocks := lset s.blocks b B }

def State.launch? (s : State) (l : Nat) : Option Launch := lget s.launches l

def State.setLaunch (s : State) (l : Nat) (L : Launch) : State := { s with launches := lset s.launches l L }

def State.ctx (s : State) (c : Nat) : Ctx := mget .zero s.ctxs c

def State.setCtx (s : State) (c : Nat) (C : Ctx) : State := { s with ctxs := mput .zero s.ctxs c C }

def State.part (s : State) (p : Nat) : Part := mget .zero s.parts p

def State.setPart (s : State) (p : Nat) (P : Part) : State := { s with parts := mput .zero s.parts p P }

def State.vi (s : State) (v : Nat) : VI := mget .zero s.vis v

def State.setVi (s : State) (v : Nat) (V : VI) : State := { s with vis := mput .zero s.vis v V }

def State.router (s : State) (r : Nat) : Router := mget .zero s.routers r

def State.setRouter (s : State) (r : Nat) (R : Router) : State := { s with routers := mput .zero s.routers r R }

def State.sbuf (s : State) (k : Nat) : List SEntry := mget [] s.sbufs k

def State.setSbuf (s : State) (k : Nat) (l : List SEntry) : State := { s with sbufs := mput [] s.sbufs k l }

def VI.queue (v : VI) (q : Nat) : Queue := mget .zero v.queues q

def VI.setQueue (v : VI) (q : Nat) (Q : Queue) : VI := { v with queues := mput .zero v.queues q Q }

/-- The state of line `l` at holder `h` (R312). -/
def State.line (s : State) (h l : Nat) : Moes := mget .i s.lines (l * 16384 + h)

def State.setLine (s : State) (h l : Nat) (x : Moes) : State := { s with lines := mput .i s.lines (l * 16384 + h) x }

/-- An identifier no launch, block, job or outstanding instruction has had. -/
def State.fresh (s : State) : State := { s with uid := s.uid + 1 }

/-- A free choice of the device (R8). -/
def State.choice (s : State) : Nat := Config.pick s.free

/-- The counter of free values advanced past the choice made. -/
def State.chosen (s : State) : State := { s with free := s.free + 1 }

/-- Hand a value to the outside. -/
def State.emitOut (s : State) (o : Out) : State := { s with dev := { s.dev with out := s.dev.out ++ [o] } }

/-! ### Keys and locations -/

/-- The cluster, core and TEAMID of a team key. -/
def teamCore (t : Nat) : Nat := t / 256

def teamCluster (t : Nat) : Nat := t / 2048

def coreCluster (c : Nat) : Nat := c / 8

/-- The key of a core's store buffer and L1 (R303, R307). -/
def coreHolder (c : Nat) : Nat := 16 * (c / 8) + c % 8

/-- The key of a Stoker's store buffer and data cache (R307). -/
def stokerHolder (cl : Nat) : Nat := 16 * cl + 8

/-- Grid column and row, in dies, of a compute die (R2). -/
def dieCol (d : Nat) : Nat := [0, 1, 2, 2, 2, 1, 0, 0].getD d 0

def dieRow (d : Nat) : Nat := [0, 0, 0, 1, 2, 2, 2, 1].getD d 0

/-- Router coordinates of a cluster (R2, R308). -/
def clusterX (cl : Nat) : Nat := 8 * dieCol (cl / 64) + cl % 64 % 8

def clusterY (cl : Nat) : Nat := 8 * dieRow (cl / 64) + cl % 64 / 8

def clusterRouter (cl : Nat) : Nat := 24 * clusterY cl + clusterX cl

/-- CORELOC (R24). -/
def coreloc (cl n : Nat) : Nat := (cl / 64) * 8192 + clusterY cl * 256 + clusterX cl * 8 + n

/-- The partition of a context key. -/
def ctxPart (c : Nat) : Nat := c / 16

/-- The context identifier that OWNER holds (R26, R406). -/
def State.cid (s : State) (ctx : Nat) : Nat := (s.ctx ctx).run.cid

/-! ### Threads -/

/-- The thread of a team or generator. -/
def State.thread? (s : State) : Agent → Option Thread
  | .team t => (s.team? t).map (·.th)
  | .gen g => (s.gen? g).map (·.th)
  | .queue _ => none

def State.setThread (s : State) (a : Agent) (th : Thread) : State :=
  match a with
  | .team t => match s.team? t with
    | some T => s.setTeam t { T with th := th }
    | none => s
  | .gen g => match s.gen? g with
    | some G => s.setGen g { G with th := th }
    | none => s
  | .queue _ => s

def State.status? (s : State) : Agent → Option Status
  | .team t => (s.team? t).map (·.status)
  | .gen g => (s.gen? g).map (·.status)
  | .queue _ => none

def State.setStatus (s : State) (a : Agent) (st : Status) : State :=
  match a with
  | .team t => match s.team? t with
    | some T => s.setTeam t { T with status := st }
    | none => s
  | .gen g => match s.gen? g with
    | some G => s.setGen g { G with status := st }
    | none => s
  | .queue _ => s

/-- The context an agent runs for. -/
def State.agentCtx? (s : State) : Agent → Option Nat
  | .team t => (s.team? t).map (·.ctx)
  | .gen g => (s.gen? g).map (·.ctx)
  | .queue c => match (s.core c).queue with
    | e :: _ => (s.block? e.blk).map (·.ctx)
    | [] => none

/-- The block an agent belongs to. -/
def State.agentBlk? (s : State) : Agent → Option Nat
  | .team t => (s.team? t).map (·.blk)
  | .gen g => (s.gen? g).map (·.blk)
  | .queue c => match (s.core c).queue with
    | e :: _ => some e.blk
    | [] => none

/-- The cluster of an agent. -/
def agentCluster : Agent → Nat
  | .team t => t / 2048
  | .gen g => g / 16
  | .queue c => c / 8

/-- The store buffer and cache an agent's accesses go through (R303, R307). -/
def agentHolder : Agent → Nat
  | .team t => coreHolder (t / 256)
  | .gen g => stokerHolder (g / 16)
  | .queue c => coreHolder c

/-- LOC of a record (R249, R412): CORELOC of the core, or of the cluster. -/
def agentLoc : Agent → Nat
  | .team t => coreloc (t / 2048) (t / 256 % 8)
  | .gen g => coreloc (g / 16) 0
  | .queue c => coreloc (c / 8) (c % 8)

/-- s(r): R9 gives 0 to a register never written. -/
def Thread.rd (th : Thread) (r : Nat) : W64 := mget 0 th.s r

/-- Write s(r): it is poisoned no more (R432). -/
def Thread.wr (th : Thread) (r : Nat) (v : W64) : Thread :=
  { th with s := mput 0 th.s r v, marks := th.marks.filter fun w => decide (w / 2 ≠ r) }

/-- Write consecutive registers from `r`. -/
def Thread.wrs (th : Thread) (r : Nat) (vs : List W64) : Thread :=
  { th with s := mputs 0 th.s r vs, marks := th.marks.filter fun w => !(decide (r ≤ w / 2) && decide (w / 2 < r + vs.length)) }

/-- One of the first `n` words from s(r) on is poisoned (R432). -/
def Thread.poisoned (th : Thread) (r n : Nat) : Bool := th.marks.any fun w => decide (2 * r ≤ w) && decide (w < 2 * r + n)

/-- The PC moves past a word of `n` bytes (R57). -/
def Thread.adv (th : Thread) (n : Nat) : Thread := { th with pc := th.pc + BitVec.ofNat 64 n }

/-- R23: raised flags are ORed in. -/
def Thread.orFlags (th : Thread) (f : BitVec 5) : Thread := { th with flags := th.flags ||| f }

/-- Apply a change to the thread of an agent. -/
def State.onThread (s : State) (a : Agent) (f : Thread → Thread) : State :=
  match s.thread? a with
  | some th => s.setThread a (f th)
  | none => s

/-- s(r) of an agent's thread. -/
def State.rdS (s : State) (a : Agent) (r : Nat) : W64 :=
  match s.thread? a with
  | some th => th.rd r
  | none => 0

/-- The provenance tag that stands beside the word at an address of a code store (R68, R71). -/
def State.tagAt (s : State) (core : Nat) (pc : W64) : Nat := mget 0 (s.core core).ctag (pc.toNat / 4)

/-- The provenance of the word an agent stands at. -/
def State.prov (s : State) : Agent → Nat
  | .team t => match s.team? t with
    | some T => s.tagAt (t / 256) T.th.pc
    | none => 0
  | .gen g => match s.gen? g with
    | some G => G.eseq
    | none => 0
  | .queue c => match (s.core c).queue with
    | e :: _ => e.tag
    | [] => 0

/-- The PC an agent reports (R412): 0 for an engine. -/
def State.agentPc (s : State) (a : Agent) : W64 :=
  match s.thread? a with
  | some th => th.pc
  | none => 0

/-! ### Memory by physical address -/

/-- The byte of device memory; a byte nothing has written reads 0. -/
def State.mem8 (s : State) (pa : Nat) : Byte := mget 0 s.mem pa

/-- The canonical form of the list of memory cells: addresses rise strictly, no listed byte is 0. -/
def Memory.wf (m : List Host.Cell) : Bool := mwf 0 m

/-- Bytes of device memory at device scope. -/
def State.memRd (s : State) (pa n : Nat) : List Byte := mgets 0 s.mem pa n

/-- Bytes cover a whole sector. -/
def coversSector (pa n q : Nat) : Bool := decide (pa ≤ 32 * q) && decide (32 * q + 32 ≤ pa + n)

/-- Perform bytes at device scope. A sector wholly written loses its poison (R432). -/
def State.memWr (s : State) (pa : Nat) (bs : List Byte) : State :=
  { s with
    mem := mputs 0 s.mem pa bs
    poison := s.poison.filter fun q => !coversSector pa bs.length q
    cmarks := s.cmarks.filter fun k => !coversSector pa bs.length (k / 16384) }

/-- A sector of these bytes is poisoned (R432). -/
def State.poisoned (s : State) (pa n : Nat) : Bool := s.poison.any fun q => decide (pa < 32 * q + 32) && decide (32 * q < pa + n)

/-- R417: the physical addresses that exist; `own` is FPKG. -/
def paOk (own pa : Nat) : Bool :=
  if pa / 2 ^ 47 % 2 = 0 then decide (pa < 3 * 2 ^ 39)
  else decide (pa < 2 ^ 48) && decide (bits pa 44 3 ≠ own) && decide (bits pa 41 3 = 0) && decide (bits pa 0 41 < 3 * 2 ^ 39)

/-- The address is memory of another package (R417). -/
def paRemote (pa : Nat) : Bool := bitAt pa 47

/-- The chimney that serves the tile of an address (R416). -/
def chimneyOf (pa : Nat) : Nat := pa / 4096 % 4

/-- FROUTE p of chimney die c (R418). -/
def State.route (s : State) (c p : Nat) : Route := mget .zero s.dev.froute (8 * c + p)

/-- The aperture gives a partition access to a package, to write or to read (R418). -/
def Aper.opens (f : Aper) (pkg part : Nat) (write : Bool) : Bool :=
  f.v && decide (f.pkg = pkg) && decide (f.part = part) && (if write then f.w else f.r)

/-- The aperture names a page set. -/
def Aper.covers (f : Aper) (ps : Nat) : Bool := decide (f.first ≤ ps) && decide (ps ≤ f.last)

/-- A valid aperture of chimney die c permits a partition's access to a page set of a package (R419). -/
def State.aperture (s : State) (c part pkg ps : Nat) (write : Bool) : Bool :=
  s.dev.faper.any fun e => decide (e.1 / 256 = c) && e.2.opens pkg part write && e.2.covers ps

/-- The route has a fibre pair left (R421). -/
def State.routeUp (s : State) (r : Route) : Bool := (List.range 32).any fun i => bitAt r.mask i && !s.dev.failedPairs.contains i

/-- R419: the tables of the chimney that serves the tile permit the remote access. The outcome is a cause of R346, 0 when permitted. -/
def State.remoteCause (s : State) (part pa : Nat) (write : Bool) : Nat :=
  let c := chimneyOf pa
  let p := bits pa 44 3
  if (s.route c p).v && s.aperture c part p (bits pa 30 11) write then (if s.routeUp (s.route c p) then 0 else 0xF) else 3

/-- CYCLE of a core, or of the Stoker of cluster k by 4,096 + k (R20, R21). -/
def State.cycle (s : State) (k : Nat) : Nat := mget 0 s.cycles k / 1000

/-! ### Translation (R396 to R402) -/

/-- What an access needs of its leaf (R398). -/
inductive Access where
  | read
  | write
  | rmw
  | fetch
  deriving DecidableEq, Repr

/-- An entry that R399 calls malformed, by level; the leaf fields of a pointer are not among its cases. -/
def entryBad (level2 : Bool) (e : Nat) : Bool :=
  let kind := bits e 60 2
  decide (kind = 3) || decide (bits e 48 3 ≠ 0) || (level2 && decide (kind ≠ 2)) ||
    (bitAt e 63 && decide (bits e 0 (if kind = 0 then 21 else if kind = 1 then 9 else if level2 then 16 else 34) ≠ 0))

/-- A present split pointer that R397 calls malformed. -/
def splitBad (p : Nat) : Bool := bitAt p 63 && (decide (bits p 48 15 ≠ 0) || decide (bits p 0 15 ≠ 0))

/-- The home cluster of a line (R308) by what its page-table entry gives: a cluster plus 1, or 0 for an interleaved line. -/
def homeAt (line : Nat) : Nat → Nat
  | 0 => 64 * (128 * line / 4096 % 512 / 64) + 128 * line / 4096 % 512 % 64
  | k + 1 => k % 512

/-- A line of this package is homed on a die that is off (R436). -/
def State.homeOff (s : State) (line : Nat) : Bool := s.dev.off.contains (homeAt line (mget 0 s.homes line) / 64)

/-- An 8-byte entry read at device scope for a partition: an address that does not exist is cause 0x0002, a remote one is checked by R419,
a lost home die is 0x000F (R436), poison 0x000D. -/
def State.entry (s : State) (part pa : Nat) : Except Nat Nat :=
  if paOk s.dev.fpkg pa = false then .error 2
  else if paRemote pa && decide (s.remoteCause part pa false ≠ 0) then .error (s.remoteCause part pa false)
  else if !paRemote pa && s.homeOff (pa / 128) then .error 0xF
  else if s.poisoned pa 8 then .error 0xD
  else .ok (leNat (s.memRd pa 8))

/-- The sub-node a split pointer names (R396, R397). -/
def State.splitPtr (s : State) (part pa : Nat) : Except Nat Nat := do
  let p ← s.entry part pa
  if bitAt p 63 = false then throw 4
  if splitBad p then throw 2
  return bits p 0 48

/-- The walk of R396: the physical address of the 64 KiB page and the leaf that maps it. -/
def State.walk (s : State) (part root : Nat) (rsplit : Bool) (va : Nat) : Except Nat (Nat × Nat) := do
  let e1 ← if rsplit then do
      let a ← s.splitPtr part (root + 8 * bits va 46 6)
      s.entry part (a + 8 * bits va 34 12)
    else s.entry part (root + 8 * bits va 34 18)
  if entryBad false e1 then throw 2
  if bitAt e1 63 = false then throw 4
  if bits e1 60 2 = 2 then return (bits e1 34 14 * 2 ^ 34 + bits va 16 18 * 65536, e1)
  let e2 ← if bits e1 60 2 = 0 then s.entry part (bits e1 0 48 + 8 * bits va 16 18)
    else do
      let a ← s.splitPtr part (bits e1 0 48 + 8 * bits va 28 6)
      s.entry part (a + 8 * bits va 16 12)
  if entryBad true e2 then throw 2
  if bitAt e2 63 = false then throw (if bitAt e2 62 then 1 else 4)
  return (bits e2 16 32 * 65536, e2)

/-- R398, R399: the leaf permits the access; `sup` for a team in a handler and the first-touch fill. -/
def leafOk (leaf : Nat) (acc : Access) (sup : Bool) : Bool :=
  (match acc with
   | .read => bitAt leaf 59
   | .write => bitAt leaf 58
   | .rmw => bitAt leaf 59 && bitAt leaf 58
   | .fetch => bitAt leaf 57) && (sup || !bitAt leaf 56)

/-- The home die and cluster of a line (R308). -/
def homeDie (leaf pa : Nat) : Nat := if bitAt leaf 55 then bits leaf 52 3 else pa / 4096 % 512 / 64

def homeCluster (leaf pa : Nat) : Nat :=
  if bitAt leaf 55 then 64 * bits leaf 52 3 + pa / 256 % 64 else 64 * (pa / 4096 % 512 / 64) + pa / 4096 % 512 % 64

/-- The record a context's tables are taken from: as read at the CTXREC write until the context first runs (R406). -/
def Ctx.tables (c : Ctx) : CtxRec := if c.mode = .idle then c.acc else c.run

/-- The page and leaf of an access: a cached translation of the current generation or a walk, the device choosing where
both exist (R400, R401). -/
def State.pageOf (s : State) (ctx va : Nat) : Except Nat (Nat × Nat) :=
  let c := s.ctx ctx
  match c.tlb.filter fun e => decide (e.page = va / 65536) && decide (e.gen = c.gen) with
  | [] => s.walk (ctxPart ctx) c.tables.root c.tables.rsplit va
  | es => match es[s.choice % (es.length + 1)]? with
    | some e => .ok (e.frame, e.attrs)
    | none => s.walk (ctxPart ctx) c.tables.root c.tables.rsplit va

/-- The page set of an address of this package is another partition's (R370, R440). -/
def State.othersPage (s : State) (part pa : Nat) : Bool := s.parts.any fun q => decide (q.1 ≠ part) && q.2.pages.contains (pa / 2 ^ 30)

/-- Translate one byte of the global window, with its permission and steering checks (R398, R399, R417, R419, R436). A leaf that names
another partition's page set permits nothing: what keeps partitions apart by R440 is not stated (DESIGN CHOICE, log entry 95). -/
def State.translate (s : State) (ctx va : Nat) (acc : Access) (sup : Bool) : Except Nat (Nat × Nat) := do
  let (page, leaf) ← s.pageOf ctx va
  if leafOk leaf acc sup = false then throw 3
  let pa := page + va % 65536
  if paOk s.dev.fpkg pa = false then throw 2
  if paRemote pa then
    let c := s.remoteCause (ctxPart ctx) pa (acc = .write || acc = .rmw)
    if c ≠ 0 then throw c
  else if s.othersPage (ctxPart ctx) pa then throw 3
  else if s.dev.off.contains (homeDie leaf pa) then throw 0xF
  return (pa, leaf)

/-- A present leaf is cached with the current generation (R400). -/
def State.cacheLeaf (s : State) (ctx va page leaf : Nat) : State :=
  let c := s.ctx ctx
  let e : Tlb := ⟨va / 65536, page, leaf, c.gen⟩
  if c.tlb.contains e then s else s.setCtx ctx { c with tlb := e :: c.tlb }

/-- The translation that an access or fetch takes in state `s₀` is cached (R400). -/
def State.cacheVa (s₀ s : State) (ctx va : Nat) : State :=
  match s₀.pageOf ctx va with
  | .ok (page, leaf) => s.cacheLeaf ctx va page leaf
  | .error _ => s

/-! ### Steering (R28 to R31) -/

/-- The apertures of R28. -/
inductive Aperture where
  | global (va : Nat)
  | basin (slot off : Nat)
  | stack (off : Nat)
  | bad
  deriving DecidableEq, Repr

def steer (g : W64) : Aperture :=
  if g.toNat / 2 ^ 52 = 0 then .global g.toNat
  else if g.toNat / 2 ^ 20 = 0xFFE00000000 then .basin (bits g.toNat 16 4) (g.toNat % 65536)
  else if g.toNat / 2 ^ 52 = 0xFFF ∧ bits g.toNat 32 20 = 0 then .stack (g.toNat % 2 ^ 32)
  else .bad

/-- The global virtual address of byte `o` of lane `l`'s stack (R30, R31). -/
def stackVa (stkva : W64) (stklg t words l o : Nat) : Nat :=
  (stkva.toNat + (256 * (512 * (t / 2048 / 64) + 8 * (t / 2048 % 64) + t / 256 % 8) + t % 256) * 2 ^ stklg +
    (o / 4) * 4 * (32 * words) + 4 * l + o % 4) % 2 ^ 64

/-- A bank-map slot of a core (R26). -/
def Core.slot (c : Core) (n : Nat) : Slot := mget .empty c.bmap n

def Core.setSlot (c : Core) (n : Nat) (v : Slot) : Core := { c with bmap := mput .empty c.bmap n v }

/-- The BMAP value of a slot (R26). -/
def Slot.value (v : Slot) : Nat := b2n v.busy * 2 ^ 20 + v.owner * 256 + v.mode * 32 + v.basin

/-- The basin a slot maps for a context: empty and foreign slots are the detached-basin fault of R29. -/
def State.slotBasin (s : State) (core slot ctx : Nat) : Except Nat Nat :=
  let v := (s.core core).slot slot
  if v.mode = 0 ∨ v.owner ≠ s.cid ctx then .error 5 else .ok v.basin

/-- A byte of a basin. -/
def State.basin8 (s : State) (cl basin off : Nat) : Byte := mget 0 (s.cluster cl).basin (basin * 65536 + off % 65536)

def State.basinRd (s : State) (cl basin off n : Nat) : List Byte := (List.range n).map fun i => s.basin8 cl basin (off + i)

/-- Bytes of a basin that do not pass its end are performed (R297); words wholly written lose their poison (R432). -/
def State.basinPut (s : State) (cl basin off : Nat) (bs : List Byte) : State :=
  let C := s.cluster cl
  { s.setCluster cl { C with basin := mputs 0 C.basin (basin * 65536 + off) bs } with
    bpoison := s.bpoison.filter fun w =>
      !(decide (cl * 524288 + basin * 16384 + (off + 3) / 4 ≤ w) && decide (4 * w + 4 ≤ 4 * (cl * 524288 + basin * 16384) + off + bs.length)) }

/-- Perform bytes at a basin; past its end they go on at its beginning (R300). -/
def State.basinWr (s : State) (cl basin off : Nat) (bs : List Byte) : State :=
  let k := 65536 - off % 65536
  if bs.length ≤ k then s.basinPut cl basin (off % 65536) bs
  else (s.basinPut cl basin (off % 65536) (bs.take k)).basinPut cl basin 0 (bs.drop k)

/-- A word of these basin bytes is poisoned (R432); words are numbered cluster, basin, offset div 4, and the bytes past the end of the basin
are those at its beginning (R300). -/
def State.basinPoisoned (s : State) (cl basin off n : Nat) : Bool :=
  (List.range n).any fun i => s.bpoison.contains (cl * 524288 + basin * 16384 + (off + i) % 65536 / 4)

/-! ### Execution mask (R15, R17) -/

/-- ⌈W/2⌉ mask registers. -/
def Team.maskRegs (T : Team) : Nat := (T.words + 1) / 2

/-- The mask bit of a lane (R15). -/
def Team.maskBit (T : Team) (l : Nat) : Bool :=
  (T.th.rd (T.mbase.toNat + l / 32 / 2)).getLsbD (32 * (l / 32 % 2) + l % 32)

/-- Where v(r) and p(r) of a lane stand in the maps of a team. -/
def vkey (r l : Nat) : Nat := l * 512 + r

def pkey (r l : Nat) : Nat := l * 8 + r

/-- p(g) of a lane; p7 reads one in every lane (R13). -/
def Team.pred (T : Team) (g l : Nat) : Bool := decide (g = 7) || mget false T.p (pkey g l)

/-- The lanes of the team whose mask bit is one, ascending. -/
def Team.maskLanes (T : Team) : List Nat := (List.range (32 * T.words)).filter T.maskBit

/-- `active(team)` of R15 under guard `g`. A reissued checkpoint is for the lanes that are not finished (R263), whatever the mask set and the
guard hold by now: each is read in one execution or the other (R264; DESIGN CHOICE of the first, log entry 92). -/
def Team.active (T : Team) (g : Nat) : List Nat :=
  (List.range (32 * T.words)).filter fun l =>
    match T.partialMask with
    | some ls => if T.hcause = 0 then ls.contains l else T.maskBit l && T.pred g l
    | none => T.maskBit l && T.pred g l

/-- A mask register value, word `i` of the mask layout of R15, for a set of lanes of a team of `w` lane-words. -/
def maskWord (lanes : List Nat) (i : Nat) : W64 :=
  BitVec.ofNat 64 ((List.range 64).foldr (fun b n => b2n (lanes.contains (64 * i + b)) + 2 * n) 0)

/-- The registers of a mask set (R15). -/
def maskSet (lanes : List Nat) (regs : Nat) : List W64 := (List.range regs).map (maskWord lanes)

/-! ### Numbered barriers (R126, R127) -/

def Block.bar (b : Block) (n : Nat) : BarSt := mget .zero b.bars n

def Block.setBar (b : Block) (n : Nat) (v : BarSt) : Block := { b with bars := mput .zero b.bars n v }

/-- `complete` of R127. -/
def BarSt.complete (b : BarSt) : Nat → BarSt
  | 0 => b
  | f + 1 => if b.exp ≠ 0 ∧ b.exp ≤ b.cnt then BarSt.complete ⟨!b.ph, b.cnt - b.exp, 0, b.flips + 1⟩ f else b

/-- `settle` of R127: none is a barrier count mismatch. -/
def BarSt.settle (b : BarSt) (e : Nat) : Option BarSt :=
  if b.exp = 0 then some { b with exp := e } else if b.exp = e then some b else none

/-- CNT of 0 to 255 after one more arrival (R126). The spec states no count past 255, which engine arrivals reach while EXP is unset:
CNT is then a free value (DESIGN CHOICE, log entry 79). -/
def cntUp (cnt free : Nat) : Nat := if cnt < 255 then cnt + 1 else free % 256

/-- `arrive` after `settle`, or an engine arrival: CNT + 1, then `complete`. -/
def BarSt.arrive (b : BarSt) (free : Nat) : BarSt := BarSt.complete { b with cnt := cntUp b.cnt free } (b.cnt + 257)

/-- An engine arrival at a block's barrier (R127). -/
def State.engineArrive (s : State) (blk n : Nat) : State :=
  match s.block? blk with
  | some b => s.setBlock blk (b.setBar n ((b.bar n).arrive s.choice))
  | none => s

/-! ### Service records and rings (R249, R372, R381 to R383) -/

/-- A record is raised: it waits in the device, in order, for the ring of the servicer that SPLIT chose. -/
def State.raiseRecord (s : State) (p : Nat) (r : SvcRec) : State :=
  let P := s.part p
  s.setPart p { P with waiting := P.waiting ++ [r] }

def zeros (n : Nat) : List Byte := List.replicate n 0

/-- The header and body of a KIND 1 to 3 record (R383). -/
def shortRecord (kind ctx loc unit pc tag addr cause eseq cmask : Nat) : List Byte :=
  natLe 2 (kind * 2048) ++ zeros 2 ++ natLe 4 64 ++ zeros 2 ++ natLe 2 ctx ++ natLe 2 loc ++ natLe 1 unit ++ zeros 1 ++
    natLe 8 pc ++ natLe 4 tag ++ zeros 12 ++ natLe 8 addr ++ natLe 4 cause ++ natLe 4 eseq ++ natLe 1 cmask ++ zeros 7

/-! ### Halting (R355, R356, R412, R413) -/

/-- The engine that runs a queue command, and the accumulator it names: KIND and ID of its stop record (R412). What is neither a
matrix nor a Weir command counts as a copy engine's (DEDUCED, log entry 61). -/
def rawUnit (r : Raw) : Nat × Nat :=
  if 0x18C ≤ r.op.toNat ∧ r.op.toNat ≤ 0x191 then (2, r.d.toNat)
  else if 0x198 ≤ r.op.toNat ∧ r.op.toNat ≤ 0x19D then (4, 0)
  else (3, 0)

/-- The same of an instruction. -/
def engineUnit (i : Instr) : Nat × Nat :=
  match encode i with
  | some r => rawUnit r
  | none => (3, 0)

/-- The same of the word at the head of a queue. -/
def State.headUnit (s : State) (c : Nat) : Nat × Nat :=
  match (s.core c).queue with
  | e :: _ => rawUnit (Raw.ofBits (bytesBits e.bytes))
  | [] => (3, 0)

/-- The stop record of an agent (R412): `cause` 0 when it raised none. -/
def State.stopRecord (s : State) (a : Agent) (cause fl : Nat) : StopRec :=
  { kind := (match a with | .team _ => 1 | .gen _ => 5 | .queue c => (s.headUnit c).1), fl := fl, cause := cause, loc := agentLoc a
    id := (match a with | .team t => t % 256 | .gen g => g % 16 | .queue c => (s.headUnit c).2), pc := s.agentPc a
    gtime := BitVec.ofNat 64 s.gtime, tag := s.prov a
    prog := (match a with
      | .gen g => ((List.range 8).map fun c => (((s.core (8 * (g / 16) + c)).flue.filter fun e => decide (e.gen = g % 16)).length)).sum
      | _ => 0)
    done := 0, wait := 0 }

/-- A lane's access has left its core for an atomic unit. -/
def Pend.sent (p : Pend) : Bool :=
  match p.work with
  | .mem m => m.lanes.any fun l => decide (l.stage = .sent)
  | _ => false

/-- Orders that are acquires (R61, R177). -/
def acqOrd (o : Nat) : Bool := decide (o = 1) || decide (o = 3) || decide (o = 4)

/-- R262: everything but loads, prefetches and monitors is held. -/
def MemKind.isLoad : MemKind → Bool
  | .ld | .marm => true
  | _ => false

/-- An item still has a lane that is not translated and checked. -/
def Pend.unchecked (p : Pend) : Bool :=
  match p.work with
  | .mem m => m.lanes.any fun l => decide (l.stage = .fresh)
  | _ => false

/-- The count word of a lane's cell lies beyond the basin (R186). -/
def MemOp.binBad (m : MemOp) (l : LaneReq) : Bool :=
  match m.header, steer l.addr with
  | some (ncell, _), .basin _ off => decide (l.b.toNat % 2 ^ 32 < ncell) && decide (65536 < off + 12 + 4 * (l.b.toNat % 2 ^ 32))
  | _, _ => false

/-- A `vbin` whose count words are not known to lie in the basin: NCELL is not read, or one lies beyond it (R186). -/
def MemOp.binOpen (m : MemOp) : Bool := decide (m.kind = .bin) && (m.header.isNone || m.lanes.any m.binBad)

/-- An access of the item may still fault: a lane is not checked, a count word of a `vbin` is not (R186), or the launch record of a
`dlaunch` is not read (R247, R262). -/
def Pend.mayFault (p : Pend) : Bool :=
  !p.finished && (p.unchecked || (match p.work with
    | .mem m => m.binOpen
    | .held (.dlaunch _ _ _) => true
    | _ => false))

/-- The accesses of a stopped thread that are no longer held (R262, R263, R356): those that are sent, and the stores and atomics
that are checked with everything before them and wait for no fence, acquire or zeroing. -/
def goneOut : List Pend → List Pend
  | [] => []
  | p :: r =>
    if p.finished then goneOut r
    else match p.work with
      | .mem m =>
        if p.sent then p :: goneOut r
        else if p.unchecked || (m.kind.isLoad && acqOrd m.ord) then r.filter Pend.sent
        else if m.kind.isLoad then goneOut r else p :: goneOut r
      | .held (.fence _ _) | .held (.bzero _ _ _) => r.filter Pend.sent
      | _ => goneOut r

/-- A stopped thread keeps only the accesses that have left it; they are still performed (R356). -/
def Thread.discard (th : Thread) : Thread := { th with pend := goneOut th.pend }

/-- An agent stops: nothing more of it issues (R356). The jobs and words of an engine stand until their stop is recorded. -/
def State.stopAgent (s : State) (a : Agent) : State :=
  match a with
  | .queue _ => s
  | _ => (s.onThread a Thread.discard).setStatus a .stopped

/-- The halt line rises (R355): the context is halted, the first cause goes into the error record unless that still holds
one (R413), and the servicer of error recovery that SPLIT names now (R372) is to be told once the halt is complete (R356). -/
def State.haltLine (s : State) (ctx cause loc tag : Nat) : State :=
  let c := s.ctx ctx
  if c.mode = .halted ∨ c.mode = .lost then s
  else
    let p := ctxPart ctx
    let P := s.part p
    if cause = 0 then s.setCtx ctx { c with mode := .halted, cause := 0 }
    else
      let s := s.setCtx ctx { c with
        mode := .halted, cause := cause, note := some ⟨3, .halt ctx, shortRecord 3 c.run.cid loc 0 0 0 0 cause 0 0, P.er⟩ }
      if P.err0v then s else s.setPart p { P with
        err0v := true, err0lost := false, err0cause := cause, err1loc := loc, err1cid := c.run.cid
        err2 := BitVec.ofNat 64 s.gtime, err3 := tag }

/-- Agents of the context act (R355 to R358): it is neither halted, by a cause or a debugger, nor lost. -/
def State.ctxRuns (s : State) (ctx : Nat) : Bool :=
  match (s.ctx ctx).mode with
  | .halted | .debugHalted | .lost => false
  | _ => true

/-- A fatal cause of an agent (R355, R356, R412): the halt line, its stop record, and it stops. A later cause is
secondary. -/
def State.fatal (s : State) (a : Agent) (cause : Nat) : State :=
  match s.agentCtx? a with
  | none => s
  | some ctx =>
    let sec := if (s.ctx ctx).mode = .halted then 1 else 0
    let r := s.stopRecord a cause sec
    let s := s.haltLine ctx cause (agentLoc a) r.tag
    let s := s.setCtx ctx { s.ctx ctx with stops := (s.ctx ctx).stops ++ [r] }
    s.stopAgent a

/-- A fatal fault of an engine job or command of a core (R220, R347): it carries the command's provenance. -/
def State.engineStop (s : State) (core ctx prov cause : Nat) (r : StopRec) : State :=
  let r : StopRec := { r with cause := cause, fl := if (s.ctx ctx).mode = .halted then 1 else 0, tag := prov, pc := 0 }
  let s := s.haltLine ctx cause (agentLoc (.queue core)) prov
  s.setCtx ctx { s.ctx ctx with stops := (s.ctx ctx).stops ++ [r] }

/-- The command at the head of a core's queue faults at its issue (R220). -/
def State.engineFault (s : State) (core ctx prov cause : Nat) : State :=
  s.engineStop core ctx prov cause (s.stopRecord (.queue core) cause 0)

/-! ### Taking a fault and returning (R25, R251, R252, R347, R348, R352, R353) -/

/-- A team enters the supervisor handler (R25, R348): the handler registers, the mask of the faulting lanes, the PC. -/
def Team.enterHandler (T : Team) (cause haddr tag : Nat) (lanes : List Nat) (hentry : Nat) : Team :=
  { T with
    hcause := BitVec.ofNat 64 cause
    haddr := BitVec.ofNat 64 haddr
    hprov := BitVec.ofNat 64 tag
    hpc := T.th.pc
    hmbase := T.mbase.setWidth 64
    hmsave := mgets 0 T.th.s T.mbase.toNat T.maskRegs
    th := { T.th.wrs T.mbase.toNat (maskSet lanes T.maskRegs) with
      pc := BitVec.ofNat 64 hentry
      mon := if T.th.mon = .none then .none else .triggered }
    status := .ready }

/-- The pool of a partition holds a frame: PUT > TAKE (R403). -/
def State.poolHas (s : State) (p : Nat) : Bool :=
  let P := s.part p
  decide (P.ftplg ≠ 0) && decide (leNat (s.memRd P.ftpbase 8) < leNat (s.memRd (P.ftpbase + 8) 8))

/-- A team takes a fault at its checkpoint, where its PC stands (R263, R347): a fault inside a handler is the nested
fault 0x0011; cause 0x0001 and straps enter the handler or switch the team out; everything else is fatal. -/
def State.teamFault (s : State) (t cause haddr : Nat) (lanes : List Nat) : State :=
  match s.team? t with
  | none => s
  | some T =>
    let tag := s.tagAt (t / 256) T.th.pc
    let p := ctxPart T.ctx
    let hentry := (s.ctx T.ctx).run.hentry
    if T.hcause ≠ 0 then s.fatal (.team t) 0x11
    else if cause = 1 then
      if (s.part p).ft || !s.poolHas p then s.setTeam t { T with status := .parked (.saving (.fault (BitVec.ofNat 64 haddr) (s.part p).ft)) }
      else if hentry = 0 then s.fatal (.team t) 1
      else s.setTeam t (T.enterHandler 1 haddr tag lanes hentry)
    else if 0x10000 ≤ cause then
      if hentry = 0 then s.fatal (.team t) cause else s.setTeam t (T.enterHandler cause 0 tag lanes hentry)
    else s.fatal (.team t) cause

/-- A generator fault (R353): the thread stops before the instruction; its record goes to the servicer, or the context
halts with cause 0x0012 and a stop record of the original cause, secondary after a halt (R355). -/
def State.genFault (s : State) (g cause : Nat) : State :=
  match s.gen? g with
  | none => s
  | some G =>
    let c := s.ctx G.ctx
    if c.run.gh then
      let s := s.setGen g { G with status := .parked .answer, faulted := some cause }
      s.raiseRecord (ctxPart G.ctx) ⟨2, .gen g, shortRecord 2 c.run.cid (coreloc (g / 16) 0) (g % 16) G.th.pc.toNat 0 0 cause G.eseq
        (match G.open? with | some o => o.cmask | none => 0), (s.part (ctxPart G.ctx)).er⟩
    else
      let r := s.stopRecord (.gen g) cause (if c.mode = .halted then 1 else 0)
      let s := s.haltLine G.ctx 0x12 (agentLoc (.gen g)) r.tag
      let s := s.setCtx G.ctx { s.ctx G.ctx with stops := (s.ctx G.ctx).stops ++ [r] }
      s.stopAgent (.gen g)

/-- The agent's own instruction faults as a whole (R72, R347). A team first waits until its older accesses are translated,
since an older one may be the checkpoint (R263). -/
def State.raise (s : State) (a : Agent) (cause : Nat) : State :=
  match a with
  | .team t => match s.team? t with
    | some T => if T.th.pend.any Pend.mayFault then s.setStatus a (.parked .older) else s.teamFault t cause 0 []
    | none => s
  | .gen g => s.genFault g cause
  | .queue _ => s.fatal a cause

/-- Handler return (R25, R252): the mask set and MBASE come back, the handler registers clear, and the team resumes
after a strap or at the faulting instruction. -/
def Team.leaveHandler (T : Team) : Team :=
  { T with
    th := { T.th.wrs T.hmbase.toNat (T.hmsave.take T.maskRegs) with
      pc := if 0x10000 ≤ T.hcause.toNat then T.hpc + 8 else T.hpc }
    mbase := T.hmbase.setWidth 8
    hcause := 0, haddr := 0, hprov := 0, hpc := 0, hmbase := 0, hmsave := []
    status := .ready }

/-! ### Outstanding work (R19, R192, R261) -/

/-- The path codes of R86. -/
def pathOf : Nat → Path
  | 0 => .gl
  | 1 => .bl
  | 2 => .st
  | 3 => .at
  | _ => .rq

/-- A load goes to the basin window (R192). -/
def LaneReq.inBasin (l : LaneReq) : Bool :=
  match steer l.addr with
  | .basin _ _ => true
  | _ => false

/-- The instruction is complete on a counter (R192). -/
def Pend.completeOn (p : Pend) (path : Path) : Bool :=
  p.finished ||
    (match p.work, path with
     | .mem m, .gl => m.lanes.all (·.inBasin)
     | .mem m, .bl => m.lanes.all (fun l => !l.inBasin)
     | _, _ => false)

/-- The value of an in-flight counter: raises not removed, lowered in issue order (R192). -/
def Thread.counter (th : Thread) (path : Path) : Nat :=
  ((th.pend.filter fun p => p.paths.contains path).dropWhile fun p => p.completeOn path).length

/-- What a switch marker waits for (R261): a result that has not returned, or an access that is not checked. -/
def Pend.marker (p : Pend) : Bool :=
  !p.finished && (match p.work with
    | .result _ _ => true
    | .mem m => decide (m.dst ≠ .none) || m.lanes.any fun l => decide (l.stage = .fresh)
    | .held o => match o with
      | .kick _ _ | .trig | .barArrive _ _ | .tdset _ _ | .fence _ _ => false
      | _ => true)

def Thread.busy (th : Thread) : Bool := th.pend.any Pend.marker

/-- Drop finished work that no counter needs. -/
def Thread.sweep (th : Thread) : Thread :=
  { th with pend := th.pend.filter fun p => !(p.finished && p.paths.all fun path =>
      !(((th.pend.filter fun q => q.paths.contains path).dropWhile fun q => q.completeOn path).any fun q => decide (q.id = p.id))) }

/-- Append issued work to a thread. -/
def Thread.push (th : Thread) (p : Pend) : Thread := { th with pend := th.pend ++ [p] }

/-! ### Issue -/

/-- The limits of R9 and R59 that depend on the launch hold for a V operand: below VREGS, a pair wholly. -/
def Team.vOk (T : Team) (wide : Bool) (r : BitVec 8) : Bool := decide (r.toNat + b2n wide < T.vregs)

/-- The register of a uniform second source (R112). -/
def srcRegs : Src → List Nat
  | .reg b => [b.toNat]
  | _ => []

/-- The uniform registers that a word of the generator place reads or writes, which its interlock compares (R58). `s` is the
thread's registers: the word that `emit` takes from them may reach into s(A + 1) (R236). -/
def Instr.touches (i : Instr) (s : Nat → W64) : List Nat :=
  let pair (a : BitVec 8) : List Nat := if (s a.toNat).toNat % 4 = 0 ∨ (s a.toNat).toNat % 4 = 3 then [a.toNat] else [a.toNat, a.toNat + 1]
  match i with
  | .add o | .sub o | .mul o | .mulh o | .div o | .rem o | .min o | .max o | .and o | .or o | .xor o | .andn o
  | .shl o | .shr o | .sar o => [o.d.toNat, o.a.toNat] ++ srcRegs o.src
  | .rotl o => [o.d.toNat, o.a.toNat] ++ srcRegs o.src
  | .popc o | .clz o | .ctz o | .brev o => [o.d.toNat, o.a.toNat]
  | .abs o => [o.d.toNat, o.a.toNat]
  | .bfx o => [o.d.toNat, o.a.toNat]
  | .bfi o => [o.d.toNat, o.a.toNat, o.b.toNat]
  | .cmp o => [o.d.toNat, o.a.toNat] ++ srcRegs o.src
  | .sel o => [o.d.toNat, o.a.toNat, o.c.toNat] ++ srcRegs o.src
  | .mov o => o.d.toNat :: srcRegs o.src
  | .movi o => [o.d.toNat]
  | .lea o => [o.d.toNat, o.a.toNat]
  | .leaPc o => [o.d.toNat]
  | .bz o | .bnz o | .loop o => [o.a.toNat]
  | .bc o => [o.a.toNat, o.b.toNat]
  | .call o => [o.d.toNat]
  | .ret o | .jmp o => [o.a.toNat]
  | .fadd o | .fmul o => [o.d.toNat, o.a.toNat, o.b.toNat]
  | .ffma o => [o.d.toNat, o.a.toNat, o.b.toNat, o.c.toNat]
  | .fcvt o => [o.d.toNat, o.a.toNat]
  | .ld o | .marm o => [o.d.toNat, o.a.toNat]
  | .st o => [o.a.toNat, o.b.toNat]
  | .atom o => [o.d.toNat, o.a.toNat, o.b.toNat]
  | .cas o => [o.d.toNat, o.a.toNat, o.b.toNat, o.c.toNat]
  | .cinv o | .cwb o => [o.a.toNat]
  | .mwait o | .eprov o => [o.d.toNat, o.a.toNat]
  | .tdset o => [o.a.toNat]
  | .eseg o => [o.d.toNat]
  | .emit o => pair o.a
  | .emitRegs o => (List.range ((o.n.toNat + 7) / 8)).map (o.a.toNat + ·)
  | .emitm o => [o.a.toNat]
  | .emitq o => pair o.a
  | .emitqMulti o => [o.a.toNat]
  | .epatch o => [o.a.toNat, o.b.toNat]
  | .eseal o => [o.d.toNat]
  | .tgo o => [o.d.toNat, o.a.toNat] ++ (List.range 8).map (o.b.toNat + ·)
  | .estat o => [o.d.toNat]
  | .dlaunch o => [o.d.toNat, o.a.toNat, o.b.toNat]
  | .getsr o => [o.d.toNat]
  | .setsr o => [o.a.toNat]
  | _ => []

/-- The uniform registers an outstanding work item will write. -/
def Work.dests : Work → List Nat
  | .result ws _ => ws.filterMap fun w => match w with
      | .s r _ => some r
      | .v _ _ _ => none
  | .mem m => match m.dst with
      | .s r => [r]
      | _ => []
  | .held o => match o with
      | .balloc d _ | .bfree d _ _ | .give d _ _ _ _ | .takeTest d _ | .bshare d _ _ | .bmap d _ | .bzero d _ _
      | .dlaunch d _ _ | .spawn d _ _ | .eseal d _ | .tgo d _ _ _ _ => [d]
      | .kick _ _ | .trig | .barArrive _ _ | .tdset _ _ | .fence _ _ => []

/-- What stands between a word and its issue. -/
inductive Gate where
  | none
  | place
  | limit
  | wait
  | go
  deriving DecidableEq, Repr

/-- The place of an agent (R89). -/
def agentPlace : Agent → Place
  | .team _ => .team
  | .gen _ => .gen
  | .queue _ => .queue

/-- A generator's interlock holds the word (R58): a register that it reads or writes has a result outstanding; and a thread does
not run past an access that may still fault, so that its fault stops it before the instruction (R353). -/
def Thread.interlocked (th : Thread) (i : Instr) : Bool :=
  th.pend.any fun p => p.mayFault || (!p.finished && p.work.dests.any fun r => (Instr.touches i th.rd).contains r)

/-- Whether the word may issue now: the switch marker (R58, R261), then, as it issues, its place (R72 step 4), its launch limits
(step 7), and the generator's interlock (R58). -/
def State.gate (s : State) (i : Instr) (lim : Agent → Bool) : Gate :=
  match s.cur with
  | Option.none => .none
  | some a =>
    match s.thread? a, a with
    | some th, _ =>
      if i.marked && th.busy then .wait
      else if agentPlace a ∉ encPlaces i then .place
      else if lim a = false then .limit
      else if decide (agentPlace a = .gen) && th.interlocked i then .wait
      else .go
    | Option.none, .queue _ =>
      if agentPlace a ∉ encPlaces i then .place else if lim a = false then .limit else .go
    | Option.none, _ => .none

/-- A wait begins: its time and the watchdog period it will have (R354, R371). -/
def State.stamp (s : State) (a : Agent) : State :=
  s.onThread a fun th => { th with since := s.gtime, period := (s.part (ctxPart ((s.agentCtx? a).getD 0))).wdtime }

/-- The agent waits for an event (R261, R290). -/
def State.park (s : State) (a : Agent) (w : Wait) : State := (s.stamp a).setStatus a (.parked w)

/-- How a word that may not issue yet waits: a team at a switch marker (R261), a generator thread at its interlock (R58). -/
def agentHold : Agent → Wait
  | .team _ => .marker
  | _ => .retry

/-- Issue a word: the checks of R72 that are left, then its effect. -/
def issue (s : State) (i : Instr) (lim : Agent → Bool) (f : Agent → State → State) : Host.Outcome State Fault Refusal :=
  match s.cur with
  | none => .fault .noIssuer
  | some a =>
    match s.gate i lim with
    | .none => .fault .noIssuer
    | .place => .next (s.raise a 9)
    | .limit => .next (s.raise a 8)
    | .wait => .next (s.park a (agentHold a))
    | .go => .next (f a s)

/-- Issue work whose effect comes later, and move past its word (R19, R260). -/
def State.later (s : State) (a : Agent) (len : Nat) (paths : List Path) (w : Work) : State :=
  let tag := s.prov a
  (s.onThread a fun th => (th.push ⟨s.uid, th.pc, tag, w, paths, false⟩).adv len).fresh

/-- The head command of an engine queue is consumed (R73, R238). -/
def State.popQueue (s : State) (c : Nat) : State :=
  let C := s.core c
  s.setCore c { C with queue := C.queue.tail, head := .fresh, stamp := none }

/-- A word without launch limits. -/
def noLimit : Agent → Bool := fun _ => true

end Sys2Proof.Machine
end

