-- ==== Sys2Proof/Machine/Flags.lean ====
section
/-! DEFINITION. Integer arithmetic of the typed instructions (R12, R98, R113 to R117, R133, R137, R138): exact values,
then one narrowing; conditions (R84); shifts, counts and bit fields. -/

namespace Sys2Proof.Machine

/-- The value of the low n bits under an INT3 type (R61). -/
def tyVal (ty : BitVec 3) (x : Nat) : Int :=
  let n := tyBits ty
  if tySigned ty ∧ 2 ^ (n - 1) ≤ x % 2 ^ n then ((x % 2 ^ n : Nat) : Int) - ((2 ^ n : Nat) : Int) else ((x % 2 ^ n : Nat) : Int)

/-- The smallest and largest values of a type (R98). -/
def tyMin (ty : BitVec 3) : Int := if tySigned ty then -((2 ^ (tyBits ty - 1) : Nat) : Int) else 0

def tyMax (ty : BitVec 3) : Int := ((2 ^ (if tySigned ty then tyBits ty - 1 else tyBits ty) : Nat) : Int) - 1

/-- R98: clamp an exact result. -/
def clamp (ty : BitVec 3) (v : Int) : Int := if v < tyMin ty then tyMin ty else if tyMax ty < v then tyMax ty else v

/-- The n bits of an exact result, modulo 2^n. -/
def wrapN (n : Nat) (v : Int) : Nat := (v % ((2 ^ n : Nat) : Int)).toNat

/-- Extend an n-bit result to `w` bits by the type (R12, R133). -/
def extTo (w : Nat) (ty : BitVec 3) (x : Nat) : BitVec w := BitVec.ofInt w (tyVal ty x)

/-- A condition of R84 on two integers; 6 and 7 are not integer conditions. -/
def condInt (c : BitVec 3) (a b : Int) : Bool :=
  match c.toNat with
  | 0 => decide (a = b)
  | 1 => decide (a ≠ b)
  | 2 => decide (a < b)
  | 3 => decide (a ≤ b)
  | 4 => decide (b < a)
  | 5 => decide (b ≤ a)
  | _ => false

/-- Population count of the low n bits. -/
def popN (n x : Nat) : Nat := ((List.range n).filter fun i => bitAt x i).length

/-- Leading zeros of the low n bits; n for 0. -/
def clzN : Nat → Nat → Nat
  | 0, _ => 0
  | n + 1, x => if bitAt x n then 0 else 1 + clzN n x

/-- Trailing zeros of the low n bits; n for 0. -/
def ctzN : Nat → Nat → Nat
  | 0, _ => 0
  | n + 1, x => if bitAt x 0 then 0 else 1 + ctzN n (x / 2)

/-- The low n bits reversed. -/
def brevN : Nat → Nat → Nat
  | 0, _ => 0
  | n + 1, x => b2n (bitAt x 0) * 2 ^ n + brevN n (x / 2)

/-- The two-source operations, uniform and vector (R115, R137). -/
inductive IOp where
  | add
  | sub
  | mul
  | mulh
  | div
  | rem
  | min
  | max
  | and
  | or
  | xor
  | andn
  | shl
  | shr
  | sar
  | rotl
  deriving DecidableEq, Repr

/-- Quotient of R116. -/
def divN (a b : Int) : Int := if b = 0 then -1 else Int.tdiv a b

/-- Remainder of R116. -/
def remN (a b : Int) : Int := if b = 0 then a else Int.tmod a b

/-- The exact value of an operation on n-bit sources before it is narrowed; counts are read unsigned (R115, R116, R137). -/
def IOp.exact (o : IOp) (ty : BitVec 3) (x y : Nat) : Int :=
  let n := tyBits ty
  let a := tyVal ty x
  let b := tyVal ty y
  let ua := x % 2 ^ n
  let ub := y % 2 ^ n
  match o with
  | .add => a + b
  | .sub => a - b
  | .mul => a * b
  | .mulh => a * b / ((2 ^ n : Nat) : Int)
  | .div => divN a b
  | .rem => remN a b
  | .min => if b < a then b else a
  | .max => if a < b then b else a
  | .and => ((ua &&& ub : Nat) : Int)
  | .or => ((ua ||| ub : Nat) : Int)
  | .xor => ((ua ^^^ ub : Nat) : Int)
  | .andn => ((ua &&& (2 ^ n - 1 - ub) : Nat) : Int)
  | .shl | .shr | .sar | .rotl => 0

/-- Shifts and rotates of an n-bit value by a count (R115, R137). -/
def IOp.shift (o : IOp) (ty : BitVec 3) (x k : Nat) : Int :=
  let n := tyBits ty
  let u := x % 2 ^ n
  match o with
  | .shl => if n ≤ k then 0 else ((u * 2 ^ k : Nat) : Int)
  | .shr => if n ≤ k then 0 else ((u / 2 ^ k : Nat) : Int)
  | .sar => (if 2 ^ (n - 1) ≤ u then ((u : Nat) : Int) - ((2 ^ n : Nat) : Int) else ((u : Nat) : Int)) / ((2 ^ (if n ≤ k then n else k) : Nat) : Int)
  | _ => ((u * 2 ^ (k % n) + u / 2 ^ (n - k % n) : Nat) : Int)

/-- The n-bit result of an operation without saturation. -/
def IOp.run (o : IOp) (ty : BitVec 3) (x y : Nat) : Nat :=
  wrapN (tyBits ty) (match o with
    | .shl | .shr | .sar | .rotl => o.shift ty x (y % 2 ^ tyBits ty)
    | _ => o.exact ty x y)

/-- |a|, with and without `.sat` (R115, R137). -/
def absN (ty : BitVec 3) (sat : Bool) (x : Nat) : Nat :=
  let v := ((tyVal ty x).natAbs : Int)
  wrapN (tyBits ty) (if sat then clamp ty v else v)

/-- `bfx` (R117, R138). -/
def bfxN (ty : BitVec 3) (x pos width : Nat) : Nat :=
  let f := bits x pos width
  wrapN (tyBits ty) (if tySigned ty ∧ bitAt f (width - 1) then ((f : Nat) : Int) - ((2 ^ width : Nat) : Int) else ((f : Nat) : Int))

/-- `bfi` (R117, R138). -/
def bfiN (ty : BitVec 3) (x y pos width : Nat) : Nat :=
  let u := x % 2 ^ tyBits ty
  u % 2 ^ pos + bits y 0 width * 2 ^ pos + u / 2 ^ (pos + width) * 2 ^ (pos + width)

end Sys2Proof.Machine
end

