-- ==== Sys2Proof/Machine/Operands.lean ====
section
/-! DEFINITION. Operand forms: second sources and immediates (R62, R112, R113, R134), displacements (R64), offsets (R119),
lanes of vector registers (R10, R133), and writing results to them. -/

namespace Sys2Proof.Machine

/-! ### Uniform sources -/

/-- The immediate of a uniform word: sign- or zero-extended to 64 bits (R113). -/
def immExt (signed : Bool) {n : Nat} (x : BitVec n) : W64 := if signed then x.signExtend 64 else x.setWidth 64

/-- The second source b of a uniform word (R112, R113). -/
def Thread.src (th : Thread) (signed : Bool) : Src → W64
  | .reg b => th.rd b.toNat
  | .imm11 x => immExt signed x
  | .imm32 x => immExt signed x

/-- Bytes of a word with an `Src` operand. -/
def srcLen : Src → Nat
  | .imm32 _ => 12
  | _ => 8

def vsrcLen : VSrc → Nat
  | .imm _ => 12
  | .reg _ => 8

def offLen : Off → Nat
  | .i11 _ => 8
  | .i32 _ => 12

def dispLen : Disp → Nat
  | .d8 _ => 8
  | .d32 _ => 12

def adispLen : ADisp → Nat
  | .none => 8
  | .d32 _ => 12

def immLen : Imm → Nat
  | .i11 _ => 8
  | .i32 _ => 12
  | .i64 _ => 16

/-- A signed offset or immediate (R118, R119, R143). -/
def offInt : Off → Int
  | .i11 x => x.toInt
  | .i32 x => x.toInt

/-- An unsigned lane number (R147). -/
def offNat : Off → Nat
  | .i11 x => x.toNat
  | .i32 x => x.toNat

/-- The displacement of an access (R64). -/
def dispVal : Disp → W64
  | .d8 x => x.signExtend 64
  | .d32 x => x.signExtend 64

def adispVal : ADisp → W64
  | .none => 0
  | .d32 x => x.signExtend 64

/-! ### Vector registers -/

/-- v(r) of a lane. -/
def Team.vr (T : Team) (r l : Nat) : W32 := mget 0 T.v (vkey r l)

/-- A 32-bit or 64-bit lane value: a pair holds the low half in the even register (R10). -/
def Team.vrd (T : Team) (wide : Bool) (r l : Nat) : Nat :=
  if wide then (T.vr r l).toNat + 2 ^ 32 * (T.vr (r + 1) l).toNat else (T.vr r l).toNat

/-- Write v(r) of a lane. -/
def Team.vw (T : Team) (r l : Nat) (x : W32) : Team := { T with v := mput 0 T.v (vkey r l) x, vmarks := T.vmarks.filter fun k => decide (k ≠ vkey r l) }

/-- Write a lane value of either width. -/
def Team.vwr (T : Team) (wide : Bool) (r l x : Nat) : Team :=
  if wide then (T.vw r l (BitVec.ofNat 32 x)).vw (r + 1) l (BitVec.ofNat 32 (x / 2 ^ 32)) else T.vw r l (BitVec.ofNat 32 x)

/-- Write an n-bit typed result, extended into the lane (R133). -/
def Team.vwt (T : Team) (ty : BitVec 3) (r l x : Nat) : Team :=
  T.vwr (tyWide ty) r l ((extTo 64 ty x).toNat)

/-- Write a predicate bit; p7 is not written (R13). -/
def Team.pw (T : Team) (r l : Nat) (b : Bool) : Team :=
  if r = 7 then T else { T with p := mput false T.p (pkey r l) b }

/-- Apply a lane function to every lane of a list, in order. -/
def Team.eachLane (T : Team) (ls : List Nat) (f : Team → Nat → Team) : Team := ls.foldl f T

/-- The second source of a vector word in a lane (R134): an immediate is extended by the type and cut to n bits. -/
def Team.vsrc (T : Team) (ty : BitVec 3) (l : Nat) : VSrc → Nat
  | .reg b => T.vrd (tyWide ty) b.toNat l
  | .imm x => (immExt (tySigned ty) x).toNat

/-- A shift count: a 32-bit register or I32 read unsigned (R134, R136). -/
def Team.vcount (T : Team) (l : Nat) : VSrc → Nat
  | .reg b => (T.vr b.toNat l).toNat
  | .imm x => x.toNat

/-- The 64-bit address pair of a lane (R175). -/
def Team.vaddr (T : Team) (r l : Nat) : W64 := BitVec.ofNat 64 (T.vrd true r l)

/-- The launch limit of a V source (R9). -/
def Team.vsrcOk (T : Team) (wide : Bool) : VSrc → Bool
  | .reg b => T.vOk wide b
  | .imm _ => true

/-- A limit on the issuing team; a generator has no vector registers. -/
def State.teamLim (s : State) (f : Team → Bool) : Agent → Bool
  | .team t => match s.team? t with
    | some T => f T
    | none => true
  | _ => true

/-- Apply a change to the issuing team. -/
def State.onTeam (s : State) (a : Agent) (f : Team → Team) : State :=
  match a with
  | .team t => match s.team? t with
    | some T => s.setTeam t (f T)
    | none => s
  | _ => s

/-- The team's PC moves past a word, and a replay of it is over (R263). -/
def Team.adv (T : Team) (n : Nat) : Team :=
  { T with th := T.th.adv n, partialMask := if T.hcause = 0 then none else T.partialMask }

end Sys2Proof.Machine
end

