-- ==== Sys2Proof/Machine/Control.lean ====
section
/-! DEFINITION. Control transfers, masks, barriers, `yield`, `exit`, `nop` and hints (R119 to R132, R73). -/

namespace Sys2Proof.Machine

/-- The address lies in a sealed segment that the context holds on the core, or in its handler segment (R120, R349). -/
def State.inSealed (s : State) (core ctx pc : Nat) : Bool :=
  decide (pc < 196608) &&
    (((s.cluster (core / 8)).segs.any fun g => g.sealed && bitAt g.held (core % 8) && decide (g.off ≤ pc) && decide (pc < g.off + g.size) &&
        (match s.launch? g.launch with
         | some L => decide (L.ctx = ctx)
         | none => false)) ||
      (s.core core).himg.any fun x => decide (x.1 = ctx) && decide (196608 - x.2 ≤ pc))

/-- R71, R120: whether a transfer of an agent may go to a target. A generator's target is checked as it is fetched. -/
def State.targetOk (s : State) (a : Agent) (t : W64) : Bool :=
  decide (t.toNat % 4 = 0) && decide (t.toNat % 32 ≠ 28) &&
    (match a with
     | .team k => match s.team? k with
       | some T => s.inSealed (k / 256) T.ctx t.toNat
       | none => false
     | _ => true)

/-- A transfer: the invalid-target fault of R71 and R120 at the instruction, or the change `f` and the new PC. -/
def State.goTo (s : State) (a : Agent) (t : W64) (f : Thread → Thread) : State :=
  if s.targetOk a t then s.onThread a fun th => { f th with pc := t } else s.raise a 0xA

/-- The target of a branch: PC + 4 · offset (R119). -/
def branchTarget (pc : W64) (o : Off) : W64 := pc + BitVec.ofInt 64 (4 * offInt o)

/-- A branch taken under a condition, with a change to the thread either way (R121). -/
def branch (s : State) (i : Instr) (o : Off) (taken : Thread → Bool) (f : Thread → Thread) : Host.Outcome State Fault Refusal :=
  issue s i noLimit fun a s => match s.thread? a with
    | none => s
    | some th => if taken (f th) then s.goTo a (branchTarget th.pc o) f else s.onThread a fun th => (f th).adv (offLen o)

def execB (o : Br) (s : State) : Host.Outcome State Fault Refusal := branch s (.b o) o.off (fun _ => true) id

def execBz (o : BrR) (s : State) : Host.Outcome State Fault Refusal :=
  branch s (.bz o) o.off (fun th => decide (th.rd o.a.toNat = 0)) id

def execBnz (o : BrR) (s : State) : Host.Outcome State Fault Refusal :=
  branch s (.bnz o) o.off (fun th => decide (th.rd o.a.toNat ≠ 0)) id

def execBc (o : Bc) (s : State) : Host.Outcome State Fault Refusal :=
  branch s (.bc o) o.off (fun th => condInt o.cond (tyVal o.ty (th.rd o.a.toNat).toNat) (tyVal o.ty (th.rd o.b.toNat).toNat)) id

/-- R121: s(D) := PC + length of the call. -/
def execCall (o : Call) (s : State) : Host.Outcome State Fault Refusal :=
  branch s (.call o) o.off (fun _ => true) fun th => th.wr o.d.toNat (th.pc + BitVec.ofNat 64 (offLen o.off))

/-- A transfer to s(A). -/
def State.jump (s : State) (a : Agent) (r : Nat) : State := s.goTo a (s.rdS a r) id

def execRet (o : OneA) (s : State) : Host.Outcome State Fault Refusal :=
  issue s (.ret o) noLimit fun a s => s.jump a o.a.toNat

def execJmp (o : OneA) (s : State) : Host.Outcome State Fault Refusal :=
  issue s (.jmp o) noLimit fun a s => s.jump a o.a.toNat

/-- R121: first s(A) := s(A) − 1, taken when the new value is not 0. -/
def execLoop (o : BrR) (s : State) : Host.Outcome State Fault Refusal :=
  branch s (.loop o) o.off (fun th => decide (th.rd o.a.toNat ≠ 0)) fun th => th.wr o.a.toNat (th.rd o.a.toNat - 1)

/-- R125: taken when every bit of the mask set is zero. -/
def execSkipz (o : Br) (s : State) : Host.Outcome State Fault Refusal :=
  issue s (.skipz o) noLimit fun a s => match a with
    | .team t => match s.team? t with
      | some T => if T.maskLanes = [] then s.goTo a (branchTarget T.th.pc o.off) id else s.onThread a fun th => th.adv (offLen o.off)
      | none => s
    | _ => s

/-- A set of ⌈W/2⌉ mask registers from r lies within s0 to s159 (R16, R122 to R124). -/
def Team.setOk (T : Team) (r : BitVec 8) : Bool := decide (r.toNat + T.maskRegs ≤ 160)

/-- R122. -/
def execSetmask (o : OneA) (s : State) : Host.Outcome State Fault Refusal :=
  issue s (.setmask o) (s.teamLim fun T => T.setOk o.a) fun a s => s.onTeam a fun T => { T.adv 8 with mbase := o.a }

/-- R123: the active lanes whose predicate bit is `want`, in the layout of R15. -/
def Team.ballot (T : Team) (want : Bool) (o : Ballot) : Team :=
  { T with th := T.th.wrs o.d.toNat (maskSet ((T.active o.g.toNat).filter fun l => T.pred o.pa.toNat l == want) T.maskRegs) }.adv 8

def execBallot (o : Ballot) (s : State) : Host.Outcome State Fault Refusal :=
  issue s (.ballot o) (s.teamLim fun T => T.setOk o.d) fun a s => s.onTeam a fun T => T.ballot true o

def execBallotNz (o : Ballot) (s : State) : Host.Outcome State Fault Refusal :=
  issue s (.ballotNz o) (s.teamLim fun T => T.setOk o.d) fun a s => s.onTeam a fun T => T.ballot false o

/-- The lanes of a mask-layout set, ascending; the upper half of an odd last register is ignored (R15, R124). -/
def Team.setLanes (T : Team) (r : Nat) : List Nat :=
  (List.range (32 * T.words)).filter fun l => (T.th.rd (r + l / 64)).getLsbD (l % 64)

/-- R124. -/
def execMpop (o : TwoDA) (s : State) : Host.Outcome State Fault Refusal :=
  issue s (.mpop o) (s.teamLim fun T => T.setOk o.a) fun a s => s.onTeam a fun T =>
    { T with th := T.th.wr o.d.toNat (BitVec.ofNat 64 (T.setLanes o.a.toNat).length) }.adv 8

def execMffs (o : TwoDA) (s : State) : Host.Outcome State Fault Refusal :=
  issue s (.mffs o) (s.teamLim fun T => T.setOk o.a) fun a s => s.onTeam a fun T =>
    { T with th := T.th.wr o.d.toNat (match (T.setLanes o.a.toNat).head? with
      | some l => BitVec.ofNat 64 l
      | none => BitVec.allOnes 64) }.adv 8

/-- The team has an arrival on a barrier that is not yet counted. -/
def Thread.arriving (th : Thread) (n : Nat) : Bool :=
  th.pend.any fun p => !p.finished && (match p.work with
    | .held (.barArrive m _) => decide (m = n)
    | _ => false)

/-- R127 `arrive`: the arrival is a release (R129), so it is counted once every earlier access is performed at cluster
scope. -/
def execBarArrive (o : Bar) (s : State) : Host.Outcome State Fault Refusal :=
  issue s (.barArrive o) noLimit fun a s => s.later a 8 [] (.held (.barArrive o.n.toNat o.e.toNat))

/-- R127 `wait`: without a token and without an arrival on its way the team settles and takes the phase, then it parks. Arrivals counted
before may complete the phase at that change: the token is then of the phase they complete (DEDUCED, log entry 94). -/
def State.barWait (s : State) (a : Agent) (n e : Nat) : State :=
  match a with
  | .team t => match s.team? t with
    | some T => match s.block? T.blk with
      | some b =>
        if (lget T.tokens n).isSome || T.th.arriving n then (s.setTeam t (T.adv 8)).park a (.bar n (b.bar n).flips)
        else match (b.bar n).settle e with
          | none => s.raise a 0xB
          | some v => ((s.setBlock T.blk (b.setBar n (v.complete (v.cnt + 257)))).setTeam t { T.adv 8 with tokens := lset T.tokens n v.ph }).park a (.bar n v.flips)
      | none => s
    | none => s
  | _ => s

def execBarWait (o : Bar) (s : State) : Host.Outcome State Fault Refusal :=
  issue s (.barWait o) noLimit fun a s => s.barWait a o.n.toNat o.e.toNat

/-- Phases that a barrier of an agent's block has completed. -/
def State.barFlips (s : State) (a : Agent) (n : Nat) : Nat := (((s.agentBlk? a).bind s.block?).map fun B => (B.bar n).flips).getD 0

/-- R127 `sync`: arrive, then wait. -/
def execBarSync (o : Bar) (s : State) : Host.Outcome State Fault Refusal :=
  issue s (.barSync o) noLimit fun a s =>
    (s.later a 8 [] (.held (.barArrive o.n.toNat o.e.toNat))).park a (.bar o.n.toNat (s.barFlips a o.n.toNat))

/-- R130: a team goes behind the ready teams of its class until it is chosen again (log entry 78), a thread gives its next fetch
turn away; the agent issues nothing more until it is chosen again. -/
def execYield (o : Plain) (s : State) : Host.Outcome State Fault Refusal :=
  issue s (.yield o) noLimit fun a s => match a with
    | .team t => match s.team? t with
      | some T => { (s.setTeam t { T.adv 8 with behind := some s.uid }).fresh with cur := none }
      | none => s
    | .gen g => match s.gen? g with
      | some G => { s.setGen g { G with th := G.th.adv 8, skip := true } with cur := none }
      | none => s
    | .queue _ => s

/-- R131: nothing issues after it; the team retires, the thread ends, once what it started has drained. An `exit` with a
segment open is a generator fault. -/
def execExit (o : Plain) (s : State) : Host.Outcome State Fault Refusal :=
  issue s (.exit o) noLimit fun a s => match a with
    | .gen g => match s.gen? g with
      | some G => if G.open?.isSome then s.raise a 0x13 else s.park a .exit
      | none => s
    | _ => s.park a .exit

/-- R132: nothing but the PC; in a queue the word is consumed. -/
def State.skip (s : State) (a : Agent) (n : Nat) : State :=
  match a with
  | .queue c => s.popQueue c
  | _ => s.onThread a fun th => th.adv n

def execNop (o : Nop) (s : State) : Host.Outcome State Fault Refusal :=
  issue s (.nop o) noLimit fun a s => s.skip a (8 + 4 * o.len.toNat)

/-- R73: a hint executes as `nop` in every place. -/
def execHint (o : Raw) (s : State) : Host.Outcome State Fault Refusal :=
  issue s (.hint o) noLimit fun a s => s.skip a o.bytes

end Sys2Proof.Machine
end

