-- ==== Sys2Proof/Machine/Coherence.lean ====
section
/-! DEFINITION. The sharer trees in the routers (R312 to R329): routing, tree entries, and the meaning of each coherence
message. Values live in State.mem, the newest device-scope bytes; the trees, states and messages decide when an access
may be performed. -/

namespace Sys2Proof.Machine

/-! ### Routers and routes -/

def routerX (r : Nat) : Nat := r % 24

def routerY (r : Nat) : Nat := r / 24

/-- The router lies on the hearth die, so its CL port leads to an RDC slice (R312). -/
def onHearth (r : Nat) : Bool := decide (routerX r / 8 = 1) && decide (routerY r / 8 = 1)

/-- The holder key of the RDC slice at a hearth-die router. -/
def rdcHolder (r : Nat) : Nat := 8192 + 8 * (routerY r - 8) + (routerX r - 8)

/-- The grid place of a router's die. -/
def routerDie (r : Nat) : Nat := 3 * (routerY r / 8) + routerX r / 8

/-- The router at which a holder's CL port lies. -/
def holderRouter (h : Nat) : Nat :=
  if h < 8192 then clusterRouter (h / 16) else 24 * (8 + (h - 8192) / 8) + 8 + (h - 8192) % 8

/-- R416: the attachment router of the tile of a remote address. -/
def attachRouter (pa : Nat) : Nat :=
  let i := 8 + pa / 16384 % 8
  match pa / 4096 % 4 with
  | 0 => i
  | 1 => 24 * i + 23
  | 2 => 24 * 23 + i
  | _ => 24 * i

/-- The router of that home, or the attachment router of a line of another package (R330). -/
def homeOf (line v : Nat) : Nat := if paRemote (128 * line) then attachRouter (128 * line) else clusterRouter (homeAt line v)

/-- The router that is the root of a line's tree, as the entry checked last gives it. -/
def State.homeRouter (s : State) (line : Nat) : Nat := homeOf line (mget 0 s.homes line)

/-- The port towards a router by X then Y (ports 0 N, 1 E, 2 S, 3 W, 4 CL). -/
def xyPort (r home : Nat) : Nat :=
  if routerX r < routerX home then 1 else if routerX home < routerX r then 3
  else if routerY r < routerY home then 2 else if routerY home < routerY r then 0 else 4

/-- The neighbour through a port. -/
def neighbour (r port : Nat) : Nat :=
  match port with
  | 0 => r - 24
  | 1 => r + 1
  | 2 => r + 24
  | _ => r - 1

/-- Send a message out of router `r` through `port`: to the neighbour, or to the cluster interface (port 5). -/
def State.sendOut (s : State) (r port line : Nat) (k : MsgKind) : State :=
  let m : Msg := if port = 4 then ⟨r, 5, line, k, false, 0⟩ else ⟨neighbour r port, (port + 2) % 4, line, k, false, 0⟩
  { s with msgs := s.msgs ++ [m] }

/-- Send a message from a cluster interface into its router. -/
def State.sendIn (s : State) (r line : Nat) (k : MsgKind) : State := { s with msgs := s.msgs ++ [⟨r, 4, line, k, false, 0⟩] }

/-! ### Tree entries (R314 to R316) -/

def Router.entry? (R : Router) (line : Nat) : Option TEntry := R.tree.find? fun e => decide (e.line = line)

/-- The set of a line (R314, R329). -/
def Router.setOf (R : Router) (line : Nat) : Nat := line % 2 ^ R.setlg

def Router.inSet (R : Router) (set : Nat) : List TEntry := R.tree.filter fun e => decide (R.setOf e.line = set)

/-- Replace or add an entry, as the most recently used (R362); a new one takes the lowest free way of its set. -/
def Router.put (R : Router) (e : TEntry) : Router :=
  let way := match R.entry? e.line with
    | some x => x.way
    | none => ((List.range R.ways).find? fun w => (R.inSet (R.setOf e.line)).all fun x => decide (x.way ≠ w)).getD 0
  { R with tree := { e with way := way } :: R.tree.filter fun x => decide (x.line ≠ e.line) }

def Router.drop (R : Router) (line : Nat) : Router := { R with tree := R.tree.filter fun x => decide (x.line ≠ line) }

/-- A way is free for a line that has no entry. -/
def Router.room (R : Router) (line : Nat) : Bool := decide ((R.inSet (R.setOf line)).length < R.ways)

/-- R329: entries outside the geometry are evicted before the router takes any new message. -/
def Router.overfull (R : Router) : Bool := R.tree.any fun e => e.outside

/-- A new message of the tree: a read or an own, but not a read on its way back (R325). -/
def Msg.asks (m : Msg) : Bool :=
  match m.kind with
  | .read _ mode _ _ _ => decide (mode ≠ 2)
  | .own _ _ _ _ => true
  | _ => false

/-- A reply or a grant. -/
def MsgKind.gives : MsgKind → Bool
  | .reply _ _ _ _ _ _ | .grant _ _ _ => true
  | _ => false

/-- A message carries the data of its line (R313). -/
def MsgKind.carries : MsgKind → Bool
  | .reply _ _ _ _ _ _ => true
  | .grant _ data _ => data
  | .ack data _ _ => data
  | .prune dirty _ _ => dirty
  | _ => false

/-! ### Delivery and the entries of a router (R313, R316, R362) -/

/-- R313: message `n` is the next of its channel, and its router is not gated (R429). A held message lets others pass, but a
held reply or grant keeps its order among the messages of its line. What a router keeps aside while it evicts what lies outside its
geometry (R329) is not taken before that is done. -/
def State.deliverable (s : State) (n : Nat) : Option Msg :=
  match s.msgs[n]? with
  | none => none
  | some m =>
    if (s.router m.dest).gated && decide (m.port ≠ 5) then none
    else if (s.router m.dest).overfull && m.asks && m.held then none
    else if (s.msgs.take n).any fun q => decide (q.dest = m.dest) && decide (q.port = m.port) && !m.held &&
        (!q.held || (decide (q.line = m.line) && q.kind.gives)) then none
    else some m

def State.dropMsg (s : State) (n : Nat) : State := { s with msgs := s.msgs.eraseIdx n }

/-- The number of the next message that a router keeps. -/
def State.nextTurn (s : State) : Nat := s.msgs.foldl (fun k m => max k m.turn) 0 + 1

/-- Keep message `n` at its router: a read or an own behind those it already holds (R322, R325), a reply or a grant in its place among
the messages of its channel (R313, R319). -/
def State.holdMsg (s : State) (n : Nat) : State :=
  match s.msgs[n]? with
  | some m =>
    if m.held then s
    else if m.kind.gives then { s with msgs := s.msgs.set n { m with held := true, turn := s.nextTurn } }
    else { s with msgs := s.msgs.eraseIdx n ++ [{ m with held := true, turn := s.nextTurn }] }
  | none => s

/-- A message makes an entry where it is taken: a reply or a grant, a read or an own at its root. -/
def Msg.roots (m : Msg) : Bool :=
  match m.kind with
  | .read _ _ _ _ home | .own _ _ _ home => decide (home = m.dest)
  | k => k.gives

/-- A held message wants a way of a set of its router (R319, R363). -/
def State.wants (s : State) (r set : Nat) (m : Msg) : Bool :=
  m.held && m.roots && decide (m.dest = r) && decide ((s.router r).setOf m.line = set) && ((s.router r).entry? m.line).isNone

/-- The messages that have waited for a way of a set of a router for longer than message `n`. -/
def State.waitsBefore (s : State) (n r set : Nat) : List Msg :=
  s.msgs.filter fun q => s.wants r set q && (match s.msgs[n]? with
    | some m => !m.held || decide (q.turn < m.turn)
    | none => true)

/-- Message `n` finds an entry of its line at its router, or a way for one that no message held before it waits for (R319, R363). -/
def State.canPut (s : State) (n r line : Nat) : Bool :=
  let R := s.router r
  (R.entry? line).isSome ||
    (!R.overfull && decide ((R.inSet (R.setOf line)).length + (s.waitsBefore n r (R.setOf line)).length < R.ways))

/-- Write an entry as a use of it (R362). -/
def State.setEntry (s : State) (r : Nat) (e : TEntry) : State := s.setRouter r ((s.router r).put e)

/-- Write an entry in its place in the order of use. -/
def State.keepEntry (s : State) (r : Nat) (e : TEntry) : State :=
  let R := s.router r
  if (R.entry? e.line).isSome then s.setRouter r { R with tree := R.tree.map fun x => if x.line = e.line then e else x } else s.setEntry r e

/-- R316: an entry without links is dropped, unless TD is set or a steered read pins it. A parent that has a link to it still is told
by a prune (R323): the data or the report of E went up when the last link was pruned. -/
def State.tidyEntry (s : State) (r : Nat) (e : TEntry) : State :=
  if e.links = [] ∧ e.tear = none ∧ e.pins = 0 then
    let s := s.setRouter r ((s.router r).drop e.line)
    if e.root = 4 ∨ e.orphan then s else s.sendOut r e.root e.line (.prune false false true)
  else s.keepEntry r e

/-- The ports of an entry's links in the order N, E, S, W, CL. -/
def TEntry.ports (e : TEntry) : List Nat := e.links.map (·.1)

/-- The link with the smallest distance, leaving out a port; ties in port order (R317). -/
def TEntry.best (e : TEntry) (out : Nat) : Option Nat :=
  ((e.links.filter fun l => decide (l.1 ≠ out)).foldl (fun (b : Option (Nat × Nat)) l =>
    match b with
    | none => some l
    | some x => if l.2 < x.2 then some l else b) none).map (·.1)

def TEntry.new (line root : Nat) : TEntry := ⟨line, root, false, [], none, 0, 0, false, false⟩

/-- The image that DIAGDATA returns (R314). -/
def TEntry.image (e : TEntry) : W64 :=
  BitVec.ofNat 64 (2 ^ 63 + b2n e.tear.isSome * 2 ^ 62 + e.root * 2 ^ 59 + b2n e.own * 2 ^ 58 +
    mget 0 e.links 4 * 2 ^ 53 + mget 0 e.links 3 * 2 ^ 50 + mget 0 e.links 2 * 2 ^ 47 + mget 0 e.links 1 * 2 ^ 44 +
    mget 0 e.links 0 * 2 ^ 41 + e.line % 2 ^ 41)

/-! ### Holders and monitors (R190, R312) -/

/-- The monitor of a thread trips on a line. -/
def Thread.trip (th : Thread) (line : Nat) : Thread := if th.mon = .armed line then { th with mon := .triggered } else th

/-- R190: every monitor on a line that a filter of agents admits is triggered. -/
def State.tripAll (s : State) (line : Nat) (f : Agent → Bool) : State :=
  { s with
    teams := s.teams.map fun p => (p.1, if f (.team p.1) then { p.2 with th := p.2.th.trip line } else p.2)
    gens := s.gens.map fun p => (p.1, if f (.gen p.1) then { p.2 with th := p.2.th.trip line } else p.2) }

/-- What the performing of bytes ends: older values that home slices hold (R360), copies that a host holds (R368), reservations of
service pairs (R375). -/
def State.overwrite (s : State) (pa n : Nat) : State :=
  let out (l : Nat) : Bool := decide (l < pa / 128) || decide ((pa + n + 127) / 128 ≤ l)
  { s with
    under := mkeep (fun k => decide (k < pa) || decide (pa + n ≤ k)) s.under
    hostLines := s.hostLines.filter out
    resv := s.resv.filter fun q => out (q.2 - 1) }

/-- A holder loses a line: its state goes, and monitors armed through it trigger. -/
def State.loseLine (s : State) (h line : Nat) : State :=
  let s := (s.setLine h line .i).tripAll line fun a => decide (agentHolder a = h)
  { s with
    recent := mput [] s.recent h ((mget [] s.recent h).filter fun l => decide (l ≠ line))
    unfilled := merase s.unfilled (line * 16384 + h)
    cmarks := s.cmarks.filter fun k => !(decide (k % 16384 = h) && decide (k / 65536 = line)) }

/-- A holder or home slice uses a line that it has (R307). -/
def State.touch (s : State) (h line : Nat) : State :=
  if s.line h line = .i then s
  else { s with recent := mput [] s.recent h (line :: (mget [] s.recent h).filter fun l => decide (l ≠ line)) }

/-! ### Poison of a line's copies (R431, R432) -/

/-- The key of sector `k` of a line in a holder among the marks of clean copies. -/
def copyKey (h line k : Nat) : Nat := (4 * line + k) * 16384 + h

/-- The sectors of a line that are poisoned where the newest bytes stand. -/
def State.newMarks (s : State) (line : Nat) : List Nat := (List.range 4).filter fun k => s.poison.contains (4 * line + k)

/-- A holder has a sector of a line (R307). -/
def State.filled (s : State) (h line k : Nat) : Bool :=
  decide (s.line h line ≠ .i) && !(mget [] s.unfilled (line * 16384 + h)).contains k

/-- Sector `k` of a holder's copy is poisoned; a changed copy is the newest one. -/
def State.copyBad (s : State) (h line k : Nat) : Bool :=
  match s.line h line with
  | .m | .o => s.poison.contains (4 * line + k)
  | _ => s.cmarks.contains (copyKey h line k)

/-- The poisoned sectors of the data that a holder supplies: a sector that it has not filled comes from behind it. -/
def State.suppliedMarks (s : State) (h line : Nat) : List Nat :=
  (List.range 4).filter fun k => if s.filled h line k then s.copyBad h line k else s.poison.contains (4 * line + k)

/-! ### Home slices (R309, R323, R189) -/

/-- The home slice of a line as a holder. -/
def State.sliceOf (s : State) (line : Nat) : Nat := 8256 + homeAt line (mget 0 s.homes line)

/-- A byte of a sector stands newer in a copy, or on its way home, than in the home slice. -/
def State.covered (s : State) (q : Nat) : Bool := s.under.any fun b => decide (b.1 / 32 = q)

/-- Sector `q` is poisoned in the home slice. -/
def State.sliceBad (s : State) (q : Nat) : Bool := if s.covered q then s.umarks.contains q else s.poison.contains q

/-- The home slice writes a changed line to the memory behind it, its poison with it (R189, R432). -/
def State.backWrite (s : State) (line : Nat) : State :=
  if s.line (s.sliceOf line) line = .m then
    { s.setLine (s.sliceOf line) line .e with
      hpoison := (s.hpoison.filter fun q => decide (q / 4 ≠ line)) ++ ((List.range 4).map (4 * line + ·)).filter s.sliceBad }
  else s

/-- The home slice drops a line: what HBM4 holds of it stands behind the copies. -/
def State.sliceDrop (s : State) (line : Nat) : State :=
  let s := s.backWrite line
  let h := s.sliceOf line
  if s.line h line = .i then s
  else
    let back := s.hpoison.filter fun q => decide (q / 4 = line)
    { s.setLine h line .i with
      recent := mput [] s.recent h ((mget [] s.recent h).filter fun l => decide (l ≠ line))
      poison := (s.poison.filter fun q => decide (q / 4 ≠ line) || s.covered q) ++ back.filter fun q => !s.covered q
      umarks := (s.umarks.filter fun q => decide (q / 4 ≠ line)) ++ back.filter s.covered }

/-- A count of ERRCNT raised by one, saturating (R435). -/
def raiseCount (m : SMap Nat) (d w : Nat) : SMap Nat := if mget 0 m d < 2 ^ w - 1 then mput 0 m d (mget 0 m d + 1) else m

def Dev.countUe (v : Dev) (d : Nat) : Dev := { v with errUe := raiseCount v.errUe d 16 }

/-- The die whose memory controllers have a line (R308). -/
def State.lineDie (s : State) (line : Nat) : Nat := homeAt line (mget 0 s.homes line) / 64

/-- The controllers that read a line from HBM4 count the sectors that are poisoned there (R435; DEDUCED from its example, log entry 67). -/
def State.countHbm (s : State) (line : Nat) : State :=
  { s with dev := (s.hpoison.filter fun q => decide (q / 4 = line)).foldl (fun d _ => d.countUe (s.lineDie line)) s.dev }

/-- Lines of a home slice: 4 MiB of 128 bytes (R309). -/
def sliceLines : Nat := 32768

/-- A line enters its home slice, from HBM4 or with data written into it; the line used least recently makes room. The index of its sets is
not given, so any lines may stand together (DESIGN CHOICE, log entry 87). -/
def State.sliceTake (s : State) (line : Nat) (dirty : Bool) : State :=
  if paRemote (128 * line) then s
  else
    let h := s.sliceOf line
    let ls := (mget [] s.recent h).filter fun l => decide (l ≠ line)
    let s := if ls.length < sliceLines then s else match ls.getLast? with
      | some v => s.sliceDrop v
      | none => s
    let s := if dirty ∨ s.line h line ≠ .i then s else s.countHbm line
    (s.setLine h line (if dirty ∨ s.line h line = .m then .m else .e)).touch h line

/-- The dirty data of a line is written into its home slice (R323). -/
def State.homeWrite (s : State) (line : Nat) (dirty : Bool) : State :=
  if dirty then { s.sliceTake line true with
    under := mkeep (fun k => decide (k / 128 ≠ line)) s.under
    umarks := s.umarks.filter fun q => decide (q / 4 ≠ line) } else s

/-- The lines that bytes touch. -/
def linesOf (pa n : Nat) : List Nat := (List.range ((pa % 128 + n + 127) / 128)).map (pa / 128 + ·)

/-- Bytes become the newest of their addresses: monitors on their lines trigger (R190). -/
def State.renew (s : State) (pa : Nat) (bs : List Byte) : State :=
  (linesOf pa bs.length).foldl (fun s l => s.tripAll l fun _ => true) ((s.memWr pa bs).overwrite pa bs.length)

/-- Bytes are performed at device scope: the home slice has them (R309). -/
def State.perform (s : State) (pa : Nat) (bs : List Byte) : State :=
  (linesOf pa bs.length).foldl (fun s l => s.sliceTake l true) (s.renew pa bs)

/-- The holders behind the CL port of a router, lowest-numbered first (R312). -/
def State.clHolders (s : State) (r line : Nat) : List Nat :=
  if onHearth r then (if s.line (rdcHolder r) line = .i then [] else [rdcHolder r])
  else
    let cl := ((List.range 512).find? fun k => decide (clusterRouter k = r)).getD 0
    (((List.range 9).map fun n => 16 * cl + n).filter fun h => decide (s.line h line ≠ .i))

/-- A holder supplies a line (R318). -/
def Moes.supplied : Moes → Moes
  | .m => .o
  | .e => .s
  | x => x

def Moes.dirty : Moes → Bool
  | .m | .o => true
  | _ => false

/-- A sector of the data behind the copies of a line is poisoned, in its home slice or in HBM4 beneath it: where a core holds the line
changed, its copy has what the home slice had besides (R431, R434). -/
def State.markBehind (s : State) (q : Nat) : State :=
  let own := s.lines.any fun x => decide (x.1 / 16384 = q / 4) && decide (x.1 % 16384 < 8256) && x.2.dirty
  let s : State := if own ∧ !s.covered q then { s with
      under := (List.range 32).foldl (fun m i => mput none m (32 * q + i) (some (s.mem8 (32 * q + i)))) s.under
      umarks := (if s.poison.contains q then [q] else []) ++ s.umarks }
    else s
  if s.covered q then { s with umarks := q :: s.umarks.erase q } else { s with poison := q :: s.poison.erase q }

/-- An HBM4 sector is poisoned; what a home slice or a copy holds of it is not (R434). -/
def State.markHbm (s : State) (q : Nat) : State :=
  let t : State := { s with hpoison := q :: s.hpoison.erase q }
  if s.line (s.sliceOf (q / 4)) (q / 4) = .i then t.markBehind q else t

/-! ### Replacement (R307, R310, R323) -/

/-- Once the last copy of a line is gone, and no data of it is on its way, the home slice's bytes are the line's: a write whose newest copy
was lost with its die (R360) is lost with the last copy of it. -/
def State.settle (s : State) (line : Nat) : State :=
  if (s.lines.any fun q => decide (q.1 / 16384 = line) && decide (q.1 % 16384 < 8256)) || (s.msgs.any fun m => decide (m.line = line) && m.kind.carries) ||
      s.routers.any fun R => R.2.tree.any fun e => decide (e.line = line) && e.tear.any (·.data) then s
  else
    let back := s.under.filter fun b => decide (b.1 / 128 = line)
    if back = [] then s
    else
      let t := back.foldl (fun s b => s.memWr b.1 b.2.toList) s
      { t with
        under := mkeep (fun k => decide (k / 128 ≠ line)) s.under
        poison := (s.poison.filter fun q => decide (q / 4 ≠ line) || !s.covered q) ++ s.umarks.filter fun q => decide (q / 4 = line)
        umarks := s.umarks.filter fun q => decide (q / 4 ≠ line) }

/-- A holder gives its copy of a line up and its interface tells the tree (R323). -/
def State.evictLine (s : State) (h line : Nat) : State :=
  let st := s.line h line
  if st = .i then s
  else
    let r := holderRouter h
    let s := s.loseLine h line
    (if (s.clHolders r line) ≠ [] then (if st.dirty then s.sendIn r line (.prune true false false) else s)
    else s.sendIn r line (.prune st.dirty (decide (st = .e)) true)).settle line

/-- The holder lies on a die that is off (R436). -/
def State.deadHolder (s : State) (h : Nat) : Bool := decide (h < 8192) && s.dev.off.contains (h / 1024)

/-- A copy that is lost with its die, or comes too late for it, leaves the tree: the router of a dead interface clears the link as by a
prune (R323; DESIGN CHOICE, log entry 97), and reports E where the copy was the only one, so that the home slice supplies the line. -/
def State.deadCopy (s : State) (h line : Nat) (only : Bool) : State :=
  let r := holderRouter h
  (if s.clHolders r line ≠ [] then s else s.sendIn r line (.prune false only true)).settle line

/-- The set of a line in a holder (R307): an L1 has 128 sets of 16 ways, chosen by PA[13:7] (DESIGN CHOICE, log entry 87), the Stoker's
data cache 16 sets of 16 ways; an RDC slice of 8 MiB is taken as one set of 65,536 lines. -/
def lineSet (h line : Nat) : Nat := if 8192 ≤ h then 0 else if h % 16 = 8 then line % 16 else line % 128

def holderWays (h : Nat) : Nat := if 8192 ≤ h then 65536 else 16

/-- The other lines of a line's set in a holder, the one used last first. -/
def State.setLines (s : State) (h line : Nat) : List Nat :=
  (mget [] s.recent h).filter fun l => decide (lineSet h l = lineSet h line) && decide (l ≠ line)

/-- The line that a full set gives up for another: the least recently used, in an RDC slice any one. -/
def State.victimLine (s : State) (h line : Nat) : Option Nat :=
  let ls := s.setLines h line
  if ls.length < holderWays h then none else if 8192 ≤ h then ls[s.choice % ls.length]? else ls.getLast?

/-- The sectors `ks` of a line that a holder has come, with the marks that the data carries (R307, R432). -/
def State.fillSectors (s : State) (h line : Nat) (ks marks : List Nat) : State :=
  let k0 := line * 16384 + h
  let new := ks.filter fun k => (mget [] s.unfilled k0).contains k
  { s with
    unfilled := mput [] s.unfilled k0 ((mget [] s.unfilled k0).filter fun k => !ks.contains k)
    cmarks := (s.cmarks.filter fun x => !new.any fun k => decide (x = copyKey h line k)) ++
      (new.filter fun k => marks.contains k).map (copyKey h line) }

/-- A copy becomes the newest: its poison is the newest bytes' (R432). -/
def State.promote (s : State) (h line : Nat) : State :=
  let mine := (List.range 4).filter fun k => s.filled h line k && s.copyBad h line k
  { s with
    poison := (mine.map (4 * line + ·)).filter (fun q => !s.poison.contains q) ++ s.poison
    cmarks := s.cmarks.filter fun x => !(decide (x % 16384 = h) && decide (x / 65536 = line)) }

/-- A holder takes a line in a state, in place of another where its set is full; only the sectors `ks` that the request touches are filled
(R307), with the marks that the data carries (R432). -/
def State.takeLine (s : State) (h line : Nat) (st : Moes) (ks marks : List Nat) : State :=
  let s := match s.victimLine h line with
    | some v => s.evictLine h v
    | none => s
  let s : State := if s.line h line = .i then { s with unfilled := mput [] s.unfilled (line * 16384 + h) (List.range 4) } else s
  let s := if st.dirty then s.promote h line else s
  ((s.setLine h line st).fillSectors h line ks (if st.dirty then [] else marks)).touch h line

/-! ### Recording branches (R319, R320) -/

/-- The holder whose copy a teardown keeps (R321). -/
def TearWhy.keep : TearWhy → Option Nat
  | .own req _ => some req
  | .parent _ keep => keep
  | _ => none

/-- Record a link as a reply or grant leaves through it; on an entry with TD set the link is sent an inval at once, behind that
message (R326). -/
def State.recordLink (s : State) (r : Nat) (e : TEntry) (port dist : Nat) (k : MsgKind) : State :=
  let e := { e with links := mput 0 e.links port (min 7 dist), orphan := false }
  match e.tear with
  | none => (s.setEntry r e).sendOut r port e.line k
  | some t => ((s.setEntry r { e with tear := some { t with wait := t.wait ++ [port] } }).sendOut r port e.line k).sendOut r port e.line
      (.inval t.why.keep)

/-- An RDC slice on the way takes a clean copy (R310, R311). -/
def State.installRdc (s : State) (r line : Nat) (marks : List Nat) : State :=
  match (s.router r).entry? line with
  | some e => if e.tear = none ∧ s.line (rdcHolder r) line = .i
      then (s.setEntry r { e with links := mput 0 e.links 4 1 }).takeLine (rdcHolder r) line .s (List.range 4) marks else s
  | none => s

/-- Whether the reply to a requester is still to install an RDC copy on the routers of a path (R310). -/
def rdcOnPath (home req : Nat) (path : List (Nat × Nat)) : Bool :=
  decide (routerDie (holderRouter req) ≠ routerDie home) && path.any fun p => onHearth p.1

/-- A reply at router `r`, the head of its path, entered through port `from`. A root stays a root. -/
def State.replyAt (s : State) (r fromPort line req : Nat) (st : Moes) (path : List (Nat × Nat)) (c : Nat) (rdc : Bool) (marks : List Nat) : State :=
  match path with
  | [] => s
  | (_, q) :: rest =>
    let n := path.length
    let p := q % 8
    let e? := (s.router r).entry? line
    let e := match e? with
      | some e => if 8 ≤ q then { e with pins := e.pins - 1 } else e
      | none => TEntry.new line fromPort
    let rdcHere := rdc && onHearth r
    let k : MsgKind := .reply req st rest c (rdc && !rdcHere) marks
    let s := if c < n then (if e?.isSome then s.tidyEntry r e else s).sendOut r p line k
      else if c = n then s.recordLink r e p n k
      else s.recordLink r { e with root := if e.root = 4 then 4 else fromPort } p n k
    if rdcHere then s.installRdc r line marks else s

/-- The packages other than this one that hold a line's tile (R330). -/
def State.sharers (s : State) (line : Nat) : Nat := mget 0 s.tiles (line / 32)

/-- The home slice supplies a line, filling it from HBM4 where it does not have it (R309, R317 to R319): E where the line has no tree, the
reply installs no RDC copy, and no other package or host has a part in the line (DEDUCED from R330 and R368, log entry 88). `c` is the
length of the path up to a router that steered the read before, 0 if none did. -/
def State.homeSupply (s : State) (r line req c : Nat) (path : List (Nat × Nat)) : State :=
  match path with
  | [] => s
  | (_, p) :: rest =>
    let rdc := rdcOnPath r req path
    let s := s.sliceTake line false
    let marks := s.newMarks line
    match (s.router r).entry? line with
    | none =>
      let st : Moes := if rdc ∨ paRemote (128 * line) ∨ s.sharers line ≠ 0 ∨ s.hostLines.contains line then .s else .e
      s.recordLink r { TEntry.new line 4 with own := decide (st = .e) } p path.length (.reply req st rest path.length rdc marks)
    | some e =>
      if c = 0 then s.recordLink r e p path.length (.reply req .s rest path.length rdc marks)
      else s.sendOut r p line (.reply req .s rest c rdc marks)

/-! ### Teardowns (R320, R321, R324) -/

/-- The tree that had caught a read is gone. -/
def MsgKind.uncaught : MsgKind → MsgKind
  | .read req _ _ path home => .read req 0 0 path home
  | k => k

/-- Held reads of a line at a router go on after a teardown (R325): at a root they are handled afresh; elsewhere they go through ROOT,
and one that the parent had steered here goes back to it to be steered again. -/
def State.releaseReads (s : State) (r line : Nat) (port : Option Nat) : State :=
  let mine := fun (m : Msg) => m.held && decide (m.dest = r) && decide (m.line = line) && (match m.kind with
    | .read _ _ _ _ _ => true
    | _ => false)
  match port with
  | none => { s with msgs := s.msgs.map fun m => if mine m then { m with held := false, kind := m.kind.uncaught } else m }
  | some p =>
    (s.msgs.filter mine).foldl (fun s m => match m.kind with
      | .read req mode c path home =>
        if mode = 1 ∧ m.port = p then s.sendOut r p line (.read req 2 c path home)
        else s.sendOut r p line (.read req 0 0 ((r, m.port) :: path) home)
      | _ => s) { s with msgs := s.msgs.filter fun m => !mine m }

/-- A grant leaves the root along the own's path (R320). -/
def State.grantAt (s : State) (r fromPort line req : Nat) (data : Bool) (path : List (Nat × Nat)) : State :=
  match path with
  | [] => s
  | (_, p) :: rest =>
    let e := ((s.router r).entry? line).getD (TEntry.new line fromPort)
    s.recordLink r { e with root := fromPort } p path.length (.grant req data rest)

/-- The entry of a torn tree goes; one that a steered read still pins stands without links (R316). -/
def State.dropTorn (s : State) (r : Nat) (e : TEntry) : State :=
  if e.pins = 0 then s.setRouter r ((s.router r).drop e.line)
  else s.keepEntry r { e with links := [], tear := none, own := false, orphan := true }

/-- A mask towards a package has no fibre pair left: it is unreachable (R421). -/
def State.cutOff (s : State) (pkg : Nat) : Bool := (List.range 4).any fun c => (s.route c pkg).v && !s.routeUp (s.route c pkg)

/-- The line is memory of a package that cannot be reached any more (R421), or homed on a die that is off (R436). -/
def State.lineGone (s : State) (line : Nat) : Bool := if paRemote (128 * line) then s.cutOff (bits (128 * line) 44 3) else s.homeOff line

/-- The contexts with a block on the core or Stoker behind a holder. -/
def State.ctxsAt (s : State) (h : Nat) : List Nat :=
  (s.blocks.filter fun b => decide (b.2.cluster = h / 16) && (decide (h % 16 = 8) || b.2.cores.contains (8 * (h / 16) + h % 16))).map (·.2.ctx)

/-- Another package gets the ownership of a line (R330), unless it cannot be reached any more: then the home copy stands (R421). The entry
goes with its links (R316). -/
def State.tileGranted (s : State) (r : Nat) (e : TEntry) (pkg : Nat) : State :=
  let s := s.dropTorn r e
  if s.cutOff pkg then s
  else { s with tiles := mput 0 s.tiles (e.line / 32) (2 ^ (pkg % 8)), away := mput 0 s.away e.line (pkg % 8 + 1) }

/-- A teardown at router `r` is over: what its cause asks for. -/
def State.finishTear (s : State) (r : Nat) (e : TEntry) (t : Tear) : State :=
  match t.why with
  | .own req path =>
    let s := (s.homeWrite e.line t.data).keepEntry r { e with links := [], tear := none, own := true, root := 4 }
    let s : State := { s with tileOps := s.tileOps.filter fun o => decide (o.line ≠ e.line) }
    ((s.grantAt r 4 e.line req (!t.kept) path).releaseReads r e.line none)
  | .tile pkg =>
    let s := (s.homeWrite e.line t.data).tileGranted r e pkg
    ({ s with tileOps := s.tileOps.filter fun o => decide (o.line ≠ e.line) } : State).releaseReads r e.line none
  | .cinv _ => (((s.homeWrite e.line t.data).dropTorn r e).sliceDrop e.line).releaseReads r e.line none
  | .parent p _ => ((s.dropTorn r e).sendOut r p e.line (.ack t.data false t.kept)).releaseReads r e.line (some e.root)
  | .evict =>
    let s := s.dropTorn r e
    if e.root = 4 then (s.homeWrite e.line t.data).releaseReads r e.line none
    else
      let s := if t.data then s.sendOut r e.root e.line (.prune true false true) else s
      (s.sendOut r e.root e.line .cut).releaseReads r e.line (some e.root)

/-- Other packages have still to answer before a line may be granted (R330). -/
def State.tileWaits (s : State) (line : Nat) : Bool := s.tileOps.any fun o => decide (o.line = line) && decide (o.wait ≠ 0)

/-- A teardown for an ownership, at the root. -/
def TearWhy.grants : TearWhy → Bool
  | .own _ _ | .tile _ => true
  | _ => false

/-- Store a teardown, or finish it when nothing is left to answer. -/
def State.tearOn (s : State) (r : Nat) (e : TEntry) (t : Tear) : State :=
  if t.wait = [] ∧ !(t.why.grants && s.tileWaits e.line) then s.finishTear r e t else s.keepEntry r { e with tear := some t }

/-- Begin a teardown: invals on the links, but not back through the port it came by (R320, R321, R324). -/
def State.startTear (s : State) (r : Nat) (e : TEntry) (why : TearWhy) (keep : Option Nat) (skip : Option Nat) : State :=
  let ls := e.ports.filter fun p => decide (some p ≠ skip)
  (ls.foldl (fun s p => s.sendOut r p e.line (.inval keep)) s).tearOn r e ⟨why, ls, false, false, decide (why = .evict)⟩

/-- The packages that must answer before a core of this one is granted a line (R330): the sharers of its tile, or, for memory of another
package, that package. -/
def State.askedPkgs (s : State) (line : Nat) : Nat := if paRemote (128 * line) then 2 ^ bits (128 * line) 44 3 else s.sharers line

/-- An own taken by the root (R320, R330). One for memory out of reach halts the contexts whose stores it may be for (R421, R436; DESIGN
CHOICE, log entry 96). -/
def State.rootOwn (s : State) (r line req : Nat) (path : List (Nat × Nat)) : State :=
  let e := ((s.router r).entry? line).getD (TEntry.new line 4)
  let gone := s.lineGone line
  let s := if gone then (s.ctxsAt req).foldl (fun s x => s.haltLine x 0xF 0 0) s else s
  let w := if gone then 0 else s.askedPkgs line
  let s : State := if w = 0 then s else { s with tileOps := s.tileOps ++ [⟨line, s.dev.fpkg, w⟩] }
  s.startTear r e (.own req path) (some req) none

/-! ### Store buffers and cisterns (R303 to R305) -/

/-- The bytes that an entry's mask covers become the newest, a wholly covered sector at once. -/
def State.renewBytes (s : State) (base : Nat) (bytes : SMap (Option Byte)) : State :=
  (List.range 4).foldl (fun s k =>
    let bs := (List.range 32).map fun i => mget none bytes (32 * k + i)
    if bs.all Option.isSome then s.renew (base + 32 * k) (bs.map fun b => b.getD 0)
    else (List.range 32).foldl (fun s i => match mget none bytes (32 * k + i) with
      | some b => s.renew (base + 32 * k + i) [b]
      | none => s) s) s

/-- The sectors of a line that bytes lie in. -/
def sectorsOf (bytes : SMap (Option Byte)) : List Nat := (List.range 4).filter fun k => bytes.any fun b => decide (b.1 / 32 = k)

/-- The bytes that an entry writes over a line in a core's copy, with the poison of its sectors; the home slice keeps what it holds of them
until the line comes back. -/
def State.coverBytes (s : State) (base : Nat) (bytes : SMap (Option Byte)) (marks : List Nat) : State :=
  let t := s.renewBytes base bytes
  let first := ((sectorsOf bytes).map (base / 32 + ·)).filter fun q => !s.covered q && s.poison.contains q
  { t with
    poison := (marks.map (base / 32 + ·)).filter (fun q => !t.poison.contains q) ++ t.poison
    umarks := first ++ s.umarks
    under := bytes.foldl (fun m b =>
      mput none m (base + b.1) (some ((mget none s.under (base + b.1)).getD (s.mem8 (base + b.1))))) t.under }

/-- The first cistern entry of a line is merged into the line, which its core holds in M (R305). -/
def State.drainPerform (s : State) (cl line : Nat) : State :=
  let C := s.cluster cl
  match C.cistern.find? fun e => decide (e.line = line) with
  | none => s
  | some e =>
    let s := s.setCluster cl { C with cistern := C.cistern.erase e }
    (s.takeLine e.holder line .m (sectorsOf e.bytes) []).coverBytes (128 * line) e.bytes e.marks

/-- An entry drains (R304, R305, R320): at once where its core holds the line in M or E and no other package has a part in its tile (R330),
through an own otherwise. -/
def State.drain (s : State) (cl line : Nat) : State :=
  let C := s.cluster cl
  match C.cistern.find? fun e => decide (e.line = line) with
  | none => s
  | some e =>
    if e.draining then s
    else
      let x := s.line e.holder line
      if (x = .m ∨ x = .e) ∧ s.askedPkgs line = 0 then s.drainPerform cl line
      else
        let s := s.setCluster cl { C with cistern := C.cistern.map fun f => if f = e then { e with draining := true } else f }
        s.sendIn (clusterRouter cl) line (.own e.holder (decide (x ≠ .i)) [] (homeOf line e.home))

/-- CYCLE of a core or Stoker by its holder key (R21). -/
def State.holderClock (s : State) (h : Nat) : Nat := s.cycle (if h % 16 = 8 then 4096 + h / 16 else 8 * (h / 16) + h % 16)

/-- R303, R304: the oldest store-buffer entry moves to the cistern: merged into an entry of its line that does not drain,
or into a new one when fewer than 64 stand. -/
def State.moveStore (s : State) (h : Nat) : State :=
  match s.sbuf h with
  | [] => s
  | e :: rest =>
    let cl := h / 16
    let C := s.cluster cl
    let line := e.sector / 4
    let k := e.sector % 4
    let add (bytes : SMap (Option Byte)) : SMap (Option Byte) := e.bytes.foldl (fun m b => mput none m (32 * k + b.1) b.2) bytes
    let mark (ms : List Nat) : List Nat := (if e.bad then [k] else []) ++ ms.filter fun x => decide (x ≠ k) || (!e.bad && decide (e.bytes.length < 32))
    if C.cistern.any fun f => decide (f.line = line) && !f.draining then
      (s.setSbuf h rest).setCluster cl { C with cistern := C.cistern.map fun f =>
        if f.line = line ∧ f.draining = false then { f with bytes := add f.bytes, holder := h, home := e.home, marks := mark f.marks } else f }
    else if C.cistern.length < 64 then
      (s.setSbuf h rest).setCluster cl { C with cistern := C.cistern ++ [⟨line, add [], h, false, h, s.holderClock h, e.home, mark []⟩] }
    else s

end Sys2Proof.Machine
end

