-- ==== Sys2Proof/Machine/Float.lean ====
section
/-! DEFINITION. Floating-point arithmetic (R92 to R102, R145, R146, R152 to R160): exact values as signed integers times
powers of two, one rounding at the end, and the flags of R97. -/

namespace Sys2Proof.Machine

/-- A format of R92: exponent and fraction widths, bias, whether the all-ones exponent holds infinities (R93, R94). -/
structure Fmt where
  e : Nat
  f : Nat
  bias : Nat
  inf : Bool
  deriving DecidableEq, Repr

/-- FLT3 codes 0 to 5 (R61, R92). -/
def fmtOf (c : BitVec 3) : Fmt :=
  match c.toNat with
  | 0 => ⟨11, 52, 1023, true⟩
  | 1 => ⟨8, 23, 127, true⟩
  | 2 => ⟨5, 10, 15, true⟩
  | 3 => ⟨8, 7, 127, true⟩
  | 4 => ⟨4, 3, 7, false⟩
  | _ => ⟨5, 2, 15, true⟩

/-- Width of a format in bits. -/
def Fmt.bits (F : Fmt) : Nat := 1 + F.e + F.f

/-- A value: a NaN (signalling or quiet), an infinity, or (−1)^neg · m · 2^q. -/
inductive FV where
  | nan (signalling : Bool)
  | inf (neg : Bool)
  | fin (neg : Bool) (m : Nat) (q : Int)
  deriving DecidableEq, Repr

/-- Exponent of the least significant bit of a subnormal. -/
def Fmt.qmin (F : Fmt) : Int := 1 - (F.bias : Int) - (F.f : Int)

/-- The value of bits (R92 to R94). -/
def Fmt.val (F : Fmt) (x : Nat) : FV :=
  let neg := bitAt x (F.e + F.f)
  let ex := Machine.bits x F.f F.e
  let fr := Machine.bits x 0 F.f
  if ex = 2 ^ F.e - 1 ∧ F.inf = true then
    (if fr = 0 then .inf neg else .nan (decide (fr < 2 ^ (F.f - 1))))
  else if ex = 2 ^ F.e - 1 ∧ fr = 2 ^ F.f - 1 then .nan false
  else if ex = 0 then .fin neg fr F.qmin
  else .fin neg (2 ^ F.f + fr) (F.qmin + (ex : Int) - 1)

/-- The canonical NaN (R93, R94). -/
def Fmt.nan (F : Fmt) : Nat := if F.inf then (2 ^ F.e - 1) * 2 ^ F.f + 2 ^ (F.f - 1) else 2 ^ (F.e + F.f) - 1

/-- The magnitude of the largest finite value, as bits, and as m · 2^q (R92). -/
def Fmt.maxBits (F : Fmt) : Nat := if F.inf then (2 ^ F.e - 1) * 2 ^ F.f - 1 else 2 ^ (F.e + F.f) - 2

def Fmt.maxM (F : Fmt) : Nat := if F.inf then 2 ^ (F.f + 1) - 1 else 2 ^ (F.f + 1) - 2

def Fmt.maxQ (F : Fmt) : Int := F.qmin + (if F.inf then (2 ^ F.e : Nat) - 3 else (2 ^ F.e : Nat) - 2 : Int)

def Fmt.sign (F : Fmt) (neg : Bool) : Nat := b2n neg * 2 ^ (F.e + F.f)

/-- An exact infinity; the canonical NaN in E4M3, without a flag (R96). -/
def Fmt.infBits (F : Fmt) (neg : Bool) : Nat :=
  if F.inf then F.sign neg + (2 ^ F.e - 1) * 2 ^ F.f else F.nan

/-- The flags of R22. -/
abbrev Flg := BitVec 5

def fNV : Flg := 16#5

def fDZ : Flg := 8#5

def fOF : Flg := 4#5

def fUF : Flg := 2#5

def fNX : Flg := 1#5

/-- Bits and flags of a result. -/
abbrev FRes := Nat × Flg

/-- The rounding modes by MODE.RM: nearest even, towards zero, up, down (R22, R95). -/
abbrev RMode := Nat

/-- Whether a magnitude n with remainder (half: its relation to one half, −1, 0, 1; rem: not exact) rounds away. -/
def roundsUp (mode : RMode) (neg : Bool) (n : Nat) (rem : Bool) (half : Int) : Bool :=
  match mode with
  | 0 => decide (half = 1) || (decide (half = 0) && decide (n % 2 = 1))
  | 1 => false
  | 2 => rem && !neg
  | _ => rem && neg

/-- Cut m · 2^q (plus a sliver below its last bit where `sticky`) at exponent q' ≥ q: the rounded multiple of 2^q', and
whether it is inexact. -/
def cutAt (mode : RMode) (neg : Bool) (m : Nat) (q q' : Int) (sticky : Bool) : Nat × Bool :=
  if q' ≤ q then (m * 2 ^ (q - q').toNat, sticky)
  else
    let k := (q' - q).toNat
    let n := m / 2 ^ k
    let r := m % 2 ^ k
    let h := 2 ^ (k - 1)
    let rem := decide (r ≠ 0) || sticky
    let half : Int := if r < h then -1 else if r = h ∧ sticky = false then 0 else 1
    (n + b2n (roundsUp mode neg n rem half), rem)

/-- Overflow (R96, R97). -/
def Fmt.overflow (F : Fmt) (mode : RMode) (sat neg : Bool) : FRes :=
  let toInf := match mode with
    | 0 => true
    | 1 => false
    | 2 => !neg
    | _ => neg
  (if sat || !toInf then F.sign neg + F.maxBits else F.infBits neg, fOF ||| fNX)

/-- Round a non-zero magnitude m · 2^q once (R95 to R97). -/
def Fmt.roundNZ (F : Fmt) (mode : RMode) (sat neg : Bool) (m : Nat) (q : Int) (sticky : Bool) : FRes :=
  let l : Int := Nat.log2 m + 1
  let qn := q + l - ((F.f : Int) + 1)
  let q' := if qn < F.qmin then F.qmin else qn
  let (n, nx) := cutAt mode neg m q q' sticky
  if F.maxQ < q' ∨ (q' = F.maxQ ∧ F.maxM < n) then F.overflow mode sat neg
  else
    let (nu, _) := cutAt mode neg m q qn sticky
    let top := qn + (F.f : Int) + (if nu = 2 ^ (F.f + 1) then 1 else 0)
    let uf := nx && decide (top < F.qmin + (F.f : Int))
    let b := if n < 2 ^ F.f then n
      else if n = 2 ^ (F.f + 1) then (q' - F.qmin + 2).toNat * 2 ^ F.f
      else (q' - F.qmin + 1).toNat * 2 ^ F.f + (n - 2 ^ F.f)
    (F.sign neg + b, (if nx then fNX else 0) ||| (if uf then fUF else 0))

/-- Round an exact value; a zero takes the sign given. -/
def Fmt.round (F : Fmt) (mode : RMode) (sat neg : Bool) (m : Nat) (q : Int) (sticky : Bool) : FRes :=
  if m = 0 then (F.sign neg, 0) else F.roundNZ mode sat neg m q sticky

/-- A signalling NaN raises NV (R97). -/
def FV.nv : FV → Flg
  | .nan true => fNV
  | _ => 0

def FV.isInf : FV → Bool
  | .inf _ => true
  | _ => false

def FV.isNan : FV → Bool
  | .nan _ => true
  | _ => false

/-- An infinite operand passing through (R96). -/
def Fmt.passInf (F : Fmt) (sat neg : Bool) : FRes := (if sat then F.sign neg + F.maxBits else F.infBits neg, 0)

/-- The exact sum of two signed dyadics. -/
def addDy (na : Bool) (ma : Nat) (qa : Int) (nb : Bool) (mb : Nat) (qb : Int) : Int × Int :=
  let q := if qa < qb then qa else qb
  let x : Int := (ma * 2 ^ (qa - q).toNat : Nat)
  let y : Int := (mb * 2 ^ (qb - q).toNat : Nat)
  ((if na then -x else x) + (if nb then -y else y), q)

/-- A sum of two finite values, rounded once; the sign of a zero sum under R152. -/
def Fmt.addFin (F : Fmt) (mode : RMode) (sat : Bool) (na : Bool) (ma : Nat) (qa : Int) (nb : Bool) (mb : Nat) (qb : Int) : FRes :=
  let (v, q) := addDy na ma qa nb mb qb
  if v = 0 then (F.sign (if ma = 0 ∧ mb = 0 ∧ na = nb then na else decide (mode = 3)), 0)
  else F.round mode sat (decide (v < 0)) v.natAbs q false

/-- a + b (R152). -/
def Fmt.add (F : Fmt) (mode : RMode) (sat : Bool) (a b : FV) : FRes :=
  match a, b with
  | .fin na ma qa, .fin nb mb qb => F.addFin mode sat na ma qa nb mb qb
  | .inf na, .inf nb => if na = nb then F.passInf sat na else (F.nan, fNV)
  | .inf na, .fin _ _ _ => F.passInf sat na
  | .fin _ _ _, .inf nb => F.passInf sat nb
  | a, b => (F.nan, a.nv ||| b.nv)

def FV.neg : FV → FV
  | .nan s => .nan s
  | .inf n => .inf (!n)
  | .fin n m q => .fin (!n) m q

/-- The exact product of two values; none where it is invalid (R152). -/
def FV.mul (a b : FV) : Option FV :=
  match a, b with
  | .fin na ma qa, .fin nb mb qb => some (.fin (xor na nb) (ma * mb) (qa + qb))
  | .inf na, .inf nb => some (.inf (xor na nb))
  | .inf na, .fin nb mb _ => if mb = 0 then none else some (.inf (xor na nb))
  | .fin na ma _, .inf nb => if ma = 0 then none else some (.inf (xor na nb))
  | _, _ => some (.nan false)

/-- a · b (R152). -/
def Fmt.mul (F : Fmt) (mode : RMode) (sat : Bool) (a b : FV) : FRes :=
  if a.isNan || b.isNan then (F.nan, a.nv ||| b.nv)
  else match FV.mul a b with
    | none => (F.nan, fNV)
    | some (.fin n m q) => F.round mode sat n m q false
    | some (.inf n) => F.passInf sat n
    | some (.nan _) => (F.nan, 0)

/-- a · b + c with one rounding (R152). -/
def Fmt.fma (F : Fmt) (mode : RMode) (sat : Bool) (a b c : FV) : FRes :=
  if a.isNan || b.isNan then (F.nan, a.nv ||| b.nv ||| c.nv)
  else match FV.mul a b with
    | none => (F.nan, fNV)
    | some p => F.add mode sat p c

/-- a / b (R152). -/
def Fmt.div (F : Fmt) (mode : RMode) (sat : Bool) (a b : FV) : FRes :=
  match a, b with
  | .fin na ma qa, .fin nb mb qb =>
    if mb = 0 then (if ma = 0 then (F.nan, fNV) else (F.infBits (xor na nb), fDZ))
    else if ma = 0 then (F.sign (xor na nb), 0)
    else
      let k := F.f + 4 + Nat.log2 mb
      F.round mode sat (xor na nb) (ma * 2 ^ k / mb) (qa - qb - k) (decide (ma * 2 ^ k % mb ≠ 0))
  | .inf na, .fin nb _ _ => F.passInf sat (xor na nb)
  | .fin na _ _, .inf nb => (F.sign (xor na nb), 0)
  | .inf _, .inf _ => (F.nan, fNV)
  | a, b => (F.nan, a.nv ||| b.nv)

/-- The bits of a square root from weight 2^(k - 1) downwards, on top of `r`. -/
def isqrtFrom (n : Nat) : Nat → Nat → Nat
  | 0, r => r
  | k + 1, r => isqrtFrom n k (if (r + 2 ^ k) * (r + 2 ^ k) ≤ n then r + 2 ^ k else r)

/-- The integer part of √n. -/
def isqrt (n : Nat) : Nat := isqrtFrom n (Nat.log2 n / 2 + 1) 0

/-- √a (R152). -/
def Fmt.sqrt (F : Fmt) (mode : RMode) (a : FV) : FRes :=
  match a with
  | .nan _ => (F.nan, a.nv)
  | .inf n => if n then (F.nan, fNV) else (F.infBits false, 0)
  | .fin n m q =>
    if m = 0 then (F.sign n, 0)
    else if n then (F.nan, fNV)
    else
      let k := 2 * (F.f + 4)
      let (m2, q2) := if q % 2 = 0 then (m * 2 ^ k, q - k) else (m * 2 ^ (k + 1), q - k - 1)
      let r := isqrt m2
      F.round mode false false r (q2 / 2) (decide (r * r ≠ m2))

/-- −1, 0 or 1 as a < b, a = b or a > b; zeros are equal (R84). -/
def cmpFin (na : Bool) (ma : Nat) (qa : Int) (nb : Bool) (mb : Nat) (qb : Int) : Int :=
  let (v, _) := addDy na ma qa (!nb) mb qb
  Int.sign v

/-- Order of two numbers that are no NaN. -/
def FV.cmp (a b : FV) : Int :=
  match a, b with
  | .fin na ma qa, .fin nb mb qb => cmpFin na ma qa nb mb qb
  | .inf na, .inf nb => if na = nb then 0 else if na then -1 else 1
  | .inf na, _ => if na then -1 else 1
  | _, .inf nb => if nb then 1 else -1
  | _, _ => 0

/-- A condition of R84 for `vfcmp`, with its flag (R154). -/
def condFloat (c : BitVec 3) (a b : FV) : Bool :=
  let un := a.isNan || b.isNan
  let r := a.cmp b
  match c.toNat with
  | 0 => !un && decide (r = 0)
  | 1 => un || decide (r ≠ 0)
  | 2 => !un && decide (r < 0)
  | 3 => !un && decide (r ≤ 0)
  | 4 => !un && decide (0 < r)
  | 5 => !un && decide (0 ≤ r)
  | 6 => un
  | _ => !un

/-- a is below b when −0 orders below +0 (R146). -/
def FV.below (a b : FV) : Bool :=
  match a, b with
  | .fin na 0 _, .fin nb 0 _ => na && !nb
  | a, b => decide (a.cmp b < 0)

/-- The smaller or larger operand unchanged (R146, R153). -/
def Fmt.minmax (F : Fmt) (max : Bool) (x y : Nat) : FRes :=
  let a := F.val x
  let b := F.val y
  (if a.isNan && b.isNan then F.nan else if a.isNan then y else if b.isNan then x
   else if max then (if a.below b then y else x) else (if b.below a then y else x), a.nv ||| b.nv)

/-- Float to float (R99, R160). -/
def Fmt.conv (F : Fmt) (mode : RMode) (sat : Bool) (a : FV) : FRes :=
  match a with
  | .nan _ => (F.nan, a.nv)
  | .inf n => F.passInf sat n
  | .fin n m q => F.round mode sat n m q false

/-- Float to an integral value: the integer and whether it is inexact (R99, R159). -/
def roundInt (mode : RMode) (n : Bool) (m : Nat) (q : Int) : Int × Bool :=
  let (v, nx) := cutAt mode n m q 0 false
  ((if n then -(v : Int) else (v : Int)), nx)

/-- Float to integer, always saturated (R99). -/
def toInt (ty : BitVec 3) (mode : RMode) (a : FV) : Nat × Flg :=
  let w := wrapN (tyBits ty)
  match a with
  | .nan _ => (0, fNV)
  | .inf n => (w (if n then tyMin ty else tyMax ty), fNV)
  | .fin n m q =>
    let (v, nx) := roundInt mode n m q
    if v < tyMin ty ∨ tyMax ty < v then (w (clamp ty v), fNV) else (w v, if nx then fNX else 0)

/-- Integer to float (R99). -/
def Fmt.ofInt (F : Fmt) (mode : RMode) (sat : Bool) (v : Int) : FRes := F.round mode sat (decide (v < 0)) v.natAbs 0 false

/-- Round to an integral value of the same format (R159). -/
def Fmt.rnd (F : Fmt) (mode : RMode) (x : Nat) : FRes :=
  match F.val x with
  | .nan s => (F.nan, (FV.nan s).nv)
  | .inf _ => (x, 0)
  | .fin n m q =>
    if m = 0 then (x, 0)
    else
      let (v, nx) := roundInt mode n m q
      ((F.round mode false n v.natAbs 0 false).1, if nx then fNX else 0)

/-- a · 2^k (R158): an infinity is returned unchanged, with `.sat` too (DEDUCED, log entry 19). -/
def Fmt.scale (F : Fmt) (mode : RMode) (sat : Bool) (a : FV) (k : Int) : FRes :=
  match a with
  | .nan _ => (F.nan, a.nv)
  | .inf n => (F.infBits n, 0)
  | .fin n m q => F.round mode sat n m (q + k) false

/-- The class of a value, one bit of 0 to 9 (R157). -/
def Fmt.class (F : Fmt) (x : Nat) : Nat :=
  match F.val x with
  | .nan s => if s then 2 ^ 8 else 2 ^ 9
  | .inf n => if n then 2 ^ 0 else 2 ^ 7
  | .fin n m _ =>
    if m = 0 then (if n then 2 ^ 3 else 2 ^ 4)
    else if m < 2 ^ F.f then (if n then 2 ^ 2 else 2 ^ 5)
    else (if n then 2 ^ 1 else 2 ^ 6)

/-- R155: one of the two bracketing values, a fixed function of the operand. An exact result is returned exactly.
A result beyond the largest finite value overflows whichever is taken: ± ∞ without `.sat`, ± the largest finite value
with it (DEDUCED from the last sentence of R155 and from R96; log entry 17). -/
def Fmt.bracket (F : Fmt) (up sat neg : Bool) (m : Nat) (q : Int) (sticky : Bool) : FRes :=
  let d := F.round 1 sat neg m q sticky
  if up then F.round (if neg then 3 else 2) sat neg m q sticky
  else if d.2 &&& fOF ≠ 0 then F.round 0 sat neg m q sticky
  else d

/-- 1 / a within 1 ulp (R155). -/
def Fmt.rcp (F : Fmt) (code : BitVec 3) (sat : Bool) (x : Nat) : FRes :=
  match F.val x with
  | .nan s => (F.nan, (FV.nan s).nv)
  | .inf n => (F.sign n, 0)
  | .fin n m q =>
    if m = 0 then (F.infBits n, fDZ)
    else
      let k := F.f + 4 + Nat.log2 m
      F.bracket (Config.rcpUp code.toNat x) sat n (2 ^ k / m) (-q - k) (decide (2 ^ k % m ≠ 0))

/-- 1 / √a within 1 ulp (R155): the square root of 2^(2k) / m, cut, with what is left over as a sliver. -/
def Fmt.rsq (F : Fmt) (code : BitVec 3) (x : Nat) : FRes :=
  match F.val x with
  | .nan s => (F.nan, (FV.nan s).nv)
  | .inf n => if n then (F.nan, fNV) else (F.sign false, 0)
  | .fin n m q =>
    if m = 0 then (F.infBits n, fDZ)
    else if n then (F.nan, fNV)
    else
      let (m, q) := if q % 2 = 0 then (m, q) else (2 * m, q - 1)
      let k := F.f + 4 + Nat.log2 m
      let r := isqrt (2 ^ (2 * k) / m)
      F.bracket (Config.rsqUp code.toNat x) false false r (-(q / 2) - k) (decide (r * r * m ≠ 2 ^ (2 * k)))

/-! ### The transcendental instructions (R156): a fixed function of the operand within 2 ulp of the exact value -/

/-- Fractional bits of the fixed-point values below. -/
def fxP : Nat := 192

/-- Product of two fixed-point values. -/
def fxMul (a b : Int) : Int := a * b / ((2 ^ fxP : Nat) : Int)

/-- arctan (1/n), `k` terms from term `i`. -/
def atanInv (n : Nat) : Nat → Nat → Int
  | 0, _ => 0
  | k + 1, i =>
    let t : Int := ((2 ^ fxP / (n ^ (2 * i + 1) * (2 * i + 1)) : Nat) : Int)
    (if i % 2 = 0 then t else -t) + atanInv n k (i + 1)

/-- ln 2 = Σ 1 / (k · 2^k). -/
def fxLn2 : Nat → Int
  | 0 => 0
  | k + 1 => ((2 ^ fxP / ((k + 1) * 2 ^ (k + 1)) : Nat) : Int) + fxLn2 k

/-- e^x by its series, `k` terms from term `i`, for 0 ≤ x < 1. -/
def fxExp (x : Int) : Nat → Nat → Int → Int
  | 0, _, _ => 0
  | k + 1, i, t => t + fxExp x k (i + 1) (fxMul t x / ((i : Int) + 1))

/-- The binary logarithm of a mantissa 2^fxP ≤ y < 2^(fxP + 1), bit by bit. -/
def fxLog2 : Nat → Nat → Nat → Nat
  | 0, _, acc => acc
  | k + 1, y, acc =>
    let z := y * y / 2 ^ fxP
    if 2 ^ (fxP + 1) ≤ z then fxLog2 k (z / 2) (2 * acc + 1) else fxLog2 k z (2 * acc)

/-- sin or cos by its series for |x| < 1: terms from t with divisor step i. -/
def fxTrig (x2 : Int) : Nat → Nat → Int → Int
  | 0, _, _ => 0
  | k + 1, i, t => t + fxTrig x2 k (i + 2) (-(fxMul t x2 / (((i + 1) * (i + 2) : Nat) : Int)))

/-- π with 400 fractional bits, by Machin's formula at that width. -/
def pi400 : Nat :=
  let at' (n : Nat) : Int := (List.range 180).foldl (fun a i =>
    let t : Int := ((2 ^ 400 / (n ^ (2 * i + 1) * (2 * i + 1)) : Nat) : Int)
    if i % 2 = 0 then a + t else a - t) 0
  (16 * at' 5 - 4 * at' 239).toNat

/-- sin (cos where `cosine`) of m · 2^q as a fixed-point value. -/
def fxSinCos (cosine : Bool) (n : Bool) (m : Nat) (q : Int) : Int :=
  -- the argument in units of π/2, with fxP fractional bits
  let quarter : Nat := if 0 ≤ q then m * 2 ^ (q.toNat + 1 + 400 + fxP) / pi400
    else m * 2 ^ (1 + 400 + fxP) / pi400 / 2 ^ (-q).toNat
  let k := quarter / 2 ^ fxP + (if cosine then 1 else 0)
  let r := quarter % 2 ^ fxP
  -- r · π/2 in [0, π/2), halved range by symmetry
  let half := 2 ^ (fxP - 1)
  let ang (r : Nat) : Int := ((r * pi400 / 2 ^ 401 : Nat) : Int)
  let sinOf (r : Nat) : Int :=
    if r ≤ half then (let x := ang r; fxTrig (fxMul x x) 60 1 x)
    else (let x := ang (2 ^ fxP - r); fxTrig (fxMul x x) 60 0 ((2 ^ fxP : Nat) : Int))
  let v := if k % 2 = 0 then sinOf r else sinOf (2 ^ fxP - r)
  let v := if k % 4 < 2 then v else -v
  if n && !cosine then -v else v

/-- Keep the device's value `x` (f32 bits) where it is a finite value within 2 ulp of v · 2^q, otherwise the nearest value. The exact
result lies within `e` units of v, so that an ulp of the least magnitude it may have is none too large. -/
def near2ulp (x : W32) (sat : Bool) (v : Int) (q : Int) (e : Nat) : FRes :=
  let F := fmtOf 1
  let best := F.round 0 sat (decide (v < 0)) v.natAbs q true
  if best.2 &&& fOF ≠ 0 then best
  else match F.val best.1, F.val x.toNat with
  | .fin _ _ _, .fin n m qx =>
    let l : Int := q + Nat.log2 (v.natAbs - e)
    let u := (if l - 23 < F.qmin then F.qmin else l - 23)
    let (d, qd) := addDy n m qx (decide (0 < v)) v.natAbs q
    if d.natAbs * 2 ^ (qd - (if qd < u then qd else u)).toNat ≤ 2 * 2 ^ (u - (if qd < u then qd else u)).toNat ∧ v ≠ 0
    then (x.toNat, best.2 ||| fNX) else best
  | _, _ => best

/-- 2^a (R156): exact for an integral a whose result is representable; +∞ passes through under R96 (DEDUCED, log entry 19). -/
def fEx2 (sat : Bool) (x : Nat) : FRes :=
  let F := fmtOf 1
  match F.val x with
  | .nan s => (F.nan, (FV.nan s).nv)
  | .inf n => if n then (0, 0) else F.passInf sat false
  | .fin n m q =>
    if m = 0 then (0x3F800000, 0)
    else if (10 : Int) ≤ q + Nat.log2 m then (if n then near2ulp (Config.ex2 (BitVec.ofNat 32 x)) sat 1 (-1000) 1 else F.overflow 0 sat false)
    else
      let a : Int := if 0 ≤ q then ((m * 2 ^ (q.toNat + fxP) : Nat) : Int) else ((m * 2 ^ fxP / 2 ^ (-q).toNat : Nat) : Int)
      let a := if n then -a else a
      let k := a / ((2 ^ fxP : Nat) : Int)
      let f := a % ((2 ^ fxP : Nat) : Int)
      if f = 0 ∧ (cutAt 1 n m q 0 false).2 = false ∧ -149 ≤ k then F.round 0 sat false 1 k false
      else near2ulp (Config.ex2 (BitVec.ofNat 32 x)) sat (fxExp (fxMul f (fxLn2 200)) 60 0 ((2 ^ fxP : Nat) : Int)) (k - fxP) 1024

/-- log₂ a (R156). -/
def fLg2 (x : Nat) : FRes :=
  let F := fmtOf 1
  match F.val x with
  | .nan s => (F.nan, (FV.nan s).nv)
  | .inf n => if n then (F.nan, fNV) else (F.infBits false, 0)
  | .fin n m q =>
    if m = 0 then (F.infBits true, fDZ)
    else if n then (F.nan, fNV)
    else
      let l := Nat.log2 m
      let k : Int := q + l
      if m = 2 ^ l then F.ofInt 0 false k
      else
        let frac := fxLog2 120 (m * 2 ^ (fxP - l)) 0
        near2ulp (Config.lg2 (BitVec.ofNat 32 x)) false (k * ((2 ^ 120 : Nat) : Int) + (frac : Int)) (-120) 16

/-- A sine or cosine that is not exact lies between −1 and 1. -/
def fxBelow1 (v : Int) : Int :=
  let top : Int := ((2 ^ fxP - 1 : Nat) : Int)
  if top < v then top else if v < -top then -top else v

/-- sin a and cos a in radians (R156). -/
def fTrig (cosine : Bool) (x : Nat) : FRes :=
  let F := fmtOf 1
  let free := if cosine then Config.cos (BitVec.ofNat 32 x) else Config.sin (BitVec.ofNat 32 x)
  match F.val x with
  | .nan s => (F.nan, (FV.nan s).nv)
  | .inf _ => (F.nan, fNV)
  | .fin n m q =>
    if m = 0 then (if cosine then 0x3F800000 else x, 0)
    else if cosine = false ∧ q + Nat.log2 m < (-30 : Int) then
      near2ulp free false (if n then -((m * 2 ^ 64 - 1 : Nat) : Int) else ((m * 2 ^ 64 - 1 : Nat) : Int)) (q - 64) (4 * m)
    else near2ulp free false (fxBelow1 (fxSinCos cosine n m q)) (-fxP) 1024

/-! ### DS8 (R100 to R102) -/

/-- The value of a DS8 weight in units of 2^−6. -/
def ds8Val (w : Nat) : Int :=
  let term (s : Bool) (e : Nat) : Int := if e = 7 then 0 else if s then -((2 ^ (6 - e) : Nat) : Int) else ((2 ^ (6 - e) : Nat) : Int)
  term (bitAt w 7) (bits w 4 3) + term (bitAt w 3) (bits w 0 3)

/-- R101: the exact product of an operand and a weight; none where it is a NaN. -/
def FV.mulDs8 (a : FV) (w : Nat) : Option FV :=
  let v := ds8Val w
  match a with
  | .nan _ => none
  | .inf n => if v = 0 then none else some (.inf (xor n (decide (v < 0))))
  | .fin n m q => some (.fin (xor n (decide (v < 0))) (m * v.natAbs) (q - 6))

/-- The encodings in the order of preference of R102: E1, E2, S1, S2. -/
def ds8Order : List Nat :=
  (List.range 8).flatMap fun e1 => (List.range 8).flatMap fun e2 => [0, 8, 128, 136].map fun s => s + 16 * e1 + e2

/-- Distance of a value m · 2^q (sign n) from an encoding, in units of 2^(min q, −6). -/
def ds8Dist (n : Bool) (m : Nat) (q : Int) (w : Nat) : Nat :=
  let v := ds8Val w
  (addDy n m q (decide (0 < v)) v.natAbs (-6)).1.natAbs

/-- The encoding of a value and its flags (R102). -/
def toDs8 (a : FV) : Nat × Flg :=
  let pick (n : Bool) (m : Nat) (q : Int) : Nat :=
    ds8Order.foldl (fun b w => if ds8Dist n m q w < ds8Dist n m q b then w else b) 0
  match a with
  | .nan _ => (8, fNV)
  | .inf n => (pick n 2 0, fOF ||| fNX)
  | .fin n m q =>
    if (FV.fin false m q).cmp (.fin false 2 0) = 1 then (pick n 2 0, fOF ||| fNX)
    else
      let w := pick n m q
      (w, if ds8Dist n m q w = 0 then 0 else fNX)

end Sys2Proof.Machine
end

