-- ==== Sys2Proof/Machine/Vector.lean ====
section
/-! DEFINITION. The vector integer group and the cross-lane instructions (R133 to R148). -/

namespace Sys2Proof.Machine

/-- A fixed-latency vector word: its launch limits, then a change to the team (R59, R141). -/
def vec (s : State) (i : Instr) (len : Nat) (lim : Team → Bool) (f : Team → Team) : Host.Outcome State Fault Refusal :=
  issue s i (s.teamLim lim) fun a s => s.onTeam a fun T => (f T).adv len

/-- Every active lane of v(D) takes a typed value computed from the sources as they stood (R133, R137). -/
def Team.lanesTy (T : Team) (g : Nat) (ty : BitVec 3) (d : Nat) (f : Nat → Nat) : Team :=
  T.eachLane (T.active g) fun U l => U.vwt ty d l (f l)

/-- Every active lane of a single register v(D) takes a 32-bit value. -/
def Team.lanes32 (T : Team) (g d : Nat) (f : Nat → Nat) : Team :=
  T.eachLane (T.active g) fun U l => U.vwr false d l (f l)

def limVBin (o : VBin) (T : Team) : Bool := T.vOk (tyWide o.ty) o.d && T.vOk (tyWide o.ty) o.a && T.vsrcOk (tyWide o.ty) o.src

/-- A two-source lane operation, clamped with `.sat` (R98, R137). -/
def vecBin (op : IOp) (i : Instr) (o : VBin) (s : State) : Host.Outcome State Fault Refusal :=
  vec s i (vsrcLen o.src) (limVBin o) fun T => T.lanesTy o.g.toNat o.ty o.d.toNat fun l =>
    let a := T.vrd (tyWide o.ty) o.a.toNat l
    let b := T.vsrc o.ty l o.src
    if o.sat then wrapN (tyBits o.ty) (clamp o.ty (op.exact o.ty a b)) else op.run o.ty a b

def execVadd (o : VBin) (s : State) : Host.Outcome State Fault Refusal := vecBin .add (.vadd o) o s

def execVsub (o : VBin) (s : State) : Host.Outcome State Fault Refusal := vecBin .sub (.vsub o) o s

def execVmul (o : VBin) (s : State) : Host.Outcome State Fault Refusal := vecBin .mul (.vmul o) o s

def execVmulh (o : VBin) (s : State) : Host.Outcome State Fault Refusal := vecBin .mulh (.vmulh o) o s

def execVmin (o : VBin) (s : State) : Host.Outcome State Fault Refusal := vecBin .min (.vmin o) o s

def execVmax (o : VBin) (s : State) : Host.Outcome State Fault Refusal := vecBin .max (.vmax o) o s

def execVand (o : VBin) (s : State) : Host.Outcome State Fault Refusal := vecBin .and (.vand o) o s

def execVor (o : VBin) (s : State) : Host.Outcome State Fault Refusal := vecBin .or (.vor o) o s

def execVxor (o : VBin) (s : State) : Host.Outcome State Fault Refusal := vecBin .xor (.vxor o) o s

def execVandn (o : VBin) (s : State) : Host.Outcome State Fault Refusal := vecBin .andn (.vandn o) o s

/-- a · b + c (R137). -/
def execVmad (o : VMad) (s : State) : Host.Outcome State Fault Refusal :=
  vec s (.vmad o) (vsrcLen o.src)
    (fun T => T.vOk (tyWide o.ty) o.d && T.vOk (tyWide o.ty) o.a && T.vOk (tyWide o.ty) o.c && T.vsrcOk (tyWide o.ty) o.src)
    fun T => T.lanesTy o.g.toNat o.ty o.d.toNat fun l =>
      let v := tyVal o.ty (T.vrd (tyWide o.ty) o.a.toNat l) * tyVal o.ty (T.vsrc o.ty l o.src) + tyVal o.ty (T.vrd (tyWide o.ty) o.c.toNat l)
      wrapN (tyBits o.ty) (if o.sat then clamp o.ty v else v)

def execVabs (o : VUnL) (s : State) : Host.Outcome State Fault Refusal :=
  vec s (.vabs o) (if o.long then 12 else 8) (fun T => T.vOk (tyWide o.ty) o.d && T.vOk (tyWide o.ty) o.a) fun T =>
    T.lanesTy o.g.toNat o.ty o.d.toNat fun l => absN o.ty o.sat (T.vrd (tyWide o.ty) o.a.toNat l)

def execVnot (o : VUnL) (s : State) : Host.Outcome State Fault Refusal :=
  vec s (.vnot o) (if o.long then 12 else 8) (fun T => T.vOk (tyWide o.ty) o.d && T.vOk (tyWide o.ty) o.a) fun T =>
    T.lanesTy o.g.toNat o.ty o.d.toNat fun l => 2 ^ tyBits o.ty - 1 - T.vrd (tyWide o.ty) o.a.toNat l % 2 ^ tyBits o.ty

/-- A shift by a 32-bit count (R134, R137); `vshl.sat` clamps the exact a · 2^k. -/
def vecShift (op : IOp) (i : Instr) (o : VBin) (s : State) : Host.Outcome State Fault Refusal :=
  vec s i (vsrcLen o.src) (fun T => T.vOk (tyWide o.ty) o.d && T.vOk (tyWide o.ty) o.a && T.vsrcOk false o.src) fun T =>
    T.lanesTy o.g.toNat o.ty o.d.toNat fun l =>
      let a := T.vrd (tyWide o.ty) o.a.toNat l
      let k := T.vcount l o.src
      if o.sat then wrapN (tyBits o.ty) (clamp o.ty (tyVal o.ty a * ((2 ^ (min k (tyBits o.ty)) : Nat) : Int)))
      else wrapN (tyBits o.ty) (op.shift o.ty a k)

def execVshl (o : VBin) (s : State) : Host.Outcome State Fault Refusal := vecShift .shl (.vshl o) o s

def execVshr (o : VBin) (s : State) : Host.Outcome State Fault Refusal := vecShift .shr (.vshr o) o s

def execVsar (o : VBin) (s : State) : Host.Outcome State Fault Refusal := vecShift .sar (.vsar o) o s

def execVrotl (o : VRotl) (s : State) : Host.Outcome State Fault Refusal :=
  vec s (.vrotl o) 8 (fun T => T.vOk (tyWide o.ty) o.d && T.vOk (tyWide o.ty) o.a && T.vOk false o.b) fun T =>
    T.lanesTy o.g.toNat o.ty o.d.toNat fun l =>
      wrapN (tyBits o.ty) (IOp.shift .rotl o.ty (T.vrd (tyWide o.ty) o.a.toNat l) (T.vr o.b.toNat l).toNat)

/-- A count written as 32 bits into the single register v(D) (R137). -/
def vecCount (f : Nat → Nat → Nat) (i : Instr) (o : VUn) (s : State) : Host.Outcome State Fault Refusal :=
  vec s i 8 (fun T => T.vOk false o.d && T.vOk (tyWide o.ty) o.a) fun T =>
    T.lanes32 o.g.toNat o.d.toNat fun l => f (tyBits o.ty) (T.vrd (tyWide o.ty) o.a.toNat l)

def execVpopc (o : VUn) (s : State) : Host.Outcome State Fault Refusal := vecCount popN (.vpopc o) o s

def execVclz (o : VUn) (s : State) : Host.Outcome State Fault Refusal := vecCount clzN (.vclz o) o s

def execVctz (o : VUn) (s : State) : Host.Outcome State Fault Refusal := vecCount ctzN (.vctz o) o s

def execVbrev (o : VUn) (s : State) : Host.Outcome State Fault Refusal :=
  vec s (.vbrev o) 8 (fun T => T.vOk (tyWide o.ty) o.d && T.vOk (tyWide o.ty) o.a) fun T =>
    T.lanesTy o.g.toNat o.ty o.d.toNat fun l => brevN (tyBits o.ty) (T.vrd (tyWide o.ty) o.a.toNat l)

/-- R138. -/
def execVbfx (o : VBfx) (s : State) : Host.Outcome State Fault Refusal :=
  vec s (.vbfx o) 8 (fun T => T.vOk (tyWide o.ty) o.d && T.vOk (tyWide o.ty) o.a) fun T =>
    T.lanesTy o.g.toNat o.ty o.d.toNat fun l => bfxN o.ty (T.vrd (tyWide o.ty) o.a.toNat l) o.pos.toNat o.width.toNat

def execVbfi (o : VBfi) (s : State) : Host.Outcome State Fault Refusal :=
  vec s (.vbfi o) 8 (fun T => T.vOk (tyWide o.ty) o.d && T.vOk (tyWide o.ty) o.a && T.vOk (tyWide o.ty) o.b) fun T =>
    T.lanesTy o.g.toNat o.ty o.d.toNat fun l =>
      bfiN o.ty (T.vrd (tyWide o.ty) o.a.toNat l) (T.vrd (tyWide o.ty) o.b.toNat l) o.pos.toNat o.width.toNat

/-- R139: p(D) in each active lane. -/
def execVcmp (o : VCmp) (s : State) : Host.Outcome State Fault Refusal :=
  vec s (.vcmp o) 8 (fun T => T.vOk (tyWide o.ty) o.a && T.vOk (tyWide o.ty) o.b) fun T =>
    T.eachLane (T.active o.g.toNat) fun U l => U.pw o.pd.toNat l
      (condInt o.cond (tyVal o.ty (T.vrd (tyWide o.ty) o.a.toNat l)) (tyVal o.ty (T.vrd (tyWide o.ty) o.b.toNat l)))

def execVsel (o : VSel) (s : State) : Host.Outcome State Fault Refusal :=
  vec s (.vsel o) 8 (fun T => T.vOk (tyWide o.ty) o.d && T.vOk (tyWide o.ty) o.a && T.vOk (tyWide o.ty) o.b) fun T =>
    T.lanesTy o.g.toNat o.ty o.d.toNat fun l =>
      T.vrd (tyWide o.ty) (if T.pred o.pc.toNat l then o.a.toNat else o.b.toNat) l

def execVmov (o : VMov) (s : State) : Host.Outcome State Fault Refusal :=
  vec s (.vmov o) (vsrcLen o.src) (fun T => T.vOk (tyWide o.ty) o.d && T.vsrcOk (tyWide o.ty) o.src) fun T =>
    T.lanesTy o.g.toNat o.ty o.d.toNat fun l => T.vsrc o.ty l o.src

def execVbcast (o : VBcast) (s : State) : Host.Outcome State Fault Refusal :=
  vec s (.vbcast o) 8 (fun T => T.vOk (tyWide o.ty) o.d) fun T =>
    T.lanesTy o.g.toNat o.ty o.d.toNat fun _ => (T.th.rd o.a.toNat).toNat

def execVlane (o : VLane) (s : State) : Host.Outcome State Fault Refusal :=
  vec s (.vlane o) 8 (fun T => T.vOk (tyWide o.ty) o.d) fun T =>
    T.lanesTy o.g.toNat o.ty o.d.toNat fun l => l

/-- R140: D is a pair where td is 64 bits wide, A where ts is. -/
def execVcvt (o : VCvt) (s : State) : Host.Outcome State Fault Refusal :=
  vec s (.vcvt o) 8 (fun T => T.vOk (tyWide o.td) o.d && T.vOk (tyWide o.ts) o.a) fun T =>
    T.lanesTy o.g.toNat o.td o.d.toNat fun l =>
      let v := tyVal o.ts (T.vrd (tyWide o.ts) o.a.toNat l)
      wrapN (tyBits o.td) (if o.sat then clamp o.td v else v)

/-- R140: clamp to the range of td, written in the ts width. -/
def execVsat (o : VCvt) (s : State) : Host.Outcome State Fault Refusal :=
  vec s (.vsat o) 8 (fun T => T.vOk (tyWide o.ts) o.d && T.vOk (tyWide o.ts) o.a) fun T =>
    T.lanesTy o.g.toNat o.ts o.d.toNat fun l =>
      wrapN (tyBits o.ts) (clamp o.td (tyVal o.ts (T.vrd (tyWide o.ts) o.a.toNat l)))

/-! ### Cross-lane instructions: variable-latency, computed from one snapshot of the sources (R142) -/

/-- The register writes of one lane value. -/
def laneWrites (wide : Bool) (d l x : Nat) : List RegWrite :=
  if wide then [.v d l (BitVec.ofNat 32 x), .v (d + 1) l (BitVec.ofNat 32 (x / 2 ^ 32))] else [.v d l (BitVec.ofNat 32 x)]

/-- The register writes of a list of lanes, each with an n-bit result of the type (R133). -/
def tyWrites (ty : BitVec 3) (d : Nat) (rs : List (Nat × Nat)) : List RegWrite :=
  rs.flatMap fun r => laneWrites (tyWide ty) d r.1 (extTo 64 ty r.2).toNat

/-- A variable-latency vector word: its results, from the team as it issues, return later (R19, R141). -/
def vecLater (s : State) (i : Instr) (len : Nat) (lim : Team → Bool) (f : Team → List RegWrite × Flg) :
    Host.Outcome State Fault Refusal :=
  issue s i (s.teamLim lim) fun a s => match a with
    | .team t => match s.team? t with
      | some T => s.later a len [] (.result (f T).1 (f T).2)
      | none => s
    | _ => s

def execVshfl (o : VShfl) (s : State) : Host.Outcome State Fault Refusal :=
  vecLater s (.vshfl o) (offLen o.off) (fun T => T.vOk (tyWide o.ty) o.d && T.vOk (tyWide o.ty) o.a && T.vOk false o.b) fun T =>
    (tyWrites o.ty o.d.toNat ((T.active o.g.toNat).map fun l =>
      let j := ((T.vr o.b.toNat l).toNat : Int) + offInt o.off
      (l, if 0 ≤ j ∧ j < 32 * T.words then T.vrd (tyWide o.ty) o.a.toNat j.toNat else 0)), 0)

def execVrot (o : VRot) (s : State) : Host.Outcome State Fault Refusal :=
  vecLater s (.vrot o) (offLen o.off) (fun T => T.vOk (tyWide o.ty) o.d && T.vOk (tyWide o.ty) o.a) fun T =>
    (tyWrites o.ty o.d.toNat ((T.active o.g.toNat).map fun l =>
      (l, T.vrd (tyWide o.ty) o.a.toNat (((l : Int) + offInt o.off) % ((32 * T.words : Nat) : Int)).toNat)), 0)

/-- A value in a reduction tree with its lane; none is the identity mark (R145). -/
abbrev RedElt := Option (Nat × Nat)

/-- One combination of a reduction (R85, R108, R145, R146): the value of the pair, with flags. -/
def redVal (op ty : BitVec 3) (rm : RMode) (x y : Nat) : Nat × Flg :=
  match op.toNat with
  | 0 => (IOp.run .add ty x y, 0)
  | 1 => (IOp.run .min ty x y, 0)
  | 2 => (IOp.run .max ty x y, 0)
  | 3 => (IOp.run .or ty x y, 0)
  | 4 => (IOp.run .and ty x y, 0)
  | 5 => (fmtOf ty).add rm false ((fmtOf ty).val x) ((fmtOf ty).val y)
  | 6 => (fmtOf ty).minmax false x y
  | _ => (fmtOf ty).minmax true x y

/-- The right side of an extreme-value combination wins only when it is strictly better (R108, R146). -/
def redRight (op ty : BitVec 3) (x y : Nat) : Bool :=
  let F := fmtOf ty
  match op.toNat with
  | 1 => decide (tyVal ty y < tyVal ty x)
  | 2 => decide (tyVal ty x < tyVal ty y)
  | 6 => !(F.val y).isNan && ((F.val x).isNan || (F.val y).below (F.val x))
  | _ => !(F.val y).isNan && ((F.val x).isNan || (F.val x).below (F.val y))

/-- Combine two elements of the tree. -/
def redPair (op ty : BitVec 3) (rm : RMode) (x y : RedElt) : RedElt × Flg :=
  match x, y with
  | none, y => (y, 0)
  | x, none => (x, 0)
  | some (a, la), some (b, lb) =>
    let r := redVal op ty rm a b
    (some (r.1, if redRight op ty a b then lb else la), r.2)

/-- One level of the tree: neighbours combine. -/
def redLevel (op ty : BitVec 3) (rm : RMode) : List RedElt → List RedElt × Flg
  | [] => ([], 0)
  | [x] => ([x], 0)
  | x :: y :: r =>
    let p := redPair op ty rm x y
    let q := redLevel op ty rm r
    (p.1 :: q.1, p.2 ||| q.2)

/-- The pairwise tree of R108 over at most 2^k lanes (32 · W lanes need at most W + 5 levels). -/
def redTree (op ty : BitVec 3) (rm : RMode) : Nat → List RedElt → RedElt × Flg
  | 0, l => (l.head?.getD none, 0)
  | k + 1, l =>
    let p := redLevel op ty rm l
    let q := redTree op ty rm k p.1
    (q.1, p.2 ||| q.2)

/-- Width of a reduction's values in bits. -/
def redBits (op ty : BitVec 3) : Nat := if op.toNat < 5 then tyBits ty else (fmtOf ty).bits

/-- The lanes of a reduction: active ones with their value, the others the identity mark. -/
def Team.redElts (T : Team) (g : Nat) (op ty : BitVec 3) (a : Nat) : List RedElt :=
  let act := T.active g
  (List.range (32 * T.words)).map fun l =>
    if act.contains l then some (T.vrd (redWide op ty) a l % 2 ^ redBits op ty, l) else none

/-- The identity of an operation (R108). -/
def redIdent (op ty : BitVec 3) : Nat :=
  let F := fmtOf ty
  match op.toNat with
  | 0 => 0
  | 1 => wrapN (tyBits ty) (tyMax ty)
  | 2 => wrapN (tyBits ty) (tyMin ty)
  | 3 => 0
  | 4 => 2 ^ tyBits ty - 1
  | 5 => F.sign true
  | 6 => F.infBits false
  | _ => F.infBits true

/-- A reduction's value in a uniform register: extended, or zero-filled for a floating type (R144). -/
def redOut (op ty : BitVec 3) (x : Nat) : W64 := if op.toNat < 5 then extTo 64 ty x else BitVec.ofNat 64 x

def Team.reduce (T : Team) (g : Nat) (op ty : BitVec 3) (a : Nat) : RedElt × Flg :=
  redTree op ty T.th.rm.toNat (T.words + 5) (T.redElts g op ty a)

def execVred (o : VRed) (s : State) : Host.Outcome State Fault Refusal :=
  vecLater s (.vred o) 8 (fun T => T.vOk (redWide o.op o.ty) o.a) fun T =>
    let r := T.reduce o.g.toNat o.op o.ty o.a.toNat
    ([.s o.d.toNat (redOut o.op o.ty (match r.1 with
      | some p => p.1
      | none => redIdent o.op o.ty))], r.2)

/-- R144, R145: the extreme value and its lane. -/
def execVredx (o : VRedx) (s : State) : Host.Outcome State Fault Refusal :=
  vecLater s (.vredx o) 8 (fun T => T.vOk (redWide o.op o.ty) o.a) fun T =>
    let r := T.reduce o.g.toNat o.op o.ty o.a.toNat
    match r.1 with
    | some p => ([.s o.d.toNat (redOut o.op o.ty p.1), .s o.c.toNat (BitVec.ofNat 64 p.2)], r.2)
    | none => ([.s o.d.toNat (redOut o.op o.ty (redIdent o.op o.ty)), .s o.c.toNat (BitVec.allOnes 64)], r.2)

/-- The inclusive scan of R109 over the active lanes. -/
def scanLanes (op ty : BitVec 3) (rm : RMode) (f : Nat → Nat) : Option Nat → List Nat → List (Nat × Nat) × Flg
  | _, [] => ([], 0)
  | acc, l :: r =>
    let p := match acc with
      | none => (f l, (0 : Flg))
      | some x => redVal op ty rm x (f l)
    let q := scanLanes op ty rm f (some p.1) r
    ((l, p.1) :: q.1, p.2 ||| q.2)

def execVscan (o : VRed) (s : State) : Host.Outcome State Fault Refusal :=
  vecLater s (.vscan o) 8 (fun T => T.vOk (redWide o.op o.ty) o.d && T.vOk (redWide o.op o.ty) o.a) fun T =>
    let r := scanLanes o.op o.ty T.th.rm.toNat (fun l => T.vrd (redWide o.op o.ty) o.a.toNat l % 2 ^ redBits o.op o.ty) none (T.active o.g.toNat)
    (r.1.flatMap fun p => laneWrites (redWide o.op o.ty) o.d.toNat p.1
      (if o.op.toNat < 5 then (extTo 64 o.ty p.2).toNat else p.2), r.2)

/-- R147: one lane to a uniform register, whatever the mask. -/
def execVextract (o : VLaneMove) (s : State) : Host.Outcome State Fault Refusal :=
  vecLater s (.vextract o) (offLen o.lane) (fun T => T.vOk (tyWide o.ty) o.a && decide (offNat o.lane < 32 * T.words)) fun T =>
    ([.s o.d.toNat (extTo 64 o.ty (T.vrd (tyWide o.ty) o.a.toNat (offNat o.lane)))], 0)

def execVinsert (o : VLaneMove) (s : State) : Host.Outcome State Fault Refusal :=
  vecLater s (.vinsert o) (offLen o.lane) (fun T => T.vOk (tyWide o.ty) o.d && decide (offNat o.lane < 32 * T.words)) fun T =>
    (tyWrites o.ty o.d.toNat [(offNat o.lane, (T.th.rd o.a.toNat).toNat)], 0)

/-- R148: the lowest active lane with the same value. -/
def execVmatch (o : VMatch) (s : State) : Host.Outcome State Fault Refusal :=
  vecLater s (.vmatch o) (if o.long then 12 else 8) (fun T => T.vOk false o.d && T.vOk (tyWide o.ty) o.a) fun T =>
    let act := T.active o.g.toNat
    let v := fun l => T.vrd (tyWide o.ty) o.a.toNat l
    ((act.map fun l => RegWrite.v o.d.toNat l (BitVec.ofNat 32 ((act.find? fun j => v j == v l).getD l))), 0)

end Sys2Proof.Machine
end

