-- ==== Sys2Proof/Machine/Memory.lean ====
section
/-! DEFINITION. Memory, atomics, fences and monitors (R175 to R195), holding and replay (R262, R263), the store path
(R303), basins (R297) and the atomic units (R309). An access is issued into the thread's outstanding work; later events
translate and check it, perform its pieces, and return its values. -/

namespace Sys2Proof.Machine

/-! ### Orders (R61, R177) -/

def relOrd (o : Nat) : Bool := decide (2 ≤ o)

/-! ### Where an access goes (R28 to R31, R178, R187, R189, R190) -/

def MemKind.access : MemKind → Access
  | .ld | .marm => .read
  | .atom _ | .cas | .scadd _ | .bin => .rmw
  | _ => .write

/-- Only a team in its handler passes SUP (R398). -/
def State.sup (s : State) : Agent → Bool
  | .team t => match s.team? t with
    | some T => decide (T.hcause ≠ 0)
    | none => false
  | _ => false

/-- The home that a leaf gives the line of an address (R308): a cluster plus 1, 0 where it is interleaved. -/
def leafHome (leaf pa : Nat) : Nat := if bitAt leaf 55 then homeCluster leaf pa + 1 else 0

/-- Translate consecutive or scattered bytes, each with its home; one outside the global window is an address fault. -/
def State.translateAll (s : State) (ctx : Nat) (sup : Bool) (acc : Access) : List Nat → Except Nat (List (Nat × Nat))
  | [] => .ok []
  | va :: r => do
    if 2 ^ 52 ≤ va then throw 2
    let p ← s.translate ctx va acc sup
    let ps ← s.translateAll ctx sup acc r
    return (p.1, leafHome p.2 p.1) :: ps

/-- The spot of translated bytes, with the home of the first (R401). -/
def memSpot (ps : List (Nat × Nat)) : Spot := .mem (ps.map (·.1)) ((ps.map (·.2)).headD 0)

/-- A line as its byte addresses. -/
def lineBytes (pa : Nat) : List Nat := (List.range 128).map (pa / 128 * 128 + ·)

/-- Translate and check one lane's access and find what a piece of it covers. A basin access that is misaligned and goes through an empty
or foreign slot reports the address fault (DESIGN CHOICE, log entry 80). -/
def State.spotNow (s : State) (a : Agent) (m : MemOp) (l : LaneReq) : Except Nat Spot := do
  let w := 2 ^ m.wid
  let aligned := decide (l.addr.toNat % w = 0)
  let cache := decide (m.kind = .cwb) || decide (m.kind = .cinv)
  let ctx := (s.agentCtx? a).getD 0
  match steer l.addr with
  | .bad => throw 2
  | .global va =>
    if cache then
      match s.pageOf ctx va with
      | .error e => if e = 1 ∨ e = 4 then return .nothing else throw e
      | .ok _ =>
        let p ← s.translate ctx va .write (s.sup a)
        return .mem (lineBytes p.1) (leafHome p.2 p.1)
    else
      (match m.kind with
        | .scadd _ | .bin => throw 2
        | _ => pure ())
      if !aligned && !(decide (m.ord = 0) && (decide (m.kind = .ld) || decide (m.kind = .st))) then throw 2
      let ps ← s.translateAll ctx (s.sup a) m.kind.access ((List.range w).map (va + ·))
      return memSpot ((ps.drop l.off).take l.len)
  | .basin slot off =>
    if cache then return .nothing
    match a with
    | .team t =>
      if m.kind = .marm ∨ aligned = false then throw 2
      let b ← s.slotBasin (t / 256) slot ctx
      if m.kind = .bin then (if off + 8 ≤ 65536 then return .basin slot b 0 65536 else throw 2)
      else return .basin slot b off w
    | _ => throw 2
  | .stack o =>
    match a with
    | .team t => match s.team? t with
      | some T =>
        let okKind : Bool := match m.kind with
          | .ld | .st => true
          | .atom _ | .cas => decide (m.wid ≠ 3)
          | _ => false
        if !m.vec || !aligned || !okKind || decide (T.stack < o + w) then throw 2
        let c := (s.ctx ctx).run
        let ps ← s.translateAll ctx (s.sup a) m.kind.access ((List.range w).map fun i => stackVa c.stkva c.stklg t T.words l.lane (o + i))
        return memSpot ((ps.drop l.off).take l.len)
      | none => throw 2
    | _ => throw 2

/-- What a piece covers: as it was translated, by one entry whole (R401), or as it would be now. -/
def State.spotOf (s : State) (a : Agent) (m : MemOp) (l : LaneReq) : Except Nat Spot :=
  match l.spot with
  | some sp => .ok sp
  | none => s.spotNow a m l

/-- Two pieces share a byte. -/
def Spot.meets : Spot → Spot → Bool
  | .mem p _, .mem q _ => p.any fun x => q.contains x
  | .basin _ b o n, .basin _ b' o' n' => decide (b = b') && decide (o < o' + n') && decide (o' < o + n)
  | _, _ => false

def LaneStage.done : LaneStage → Bool
  | .performed _ _ => true
  | _ => false

/-! ### When an access may be performed (R180, R188, R262, R334 to R339) -/

/-- What an agent's earlier work has left in the store path is performed at a scope (R188): at cluster scope its stores
have left the store buffer, beyond it the whole cistern is drained. -/
def State.drained (s : State) (a : Agent) (scope : Nat) : Bool :=
  (decide (scope < 2) || (s.sbuf (agentHolder a)).all fun e => !e.owners.contains a) &&
    (decide (scope < 3) || decide ((s.cluster (agentCluster a)).cistern = []))

/-- An item is performed at a scope, except for what `drained` says. -/
def Pend.performed (p : Pend) : Bool :=
  p.finished || (match p.work with
    | .mem m => m.lanes.all fun l => l.stage.done
    | .result _ _ => true
    | .held (.dlaunch _ _ _) | .held (.bzero _ _ _) => false
    | .held _ => true)

/-- An unfinished item that keeps later accesses waiting (R188, R335, R337). A thread stands at a fence until its acquire part
is done, so what is left of the fence holds loads only where it is `.sc`; `take.test` is taken as the acquire that it is when
it finds its slot filled (DESIGN CHOICE, log entry 77). -/
def Pend.bars (load : Bool) (p : Pend) : Bool :=
  !p.finished && (match p.work with
    | .mem m => acqOrd m.ord && (decide (m.dst ≠ .none) || decide (m.ord = 4))
    | .held (.fence _ o) => decide (o = 4) || !load
    | .held (.takeTest _ _) => true
    | _ => false)

/-- No access of an item may still fault. -/
def Pend.checkedAll (p : Pend) : Bool := !p.mayFault

/-- A `marm` that is not performed. -/
def Pend.marming (p : Pend) : Bool :=
  !p.finished && (match p.work with
    | .mem m => decide (m.kind = .marm) && m.lanes.any fun l => !l.stage.done
    | _ => false)

/-- A `marm` of the thread is still to be performed (R190). -/
def Thread.marming (th : Thread) : Bool := th.pend.any Pend.marming

/-- Some unperformed piece of a list shares a byte with a spot. -/
def State.clash (s : State) (a : Agent) (m : MemOp) (ls : List LaneReq) (sp : Spot) : Bool :=
  ls.any fun l => !l.stage.done && (match s.spotOf a m l with
    | .ok q => q.meets sp
    | .error _ => false)

/-- The program-order conditions that older items put on a later access of a spot: acquires and fences, same-location order,
and a `bzero` of its basin (R180, R188, R206, R334 to R339). -/
def State.olderOk (s : State) (a : Agent) (older : List Pend) (load : Bool) (sp : Spot) : Bool :=
  !(older.any (Pend.bars load)) &&
  !(older.any fun p => !p.finished && (match p.work with
    | .mem q => s.clash a q q.lanes sp
    | _ => false)) &&
  !(older.any fun p => !p.finished && (match p.work, sp with
    | .held (.bzero _ slot b), .basin slot' b' _ _ => decide (slot = slot') || decide (b = some b')
    | _, _ => false))

/-- The program-order conditions of piece `l` of a thread's item `n`: those of the items before it, the order within the item, the
hold of R262, and what its own release order asks for. -/
def State.orderOk (s : State) (a : Agent) (th : Thread) (n : Nat) (m : MemOp) (l : LaneReq) (sp : Spot) : Bool :=
  let older := th.pend.take n
  let before := m.lanes.takeWhile fun x => decide (x ≠ l)
  let scope := match sp with
    | .basin _ _ _ _ => min 2 m.scope
    | _ => m.scope
  s.olderOk a older m.kind.isLoad sp &&
  !(s.clash a m before sp) &&
  (m.kind.isLoad || older.all Pend.checkedAll) &&
  (decide (m.ord = 0) || before.all fun x => decide (x.lane = l.lane) || x.stage.done) &&
  (!(relOrd m.ord) || (older.all Pend.performed && s.drained a scope))

/-! ### Performing at device memory (R303, R306, R183 to R185, R190) -/

/-- The youngest store-buffer byte of an address, with the poison mark of its sector. -/
def sbufByte (es : List SEntry) (pa : Nat) : Option (Byte × Bool) :=
  es.foldl (fun b e => if e.sector = pa / 32 then (match mget none e.bytes (pa % 32) with
    | some x => some (x, e.bad)
    | none => b) else b) none

/-- The youngest cistern byte of an address, with the poison mark of its sector. -/
def cisternByte (es : List CEntry) (pa : Nat) : Option (Byte × Bool) :=
  es.foldl (fun b e => if e.line = pa / 128 then (match mget none e.bytes (pa % 128) with
    | some x => some (x, e.marks.contains (pa / 32 % 4))
    | none => b) else b) none

/-- R306: where a byte of a load comes from; none where neither a buffer nor a filled sector of the cache has it. The flag is poison. -/
def State.loadByte (s : State) (h pa : Nat) : Option (Byte × Bool) :=
  match sbufByte (s.sbuf h) pa with
  | some b => some b
  | none => match cisternByte (s.cluster (h / 16)).cistern pa with
    | some b => some b
    | none => if s.filled h (pa / 128) (pa / 32 % 4) then some (s.mem8 pa, s.copyBad h (pa / 128) (pa / 32 % 4)) else none

/-- All bytes of a load, with the poison flag. -/
def State.loadBytes (s : State) (h : Nat) : List Nat → Option (List Byte × Bool)
  | [] => some ([], false)
  | pa :: r => match s.loadByte h pa, s.loadBytes h r with
    | some (b, p), some (bs, q) => some (b :: bs, p || q)
    | _, _ => none

/-- A byte of a store enters the store buffer (R303), with the home that its entry gives (R308) and its poison (R432); none when the buffer
has no room. -/
def pushStore (a : Agent) (home : Nat) (bad : Bool) (es : List SEntry) (pa : Nat) (b : Byte) : Option (List SEntry) :=
  match es.getLast? with
  | some e => if e.sector = pa / 32
      then some (es.dropLast ++ [{ e with
        bytes := mput none e.bytes (pa % 32) (some b), owners := if e.owners.contains a then e.owners else a :: e.owners, home := home
        bad := e.bad || bad }])
      else if es.length < 32 then some (es ++ [⟨pa / 32, mput none [] (pa % 32) (some b), [a], home, bad⟩]) else none
  | none => some [⟨pa / 32, mput none [] (pa % 32) (some b), [a], home, bad⟩]

def pushStores (a : Agent) (home : Nat) (bad : Bool) : List SEntry → List (Nat × Byte) → Option (List SEntry)
  | es, [] => some es
  | es, (pa, b) :: r => match pushStore a home bad es pa b with
    | some es => pushStores a home bad es r
    | none => none

/-- The agent has seen bytes of these addresses in its core's store buffer: a release of its own waits for those entries too
(R336, R337). -/
def State.observe (s : State) (a : Agent) (h : Nat) (pas : List Nat) : State :=
  s.setSbuf h ((s.sbuf h).map fun e =>
    if (pas.any fun pa => decide (e.sector = pa / 32) && (mget none e.bytes (pa % 32)).isSome) && !e.owners.contains a then
      { e with owners := a :: e.owners } else e)

/-- An acquire of the agent (R334, R335, R337): what stands in its core's store buffer may happen before it, so a release of its own waits
for all of it. -/
def State.acquire (s : State) (a : Agent) : State :=
  s.setSbuf (agentHolder a) ((s.sbuf (agentHolder a)).map fun e => if e.owners.contains a then e else { e with owners := a :: e.owners })

/-- The same where an order makes the access an acquire. -/
def State.acquireIf (s : State) (a : Agent) (ord : Nat) : State := if acqOrd ord then s.acquire a else s

/-- A thread's item with a store to the global or stack window still to enter the store buffer. -/
def Pend.storing (p : Pend) : Bool :=
  !p.finished && (match p.work with
    | .mem m => decide (m.kind = .st) && m.lanes.any fun x => !x.stage.done && !x.inBasin
    | _ => false)

/-- R303: a store of another agent that shares the store buffer, issued before item `id`, is still to enter it. -/
def State.storesBefore (s : State) (h id : Nat) : Bool :=
  let hit (th : Thread) : Bool := th.pend.any fun p => decide (p.id < id) && p.storing
  if h % 16 = 8 then s.gens.any fun q => decide (stokerHolder (q.1 / 16) = h) && hit q.2.th
  else s.teams.any fun q => decide (coreHolder (q.1 / 256) = h) && hit q.2.th

/-- The format of a floating atomic by WID (R87). -/
def widFmt (wid : Nat) : Fmt := fmtOf (if wid = 3 then 0#3 else 1#3)

/-- The new value of an atomic (R87, R183, R184). -/
def atomNew (op wid : Nat) (sgn : Bool) (old b : Nat) : Nat :=
  let n := 8 * 2 ^ wid
  let v (x : Nat) : Int := if sgn ∧ 2 ^ (n - 1) ≤ x then (x : Int) - ((2 ^ n : Nat) : Int) else (x : Int)
  let F := widFmt wid
  match op with
  | 0 => (old + b) % 2 ^ n
  | 1 => old &&& b
  | 2 => old ||| b
  | 3 => old ^^^ b
  | 4 => if v b < v old then b else old
  | 5 => if v old < v b then b else old
  | 6 => b
  | 0x10 => (F.add 0 false (F.val old) (F.val b)).1
  | 0x14 => (F.minmax false old b).1
  | _ => (F.minmax true old b).1

/-- The value an atomic writes over `old`. -/
def MemOp.newValue (m : MemOp) (l : LaneReq) (old : Nat) : Nat :=
  let n := 8 * 2 ^ m.wid
  match m.kind with
  | .atom op => atomNew op m.wid m.sgn old (l.b.toNat % 2 ^ n)
  | .cas => if old = l.b.toNat % 2 ^ n then l.c.toNat % 2 ^ n else old
  | _ => old

/-- Set the stage of one piece. -/
def MemOp.setStage (m : MemOp) (l : LaneReq) (st : LaneStage) : MemOp :=
  { m with lanes := m.lanes.map fun x => if x = l then { l with stage := st } else x }

/-- Replace an item of a thread's outstanding work. -/
def Thread.setItem (th : Thread) (n : Nat) (p : Pend) : Thread := { th with pend := th.pend.set n p }

def State.setItem (s : State) (a : Agent) (n : Nat) (p : Pend) : State := s.onThread a fun th => th.setItem n p

/-- Record the state of a piece after it is performed or sent. -/
def State.staged (s : State) (a : Agent) (n : Nat) (p : Pend) (m : MemOp) (l : LaneReq) (st : LaneStage) : State :=
  s.setItem a n { p with work := .mem (m.setStage l st) }

/-- The line is in no store-buffer entry of the agent's own stores and not in the cistern (R304). -/
def State.lineFlushed (s : State) (a : Agent) (line : Nat) (cist : Bool) : Bool :=
  (s.sbuf (agentHolder a)).all (fun e => decide (e.sector / 4 ≠ line)) &&
    (!cist || (s.cluster (agentCluster a)).cistern.all fun e => decide (e.line ≠ line))

/-- `cinv.sys` tears the line's tree down from its root (R189); the flag says whether it began. -/
def State.cinvSys (s : State) (h line : Nat) : State × Bool :=
  let r := s.homeRouter line
  match (s.router r).entry? line with
  | none => (s.sliceDrop line, true)
  | some e => if e.tear.isSome then (s, false) else (s.startTear r e (.cinv h) none none, true)

/-- A `cinv.sys` of holder `h` still runs at the root. -/
def State.cinvRuns (s : State) (h line : Nat) : Bool :=
  match (s.router (s.homeRouter line)).entry? line with
  | some e => (match e.tear with
    | some t => decide (t.why = .cinv h)
    | none => false)
  | none => false

/-- The L1 copy of the line is written to the home slice: M becomes E, O becomes S (R189). -/
def State.writeBack (s : State) (h line : Nat) : State :=
  let clean (x : Moes) : State :=
    let t := (s.setLine h line x).homeWrite line true
    { t with cmarks := ((s.newMarks line).filter fun k => s.filled h line k).map (copyKey h line) ++ t.cmarks }
  match s.line h line with
  | .m => clean .e
  | .o => clean .s
  | _ => s

/-- `cwb` and `cinv` at their scope (R189), once the store path is out of the way. -/
def State.cacheOp (s : State) (a : Agent) (n : Nat) (p : Pend) (m : MemOp) (l : LaneReq) (line : Nat) : State :=
  let h := agentHolder a
  let done (s : State) : State := s.staged a n p m l (.performed 0 false)
  if s.lineFlushed a line (decide (3 ≤ m.scope)) = false then s
  else if m.scope ≤ 2 then done s
  else match m.kind with
    | .cwb => done (if m.scope < 5 then s.writeBack h line else (s.writeBack h line).backWrite line)
    | _ =>
      if m.scope < 5 then done ((s.writeBack h line).evictLine h line)
      else if l.stage = .sent then (if s.cinvRuns h line then s else done s)
      else
        let r := s.cinvSys h line
        if r.2 then r.1.staged a n p m l .sent else s

/-- A store translated before the last generation change holds the change back until it is performed at device scope (R402). -/
def State.oldStore (s : State) (a : Agent) (h line gen : Nat) : State :=
  let ctx := (s.agentCtx? a).getD 0
  let c := s.ctx ctx
  if gen = c.genSeq then s else s.setCtx ctx { c with genWait := (h, line) :: c.genWait }

/-- Perform a checked piece that goes to device memory (R188, R262, R303 to R306, R309). -/
def State.performPiece (s : State) (a : Agent) (n : Nat) (p : Pend) (m : MemOp) (l : LaneReq) : State :=
  match s.thread? a with
  | none => s
  | some th => match s.spotOf a m l with
    | .error _ => s
    | .ok .nothing => s.staged a n p m l (.performed 0 false)
    | .ok (.basin _ _ _ _) => s
    | .ok (.mem pas home) =>
      let sp := Spot.mem pas home
      let h := agentHolder a
      let line := pas.headD 0 / 128
      if l.stage = .sent then (if m.kind = .cinv then s.cacheOp a n p m l line else s)
      else if l.stage ≠ .checked ∨ s.orderOk a th n m l sp = false then s
      else match m.kind with
        | .ld => match s.loadBytes h pas with
          | some (bs, bad) =>
            (((s.observe a h pas).acquireIf a m.ord).touch h line).staged a n p m l (.performed (BitVec.ofNat 64 (leNat bs)) bad)
          | none => s
        | .marm => if s.lineFlushed a line true && !((th.pend.take n).any Pend.marming) then
            (match s.loadBytes h pas with
              | some (bs, bad) =>
                let t := ((s.acquireIf a m.ord).touch h line).staged a n p m l (.performed (BitVec.ofNat 64 (leNat bs)) bad)
                t.onThread a fun th => { th with mon := .armed line }
              | none => s)
          else s
        | .st =>
          if !s.storesBefore h p.id && !((th.pend.take n).any Pend.storing) &&
            (m.lanes.takeWhile fun x => decide (x ≠ l)).all (fun x => decide (x.lane = l.lane) || x.stage.done || x.inBasin)
          then match pushStores a home l.bad (s.sbuf h) (pas.zip ((natLe 8 l.b.toNat).drop l.off)) with
            | some es => ((s.setSbuf h es).oldStore a h line l.gen).staged a n p m l (.performed 0 false)
            | none => s
          else s
        | .atom _ | .cas => if s.lineFlushed a line true then
            { s.staged a n p m l .sent with atomq := s.atomq ++ [⟨8 * homeOf line home + line % 8, pas.headD 0, a, p.id, l.lane, false⟩] } else s
        | .cwb | .cinv => s.cacheOp a n p m l line
        | .scadd _ | .bin => s

/-- Perform the pieces of an item that a choice admits, oldest first. -/
def State.performItem (s : State) (a : Agent) (n : Nat) (f : LaneReq → Bool) : State :=
  match s.thread? a with
  | none => s
  | some th => match th.pend[n]? with
    | some p => match p.work with
      | .mem m => (m.lanes.filter f).foldl (fun s l =>
          match (s.thread? a).bind fun th => th.pend[n]? with
          | some q => (match q.work with
            | .mem k => s.performPiece a n q k l
            | _ => s)
          | none => s) s
      | _ => s
    | none => s

/-! ### Faults of accesses (R194, R263, R347) -/

/-- The lanes of an item that are not finished, ascending. -/
def MemOp.openLanes (m : MemOp) : List Nat := ((m.lanes.filter fun l => !l.stage.done).map (·.lane)).eraseDups

/-- Lanes of an item that are finished, with all their pieces. -/
def MemOp.doneLanes (m : MemOp) : List Nat := ((m.lanes.map (·.lane)).eraseDups).filter fun k => !m.openLanes.contains k

/-- A piece was performed on poisoned data (R432). -/
def LaneReq.poisoned (l : LaneReq) : Bool :=
  match l.stage with
  | .performed _ b => b
  | _ => false

/-- Work younger than a checkpoint that stands, since R262 does not hold it back: finished work, results, loads that are checked, a
team's creation and an arrival on a barrier; their results still return (R263, R409). -/
def Pend.survives (q : Pend) : Bool :=
  q.finished || (match q.work with
    | .mem k => k.kind.isLoad && k.lanes.all fun l => decide (l.stage ≠ .fresh) && !l.poisoned
    | .held o => (match o with
      | .spawn _ _ _ | .barArrive _ _ => true
      | _ => false)
    | .result _ _ => true)

/-- A thread goes back to item `n`: the item and everything held behind it are discarded (R263). -/
def Thread.toCheckpoint (th : Thread) (n : Nat) (pc : W64) : Thread :=
  { th with pc := pc, pend := th.pend.take n ++ (th.pend.drop (n + 1)).filter Pend.survives }

/-- The fault of an item whose finished lanes have values must wait: an older result for its registers is outstanding, a
misaligned store is half performed, or a lane is at an atomic unit (R178, R195, R263). -/
def MemOp.faultWaits (m : MemOp) (shadowed : Bool) : Bool :=
  (shadowed && decide (m.doneLanes ≠ [])) ||
    (decide (m.kind = .st) && m.lanes.any fun x => x.stage.done && m.openLanes.contains x.lane) ||
    m.lanes.any fun x => decide (x.stage = .sent)

/-- The item with some lanes as if they had not been performed. -/
def MemOp.without (m : MemOp) (lanes : List Nat) : MemOp :=
  { m with lanes := m.lanes.map fun l => if lanes.contains l.lane then { l with stage := .checked } else l }

/-- The lanes of an item that read poison, which is their fault (R194, R432). -/
def MemOp.poisonLanes (m : MemOp) : List Nat := ((m.lanes.filter (·.poisoned)).map (·.lane)).eraseDups

/-- The value of a lane: its pieces put together. -/
def MemOp.laneValue (m : MemOp) (lane : Nat) : Nat :=
  ((m.lanes.filter fun l => decide (l.lane = lane)).map fun l => match l.stage with
    | .performed v _ => v.toNat % 2 ^ (8 * l.len) * 2 ^ (8 * l.off)
    | _ => 0).sum

/-- A loaded value extended into 64 bits by SGN (R64, R176). -/
def MemOp.ext (m : MemOp) (v : Nat) : W64 := if m.sgn then sext64 (8 * 2 ^ m.wid) v else BitVec.ofNat 64 (v % 2 ^ (8 * 2 ^ m.wid))

/-- Write the value of a lane to its destination. -/
def State.giveLane (s : State) (a : Agent) (m : MemOp) (lane : Nat) : State :=
  let v := m.ext (m.laneValue lane)
  match m.dst with
  | .none => s
  | .s r => s.onThread a fun th => th.wr r v
  | .v r => s.onTeam a fun T => T.vwr (decide (m.wid = 3)) r lane v.toNat

/-- Registers a work item will write, uniform ones offset by 1,000. -/
def Work.regs : Work → List Nat
  | .result ws _ => ws.map fun w => match w with
      | .s r _ => 1000 + r
      | .v r _ _ => r
  | .mem m => match m.dst with
      | .none => []
      | .s r => [1000 + r]
      | .v r => if m.wid = 3 then [r, r + 1] else [r]
  | .held o => (Work.held o).dests.map (1000 + ·)

/-- An older result for the same register is still outstanding. -/
def Thread.shadowed (th : Thread) (n : Nat) (w : Work) : Bool :=
  (th.pend.take n).any fun q => !q.finished && q.work.regs.any fun r => w.regs.contains r

/-- A thread goes back to item `n` as its checkpoint (R263): the values of the lanes that are finished are in the destination (R195),
the others are a vector access's partial-completion mask. -/
def State.backTo (s : State) (a : Agent) (n : Nat) (p : Pend) (m : MemOp) : State :=
  let s := m.doneLanes.foldl (fun s k => s.giveLane a m k) s
  match a with
  | .team t => match s.team? t with
    | some T => s.setTeam t { T with th := T.th.toCheckpoint n p.pc, partialMask := if T.hcause = 0 ∧ m.vec then some m.openLanes else T.partialMask }
    | none => s
  | _ => s.onThread a fun th => th.toCheckpoint n p.pc

/-- Item `n` faults at its checkpoint for the lanes `bad`, with the cause and address of the lowest (R263, R348); a uniform
access is made by no lane. -/
def State.faultItem (s : State) (a : Agent) (n : Nat) (p : Pend) (m : MemOp) (cause : Nat) (bad : List Nat) (addr : W64) : State :=
  match a with
  | .team t => (s.backTo a n p m).teamFault t cause addr.toNat (if m.vec then bad else [])
  | .gen g => (s.backTo a n p m).genFault g cause
  | .queue _ => s

/-- The global addresses at the ends of a lane's access. -/
def State.accessVas (s : State) (a : Agent) (m : MemOp) (l : LaneReq) : List Nat :=
  match steer l.addr with
  | .global va => [va, va + 2 ^ m.wid - 1]
  | .stack o => match a with
    | .team t => match s.team? t with
      | some T =>
        let c := (s.ctx T.ctx).run
        [stackVa c.stkva c.stklg t T.words l.lane o, stackVa c.stkva c.stklg t T.words l.lane (o + 2 ^ m.wid - 1)]
      | none => []
    | _ => []
  | _ => []

/-- The translation that an access takes in state `s₀` is cached (R400), and the home of the line noted (R308). -/
def State.noteLeaf (s₀ s : State) (ctx va : Nat) : State :=
  match s₀.pageOf ctx va with
  | .ok (page, leaf) =>
    let pa := page + va % 65536
    { s.cacheLeaf ctx va page leaf with homes := mput 0 s.homes (pa / 128) (leafHome leaf pa) }
  | .error _ => s

/-- Translate and check the lanes of item `n` that are fresh (R261, R263), and the count words of a `vbin` (R186): those that pass are checked;
when only failing lanes are left, every older access is checked and none of the item's own is on its way, the fault is taken, for the
lanes that read poison too. -/
def State.checkItem (s : State) (a : Agent) (n : Nat) : State :=
  match s.thread? a with
  | none => s
  | some th => match th.pend[n]? with
    | none => s
    | some p => match p.work with
      | .mem m =>
        let ctx := (s.agentCtx? a).getD 0
        let errOf (l : LaneReq) : Option Nat := if m.binBad l then some 2 else match s.spotNow a m l with
          | .ok _ => none
          | .error e => some e
        let seq := (s.ctx ctx).genSeq
        let fresh := m.lanes.filter fun l => decide (l.stage = .fresh) || m.binBad l
        let bad := fresh.filter fun l => (errOf l).isSome
        if bad.length < fresh.length ∨ fresh = [] then
          let pass (l : LaneReq) : LaneReq := match s.spotNow a m l with
            | .ok sp => if l.stage = .fresh then { l with stage := .checked, spot := some sp, gen := seq } else l
            | .error _ => l
          let s' := fresh.foldl (fun s' l => (s.accessVas a m l).foldl (fun s' va => s.noteLeaf s' ctx va) s') s
          s'.setItem a n { p with work := .mem { m with lanes := m.lanes.map pass } }
        else match m.lanes.filter fun l => l.poisoned || bad.contains l with
          | [] => s
          | l :: _ =>
            let cause := if l.poisoned then 0xD else (errOf l).getD 2
            let gen : Bool := match a with
              | .gen _ => true
              | _ => false
            if (th.pend.take n).all Pend.checkedAll = false ∨ m.faultWaits (th.shadowed n p.work) then s
            else if gen ∧ cause = 1 ∧ (s.part (ctxPart ctx)).ft = false ∧ s.poolHas (ctxPart ctx) then s
            else s.faultItem a n p (m.without m.poisonLanes) cause
              (((m.lanes.filter fun l => l.poisoned || bad.contains l).map (·.lane)).eraseDups) l.addr
      | _ => s

/-- R263: the lanes of item `n` are translated and checked; a fault is taken at the checkpoint. -/
def execAccessFault (a : Agent) (n : Nat) (s : State) : Host.Outcome State Fault Refusal := .next (s.checkItem a n)

/-! ### Returning (R19, R176, R192) -/

/-- Finish item `n`. -/
def State.finishItem (s : State) (a : Agent) (n : Nat) (p : Pend) : State :=
  (s.setItem a n { p with finished := true }).onThread a Thread.sweep

/-- The performed lanes that a choice admits return, a lane-word of them at a time (R142): to their registers, or, poisoned, as
cause 0x000D (R194, R432). An instruction without a destination is complete when it is performed at the scope of its order
(R192). -/
def State.returnItem (s : State) (a : Agent) (n : Nat) (p : Pend) (m : MemOp) (f : Nat → Bool) : State :=
  match s.thread? a with
  | none => s
  | some th =>
    let ready := (((m.lanes.map (·.lane)).eraseDups).filter fun k =>
      f k && (m.lanes.all fun l => decide (l.lane / 32 ≠ k / 32) || l.stage.done))
    let bad := ready.filter fun k => m.lanes.any fun l => decide (l.lane = k) && l.poisoned
    if ready = [] ∨ th.shadowed n p.work then s
    else match bad with
      | k :: _ =>
        if (th.pend.take n).all Pend.checkedAll && !(m.lanes.any fun x => decide (x.stage = .sent)) then
          s.faultItem a n p (m.without bad) 0xD bad (((m.lanes.find? fun l => decide (l.lane = k)).map (·.addr)).getD 0)
        else s
      | [] =>
        if m.dst = .none ∧ (relOrd m.ord ∧ s.drained a (if m.lanes.all (·.inBasin) then min 2 m.scope else m.scope) = false) then s
        else
          let s := ready.foldl (fun s k => s.giveLane a m k) s
          let left := m.lanes.filter fun l => !ready.contains l.lane
          let q := { p with work := .mem { m with lanes := left } }
          if left = [] then s.finishItem a n q else s.setItem a n q

/-! ### Basins (R186, R297, R298) -/

/-- The words of basin bytes are poisoned (R432). -/
def State.basinMark (s : State) (cl b off n : Nat) (bad : Bool) : State :=
  let ks := ((List.range ((off % 4 + n + 3) / 4)).map fun i => cl * 524288 + b * 16384 + (off / 4 + i) % 16384).filter fun k => !s.bpoison.contains k
  if bad then { s with bpoison := ks ++ s.bpoison } else s

/-- The old value, the poison mark, and the new bytes of a piece at a basin; the poison of stored data goes with it (R432). `vscadd` returns
nothing, so it consumes no poison: it adds to the word as it stands, and a sum with poison in it is poisoned (DESIGN CHOICE, log
entry 83). A `vbin` changes no count before every count word is known to lie in the basin (R186, R262). -/
def State.basinPiece (s : State) (a : Agent) (n : Nat) (p : Pend) (m : MemOp) (l : LaneReq) (cl b off : Nat) : State :=
  let w := 2 ^ m.wid
  let old := leNat (s.basinRd cl b off w)
  let bad := s.basinPoisoned cl b off w
  match m.kind with
  | .ld => (s.acquireIf a m.ord).staged a n p m l (.performed (BitVec.ofNat 64 old) bad)
  | .st => ((s.basinWr cl b off (natLe w l.b.toNat)).basinMark cl b off w l.bad).staged a n p m l (.performed 0 false)
  | .atom _ | .cas =>
    (((s.basinWr cl b off (natLe w (m.newValue l old))).basinMark cl b off w l.bad).acquireIf a m.ord).staged a n p m l
      (.performed (BitVec.ofNat 64 old) bad)
  | .scadd op =>
    let mine := m.lanes.filter fun x => decide (x.addr = l.addr)
    let nb := 8 * w
    let sum := match mine with
      | [] => 0
      | x :: r => r.foldl (fun acc y => atomNew op m.wid false acc (y.b.toNat % 2 ^ nb)) (x.b.toNat % 2 ^ nb)
    ((s.basinWr cl b off (natLe w (atomNew op m.wid false old sum))).basinMark cl b off w (bad || mine.any (·.bad))).setItem a n
      { p with work := .mem { m with lanes := m.lanes.map fun x =>
        if x.addr = l.addr then { x with stage := .performed 0 false } else x } }
  | .bin =>
    match m.header with
    | none =>
      if s.basinPoisoned cl b off 8 then s.faultItem a n p m 0xD [l.lane] l.addr
      else s.setItem a n { p with work := .mem { m with header := some (leNat (s.basinRd cl b off 4), leNat (s.basinRd cl b (off + 4) 4)) } }
    | some (ncell, cap) =>
      let c := l.b.toNat % 2 ^ 32
      if m.binOpen then s
      else if ncell ≤ c then s.staged a n p m l (.performed 0xFFFFFFFF#64 false)
      else
        let o := off + 8 + 4 * c
        let k := leNat (s.basinRd cl b o 4)
        (s.basinWr cl b o (natLe 4 (k + 1))).staged a n p m l
          (.performed (BitVec.ofNat 64 (if k < cap then (c * cap + k) % 2 ^ 32 else 0xFFFFFFFF)) (s.basinPoisoned cl b o 4))
  | _ => s

/-- The basin switch serves a lane of item `n` (R297); `vscadd` and `vbin` take their lanes in ascending order. -/
def State.basinServe (s : State) (a : Agent) (n lane : Nat) : State :=
  match s.thread? a with
  | none => s
  | some th => match th.pend[n]? with
    | none => s
    | some p => match p.work with
      | .mem m =>
        let ordered : Bool := match m.kind with
          | .scadd _ | .bin => true
          | _ => false
        match m.lanes.find? fun l => !l.stage.done && (ordered || decide (l.lane = lane)) with
        | none => s
        | some l =>
          if l.stage ≠ .checked ∨ l.lane ≠ lane then s
          else match s.spotOf a m l, steer l.addr with
            | .ok (.basin slot b o len), .basin _ off =>
              if s.orderOk a th n m l (.basin slot b o len) then s.basinPiece a n p m l (agentCluster a) b off else s
            | _, _ => s
      | _ => s

def execBasinAccessServed (a : Agent) (n lane : Nat) (s : State) : Host.Outcome State Fault Refusal :=
  .next (s.basinServe a n lane)

/-! ### The atomic units (R309) -/

/-- The sector of an address is poisoned where the newest bytes stand (R432). -/
def State.sectorMark (s : State) (pa : Nat) (bad : Bool) : State :=
  if bad ∧ !s.poison.contains (pa / 32) then { s with poison := pa / 32 :: s.poison } else s

/-- R330: an atomic writes its tile, so the packages that share it are asked to give it up before it is executed. -/
def State.askTile (s : State) (q : AtomReq) : State :=
  { s with
    atomq := s.atomq.map fun r => if r = q then { q with asked := true } else r
    tileOps := s.tileOps ++ [⟨q.pa / 128, s.dev.fpkg, s.askedPkgs (q.pa / 128)⟩] }

/-- The packages asked for an atomic have not all answered. -/
def State.tileHeld (s : State) (q : AtomReq) : Bool := s.tileWaits (q.pa / 128)

/-- The oldest request waiting at a unit, one of the eight banks of its home slice, is executed: one indivisible step, once no other package
shares its tile (R330). One for memory out of reach stops its agent (R421, R436). -/
def State.atomicStep (s : State) (unit : Nat) : State :=
  match s.atomq.find? fun q => decide (q.unit = unit) with
  | none => s
  | some q =>
    if q.asked = false ∧ s.lineGone (q.pa / 128) then State.fatal { s with atomq := s.atomq.erase q } q.who 0xF
    else if q.asked = false ∧ s.askedPkgs (q.pa / 128) ≠ 0 then (if s.tileOps.any fun o => decide (o.line / 32 = q.pa / 4096) then s else s.askTile q)
    else if q.asked ∧ s.tileHeld q then s
    else
    let s := { s with
      atomq := s.atomq.erase q
      tileOps := if q.asked then s.tileOps.filter fun o => decide (o.line ≠ q.pa / 128) else s.tileOps }
    match s.thread? q.who with
    | none => s
    | some th =>
      match th.pend.findIdx? fun p => decide (p.id = q.n) with
      | none => s
      | some n => match th.pend[n]? with
        | none => s
        | some p => match p.work with
          | .mem m => match m.lanes.find? fun l => decide (l.lane = q.lane) && decide (l.stage = .sent) with
            | none => s
            | some l =>
              let w := 2 ^ m.wid
              let old := leNat (s.memRd q.pa w)
              let bad := s.poisoned q.pa w
              let t := ((s.perform q.pa (natLe w (m.newValue l old))).sectorMark q.pa l.bad).acquireIf q.who m.ord
              t.staged q.who n p m l (.performed (BitVec.ofNat 64 old) bad)
          | _ => s

def execAtomicUnitOp (unit : Nat) (s : State) : Host.Outcome State Fault Refusal := .next (s.atomicStep unit)

/-! ### Issue -/

/-- The single-copy-atomic pieces of an access (R178, R181): bytes of a misaligned plain access, the halves of an 8-byte
stack access, otherwise the whole. -/
def pieceList (kind : MemKind) (ord wid : Nat) (addr : W64) : List (Nat × Nat) :=
  let w := 2 ^ wid
  if kind ≠ .ld ∧ kind ≠ .st then [(0, w)]
  else match steer addr with
    | .stack _ => if wid = 3 then [(0, 4), (4, 4)] else [(0, w)]
    | .global _ => if addr.toNat % w ≠ 0 ∧ ord = 0 then (List.range w).map fun i => (i, 1) else [(0, w)]
    | _ => [(0, w)]

/-- The counters an instruction with active lanes raises (R192). -/
def MemOp.paths (m : MemOp) : List Path :=
  match m.kind with
  | .ld | .marm => (if m.lanes.all (·.inBasin) then [] else [.gl]) ++ (if m.lanes.any (·.inBasin) then [.bl] else [])
  | .st | .scadd _ | .cwb => [.st]
  | .atom _ | .cas | .bin => [.at]
  | .cinv => []

/-- The counters that a load of a generic address raises (R192). -/
def loadPath (x : W64) : Path :=
  match steer x with
  | .basin _ _ => .bl
  | _ => .gl

/-- The counters a word would raise if the team issued it now (R192). -/
def Team.wordPaths (T : Team) (i : Instr) : List Path :=
  let any (g : BitVec 3) (ps : List Path) : List Path := if T.active g.toNat = [] then [] else ps
  match i with
  | .ld o | .marm o => [loadPath (T.th.rd o.a.toNat + dispVal o.disp)]
  | .vld o => ((T.active o.g.toNat).map fun l => loadPath (T.vaddr o.a.toNat l + dispVal o.disp)).eraseDups
  | .st _ | .cwb _ => [.st]
  | .vst o => any o.g [.st]
  | .vscadd o => any o.g [.st]
  | .atom _ | .cas _ => [.at]
  | .vatom o | .vfatom o => any o.g [.at]
  | .vcas o => any o.g [.at]
  | .vbin o => any o.g [.at]
  | .kick o => if T.th.rd o.b.toNat = 0 then [] else [.rq]
  | _ => []

/-- Issue a memory instruction: nothing but the PC without an active lane (R17), a wait at a full counter (R192), else
outstanding work. A generator thread has no counters (R193). -/
def State.memGo (s : State) (a : Agent) (len : Nat) (m : MemOp) : State :=
  match s.thread? a with
  | none => s
  | some th =>
    let paths := match a with
      | .team _ => m.paths
      | _ => []
    if m.lanes = [] then (s.onTeam a fun T => T.adv 0).onThread a fun th => th.adv len
    else if paths.any fun p => decide (255 ≤ th.counter p) then s.park a (.counter paths)
    else (s.onTeam a fun T => T.adv 0).later a len paths (.mem m)

/-- The pieces of one lane; `bad` where a register of its data is poisoned (R432). -/
def lanePieces (kind : MemKind) (ord wid lane : Nat) (addr b c : W64) (bad : Bool) : List LaneReq :=
  (pieceList kind ord wid addr).map fun p => ⟨lane, addr, p.1, p.2, b, c, .fresh, none, 0, bad⟩

/-- Words of a register that a word of a width reads. -/
def widWords (wid : Nat) : Nat := if wid = 3 then 2 else 1

/-- A uniform memory word: one access. -/
def uniMem (s : State) (i : Instr) (len : Nat) (kind : MemKind) (wid : Nat) (sgn : Bool) (scope ord : Nat) (dst : Dest)
    (ra : BitVec 8) (disp : W64) (rb rc : Option (BitVec 8)) : Host.Outcome State Fault Refusal :=
  issue s i noLimit fun a s => match s.thread? a with
    | none => s
    | some th =>
      let val (r : Option (BitVec 8)) : W64 := match r with
        | some r => th.rd r.toNat
        | none => 0
      let bad (r : Option (BitVec 8)) : Bool := r.any fun r => th.poisoned r.toNat (widWords wid)
      s.memGo a len ⟨kind, false, wid, sgn, scope, ord, dst,
        lanePieces kind ord wid 0 (th.rd ra.toNat + disp) (val rb) (val rc) (bad rb || bad rc), none⟩

/-- A vector memory word: one access per active lane, in ascending order (R179). -/
def vecMem (s : State) (i : Instr) (len : Nat) (g : BitVec 3) (kind : MemKind) (wid : BitVec 2) (sgn : Bool) (scope ord : Nat)
    (rd : Option (BitVec 8)) (ra : BitVec 8) (disp : W64) (rb rc : Option (BitVec 8)) : Host.Outcome State Fault Refusal :=
  let wide := decide (wid = 3#2)
  let ok (T : Team) (r : Option (BitVec 8)) : Bool := match r with
    | some r => T.vOk wide r
    | none => true
  issue s i (s.teamLim fun T => T.vOk true ra && ok T rd && ok T rb && ok T rc) fun a s => match a with
    | .team t => match s.team? t with
      | some T =>
        let val (l : Nat) (r : Option (BitVec 8)) : W64 := match r with
          | some r => BitVec.ofNat 64 (T.vrd wide r.toNat l)
          | none => 0
        let bad (l : Nat) (r : Option (BitVec 8)) : Bool := r.any fun r =>
          (List.range (widWords wid.toNat)).any fun k => T.vmarks.contains (vkey (r.toNat + k) l)
        s.memGo a len ⟨kind, true, wid.toNat, sgn, scope, ord, (match rd with
            | some r => .v r.toNat
            | none => .none),
          (T.active g.toNat).flatMap fun l => lanePieces kind ord wid.toNat l (T.vaddr ra.toNat l + disp) (val l rb) (val l rc) (bad l rb || bad l rc), none⟩
      | none => s
    | _ => s

def execLd (o : MLd) (s : State) : Host.Outcome State Fault Refusal :=
  uniMem s (.ld o) (dispLen o.disp) .ld o.wid.toNat o.sgn o.scope.toNat o.ord.toNat (.s o.d.toNat) o.a (dispVal o.disp) none none

def execSt (o : MSt) (s : State) : Host.Outcome State Fault Refusal :=
  uniMem s (.st o) (dispLen o.disp) .st o.wid.toNat false o.scope.toNat o.ord.toNat .none o.a (dispVal o.disp) (some o.b) none

def execVld (o : MVld) (s : State) : Host.Outcome State Fault Refusal :=
  vecMem s (.vld o) (dispLen o.disp) o.g .ld o.wid o.sgn o.scope.toNat o.ord.toNat (some o.d) o.a (dispVal o.disp) none none

def execVst (o : MVst) (s : State) : Host.Outcome State Fault Refusal :=
  vecMem s (.vst o) (dispLen o.disp) o.g .st o.wid false o.scope.toNat o.ord.toNat none o.a (dispVal o.disp) (some o.b) none

/-- R182: no register, no counter, no fault; the device may drop every lane, so only the PC changes. -/
def execVprefetch (o : MPref) (s : State) : Host.Outcome State Fault Refusal :=
  issue s (.vprefetch o) (s.teamLim fun T => T.vOk true o.a) fun a s => s.onTeam a fun T => T.adv (dispLen o.disp)

def execAtom (o : MAtom) (s : State) : Host.Outcome State Fault Refusal :=
  uniMem s (.atom o) (adispLen o.disp) (.atom o.op.toNat) o.wid.toNat o.sgn o.scope.toNat o.ord.toNat (.s o.d.toNat) o.a
    (adispVal o.disp) (some o.b) none

def execCas (o : MCas) (s : State) : Host.Outcome State Fault Refusal :=
  uniMem s (.cas o) (adispLen o.disp) .cas o.wid.toNat false o.scope.toNat o.ord.toNat (.s o.d.toNat) o.a
    (adispVal o.disp) (some o.b) (some o.c)

def execVatom (o : MVatom) (s : State) : Host.Outcome State Fault Refusal :=
  vecMem s (.vatom o) (adispLen o.disp) o.g (.atom o.op.toNat) o.wid o.sgn o.scope.toNat o.ord.toNat (some o.d) o.a
    (adispVal o.disp) (some o.b) none

def execVcas (o : MVcas) (s : State) : Host.Outcome State Fault Refusal :=
  vecMem s (.vcas o) (adispLen o.disp) o.g .cas o.wid false o.scope.toNat o.ord.toNat (some o.d) o.a
    (adispVal o.disp) (some o.b) (some o.c)

def execVfatom (o : MVatom) (s : State) : Host.Outcome State Fault Refusal :=
  vecMem s (.vfatom o) (adispLen o.disp) o.g (.atom o.op.toNat) o.wid false o.scope.toNat o.ord.toNat (some o.d) o.a
    (adispVal o.disp) (some o.b) none

def execVscadd (o : MVscadd) (s : State) : Host.Outcome State Fault Refusal :=
  vecMem s (.vscadd o) (adispLen o.disp) o.g (.scadd o.op.toNat) o.wid false o.scope.toNat o.ord.toNat none o.a
    (adispVal o.disp) (some o.b) none

/-- R186: every active lane names the one table; B is a single register, the cell. -/
def execVbin (o : MVbin) (s : State) : Host.Outcome State Fault Refusal :=
  issue s (.vbin o) (s.teamLim fun T => T.vOk false o.d && T.vOk false o.b) fun a s => match a with
    | .team t => match s.team? t with
      | some T => s.memGo a (adispLen o.disp) ⟨.bin, true, 2, false, o.scope.toNat, o.ord.toNat, .v o.d.toNat,
          (T.active o.g.toNat).map fun l => ⟨l, T.th.rd o.a.toNat + adispVal o.disp, 0, 4, (T.vr o.b.toNat l).setWidth 64, 0, .fresh, none, 0, false⟩, none⟩
      | none => s
    | _ => s

/-- R188, R290: the fence stands among the outstanding work until what it waits for has happened, and the agent parks; a `.team`
fence changes nothing beyond the PC. -/
def execFence (o : MFence) (s : State) : Host.Outcome State Fault Refusal :=
  issue s (.fence o) noLimit fun a s =>
    if o.scope = 0#3 then s.onThread a fun th => th.adv 8
    else (s.later a 8 [] (.held (.fence o.scope.toNat o.ord.toNat))).park a (.fence s.uid)

/-- R188, the acquire part: every earlier load, atomic and `marm` has returned. -/
def fenceAcq (older : List Pend) : Bool :=
  older.all fun p => p.finished || (match p.work with
    | .mem m => decide (m.dst = .none)
    | _ => true)

/-- R188, the release part: every earlier access is performed at the scope. -/
def State.fenceRel (s : State) (a : Agent) (older : List Pend) (scope : Nat) : Bool := older.all Pend.performed && s.drained a scope

/-- A fence has nothing left to wait for (R188). -/
def State.fenceDone (s : State) (a : Agent) (th : Thread) (n scope ord : Nat) : Bool :=
  let older := th.pend.take n
  (!(acqOrd ord) || fenceAcq older) && (!(relOrd ord) || s.fenceRel a older scope)

/-- The thread goes on past the fence (R188, R290): its acquire part is done, and, for `.sc`, all of it; a `.rel` fence holds
only later stores and atomics. -/
def State.fencePassed (s : State) (a : Agent) (th : Thread) (id : Nat) : Bool :=
  match th.pend.findIdx? fun p => decide (p.id = id) && !p.finished with
  | none => true
  | some n => match th.pend[n]? with
    | none => true
    | some p => match p.work with
      | .held (.fence scope ord) =>
        if ord = 4 then s.fenceDone a th n scope ord else !(acqOrd ord) || fenceAcq (th.pend.take n)
      | _ => true

def execCinv (o : MCache) (s : State) : Host.Outcome State Fault Refusal :=
  uniMem s (.cinv o) (dispLen o.disp) .cinv 0 false o.scope.toNat 0 .none o.a (dispVal o.disp) none none

def execCwb (o : MCache) (s : State) : Host.Outcome State Fault Refusal :=
  uniMem s (.cwb o) (dispLen o.disp) .cwb 0 false o.scope.toNat 0 .none o.a (dispVal o.disp) none none

def execMarm (o : MLd) (s : State) : Host.Outcome State Fault Refusal :=
  uniMem s (.marm o) (dispLen o.disp) .marm o.wid.toNat o.sgn o.scope.toNat o.ord.toNat (.s o.d.toNat) o.a (dispVal o.disp) none none

/-- R191: the wait ends in TEAM_WAKE. -/
def execMwait (o : TwoDA) (s : State) : Host.Outcome State Fault Refusal :=
  issue s (.mwait o) noLimit fun a s => (s.onThread a fun th => th.adv 8).park a (.mwait o.d.toNat (s.rdS a o.a.toNat))

/-- R193: the team parks until the counter is low enough. -/
def execWaitc (o : MWaitc) (s : State) : Host.Outcome State Fault Refusal :=
  issue s (.waitc o) noLimit fun a s => (s.onThread a fun th => th.adv 8).park a (.waitc (pathOf o.path.toNat) (s.rdS a o.a.toNat))

end Sys2Proof.Machine
end

