-- ==== Sys2Proof/Machine/Basin.lean ====
section
/-! DEFINITION. Basin instructions of a team (R196 to R206), `kick` and the team form of `bwait` (R209, R211). Each issues into
the team's outstanding work; it is performed later, once every older access is checked, and then its status returns. -/

namespace Sys2Proof.Machine

/-- A basin instruction issues (R198). -/
def heldWord (s : State) (i : Instr) (paths : List Path) (f : Thread → HeldOp) : Host.Outcome State Fault Refusal :=
  issue s i noLimit fun a s => match s.thread? a with
    | some th => if paths.any fun p => decide (255 ≤ th.counter p) then s.park a (.counter paths) else s.later a 8 paths (.held (f th))
    | none => s

def execBalloc (o : BSlot) (s : State) : Host.Outcome State Fault Refusal :=
  heldWord s (.balloc o) [] fun _ => .balloc o.d.toNat o.slot.toNat

def execBfree (o : BSlot) (s : State) : Host.Outcome State Fault Refusal :=
  heldWord s (.bfree o) [] fun _ => .bfree o.d.toNat o.slot.toNat .idle

def execGive (o : BGive) (s : State) : Host.Outcome State Fault Refusal :=
  heldWord s (.give o) [] fun _ => .give o.d.toNat o.slot.toNat o.core.toNat o.dslot.toNat .idle

def execTakeTest (o : BSlot) (s : State) : Host.Outcome State Fault Refusal :=
  heldWord s (.takeTest o) [] fun _ => .takeTest o.d.toNat o.slot.toNat

/-- R203: the team parks until the slot is filled. -/
def execTake (o : BSlot) (s : State) : Host.Outcome State Fault Refusal :=
  issue s (.take o) noLimit fun a s => (s.onThread a fun th => th.adv 8).park a (.take o.d.toNat o.slot.toNat)

def execBshare (o : BShare) (s : State) : Host.Outcome State Fault Refusal :=
  heldWord s (.bshare o) [] fun _ => .bshare o.d.toNat o.slot.toNat o.cmask.toNat

def execBmap (o : BSlot) (s : State) : Host.Outcome State Fault Refusal :=
  heldWord s (.bmap o) [] fun _ => .bmap o.d.toNat o.slot.toNat

def execBzero (o : BSlot) (s : State) : Host.Outcome State Fault Refusal :=
  heldWord s (.bzero o) [] fun _ => .bzero o.d.toNat o.slot.toNat none

/-- R209: s(B) = 0 does nothing and raises no counter. -/
def execKick (o : TwoAB) (s : State) : Host.Outcome State Fault Refusal :=
  issue s (.kick o) noLimit fun a s => match s.thread? a with
    | some th =>
      if th.rd o.b.toNat = 0 then s.onThread a fun th => th.adv 8
      else if 255 ≤ th.counter .rq then s.park a (.counter [.rq])
      else s.later a 8 [.rq] (.held (.kick (th.rd o.a.toNat) (th.rd o.b.toNat).toNat))
    | none => s

/-- R211: a basin-window address that is a multiple of 8, else an address fault; the team parks at the word until COUNT ≤ 0. -/
def execBwait (o : TwoDA) (s : State) : Host.Outcome State Fault Refusal :=
  issue s (.bwait o) noLimit fun a s => match a with
    | .team t => match s.team? t with
      | some T =>
        let x := T.th.rd o.a.toNat
        (match steer x with
         | .basin slot off =>
           if off % 8 ≠ 0 then s.raise a 2
           else (match s.slotBasin (t / 256) slot T.ctx with
             | .ok _ => (s.setTeam t (T.adv 0)).park a (.bwait o.d.toNat x)
             | .error e => s.raise a e)
         | _ => s.raise a 2)
      | none => s
    | _ => s

/-! ### Performing them -/

/-- The cores of a cluster that run a context. -/
def State.coreRuns (s : State) (core ctx : Nat) : Bool :=
  s.blocks.any fun b => decide (b.2.ctx = ctx) && decide (b.2.cluster = core / 8) && b.2.cores.contains core

def State.setSlot (s : State) (core n : Nat) (v : Slot) : State := s.setCore core ((s.core core).setSlot n v)

/-- A slot that can take a basin (R197, status 1 otherwise). -/
def Slot.isFree (v : Slot) : Bool := decide (v.mode = 0) && !v.busy

/-- A source slot that an instruction may use (R197, status 2 otherwise). -/
def State.srcOk (s : State) (core slot ctx : Nat) (needPrivate : Bool) : Bool :=
  let v := (s.core core).slot slot
  (decide (v.mode = 1) || (!needPrivate && decide (v.mode = 2))) && decide (v.owner = s.cid ctx) && !v.busy

/-- Cores of a cluster whose bank maps hold a basin (R205). -/
def State.mappers (s : State) (cl basin : Nat) : List Nat :=
  (List.range 8).filter fun n => (List.range 16).any fun k =>
    let v := (s.core (8 * cl + n)).slot k
    decide (v.mode ≠ 0) && decide (v.basin = basin)

/-- Something an item still has to do at a slot's basin. -/
def State.touchesSlot (s : State) (t : Nat) (p : Pend) (slot : Nat) (onlyChecked : Bool) : Bool :=
  !p.finished && (match p.work with
    | .mem m => m.lanes.any fun l => !l.stage.done && (!onlyChecked || decide (l.stage ≠ .fresh)) && (match steer l.addr with
      | .basin k _ => decide (k = slot)
      | _ => false)
    | _ => false) && (s.team? t).isSome

/-- R201 step 2: no access to the slot's basin is outstanding, neither one of the items before the give nor one of any team of the
core, this one included, that has reached the basin port. A `bwait` that waits at the head of the core's queue has not issued and is no
job, so it holds nothing back: the slot empties, and the `bwait` then meets a detached basin (DESIGN CHOICE, log entry 93). -/
def State.slotDrained (s : State) (core slot t : Nat) (before : List Pend) : Bool :=
  (before.all fun q => !s.touchesSlot t q slot false) &&
    (s.teams.all fun p => decide (p.1 / 256 ≠ core) || !(p.2.th.pend.any fun q => s.touchesSlot p.1 q slot true)) &&
    (s.core core).jobs.all fun j => !(j.slots.any fun x => decide (x.1 = slot))

/-- A held instruction's result is ready and returns later. -/
def State.answer (s : State) (a : Agent) (n : Nat) (p : Pend) (ws : List RegWrite) : State :=
  s.setItem a n { p with work := .result ws 0 }

def State.answerS (s : State) (a : Agent) (n : Nat) (p : Pend) (d v : Nat) : State := s.answer a n p [.s d (BitVec.ofNat 64 v)]

def Cluster.info (C : Cluster) (b : Nat) : BInfo := mget .free C.binfo b

def Cluster.setInfo (C : Cluster) (b : Nat) (i : BInfo) : Cluster := { C with binfo := mput .free C.binfo b i }

/-- Basins of a block's share that are not allocated (R287). -/
def Cluster.shareFree (C : Cluster) (blk : Nat) : List Nat :=
  (List.range 32).filter fun b => decide ((C.info b).blk = some blk) && !(C.info b).allocated

/-- Zero a whole basin. -/
def Cluster.clearBasin (C : Cluster) (b : Nat) : Cluster :=
  { C with basin := mkeep (fun k => decide (k / 65536 ≠ b)) C.basin }

/-- R199: words of a basin last held by the same context keep their value or read zero. -/
def Cluster.fadeBasin (C : Cluster) (b free : Nat) : Cluster :=
  { C with basin := mkeep (fun k => decide (k / 65536 ≠ b) || Config.keepWord free (k % 65536 / 4)) C.basin }

/-- Basin words lose their poison when they are cleared. -/
def State.unpoisonBasin (s : State) (cl b : Nat) : State :=
  { s with bpoison := s.bpoison.filter fun w => decide (w / 16384 ≠ cl * 32 + b) }

/-- R199 `balloc`. A basin that another context held waits for the zero engine first. -/
def State.doBalloc (s : State) (t n : Nat) (p : Pend) (T : Team) (d slot : Nat) : State :=
  let a : Agent := .team t
  let core := t / 256
  let cl := t / 2048
  let C := s.cluster cl
  if ((s.core core).slot slot).isFree = false then s.answerS a n p d 1
  else match C.shareFree T.blk with
    | [] => s.answerS a n p d 3
    | b0 :: bs =>
      let b := (b0 :: bs).getD (s.choice % (bs.length + 1)) b0
      let i := C.info b
      if i.last ≠ some T.ctx then s.setCluster cl (C.setInfo b { i with clearing := true })
      else
        let s := s.setCluster cl ((C.fadeBasin b s.free).setInfo b { i with allocated := true })
        let s := match s.block? T.blk with
          | some B => s.setBlock T.blk { B with held := B.held + 1 }
          | none => s
        ((s.chosen.setSlot core slot ⟨false, s.cid T.ctx, 1, b⟩).answerS a n p d 0)

/-- The basin goes back to the share of the issuing block (R200), also one that another block of the context allocated. -/
def State.returnBasin (s : State) (cl b blk ctx : Nat) : State :=
  let C := s.cluster cl
  let s := s.setCluster cl (C.setInfo b { C.info b with blk := some blk, allocated := false, last := some ctx })
  match s.block? blk with
  | some B => s.setBlock blk { B with held := B.held - 1 }
  | none => s

/-- R200, R201 steps 1 and 2: BUSY is set and the slot drains. -/
def State.startDrain (s : State) (a : Agent) (n : Nat) (p : Pend) (core slot : Nat) (o : HeldOp) : State :=
  (s.setSlot core slot { (s.core core).slot slot with busy := true }).setItem a n { p with work := .held o }

/-- R201 steps 3 and 4, R200: what a drained slot's `give` or `bfree` does. -/
def State.endDrain (s : State) (t n : Nat) (p : Pend) (T : Team) (o : HeldOp) : State :=
  let a : Agent := .team t
  let core := t / 256
  let cl := t / 2048
  match o with
  | .give d slot core' dslot .draining =>
    let v := (s.core core).slot slot
    let dest := 8 * cl + core'
    if ((s.core dest).slot dslot).isFree then
      ((s.setSlot core slot .empty).setSlot dest dslot ⟨false, v.owner, 1, v.basin⟩).answerS a n p d 0
    else (s.setSlot core slot { v with busy := false }).answerS a n p d 1
  | .bfree d slot .draining =>
    let v := (s.core core).slot slot
    let s := s.setSlot core slot .empty
    let s := if s.mappers cl v.basin = [] then s.returnBasin cl v.basin T.blk T.ctx else s
    s.answerS a n p d 0
  | _ => s

/-- R204. -/
def State.doBshare (s : State) (t n : Nat) (p : Pend) (T : Team) (d slot cmask : Nat) : State :=
  let a : Agent := .team t
  let core := t / 256
  let cl := t / 2048
  let v := (s.core core).slot slot
  let targets := ((List.range 8).filter fun k => bitAt cmask k && decide (8 * cl + k ≠ core)).map (8 * cl + ·)
  if s.srcOk core slot T.ctx true = false then s.answerS a n p d 2
  else if targets.all (fun c => s.coreRuns c T.ctx) = false then s.answerS a n p d 4
  else if targets.all (fun c => ((s.core c).slot slot).isFree) = false then s.answerS a n p d 1
  else ((core :: targets).foldl (fun s c => s.setSlot c slot ⟨false, v.owner, 2, v.basin⟩) s).answerS a n p d 0

/-- R206: the source is tested once; then the words named (all of them when none is) are cleared, and the last step returns the
status. -/
def State.doBzero (s : State) (t n : Nat) (p : Pend) (T : Team) (before : List Pend) (d slot : Nat) (basin word : Option Nat) : State :=
  let a : Agent := .team t
  let core := t / 256
  let cl := t / 2048
  if basin.isNone && !s.srcOk core slot T.ctx false then s.answerS a n p d 2
  else if before.any fun q => s.touchesSlot t q slot false then s
  else
    let b := basin.getD ((s.core core).slot slot).basin
    match word with
    | some w => (s.basinWr cl b (4 * (w % 16384)) (zeros 4)).setItem a n { p with work := .held (.bzero d slot (some b)) }
    | none => ((s.setCluster cl ((s.cluster cl).clearBasin b)).unpoisonBasin cl b).answerS a n p d 0

/-- R205. -/
def State.bmapValue (s : State) (core slot : Nat) : Nat :=
  let v := (s.core core).slot slot
  if v.mode = 0 then 0
  else v.value + 2 ^ 24 * ((s.mappers (core / 8) v.basin).map fun n => 2 ^ n).sum

/-- The items before a release are performed at cluster scope (R129, R201, R204). -/
def State.releaseOk (s : State) (a : Agent) (before : List Pend) (scope : Nat) : Bool :=
  before.all Pend.performed && s.drained a scope

/-- A basin instruction is performed (R198): its first and, for `give` and `bfree`, its drained step. -/
def State.basinHeld (s : State) (t n : Nat) (p : Pend) (T : Team) (o : HeldOp) (word : Option Nat) : State :=
  let a : Agent := .team t
  let core := t / 256
  let before := T.th.pend.take n
  match o with
  | .balloc d slot => s.doBalloc t n p T d slot
  | .bfree d slot .idle =>
    if s.srcOk core slot T.ctx false then s.startDrain a n p core slot (.bfree d slot .draining) else s.answerS a n p d 2
  | .give d slot core' dslot .idle =>
    if s.srcOk core slot T.ctx true = false then s.answerS a n p d 2
    else if s.coreRuns (8 * (t / 2048) + core') T.ctx = false then s.answerS a n p d 4
    else s.startDrain a n p core slot (.give d slot core' dslot .draining)
  | .takeTest d slot => (s.acquire a).answerS a n p d ((s.core core).slot slot).value
  | .bshare d slot cmask => if s.releaseOk a before 2 then s.doBshare t n p T d slot cmask else s
  | .bmap d slot => s.answerS a n p d (s.bmapValue core slot)
  | .bzero d slot b => s.doBzero t n p T before d slot b word
  | _ => s

/-- R201: a draining slot with nothing outstanding goes on. -/
def State.giveDrainDone (s : State) (core slot : Nat) : State :=
  let hit (o : HeldOp) : Bool := match o with
    | .give _ k _ _ .draining => decide (k = slot)
    | .bfree _ k .draining => decide (k = slot)
    | _ => false
  let isIt (p : Pend) : Bool := !p.finished && (match p.work with
    | .held o => hit o
    | _ => false)
  match s.teams.find? fun q => decide (q.1 / 256 = core) && q.2.th.pend.any isIt with
  | none => s
  | some (t, T) =>
    match T.th.pend.findIdx? isIt with
    | none => s
    | some n => match T.th.pend[n]? with
      | some p => (match p.work with
        | .held o =>
          let before := T.th.pend.take n
          let release : Bool := match o with
            | .give _ _ _ _ _ => s.releaseOk (.team t) before 2
            | _ => true
          if s.slotDrained core slot t before && release then s.endDrain t n p T o else s
        | _ => s)
      | none => s

def execGiveDrainDone (core slot : Nat) (s : State) : Host.Outcome State Fault Refusal := .next (s.giveDrainDone core slot)

/-- R199: a basin set aside for a block that another context held last is cleared. -/
def State.zeroClear (s : State) (cl b : Nat) : State :=
  let C := s.cluster cl
  let i := C.info b
  match i.blk with
  | some blk =>
    if i.clearing && !i.allocated then
      (s.setCluster cl ((C.clearBasin b).setInfo b { i with clearing := false, last := (s.block? blk).map (·.ctx) })).unpoisonBasin cl b
    else s
  | none => s

def execZeroEngineClear (cl basin : Nat) (s : State) : Host.Outcome State Fault Refusal := .next (s.zeroClear cl basin)

end Sys2Proof.Machine
end

