-- ==== Sys2Proof/Machine/FloatOps.lean ====
section
/-! DEFINITION. The floating-point group (R149 to R162): vector and uniform words over the arithmetic of Float.lean. -/

namespace Sys2Proof.Machine

/-- The rounding mode of a word: RND, or MODE.RM at issue (R23, R63, R95). -/
def rmode (rm : BitVec 2) (rnd : BitVec 3) : RMode := if rnd = 0#3 then rm.toNat else rnd.toNat - 4

/-- Fixed-latency lane results with flags: the flags of the active lanes are ORed in (R23). -/
def Team.lanesF (T : Team) (g : Nat) (wide : Bool) (d : Nat) (f : Nat → FRes) : Team :=
  let U := T.eachLane (T.active g) fun U l => U.vwr wide d l (f l).1
  { U with th := U.th.orFlags ((T.active g).foldl (fun x l => x ||| (f l).2) 0) }

/-- Variable-latency lane results with flags. -/
def Team.laterF (T : Team) (g : Nat) (wide : Bool) (d : Nat) (f : Nat → FRes) : List RegWrite × Flg :=
  ((T.active g).flatMap fun l => laneWrites wide d l (f l).1, (T.active g).foldl (fun x l => x ||| (f l).2) 0)

/-- A lane operand of a floating type: its low bits (R146, R150). -/
def Team.fbits (T : Team) (ty : BitVec 3) (r l : Nat) : Nat := T.vrd (fWide ty) r l % 2 ^ (fmtOf ty).bits

def Team.fval (T : Team) (ty : BitVec 3) (r l : Nat) : FV := (fmtOf ty).val (T.fbits ty r l)

def limVF2 (o : VF2) (T : Team) : Bool := T.vOk (fWide o.ty) o.d && T.vOk (fWide o.ty) o.a && T.vOk (fWide o.ty) o.b

def limVF1 (o : VF1) (T : Team) : Bool := T.vOk (fWide o.ty) o.d && T.vOk (fWide o.ty) o.a

/-- A two-source arithmetic word (R152). -/
def vecF2 (i : Instr) (o : VF2) (f : Fmt → RMode → Bool → FV → FV → FRes) (s : State) : Host.Outcome State Fault Refusal :=
  vec s i 8 (limVF2 o) fun T => T.lanesF o.g.toNat (fWide o.ty) o.d.toNat fun l =>
    f (fmtOf o.ty) (rmode T.th.rm o.rnd) o.sat (T.fval o.ty o.a.toNat l) (T.fval o.ty o.b.toNat l)

def execVfadd (o : VF2) (s : State) : Host.Outcome State Fault Refusal := vecF2 (.vfadd o) o Fmt.add s

def execVfsub (o : VF2) (s : State) : Host.Outcome State Fault Refusal :=
  vecF2 (.vfsub o) o (fun F m sat a b => F.add m sat a b.neg) s

def execVfmul (o : VF2) (s : State) : Host.Outcome State Fault Refusal := vecF2 (.vfmul o) o Fmt.mul s

def execVffma (o : VF3) (s : State) : Host.Outcome State Fault Refusal :=
  vec s (.vffma o) 8
    (fun T => T.vOk (fWide o.ty) o.d && T.vOk (fWide o.ty) o.a && T.vOk (fWide o.ty) o.b && T.vOk (fWide o.ty) o.c) fun T =>
    T.lanesF o.g.toNat (fWide o.ty) o.d.toNat fun l =>
      (fmtOf o.ty).fma (rmode T.th.rm o.rnd) o.sat (T.fval o.ty o.a.toNat l) (T.fval o.ty o.b.toNat l) (T.fval o.ty o.c.toNat l)

/-- R162: variable-latency. -/
def execVfdiv (o : VF2) (s : State) : Host.Outcome State Fault Refusal :=
  vecLater s (.vfdiv o) 8 (limVF2 o) fun T => T.laterF o.g.toNat (fWide o.ty) o.d.toNat fun l =>
    (fmtOf o.ty).div (rmode T.th.rm o.rnd) o.sat (T.fval o.ty o.a.toNat l) (T.fval o.ty o.b.toNat l)

def execVfsqrt (o : VF1) (s : State) : Host.Outcome State Fault Refusal :=
  vecLater s (.vfsqrt o) 8 (limVF1 o) fun T => T.laterF o.g.toNat (fWide o.ty) o.d.toNat fun l =>
    (fmtOf o.ty).sqrt (rmode T.th.rm o.rnd) (T.fval o.ty o.a.toNat l)

def vecMinmax (i : Instr) (o : VF2) (max : Bool) (s : State) : Host.Outcome State Fault Refusal :=
  vec s i 8 (limVF2 o) fun T => T.lanesF o.g.toNat (fWide o.ty) o.d.toNat fun l =>
    (fmtOf o.ty).minmax max (T.fbits o.ty o.a.toNat l) (T.fbits o.ty o.b.toNat l)

def execVfmin (o : VF2) (s : State) : Host.Outcome State Fault Refusal := vecMinmax (.vfmin o) o false s

def execVfmax (o : VF2) (s : State) : Host.Outcome State Fault Refusal := vecMinmax (.vfmax o) o true s

/-- R154. -/
def execVfcmp (o : VFcmp) (s : State) : Host.Outcome State Fault Refusal :=
  vec s (.vfcmp o) 8 (fun T => T.vOk (fWide o.ty) o.a && T.vOk (fWide o.ty) o.b) fun T =>
    let U := T.eachLane (T.active o.g.toNat) fun U l =>
      U.pw o.pd.toNat l (condFloat o.cond (T.fval o.ty o.a.toNat l) (T.fval o.ty o.b.toNat l))
    { U with th := U.th.orFlags ((T.active o.g.toNat).foldl (fun x l =>
        x ||| (T.fval o.ty o.a.toNat l).nv ||| (T.fval o.ty o.b.toNat l).nv) 0) }

/-- A one-source variable-latency word (R155, R156). -/
def vecF1Later (i : Instr) (o : VF1) (f : Nat → FRes) (s : State) : Host.Outcome State Fault Refusal :=
  vecLater s i 8 (limVF1 o) fun T => T.laterF o.g.toNat (fWide o.ty) o.d.toNat fun l => f (T.fbits o.ty o.a.toNat l)

def execVfrcp (o : VF1) (s : State) : Host.Outcome State Fault Refusal := vecF1Later (.vfrcp o) o ((fmtOf o.ty).rcp o.ty o.sat) s

def execVfrsq (o : VF1) (s : State) : Host.Outcome State Fault Refusal := vecF1Later (.vfrsq o) o ((fmtOf o.ty).rsq o.ty) s

def execVfex2 (o : VF1) (s : State) : Host.Outcome State Fault Refusal := vecF1Later (.vfex2 o) o (fEx2 o.sat) s

def execVflg2 (o : VF1) (s : State) : Host.Outcome State Fault Refusal := vecF1Later (.vflg2 o) o fLg2 s

def execVfsin (o : VF1) (s : State) : Host.Outcome State Fault Refusal := vecF1Later (.vfsin o) o (fTrig false) s

def execVfcos (o : VF1) (s : State) : Host.Outcome State Fault Refusal := vecF1Later (.vfcos o) o (fTrig true) s

/-- R157. -/
def execVfclass (o : VF1) (s : State) : Host.Outcome State Fault Refusal :=
  vec s (.vfclass o) 8 (fun T => T.vOk false o.d && T.vOk (fWide o.ty) o.a) fun T =>
    T.lanes32 o.g.toNat o.d.toNat fun l => (fmtOf o.ty).class (T.fbits o.ty o.a.toNat l)

/-- R158: k is v(B) read as a signed 32-bit integer. -/
def execVfscale (o : VF2) (s : State) : Host.Outcome State Fault Refusal :=
  vec s (.vfscale o) 8 (fun T => T.vOk (fWide o.ty) o.d && T.vOk (fWide o.ty) o.a && T.vOk false o.b) fun T =>
    T.lanesF o.g.toNat (fWide o.ty) o.d.toNat fun l =>
      (fmtOf o.ty).scale (rmode T.th.rm o.rnd) o.sat (T.fval o.ty o.a.toNat l) (T.vr o.b.toNat l).toInt

def execVfrnd (o : VF1) (s : State) : Host.Outcome State Fault Refusal :=
  vec s (.vfrnd o) 8 (limVF1 o) fun T => T.lanesF o.g.toNat (fWide o.ty) o.d.toNat fun l =>
    (fmtOf o.ty).rnd (rmode T.th.rm o.rnd) (T.fbits o.ty o.a.toNat l)

/-- Float to float; equal halves copy every value that is no NaN (R160), but `.sat` makes an infinity ± the largest finite value (R96;
DEDUCED, log entry 19). -/
def convBits (td ts : BitVec 3) (m : RMode) (sat : Bool) (x : Nat) : FRes :=
  let v := (fmtOf ts).val x
  if td = ts ∧ v.isNan = false ∧ !(sat && v.isInf) then (x, 0) else (fmtOf td).conv m sat v

def execVfcvt (o : VCvt) (s : State) : Host.Outcome State Fault Refusal :=
  vec s (.vfcvt o) 8 (fun T => T.vOk (fWide o.td) o.d && T.vOk (fWide o.ts) o.a) fun T =>
    T.lanesF o.g.toNat (fWide o.td) o.d.toNat fun l => convBits o.td o.ts (rmode T.th.rm o.rnd) o.sat (T.fbits o.ts o.a.toNat l)

/-- Float to integer: an 8- or 16-bit result is extended (R133, R160). -/
def execVfi (o : VCvt) (s : State) : Host.Outcome State Fault Refusal :=
  vec s (.vfi o) 8 (fun T => T.vOk (tyWide o.td) o.d && T.vOk (fWide o.ts) o.a) fun T =>
    T.lanesF o.g.toNat (tyWide o.td) o.d.toNat fun l =>
      let r := toInt o.td (rmode T.th.rm o.rnd) (T.fval o.ts o.a.toNat l)
      ((extTo 64 o.td r.1).toNat, r.2)

def execVif (o : VCvt) (s : State) : Host.Outcome State Fault Refusal :=
  vec s (.vif o) 8 (fun T => T.vOk (fWide o.td) o.d && T.vOk (tyWide o.ts) o.a) fun T =>
    T.lanesF o.g.toNat (fWide o.td) o.d.toNat fun l =>
      (fmtOf o.td).ofInt (rmode T.th.rm o.rnd) o.sat (tyVal o.ts (T.vrd (tyWide o.ts) o.a.toNat l))

/-! ### Uniform floating point (R161) -/

/-- The operand of a uniform word: the low bits of the register. -/
def Thread.fval (th : Thread) (ty : BitVec 3) (r : Nat) : FV := (fmtOf ty).val ((th.rd r).toNat % 2 ^ (fmtOf ty).bits)

/-- A fixed-latency uniform floating word: s(D) takes the result, zero-filled above its width, and the flags are ORed in. -/
def uniF (s : State) (i : Instr) (d : Nat) (f : Thread → W64 × Flg) : Host.Outcome State Fault Refusal :=
  issue s i noLimit fun a s => s.onThread a fun th => ((th.wr d (f th).1).orFlags (f th).2).adv 8

def fres (r : FRes) : W64 × Flg := (BitVec.ofNat 64 r.1, r.2)

def execFadd (o : UF2) (s : State) : Host.Outcome State Fault Refusal :=
  uniF s (.fadd o) o.d.toNat fun th =>
    fres ((fmtOf o.ty).add (rmode th.rm o.rnd) o.sat (th.fval o.ty o.a.toNat) (th.fval o.ty o.b.toNat))

def execFmul (o : UF2) (s : State) : Host.Outcome State Fault Refusal :=
  uniF s (.fmul o) o.d.toNat fun th =>
    fres ((fmtOf o.ty).mul (rmode th.rm o.rnd) o.sat (th.fval o.ty o.a.toNat) (th.fval o.ty o.b.toNat))

def execFfma (o : UF3) (s : State) : Host.Outcome State Fault Refusal :=
  uniF s (.ffma o) o.d.toNat fun th =>
    fres ((fmtOf o.ty).fma (rmode th.rm o.rnd) o.sat (th.fval o.ty o.a.toNat) (th.fval o.ty o.b.toNat) (th.fval o.ty o.c.toNat))

/-- R161: kind 0 float to float, 1 float to integer, 2 integer to float. -/
def execFcvt (o : UFcvt) (s : State) : Host.Outcome State Fault Refusal :=
  uniF s (.fcvt o) o.d.toNat fun th =>
    let m := rmode th.rm o.rnd
    match o.kind.toNat with
    | 0 => fres (convBits o.td o.ts m o.sat ((th.rd o.a.toNat).toNat % 2 ^ (fmtOf o.ts).bits))
    | 1 =>
      let r := toInt o.td m (th.fval o.ts o.a.toNat)
      (extTo 64 o.td r.1, r.2)
    | _ => fres ((fmtOf o.td).ofInt m o.sat (tyVal o.ts (th.rd o.a.toNat).toNat))

end Sys2Proof.Machine
end

