-- ==== Sys2Proof/Machine/Narrow.lean ====
section
/-! DEFINITION. Packed dot products, DS8 weights and bit-plane instructions (R163 to R174). -/

namespace Sys2Proof.Machine

/-! ### Exact sums of products (R107, R166) -/

/-- An exact sum: NaN (with the NV flag its products raise), an infinity, or m · 2^q with its sign. -/
structure ExSum where
  v : FV
  nv : Flg
  deriving DecidableEq, Repr

/-- The empty sum, an exact +0. -/
def ExSum.zero : ExSum := ⟨.fin false 0 0, 0⟩

/-- Add an exact value without rounding; an exact zero is +0 (R107, R166). -/
def FV.addExact (a b : FV) : FV × Flg :=
  match a, b with
  | .nan _, .inf _ => (.nan false, 0)
  | .nan _, _ => (.nan false, 0)
  | _, .nan _ => (.nan false, 0)
  | .inf x, .inf y => if x = y then (.inf x, 0) else (.nan false, fNV)
  | .inf x, _ => (.inf x, 0)
  | _, .inf y => (.inf y, 0)
  | .fin n m q, .fin n' m' q' =>
    let r := addDy n m q n' m' q'
    (.fin (decide (r.1 < 0)) r.1.natAbs r.2, 0)

/-- A product enters the sum; a NaN product that no quiet NaN operand explains raises NV (R166). -/
def ExSum.push (s : ExSum) (a : FV) (b : FV) (p : Option FV) : ExSum :=
  let nv := a.nv ||| b.nv
  match p with
  | none => ⟨.nan false, s.nv ||| nv ||| (if a.isNan || b.isNan then 0 else fNV)⟩
  | some x =>
    let r := s.v.addExact x
    ⟨r.1, s.nv ||| nv ||| r.2⟩

/-- Two products are infinities of opposite sign (R166): whatever else the sum holds, it is a NaN. -/
def infClash (ps : List (Option FV)) : Bool :=
  ps.contains (some (.inf false)) && ps.contains (some (.inf true))

/-- Multiply by 2^(s − 127); 0xFF is a NaN scale (R105). -/
def ExSum.scale (s : ExSum) (b : Nat) : ExSum :=
  if b = 255 then ⟨.nan false, s.nv ||| fNV⟩
  else match s.v with
    | .fin n m q => ⟨.fin n m (q + (b : Int) - 127), s.nv⟩
    | v => ⟨v, s.nv⟩

/-- A product of two elements, the second a DS8 byte or a value. -/
structure Term where
  a : FV
  b : FV
  p : Option FV
  deriving DecidableEq, Repr

/-- The exact sum of the products of a block. -/
def exactSum (ts : List Term) : ExSum :=
  let s := ts.foldl (fun s t => s.push t.a t.b t.p) ExSum.zero
  if infClash (ts.map (·.p)) then ⟨.nan false, s.nv ||| fNV⟩ else s

def fmtF32 : Fmt := fmtOf 1#3

/-- One rounding of the accumulator plus a sum (R107, R165, R166). -/
def accAdd (mode : RMode) (acc : Nat) (s : ExSum) : FRes :=
  let v := fmtF32.val acc
  match s.v with
  | .nan _ => (fmtF32.nan, s.nv ||| v.nv)
  | x =>
    let r := fmtF32.add mode false v x
    (r.1, r.2 ||| s.nv)

/-! ### Packed dot products (R163 to R167) -/

/-- A term of two floating elements. -/
def fTerm (F : Fmt) (x y : Nat) : Term := ⟨F.val x, F.val y, (F.val x).mul (F.val y)⟩

/-- A term of an activation and a DS8 weight (R101). -/
def ds8Term (F : Fmt) (act w : Nat) : Term := ⟨F.val act, .fin false 0 0, (F.val act).mulDs8 w⟩

/-- Activation formats of AF (R164). -/
def afFmt (af : BitVec 2) : Fmt := fmtOf (BitVec.ofNat 3 (af.toNat + 2))

/-- The terms of a lane (R163). -/
def Team.dotTerms (T : Team) (i : Instr) (o : VDot) (l : Nat) : List Term :=
  (List.range (o.kv.toNat + 1)).map fun e =>
    match i with
    | .vdot2 _ => fTerm (fmtOf o.ty) (bits (T.vr o.a.toNat l).toNat (16 * e) 16) (bits (T.vr o.b.toNat l).toNat (16 * e) 16)
    | .vdot4 _ => fTerm (fmtOf o.ty) (bits (T.vr o.a.toNat l).toNat (8 * e) 8) (bits (T.vr o.b.toNat l).toNat (8 * e) 8)
    | _ => ds8Term (afFmt o.af)
        (if o.af.toNat < 2 then bits (T.vr (o.b.toNat + e / 2) l).toNat (16 * (e % 2)) 16 else bits (T.vr o.b.toNat l).toNat (8 * e) 8)
        (bits (T.vr o.a.toNat l).toNat (8 * e) 8)

/-- The scale byte of a lane (R106, R165). -/
def Team.dotScale (T : Team) (o : VDot) (l : Nat) : Nat :=
  bits (T.vr o.c.toNat (32 * (l / 32) + o.j.toNat % 32)).toNat (8 * (o.bs.toNat + o.j.toNat / 32)) 8

/-- R165 in one lane. -/
def Team.dotLane (T : Team) (i : Instr) (o : VDot) (l : Nat) : FRes :=
  let s := exactSum (T.dotTerms i o l)
  accAdd T.th.rm.toNat (T.vr o.d.toNat l).toNat (if o.sen then s.scale (T.dotScale o l) else s)

/-- A packed dot product: launch limits, then every active lane; B of `vdotds` is a pair for 16-bit activations. -/
def vecDot (i : Instr) (o : VDot) (pairB : Bool) (s : State) : Host.Outcome State Fault Refusal :=
  vec s i 8 (fun T => T.vOk false o.d && T.vOk false o.a && T.vOk pairB o.b && (!o.sen || T.vOk false o.c)) fun T =>
    T.lanesF o.g.toNat false o.d.toNat fun l => T.dotLane i o l

def execVdot2 (o : VDot) (s : State) : Host.Outcome State Fault Refusal := vecDot (.vdot2 o) o false s

def execVdot4 (o : VDot) (s : State) : Host.Outcome State Fault Refusal := vecDot (.vdot4 o) o false s

def execVdotds (o : VDot) (s : State) : Host.Outcome State Fault Refusal := vecDot (.vdotds o) o (decide (o.af.toNat < 2)) s

/-- R168: one byte of v(D). -/
def execVcvtds (o : VCvtds) (s : State) : Host.Outcome State Fault Refusal :=
  vec s (.vcvtds o) 8 (fun T => T.vOk false o.d && T.vOk (fWide o.ts) o.a) fun T =>
    T.lanesF o.g.toNat false o.d.toNat fun l =>
      let r := toDs8 (T.fval o.ts o.a.toNat l)
      let x := (T.vr o.d.toNat l).toNat
      let p := 8 * o.pos.toNat
      (x % 2 ^ p + r.1 * 2 ^ p + x / 2 ^ (p + 8) * 2 ^ (p + 8), r.2)

/-! ### Bit planes (R103, R104, R169 to R174) -/

/-- Plane width of M[1:0]. -/
def planeK (k : BitVec 2) : Nat := 2 ^ k.toNat

/-- Clamp to BPk (R171). -/
def clampBp (signed : Bool) (k : Nat) (v : Int) : Int :=
  let lo : Int := if signed then -((2 ^ (k - 1) : Nat) : Int) else 0
  let hi : Int := ((2 ^ (if signed then k - 1 else k) : Nat) : Int) - 1
  if v < lo then lo else if hi < v then hi else v

/-- Plane `i` of group `g` of the team's values (R171), half `h` (0 low, 1 high). -/
def Team.planeHalf (T : Team) (signed : Bool) (k a g i h : Nat) : Nat :=
  (List.range 32).foldr (fun e n =>
    let l := 64 * g + 32 * h + e
    let x := if l < 32 * T.words then T.vr a l else 0#32
    b2n (bitAt (wrapN k (clampBp signed k (if signed then x.toInt else (x.toNat : Int)))) i) + 2 * n) 0

/-- R171 `vbpl`: the lanes that belong to the image. -/
def execVbpl (o : VBp) (s : State) : Host.Outcome State Fault Refusal :=
  vecLater s (.vbpl o) 8 (fun T => T.vOk false o.d && T.vOk false o.a) fun T =>
    let k := planeK o.k
    (((T.active o.g.toNat).filter fun l => decide (l < 2 * k * T.maskRegs)).map fun l =>
      .v o.d.toNat l (BitVec.ofNat 32 (T.planeHalf o.signed k o.a.toNat (l / (2 * k)) (l % (2 * k) / 2) (l % 2))), 0)

/-- The value of element `e` of group `g` of an image (R103). -/
def Team.imageElem (T : Team) (signed : Bool) (k a g e : Nat) : Int :=
  ((List.range k).map fun i =>
    let w := (T.vr a (2 * k * g + 2 * i + e / 32)).toNat
    if bitAt w (e % 32) then (if signed ∧ i = k - 1 then -((2 ^ i : Nat) : Int) else ((2 ^ i : Nat) : Int)) else 0).sum

/-- R171 `vbpu`. -/
def execVbpu (o : VBp) (s : State) : Host.Outcome State Fault Refusal :=
  vecLater s (.vbpu o) 8 (fun T => T.vOk false o.d && T.vOk false o.a) fun T =>
    ((T.active o.g.toNat).map fun l =>
      .v o.d.toNat l (BitVec.ofInt 32 (T.imageElem o.signed (planeK o.k) o.a.toNat (l / 64) (l % 64))), 0)

/-- A lane group of k planes lies below VREGS (R169). -/
def Team.groupOk (T : Team) (k : Nat) (r : BitVec 8) : Bool := decide (r.toNat + 2 * k ≤ T.vregs)

/-- R172: the sum over the planes read. -/
def Team.bpSum (T : Team) (o : VBpdot) (l : Nat) : Int :=
  let k := planeK o.k
  let m := o.m.toNat + 1
  ((List.range k).map fun i =>
    if k - m ≤ i then
      (if o.signed ∧ i = k - 1 then -((2 ^ i : Nat) : Int) else ((2 ^ i : Nat) : Int)) *
        (popN 64 (T.vrd true (o.a.toNat + 2 * i) l &&& (T.th.rd o.b.toNat).toNat) : Int)
    else 0).sum

def execVbpdot (o : VBpdot) (s : State) : Host.Outcome State Fault Refusal :=
  vec s (.vbpdot o) 8 (fun T => T.vOk false o.d && T.groupOk (planeK o.k) o.a) fun T =>
    T.lanes32 o.g.toNat o.d.toNat fun l => wrapN 32 (((T.vr o.d.toNat l).toNat : Int) + T.bpSum o l)

/-- R173. -/
def execVbpsel (o : VBpsel) (s : State) : Host.Outcome State Fault Refusal :=
  vec s (.vbpsel o) 8 (fun T => T.groupOk (planeK o.k) o.d && T.groupOk (planeK o.k) o.a) fun T =>
    let m := (T.th.rd o.b.toNat).toNat
    T.eachLane (T.active o.g.toNat) fun U l => (List.range (planeK o.k)).foldl (fun U i =>
      U.vwr true (o.d.toNat + 2 * i) l
        ((T.vrd true (o.a.toNat + 2 * i) l &&& m) ||| (T.vrd true (o.d.toNat + 2 * i) l &&& (2 ^ 64 - 1 - m)))) U

end Sys2Proof.Machine
end

