-- ==== Sys2Proof/Machine/Engine.lean ====
section
/-! DEFINITION. Engine queues and engine jobs: copies, byte-count barriers, tile descriptors, matrix commands and accumulator
moves (R32 to R34, R65, R66, R107, R127, R207 to R221, R300, R301, R340 to R342). A command issues from the head of its
queue and becomes a job; events read its elements, move its bytes and complete it. -/

namespace Sys2Proof.Machine

/-! ### Tile descriptors (R32 to R34, R300) -/

def TDesc.f (d : TDesc) (lo n : Nat) : Nat := bits d.toNat lo n

def TDesc.off (d : TDesc) : Nat := TDesc.f d 0 16

def TDesc.slot (d : TDesc) : Nat := TDesc.f d 16 4

def TDesc.rows (d : TDesc) : Nat := TDesc.f d 24 12 + 1

def TDesc.cols (d : TDesc) : Nat := TDesc.f d 36 12 + 1

def TDesc.pitch (d : TDesc) : Nat := if TDesc.f d 48 16 = 0 then 65536 else TDesc.f d 48 16

def TDesc.fmt (d : TDesc) : Nat := TDesc.f d 64 6

def TDesc.swz (d : TDesc) : Nat := TDesc.f d 72 3

def TDesc.sslot (d : TDesc) : Nat := TDesc.f d 76 4

def TDesc.soff (d : TDesc) : Nat := TDesc.f d 80 16

def TDesc.sen (d : TDesc) : Bool := bitAt d.toNat 96

/-- Element bytes of a format (R34); 0 for bit planes. -/
def fmtBytes (fmt : Nat) : Nat := [1, 2, 4, 8, 4, 2, 2, 1, 1, 1].getD fmt 0

/-- RLEN (R34). -/
def TDesc.rlen (d : TDesc) : Nat :=
  if TDesc.fmt d < 10 then TDesc.cols d * fmtBytes (TDesc.fmt d) else 8 * 2 ^ (TDesc.fmt d - 10) * ((TDesc.cols d + 63) / 64)

/-- n of R300. -/
def TDesc.n (d : TDesc) : Nat := [1, 4, 8, 16].getD (TDesc.swz d) 1

/-- The basin byte of row r, in-row byte c (R300). -/
def TDesc.at (d : TDesc) (r c : Nat) : Nat :=
  (TDesc.off d + r * TDesc.pitch d + (c ^^^ (16 * (r % TDesc.n d)))) % 65536

/-- Cases of R34 that need only the descriptor: reserved codes and rows that do not fit. -/
def TDesc.bad (d : TDesc) : Bool :=
  decide (14 ≤ TDesc.fmt d) || decide (4 ≤ TDesc.swz d) || decide (65536 < TDesc.off d + (TDesc.rows d - 1) * TDesc.pitch d + TDesc.rlen d)

/-! ### Regions (R301, R340) -/

/-- The granules of one row of a region. -/
def Region.row (R : Region) (r : Nat) : List Int :=
  let lo := R.lo + R.stride * r
  if R.len = 0 then []
  else (List.range (((lo % 64).toNat + R.len + 63) / 64)).map fun i =>
    match R.basin with
    | some _ => (lo / 64 + i) % 1024
    | none => lo / 64 + i

/-- Two regions share a granule that is not merely one both count down (R340). -/
def Region.meets (A B : Region) : Bool :=
  decide (A.basin = B.basin) && !(A.count && B.count) &&
    (List.range A.rows).any fun i => (List.range B.rows).any fun j => (A.row i).any fun g => (B.row j).contains g

/-- Accumulators a job names: core-independent numbers (R218). -/
def Job.accs (j : Job) : List Nat :=
  match j.kind with
  | .matrix (.mma o) => if o.ty = 0#3 then [o.d.toNat, o.d.toNat + 1] else [o.d.toNat]
  | .matrix (.mmas o) | .matrix (.mmag o) => [o.d.toNat]
  | .accMove (.accld o) => if o.m5 = 0#3 then [o.d.toNat, o.d.toNat + 1] else [o.d.toNat]
  | .accMove (.accst o) => if o.m2 = 0#3 then [o.d.toNat, o.d.toNat + 1] else [o.d.toNat]
  | .accMove (.acczero o) => if o.ta = 0#3 then [o.d.toNat, o.d.toNat + 1] else [o.d.toNat]
  | _ => []

/-- R340, R218: an earlier job keeps a later one waiting. -/
def Job.blocks (j k : Job) : Bool :=
  j.writes.any (fun w => (k.reads ++ k.writes).any w.meets) ||
    (!j.readDone && j.reads.any fun r => k.writes.any r.meets) ||
    (decide (j.blk = k.blk) && j.accs.any fun x => k.accs.contains x)

/-- Job `n` of a core may act: its context runs and no earlier job keeps it waiting. -/
def State.jobFree (s : State) (c n : Nat) : Option Job :=
  match (s.core c).jobs[n]? with
  | some j =>
    if s.ctxRuns j.ctx = false then none
    else if ((s.core c).jobs.take n).any fun e => e.blocks j then none else some j
  | none => none

def State.setJob (s : State) (c n : Nat) (j : Job) : State :=
  let C := s.core c
  s.setCore c { C with jobs := C.jobs.set n j }

def State.dropJob (s : State) (c n : Nat) : State :=
  let C := s.core c
  s.setCore c { C with jobs := C.jobs.eraseIdx n }

/-- An engine arrival on its way to a numbered barrier (R127, R219). -/
def State.arriveLater (s : State) (cl blk bar : Nat) : State :=
  let C := s.cluster cl
  s.setCluster cl { C with arrivals := C.arrivals ++ [(blk, bar)] }

/-- The stop record of an engine job: matrix, copy or Weir (R412). -/
def State.jobRecord (s : State) (c : Nat) (j : Job) (fl : Nat) : StopRec :=
  let r := { s.stopRecord (.queue c) 0 fl with pc := 0, tag := j.prov }
  match j.kind with
  | .copy d left _ => { r with kind := 3, id := 0, prog := j.num, done := d.rows * d.rowlen - (left.map (·.2)).sum }
  | .matrix i => { r with kind := (engineUnit i).1, id := (engineUnit i).2, prog := j.steps }
  | .accMove i | .weir i => { r with kind := (engineUnit i).1, id := (engineUnit i).2 }

/-- A fault of a job: the cause with its provenance (R220); the job stops with this record (R356). -/
def State.jobFault (s : State) (c : Nat) (j : Job) (cause : Nat) : State :=
  let s := s.engineStop c j.ctx j.prov cause (s.jobRecord c j 0)
  let C := s.core c
  s.setCore c { C with jobs := C.jobs.filter fun k => decide (k.id ≠ j.id) }

/-! ### The head of a queue (R218) -/

/-- A queue word at the head of its core's queue. -/
def queueWord (s : State) (i : Instr) (f : Nat → Nat → Block → Nat → State → State) (lim : Block → Bool := fun _ => true) :
    Host.Outcome State Fault Refusal :=
  issue s i (fun a => ((s.agentBlk? a).bind s.block?).all lim) fun a s => match a with
    | .queue c => match (s.core c).queue with
      | e :: _ => match s.block? e.blk with
        | some B => f c e.blk B e.tag s
        | none => s.popQueue c
      | [] => s
    | _ => s

def State.setHead (s : State) (c : Nat) (h : HeadStage) : State :=
  let C := s.core c
  s.setCore c { C with head := h }

/-- The head command of a queue begins to wait (R354), if it does not wait already. -/
def State.stampQueue (s : State) (c : Nat) : State :=
  let C := s.core c
  if C.stamp.isSome then s else s.setCore c { C with stamp := some (s.gtime, (s.part (ctxPart ((s.agentCtx? (.queue c)).getD 0))).wdtime) }

/-- The head command of a queue waits no longer. -/
def State.unstamp (s : State) (c : Nat) : State :=
  let C := s.core c
  s.setCore c { C with stamp := none }

/-- R218 step 1, R127: arrive on a barrier, then wait for its phase to change; goes on with `f` once it has. -/
def State.waitHead (s : State) (c blk : Nat) (B : Block) (bar : Option Nat) (f : State → State) : State :=
  match bar, (s.core c).head with
  | none, _ => f s
  | some _, .ready => f s
  | some n, .fresh => ((s.engineArrive blk n).setHead c (.waitBar n (B.bar n).flips)).stampQueue c
  | some _, .waitBar k seen => if (B.bar k).flips ≠ seen then f ((s.setHead c .ready).unstamp c) else s

/-- A slot of a core as a context finds it. -/
def State.resolve (s : State) (c slot ctx : Nat) : Nat × Option Nat :=
  (slot, match s.slotBasin c slot ctx with
    | .ok b => some b
    | .error _ => none)

/-- A new job behind the others of its core. -/
def State.addJob (s : State) (c : Nat) (j : Job) : State :=
  let C := s.core c
  (s.setCore c { C with jobs := C.jobs ++ [{ j with id := s.uid }] }).fresh

def Job.base (kind : JobKind) (prov blk ctx : Nat) : Job :=
  { kind := kind, id := 0, num := 0, prov := prov, blk := blk, ctx := ctx, reads := [], writes := [], da := 0, db := 0
    slots := [], idx := [], pos := [], scl := [], got := [], readDone := false, steps := 0 }

/-- The basin a job resolved a slot to. -/
def Job.basinOf (j : Job) (slot : Nat) : Except Nat Nat :=
  match lget j.slots slot with
  | some (some b) => .ok b
  | _ => .error 5

/-! ### Copies (R207, R208, R220) -/

/-- A descriptor from its 64 bytes, and whether it is legal (R207, R208). -/
def parseCopy (b : List Byte) : CopyDesc × Bool :=
  let x := leNat b
  let k := bits x 384 8
  let d : CopyDesc :=
    { src := BitVec.ofNat 64 (bits x 0 64), dst := BitVec.ofNat 64 (bits x 64 64), rowlen := bits x 128 32, rows := bits x 160 32
      sstride := BitVec.ofNat 32 (bits x 192 32), dstride := BitVec.ofNat 32 (bits x 224 32), idx := BitVec.ofNat 64 (bits x 256 64)
      glim := bits x 320 32, ben := bitAt x 383, bco := bits x 352 20, kind := k % 4, iw := bitAt k 2 }
  (d, decide (d.kind ≠ 3) && decide (k < 8) && decide (bits x 392 120 = 0) && decide (bits x 372 11 = 0) &&
    decide (d.bco % 8 = 0) && decide (1 ≤ d.rowlen) && decide (1 ≤ d.rows) && decide (d.rows < 65536) &&
    (decide (d.kind ≠ 0) || decide (d.rows = 1)) &&
    (decide (d.kind = 2) || (decide (d.glim = 0) && decide (d.idx = 0) && !d.iw)))

/-- The part of a range of the basin window, `len` bytes from window byte `lo`, that lies in a slot: where it begins in the basin and its
length. -/
def slotPart (lo : Int) (len k : Nat) : Option (Nat × Nat) :=
  let a := max lo (65536 * (k : Int))
  let b := min (lo + (len : Int)) (65536 * (k : Int) + 65536)
  if a < b then some ((a - 65536 * (k : Int)).toNat, (b - a).toNat) else none

/-- The slots that a range of the basin window touches. -/
def slotsIn (lo : Int) (len : Nat) : List Nat := (List.range 16).filter fun k => (slotPart lo len k).isSome

/-- The regions of a range of `len` bytes, `delta` from a generic address; in the basin window, by the basin of each slot. -/
def State.rangeRegions (s : State) (c ctx : Nat) (g : W64) (delta : Int) (len : Nat) : List Region :=
  match steer g with
  | .global va => [⟨none, (va : Int) + delta, 0, 1, len, false⟩]
  | .basin slot off =>
    let lo : Int := (65536 * slot + off : Nat) + delta
    (slotsIn lo len).filterMap fun k => match s.slotBasin c k ctx, slotPart lo len k with
      | .ok b, some (o, n) => some ⟨some b, (o : Int), 0, 1, n, false⟩
      | _, _ => none
  | _ => []

/-- The interval of a strided source: [0, last · stride + len) of R208, which `last` = −1 (GLIM = 0) cuts short or, with a negative stride,
makes longer. Rows that a negative stride puts below SRC lie outside that interval; for them the model takes the one from the lowest row
to the end of the highest (DESIGN CHOICE, log entry 93). -/
def spanOf (last : Int) (stride : Int) (len : Nat) : Int × Nat :=
  let e := stride * last
  if 0 ≤ last ∧ stride < 0 then (e, e.natAbs + len) else (0, (e + (len : Int)).toNat)

/-- The slots of the basin window that rows at a generic address touch. -/
def rowSlots (g : W64) (last : Int) (stride : Int) (len : Nat) : List Nat :=
  match steer g with
  | .basin slot off =>
    let sp := spanOf last stride len
    slotsIn ((65536 * slot + off : Nat) + sp.1) sp.2
  | _ => []

/-- The regions of destination rows: one strided region where they lie in one basin or in the global window. -/
def State.rowRegions (s : State) (c ctx : Nat) (g : W64) (stride : Int) (rows len : Nat) : List Region :=
  match steer g with
  | .global va => [⟨none, (va : Int), stride, rows, len, false⟩]
  | .basin slot off =>
    if (rowSlots g ((rows : Int) - 1) stride len).length ≤ 1 then (match s.slotBasin c slot ctx with
      | .ok b => [⟨some b, (off : Int), stride, rows, len, false⟩]
      | .error _ => [])
    else (List.range rows).flatMap fun r => s.rangeRegions c ctx g (stride * (r : Int)) len
  | _ => []

/-- ROWS − 1 or GLIM − 1: the last row or index that a copy's source can reach (R208). -/
def CopyDesc.last (d : CopyDesc) : Int := ((if d.kind = 2 then d.glim else d.rows : Nat) : Int) - 1

/-- Read and write regions of a copy (R208, R340); the last write region is the byte-count object when BEN = 1. -/
def State.copyRegions (s : State) (c ctx : Nat) (d : CopyDesc) : List Region × List Region × List Region :=
  let sp := spanOf d.last d.sstride.toInt d.rowlen
  let src := s.rangeRegions c ctx d.src sp.1 sp.2
  let idx := if d.kind = 2 then s.rangeRegions c ctx d.idx 0 (d.rows * if d.iw then 2 else 4) else []
  let dst := s.rowRegions c ctx d.dst d.dstride.toInt d.rows d.rowlen
  let obj := if d.ben then (match s.slotBasin c (d.bco / 65536) ctx with
    | .ok b => [⟨some b, ((d.bco % 65536 : Nat) : Int), 0, 1, 8, true⟩]
    | .error _ => []) else []
  (src ++ idx, dst, obj)

/-- The slots that a copy names, with those its rows step into. -/
def CopyDesc.slotNums (d : CopyDesc) : List Nat :=
  (rowSlots d.src d.last d.sstride.toInt d.rowlen ++ rowSlots d.dst ((d.rows : Int) - 1) d.dstride.toInt d.rowlen ++
    (if d.kind = 2 then rowSlots d.idx 0 0 (d.rows * if d.iw then 2 else 4) else []) ++ (if d.ben then [d.bco / 65536] else [])).eraseDups

/-- R208: a descriptor becomes a job, or is an illegal descriptor or a footprint violation at issue. -/
def State.issueCopy (s : State) (c blk ctx prov k : Nat) (b : List Byte) : State :=
  let d := (parseCopy b).1
  let j := { Job.base (.copy d [(0, d.rows * d.rowlen)] 0) prov blk ctx with num := k }
  if (parseCopy b).2 = false then s.jobFault c j 0xC
  else
    let r := s.copyRegions c ctx d
    if r.1.any (fun x => (r.2.1 ++ r.2.2).any x.meets) || r.2.2.any (fun o => r.2.1.any o.meets) then s.jobFault c j 6
    else s.addJob c { j with
      reads := r.1, writes := r.2.1 ++ r.2.2, slots := d.slotNums.map fun k => s.resolve c k ctx }

/-- Every descriptor of a list becomes a job, until one faults. -/
def State.issueCopies (s : State) (c blk ctx prov cl basin off k : Nat) : Nat → State
  | 0 => s
  | n + 1 =>
    let s := s.issueCopy c blk ctx prov k (s.basinRd cl basin off 64)
    if (s.ctx ctx).mode = .halted then s else s.issueCopies c blk ctx prov cl basin (off + 64) (k + 1) n

/-- R210. Where the list overflows its basin and the slot is empty or foreign as well, the address fault is the one reported
(DESIGN CHOICE, log entry 80). -/
def execCopy (o : QCopy) (s : State) : Host.Outcome State Fault Refusal :=
  queueWord s (.copy o) fun c blk B prov s =>
    let slot := o.addr.toNat / 65536
    let off := o.addr.toNat % 65536
    let n := o.n1.toNat + 1
    if 65536 < off + 64 * n then s.engineFault c B.ctx prov 2
    else match s.slotBasin c slot B.ctx with
      | .error e => s.engineFault c B.ctx prov e
      | .ok b => (s.issueCopies c blk B.ctx prov (c / 8) b off 0 n).popQueue c

/-- R209: a kicked list, once older accesses are checked and the team's basin stores are performed. Of two kicks of one team either may reach
the request engine first (DESIGN CHOICE, log entry 93). -/
def State.doKick (s : State) (t n : Nat) (p : Pend) (T : Team) (x : W64) (cnt : Nat) : State :=
  let a : Agent := .team t
  let fault (cause : Nat) : State :=
    (s.setTeam t { T with th := { T.th with pc := p.pc, pend := T.th.pend.take n } }).teamFault t cause 0 []
  match steer x with
  | .basin slot off =>
    if off % 64 ≠ 0 ∨ 1024 < cnt ∨ 65536 < off + 64 * cnt then fault 2
    else match s.slotBasin (t / 256) slot T.ctx with
      | .error e => fault e
      | .ok b =>
        if (T.th.pend.take n).any fun q => !q.finished && (match q.work with
          | .mem m => decide (m.kind = .st) && m.lanes.any fun l => l.inBasin && !l.stage.done
          | _ => false) then s
        else (s.finishItem a n p).issueCopies (t / 256) T.blk T.ctx p.prov (t / 2048) b off 0 cnt
  | _ => fault 2

/-- A byte that an engine reads at a generic address, with its poison mark (R208). A byte in the cistern of the engine's cluster is
seen there (R304). -/
def State.engineRd (s : State) (c : Nat) (j : Job) (g : W64) : Except Nat (Byte × Bool) :=
  match steer g with
  | .global va => do
    let p ← s.translate j.ctx va .read false
    return (match cisternByte (s.cluster (c / 8)).cistern p.1 with
      | some b => b
      | none => (s.mem8 p.1, s.poisoned p.1 1))
  | .basin slot off => do
    let b ← j.basinOf slot
    return (s.basin8 (c / 8) b off, s.basinPoisoned (c / 8) b off 1)
  | _ => .error 2

/-- Where an engine writes a byte: a physical address, or a basin byte. -/
def State.engineWrAt (s : State) (j : Job) (g : W64) : Except Nat (Nat ⊕ (Nat × Nat)) :=
  match steer g with
  | .global va => do
    let p ← s.translate j.ctx va .write false
    return .inl p.1
  | .basin slot off => do
    let b ← j.basinOf slot
    return .inr (b, off)
  | _ => .error 2

/-- Consecutive bytes are written at once, so that a whole unit clears its poison (R432); poisoned source bytes mark the
units they go to. -/
def State.engineWrite (s : State) (c : Nat) (ws : List ((Nat ⊕ (Nat × Nat)) × Byte × Bool)) : State :=
  let bytes := ws.map fun w => w.2.1
  let one (s : State) (w : (Nat ⊕ (Nat × Nat)) × Byte × Bool) : State := match w.1 with
    | .inl pa => s.perform pa [w.2.1]
    | .inr (b, off) => s.basinWr (c / 8) b off [w.2.1]
  let s := match ws with
    | (.inl pa, _, _) :: _ =>
      if ws.map (fun w => w.1) = (List.range ws.length).map (fun i => .inl (pa + i)) then s.perform pa bytes else ws.foldl one s
    | (.inr (b, off), _, _) :: _ =>
      if ws.map (fun w => w.1) = (List.range ws.length).map (fun i => .inr (b, off + i)) then s.basinWr (c / 8) b off bytes
      else ws.foldl one s
    | [] => s
  ws.foldl (fun s w => match w.1 with
    | .inl pa => s.sectorMark pa w.2.2
    | .inr (b, off) => s.basinMark (c / 8) b off 1 w.2.2) s

/-- R208: the index of a gathered row, read once; one that would cross the end of its basin is an address fault (DESIGN CHOICE, log
entry 80), and so is, at the gather, one of a list that R207 puts in the basin window and the descriptor does not (DESIGN CHOICE, log
entry 93). -/
def State.copyIndex (s : State) (c : Nat) (j : Job) (d : CopyDesc) (r : Nat) : Except Nat (Nat × Job) :=
  match mget 0 j.got r with
  | x + 1 => .ok (x, j)
  | 0 => do
    let w := if d.iw then 2 else 4
    match steer (d.idx + BitVec.ofNat 64 (w * r)) with
    | .basin slot off =>
      if 65536 < off + w then throw 2
      let b ← j.basinOf slot
      if s.basinPoisoned (c / 8) b off w then throw 0xD
      let x := leNat (s.basinRd (c / 8) b off w)
      return (x, { j with got := mput 0 j.got r (x + 1) })
    | _ => throw 2

/-- A row of `len` bytes at a generic address stays within its window and basin (R208). The spec names no cause for a row that does
not; the model takes an address fault (DESIGN CHOICE, log entry 80). -/
def rowFits (g : W64) (len : Nat) : Bool :=
  match steer g with
  | .global va => decide (va + len ≤ 2 ^ 52)
  | .basin _ off => decide (off + len ≤ 65536)
  | _ => false

/-- The translations that an engine or generator thread takes for a range of the global window are cached (R400). -/
def State.noteSpan (s₀ s : State) (ctx va n : Nat) : State :=
  (va :: (List.range ((va % 65536 + n - 1) / 65536)).map fun k => (va / 65536 + k + 1) * 65536).foldl (fun s x => State.noteLeaf s₀ s ctx x) s

/-- The home slices fill the lines of a range of the global window that an engine reads (R309). -/
def State.readSlices (s₀ s : State) (ctx : Nat) (g : W64) (n : Nat) : State :=
  match steer g with
  | .global va =>
    (((List.range n).filterMap fun i => match s₀.translate ctx (va + i) .read false with
      | .ok p => some (p.1 / 128)
      | .error _ => none).eraseDups).foldl (fun s l => s.sliceTake l false) s
  | _ => s

/-- R208: move bytes `o` to `o + n − 1` of row `r`. -/
def State.copyMove (s : State) (c : Nat) (j : Job) (d : CopyDesc) (r o n : Nat) : Except Nat (State × Job) := do
  let (src, j) ← (if d.kind = 2 then do
      let (x, j) ← s.copyIndex c j d r
      if x = 2 ^ (if d.iw then 16 else 32) - 1 then return (none, j)
      if d.glim ≤ x then throw 6
      return (some (d.src + BitVec.ofInt 64 (d.sstride.toInt * (x : Int))), j)
    else return (some (d.src + BitVec.ofInt 64 (d.sstride.toInt * (r : Int))), j) : Except Nat (Option W64 × Job))
  let dst := d.dst + BitVec.ofInt 64 (d.dstride.toInt * (r : Int))
  if rowFits dst d.rowlen = false ∨ (match src with
    | some g => rowFits g d.rowlen
    | none => true) = false then throw 2
  let ws ← (List.range n).mapM fun i => do
    let k := BitVec.ofNat 64 (o + i)
    let b ← (match src with
      | some g => s.engineRd c j (g + k)
      | none => .ok (0#8, false))
    let w ← s.engineWrAt j (dst + k)
    return (w, b.1, b.2)
  let note (s' : State) (g : W64) : State := match steer (g + BitVec.ofNat 64 o) with
    | .global va => s.noteSpan s' j.ctx va n
    | _ => s'
  let s' := note (s.engineWrite c ws) dst
  return (match src with
    | some g => State.readSlices s (note s' g) j.ctx (g + BitVec.ofNat 64 o) n
    | none => s', j)

/-- Take [p, p + n) out of a list of runs; none when it is not within one run. -/
def takeRun (p n : Nat) : List (Nat × Nat) → Option (List (Nat × Nat))
  | [] => none
  | (q, l) :: r =>
    if q ≤ p ∧ p + n ≤ q + l then
      some ((if q < p then [(q, p - q)] else []) ++ (if p + n < q + l then [(p + n, q + l - (p + n))] else []) ++ r)
    else (takeRun p n r).map ((q, l) :: ·)

/-- R208, R220: one step of a copy job: `n` bytes from position `p` of its ROWS · ROWLEN bytes move, or, with n = 0, `p` moved
bytes are counted down at BCO, which reads COUNT into arithmetic (R432). -/
def State.copyStep (s : State) (c k p n : Nat) : State :=
  match s.jobFree c k with
  | none => s
  | some j => match j.kind with
    | .copy d left unc =>
      if n = 0 then
        (if p = 0 ∨ unc < p then s
         else match j.basinOf (d.bco / 65536) with
          | .error e => s.jobFault c j e
          | .ok b =>
            let off := d.bco % 65536
            if s.basinPoisoned (c / 8) b off 4 then s.jobFault c j 0xD
            else
            let v : W32 := BitVec.ofNat 32 (leNat (s.basinRd (c / 8) b off 4)) - BitVec.ofNat 32 p
            (s.basinWr (c / 8) b off (natLe 4 v.toNat)).setJob c k { j with kind := .copy d left (unc - p) })
      else if d.rowlen < p % d.rowlen + n then s
      else match takeRun p n left with
        | none => s
        | some left' => match s.copyMove c j d (p / d.rowlen) (p % d.rowlen) n with
          | .error e => if e = 1 ∧ (s.part (ctxPart j.ctx)).ft = false ∧ s.poolHas (ctxPart j.ctx) then s else s.jobFault c j e
          | .ok (s, j) => s.setJob c k { j with kind := .copy d left' (unc + if d.ben then n else 0), readDone := decide (left' = []) }
    | _ => s

def execCopyBytesCounted (core job row n : Nat) (s : State) : Host.Outcome State Fault Refusal := .next (s.copyStep core job row n)

/-! ### Byte-count barrier objects and descriptors in the queue (R211, R212) -/

/-- No unfinished job of the core shares a granule with these regions in a way that orders them (R340). -/
def State.queueFree (s : State) (c : Nat) (reads writes : List Region) : Bool :=
  let k : Job := { Job.base (.weir .wreset) 0 0 0 with reads := reads, writes := writes }
  (s.core c).jobs.all fun j => !j.blocks k

def execBinit (o : QBinit) (s : State) : Host.Outcome State Fault Refusal :=
  queueWord s (.binit o) fun c _ B prov s =>
    let off := o.addr.toNat % 65536
    match s.slotBasin c (o.addr.toNat / 65536) B.ctx with
    | .error e => s.engineFault c B.ctx prov e
    | .ok b =>
      if s.queueFree c [] [⟨some b, (off : Int), 0, 1, 8, false⟩] then (s.basinWr (c / 8) b off (natLe 4 o.count.toNat)).popQueue c
      else s

/-- COUNT of an object, signed (R211). -/
def State.countAt (s : State) (cl b off : Nat) : Int := (BitVec.ofNat 32 (leNat (s.basinRd cl b off 4))).toInt

def execBwaitQueue (o : QBwait) (s : State) : Host.Outcome State Fault Refusal :=
  queueWord s (.bwaitQueue o) fun c _ B prov s =>
    let off := o.off.toNat
    match s.slotBasin c o.slot.toNat B.ctx with
    | .error e => s.engineFault c B.ctx prov e
    | .ok b =>
      if s.basinPoisoned (c / 8) b off 4 then s.engineFault c B.ctx prov 0xD
      else if s.queueFree c [⟨some b, (off : Int), 0, 1, 8, false⟩] [] = false then s.stampQueue c
      else if s.countAt (c / 8) b off ≤ 0 then s.popQueue c
      else s.stampQueue c

/-- A word of the queue that a `tdset` of its generator thread is still to precede (R212). -/
def State.behindTdset (s : State) (cl gen run : Nat) : Bool :=
  match s.gen? (16 * cl + gen) with
  | some G => G.th.pend.any fun p => !p.finished && decide (p.id < run) && (match p.work with
      | .held (.tdset _ _) => true
      | _ => false)
  | none => false

/-- A named descriptor lies in the block's allocation (R34, R59). -/
def State.tdOk (s : State) (B : Block) (d : Nat) : Bool :=
  match s.launch? B.launch with
  | some L => decide (d < 4 * L.rcd.tdg)
  | none => false

/-- The head command of a queue comes after a `tdset` of its thread that has not taken effect (R212). -/
def State.headBehind (s : State) (c : Nat) : Bool :=
  match (s.core c).queue with
  | e :: _ => s.behindTdset (c / 8) e.gen e.run
  | [] => false

def execTdsetQueue (o : QTdset) (s : State) : Host.Outcome State Fault Refusal :=
  queueWord s (.tdsetQueue o) (fun c blk B prov s =>
    if s.headBehind c then s
    else match s.slotBasin c (o.addr.toNat / 65536) B.ctx with
    | .error e => s.engineFault c B.ctx prov e
    | .ok b =>
      let img : TDesc := BitVec.ofNat 128 (leNat (s.basinRd (c / 8) b (o.addr.toNat % 65536) 16))
      (s.setBlock blk { B with td := mput 0 B.td o.d.toNat img }).popQueue c) fun B => s.tdOk B o.d.toNat

/-- A generator thread reads bytes of the global window coherently when its word issues (R212, R236), once its earlier accesses
are performed. An error is a cause, or none where the thread has to wait: for those accesses, or for a first-touch page
that the pool can fill (R353). -/
def State.genRead (s : State) (a : Agent) (va n : Nat) : Except (Option Nat) (List Byte) :=
  let ctx := (s.agentCtx? a).getD 0
  let h := agentHolder a
  match s.translateAll ctx false .read ((List.range n).map (va + ·)), s.thread? a with
  | .error e, _ => .error (if e = 1 ∧ (s.part (ctxPart ctx)).ft = false ∧ s.poolHas (ctxPart ctx) then none else some e)
  | .ok pas, some th =>
    if th.pend.all Pend.performed = false then .error none
    else
      let bs : List (Byte × Bool) := pas.map fun pa => match sbufByte (s.sbuf h) pa.1 with
        | some b => b
        | none => (cisternByte (s.cluster (h / 16)).cistern pa.1).getD (s.mem8 pa.1, s.poisoned pa.1 1)
      if bs.any (·.2) then .error (some 0xD) else .ok (bs.map (·.1))
  | .ok _, none => .error none

/-- R212 in the generator place: a multiple of 16 in the global window. The image takes effect when the words emitted before
it have issued. -/
def State.tdsetGo (s : State) (a : Agent) (d len : Nat) (addr : W64) : State :=
  match steer addr with
  | .global va =>
    if va % 16 ≠ 0 then s.raise a 2
    else match s.genRead a va 16 with
      | .error none => s.park a .retry
      | .error (some e) => s.raise a e
      | .ok bs => (s.noteSpan s ((s.agentCtx? a).getD 0) va 16).later a len [] (.held (.tdset d (BitVec.ofNat 128 (leNat bs))))
  | _ => s.raise a 2

def execTdset (o : GTdset) (s : State) : Host.Outcome State Fault Refusal :=
  issue s (.tdset o) (fun a => ((s.agentBlk? a).bind s.block?).all fun B => s.tdOk B o.d.toNat) fun a s =>
    s.tdsetGo a o.d.toNat (dispLen o.disp) (s.rdS a o.a.toNat + dispVal o.disp)

/-- Words that a thread emitted to engine queues before a moment have all issued (R212). -/
def State.emittedGone (s : State) (g before : Nat) : Bool :=
  (List.range 8).all fun k =>
    let C := s.core (8 * (g / 16) + k)
    (C.flue.all fun e => decide (e.gen ≠ g % 16) || decide (e.dest ≠ .queue) || decide (before ≤ e.run)) &&
      (C.queue.all fun e => decide (e.gen ≠ g % 16) || decide (before ≤ e.run))

/-- A `tdset` of a descriptor that is still to take effect. -/
def Pend.setsTd (p : Pend) (d : Nat) : Bool :=
  !p.finished && (match p.work with
    | .held (.tdset k _) => decide (k = d)
    | _ => false)

/-- A generator's `tdset` takes effect, after those of its thread before it (R212). -/
def State.doTdset (s : State) (g n : Nat) (p : Pend) (G : Gen) (d : Nat) (img : BitVec 128) : State :=
  if s.emittedGone g p.id ∧ (G.th.pend.take n).any (Pend.setsTd · d) = false then
    let s := match s.block? G.blk with
      | some B => s.setBlock G.blk { B with td := mput 0 B.td d img }
      | none => s
    s.finishItem (.gen g) n p
  else s

/-! ### Matrix commands (R213 to R220) -/

/-- The logical K of a command (R214). -/
def fullK (i : Instr) (ty : BitVec 3) : Nat :=
  let k := [8, 16, 32, 32, 64, 64, 64, 64].getD ty.toNat 64
  match i with
  | .mmas _ => 2 * k
  | _ => k

/-- KV (R216). -/
def QMma.kv (i : Instr) (o : QMma) : Nat := if o.ext.kval = 0#7 then fullK i o.ty else o.ext.kval.toNat

/-- The registers a command stages: indices, metadata, scales (R213, R217). -/
def QMma.staged (i : Instr) (o : QMma) : List Nat × List Nat × List Nat :=
  (match i with
   | .mmag _ => [o.ext.vidx.toNat]
   | _ => [],
   match i with
   | .mmas _ => (List.range (fullK i o.ty / 32)).map (o.ext.vmeta.toNat + ·)
   | _ => [],
   if o.ext.vscl = 0#8 then [] else [o.ext.vscl.toNat])

/-- Accumulators in the block's allocation; a pair for .f64 (R9, R220). -/
def State.accOk (s : State) (B : Block) (d : Nat) (f64 : Bool) : Bool :=
  match s.launch? B.launch with
  | some L => decide (d + b2n f64 < L.rcd.accs) && (!f64 || decide (d % 2 = 0))
  | none => false

/-- Descriptor formats of R214 by FLT3 code. -/
def aFmts (ty : BitVec 3) : List Nat := if ty.toNat = 6 then [5, 6, 7, 8] else [ty.toNat + 3]

def bFmts (ty : BitVec 3) : List Nat := if ty.toNat = 6 then [9] else if ty.toNat = 4 ∨ ty.toNat = 5 then [7, 8] else [ty.toNat + 3]

/-- The launch limits of a matrix command's T and K fields (R59, R72 step 7). -/
def State.mmaLimits (s : State) (o : QMma) (B : Block) : Bool :=
  s.tdOk B o.a.toNat && s.tdOk B o.b.toNat && s.accOk B o.d.toNat false

/-- The team that stages, when it is live (R66). -/
def State.stager? (s : State) (B : Block) (o : QMma) : Option Team := (lget B.teams o.ext.steam.toNat).bind s.team?

/-- A word that a command stages is poisoned: an engine reads it into arithmetic (R432). -/
def Team.stagedBad (T : Team) (lsel : Nat) (regs : List Nat) : Bool :=
  T.vmarks.any fun k => regs.contains (k % 512) && decide (64 * lsel ≤ k / 512) && decide (k / 512 < 64 * lsel + 64)

/-- Causes of R220 that apply to a matrix command within its launch limits, in the table's order, and poison in what it stages
(R432). -/
def State.mmaCauses (s : State) (i : Instr) (o : QMma) (B : Block) : List Nat :=
  let st := QMma.staged i o
  let regs := st.1 ++ st.2.1 ++ st.2.2
  let kv := QMma.kv i o
  let jmax := (kv + 31) / 32 - 1
  let f64 := decide (o.ty = 0#3)
  let wide := decide (o.ty.toNat < 2)
  let da := mget 0 B.td o.a.toNat
  let db := mget 0 B.td o.b.toNat
  let gather : Bool := match i with
    | .mmag _ => true
    | _ => false
  let cond : Bool := match i with
    | .mmas _ => true
    | _ => false
  let field := !s.accOk B o.d.toNat f64 || decide (fullK i o.ty < kv) ||
    (decide (regs ≠ []) && (match s.stager? B o with
      | some T => decide (32 * T.words < 64 * (o.ext.lsel.toNat + 1)) || regs.any fun r => decide (T.vregs ≤ r)
      | none => true)) ||
    (decide (o.ext.vscl ≠ 0#8) && (wide || decide (3 < o.ext.sbs.toNat + jmax)))
  let aCols := if cond then (fullK i o.ty) / 2 else fullK i o.ty
  let needA := if o.ext.kval = 0#7 then aCols else if cond then 2 * ((kv + 3) / 4) else kv
  let soBad (d : TDesc) : Bool := TDesc.sen d && decide (65536 < TDesc.soff d + 64 * (jmax + 1))
  let desc := TDesc.bad da || TDesc.bad db || soBad da || soBad db ||
    !((aFmts o.ty).contains (TDesc.fmt da)) || !((bFmts o.ty).contains (TDesc.fmt db)) ||
    (!gather && decide (TDesc.rows da < 64)) || decide (TDesc.cols da < needA) || decide (TDesc.cols db < 64) || decide (TDesc.rows db < kv) ||
    ((TDesc.sen da || TDesc.sen db) && wide) || (gather && TDesc.sen da) || (decide (o.ext.vscl ≠ 0#8) && TDesc.sen da)
  let poison : Bool := match s.stager? B o with
    | some T => T.stagedBad o.ext.lsel.toNat regs
    | none => false
  (if field then [8] else []) ++ (if desc then [0xC] else []) ++ (if poison then [0xD] else [])

/-- Staged lanes 64·LSEL to 64·LSEL + 63 of registers (R218 step 2). -/
def Team.stage (T : Team) (lsel : Nat) (regs : List Nat) : List W32 :=
  regs.flatMap fun r => (List.range 64).map fun m => T.vr r (64 * lsel + m)

/-- The region of rows 0 to `rows` − 1 of a tile (R301). -/
def tileRegion (basin : Nat) (d : TDesc) (rows : Nat) : Region :=
  let u := 16 * TDesc.n d
  ⟨some basin, (TDesc.off d : Int), (TDesc.pitch d : Int), rows, (TDesc.rlen d + u - 1) / u * u, false⟩

/-- Tile and scale regions of a descriptor (R340). -/
def State.descRegions (s : State) (c ctx : Nat) (d : TDesc) (rows jmax : Nat) : List Region :=
  (match s.slotBasin c (TDesc.slot d) ctx with
   | .ok b => [tileRegion b d rows]
   | .error _ => []) ++
  (if TDesc.sen d then (match s.slotBasin c (TDesc.sslot d) ctx with
   | .ok b => [⟨some b, (TDesc.soff d : Int), 0, 1, 64 * (jmax + 1), false⟩]
   | .error _ => []) else [])

/-- Slots a descriptor names. -/
def State.descSlots (s : State) (c ctx : Nat) (d : TDesc) : List (Nat × Option Nat) :=
  s.resolve c (TDesc.slot d) ctx :: (if TDesc.sen d then [s.resolve c (TDesc.sslot d) ctx] else [])

/-- A matrix command (R218): behind the `tdset`s before it, it waits on WBAR, is checked, stages, arrives on ABAR and becomes
a job. The spec does not order the checks of R34 and R66 and the wait of step 1 (R218); the model makes them after it (DESIGN CHOICE, log
entry 93). -/
def matrixGo (i : Instr) (o : QMma) (c blk : Nat) (B : Block) (prov : Nat) (s : State) : State :=
  match (s.core c).queue with
  | [] => s
  | _ :: _ =>
    if s.headBehind c then s
    else s.waitHead c blk B (if o.ext.wen then some o.ext.wbar.toNat else none) fun s =>
      match s.mmaCauses i o B with
      | c0 :: cs => s.chosen.engineFault c B.ctx prov ((c0 :: cs).getD (s.choice % (cs.length + 1)) c0)
      | [] =>
        let st := QMma.staged i o
        let staged (regs : List Nat) : List W32 := match s.stager? B o with
          | some T => T.stage o.ext.lsel.toNat regs
          | none => []
        let da := mget 0 B.td o.a.toNat
        let db := mget 0 B.td o.b.toNat
        let kv := QMma.kv i o
        let jmax := (kv + 31) / 32 - 1
        let rows := match i with
          | .mmag _ => TDesc.rows da
          | _ => 64
        let j : Job := { Job.base (.matrix i) prov blk B.ctx with
          reads := s.descRegions c B.ctx da rows jmax ++ s.descRegions c B.ctx db kv jmax
          da := da, db := db
          slots := s.descSlots c B.ctx da ++ s.descSlots c B.ctx db
          idx := staged st.1, pos := staged st.2.1, scl := staged st.2.2 }
        let s := (s.addJob c j).popQueue c
        if o.ext.aen then s.arriveLater (c / 8) blk o.ext.abar.toNat else s

def execMma (o : QMma) (s : State) : Host.Outcome State Fault Refusal :=
  queueWord s (.mma o) (matrixGo (.mma o) o) (s.mmaLimits o)

def execMmas (o : QMma) (s : State) : Host.Outcome State Fault Refusal :=
  queueWord s (.mmas o) (matrixGo (.mmas o) o) (s.mmaLimits o)

def execMmag (o : QMma) (s : State) : Host.Outcome State Fault Refusal :=
  queueWord s (.mmag o) (matrixGo (.mmag o) o) (s.mmaLimits o)

/-! ### Elements of a matrix job: A row r column k is r · 128 + k, for every row that a 16-bit index names, B is 2^23 + k · 64 + n,
scale bytes j of A row m and B column n are 2^24 + 64j + m and 2^24 + 2^14 + 64j + n -/

def elemB (k n : Nat) : Nat := 2 ^ 23 + k * 64 + n

def elemSA (j m : Nat) : Nat := 2 ^ 24 + 64 * j + m

def elemSB (j n : Nat) : Nat := 2 ^ 24 + 2 ^ 14 + 64 * j + n

/-- The table row of A row m of an `mmag`, none where the index leaves it out (R217). -/
def Job.gatherRow (j : Job) (m : Nat) : Option Nat :=
  let i := (j.idx.getD m 0).toNat % 65536
  if i = 65535 then none else some i

/-- The 4-bit position code of group g, row m (R217). -/
def Job.metaQ (j : Job) (g m : Nat) : Nat := bits (j.pos.getD (64 * (g / 8) + m) 0).toNat (4 * (g % 8)) 4

/-- The terms of row m at logical positions: A element number and logical k (R217). -/
def Job.rowTerms (j : Job) (i : Instr) (kv m : Nat) : List (Nat × Nat) :=
  match i with
  | .mmas _ => (List.range ((kv + 3) / 4)).flatMap fun g =>
      let q := j.metaQ g m
      ([(m * 128 + 2 * g, 4 * g + q % 4), (m * 128 + 2 * g + 1, 4 * g + q / 4)]).filter fun t => decide (t.2 < kv)
  | .mmag _ => (match j.gatherRow m with
      | some r => (List.range kv).map fun k => (r * 128 + k, k)
      | none => [])
  | _ => (List.range kv).map fun k => (m * 128 + k, k)

/-- Every element a matrix job reads. -/
def Job.matrixElems (j : Job) (i : Instr) (o : QMma) : List Nat :=
  let kv := QMma.kv i o
  let js := (kv + 31) / 32
  let rt := (List.range 64).map fun m => j.rowTerms i kv m
  let as := (rt.flatMap fun r => r.map (·.1)).eraseDups
  let ks := (rt.flatMap fun r => r.map (·.2)).eraseDups
  as ++ (ks.flatMap fun k => (List.range 64).map fun n => elemB k n) ++
    (if TDesc.sen j.da then (List.range js).flatMap fun x => (List.range 64).map fun m => elemSA x m else []) ++
    (if TDesc.sen j.db then (List.range js).flatMap fun x => (List.range 64).map fun n => elemSB x n else [])

/-- The matrix command of a job. -/
def Job.mat? (j : Job) : Option (Instr × QMma) :=
  match j.kind with
  | .matrix (.mma o) => some (.mma o, o)
  | .matrix (.mmas o) => some (.mmas o, o)
  | .matrix (.mmag o) => some (.mmag o, o)
  | _ => none

/-- The elements that K step `b` of a matrix job takes. -/
def Job.stepElems (j : Job) (i : Instr) (o : QMma) (b : Nat) : List Nat :=
  let z := [1, 8].getD o.ty.toNat 32
  let ts := (List.range 64).flatMap fun m => (j.rowTerms i (QMma.kv i o) m).filter fun t => decide (t.2 / z = b)
  ts.map (·.1) ++ (ts.flatMap fun t => (List.range 64).map fun n => elemB t.2 n) ++
    (if TDesc.sen j.da then (List.range 64).map fun m => elemSA b m else []) ++
    (if TDesc.sen j.db then (List.range 64).map fun n => elemSB b n else [])

/-- Read bytes of a basin for an engine: poison is cause 0x000D (R432). -/
def State.jobBytes (s : State) (c : Nat) (j : Job) (slot off n : Nat) : Except Nat Nat := do
  let b ← j.basinOf slot
  if s.basinPoisoned (c / 8) b off n then throw 0xD
  return leNat (s.basinRd (c / 8) b off n)

/-- Read one element of a matrix job (R215, R216). -/
def State.matrixElem (s : State) (c : Nat) (j : Job) (e : Nat) : Except Nat Nat :=
  if e < 2 ^ 23 then
    let z := fmtBytes (TDesc.fmt j.da)
    if TDesc.rows j.da ≤ e / 128 then .error 6 else s.jobBytes c j (TDesc.slot j.da) (TDesc.at j.da (e / 128) (z * (e % 128))) z
  else if e < 2 ^ 24 then
    let z := fmtBytes (TDesc.fmt j.db)
    let x := e - 2 ^ 23
    s.jobBytes c j (TDesc.slot j.db) (TDesc.at j.db (x / 64) (z * (x % 64))) z
  else if e < 2 ^ 24 + 2 ^ 14 then s.jobBytes c j (TDesc.sslot j.da) (TDesc.soff j.da + (e - 2 ^ 24)) 1
  else s.jobBytes c j (TDesc.sslot j.db) (TDesc.soff j.db + (e - 2 ^ 24 - 2 ^ 14)) 1

/-- An element as a term factor: a DS8 byte or a floating value. -/
def factor (fmt x : Nat) : FV ⊕ Nat := if fmt = 9 then .inr x else .inl ((fmtOf (BitVec.ofNat 3 (fmt - 3))).val x)

/-- A product of A and B elements (R101, R107). -/
def elemTerm (fa fb x y : Nat) : Term :=
  let a := (fmtOf (BitVec.ofNat 3 (fa - 3))).val x
  match factor fb y with
  | .inl b => ⟨a, b, a.mul b⟩
  | .inr w => ⟨a, .fin false 0 0, a.mulDs8 w⟩

/-- Logical positions of one K step (R107): one of .f64, a group of eight of .f32, a block of 32 otherwise. -/
def stepSize (o : QMma) : Nat := [1, 8].getD o.ty.toNat 32

/-- The K steps of a matrix job (R107, R216). -/
def kSteps (i : Instr) (o : QMma) : Nat :=
  if o.ty.toNat < 2 then fullK i o.ty / stepSize o else (QMma.kv i o + 31) / 32

/-- Steps `lo` to `hi` − 1 of one accumulator element of a matrix job (R107, R216, R217). -/
def Job.matrixAcc (j : Job) (o : QMma) (lo hi : Nat) (terms : List (Nat × Nat × Nat)) (sa sb : Nat → Nat) (acc : Nat) : Nat :=
  let fa := TDesc.fmt j.da
  let fb := TDesc.fmt j.db
  let at_ (lo n : Nat) : List Term := (terms.filter fun t => decide (lo ≤ t.1) && decide (t.1 < lo + n)).map fun t => elemTerm fa fb t.2.1 t.2.2
  let steps := (List.range (hi - lo)).map (lo + ·)
  match o.ty.toNat with
  | 0 => steps.foldl (fun x k =>
      match terms.find? fun t => decide (t.1 = k) with
      | some t => ((fmtOf 0#3).fma 0 false ((fmtOf 0#3).val t.2.1) ((fmtOf 0#3).val t.2.2) ((fmtOf 0#3).val x)).1
      | none => ((fmtOf 0#3).add 0 false ((fmtOf 0#3).val x) (.fin false 0 0)).1) acc
  | 1 => steps.foldl (fun x g => (accAdd 0 x (exactSum (at_ (8 * g) 8))).1) acc
  | _ => steps.foldl (fun x b =>
      (accAdd 0 x (((exactSum (at_ (32 * b) 32)).scale (sa b)).scale (sb b))).1) acc

/-- The key of an accumulator element in its block (R9). -/
def accKey (c d m n : Nat) : Nat := (c % 8 * 8 + d) * 4096 + 64 * m + n

/-- The accumulators after the steps up to `hi` of a matrix job, from those that it has made (R217). -/
def Job.matrixRun (j : Job) (i : Instr) (o : QMma) (c hi : Nat) (acc : SMap W32) : SMap W32 :=
  let kv := QMma.kv i o
  let f64 := decide (o.ty = 0#3)
  let d := o.d.toNat
  let v (e : Nat) : Nat := mget 0 j.got e - 1
  let bcols := (List.range 64).map fun n => (List.range kv).map fun k => v (elemB k n)
  (List.range 64).foldl (fun acc m =>
    let ts := (j.rowTerms i kv m).map fun t => (t.2, v t.1)
    let sa (b : Nat) : Nat := if o.ext.vscl ≠ 0#8 then bits (j.scl.getD m 0).toNat (8 * (o.ext.sbs.toNat + b)) 8
      else if TDesc.sen j.da then v (elemSA b m) else 127
    (List.range 64).foldl (fun acc n =>
      let col := bcols.getD n []
      let old := (mget 0 acc (accKey c d m n)).toNat + (if f64 then 2 ^ 32 * (mget 0 acc (accKey c (d + 1) m n)).toNat else 0)
      let sb (b : Nat) : Nat := if TDesc.sen j.db then v (elemSB b n) else 127
      let x := j.matrixAcc o j.steps hi (ts.map fun t => (t.1, t.2, col.getD t.1 0)) sa sb old
      let acc := mput 0 acc (accKey c d m n) (BitVec.ofNat 32 x)
      if f64 then mput 0 acc (accKey c (d + 1) m n) (BitVec.ofNat 32 (x / 2 ^ 32)) else acc) acc) acc

/-! ### Accumulator moves (R221) -/

/-- The launch limits of an accumulator move's T and K fields (R59, R72 step 7). -/
def State.accLimits (s : State) (a : Option Nat) (d : Nat) (B : Block) : Bool := a.all (s.tdOk B) && s.accOk B d false

/-- Causes that apply to a move within its launch limits: a pair in the allocation, the descriptor's format and size. -/
def State.accCauses (s : State) (B : Block) (a : Option (Nat × Nat)) (d : Nat) (f64 : Bool) : List Nat :=
  let field := !s.accOk B d f64
  let desc := match a with
    | some (n, flt) =>
      let x := mget 0 B.td n
      TDesc.bad x || decide (TDesc.fmt x ≠ flt + 3) || decide (TDesc.rows x < 64) || decide (TDesc.cols x < 64)
    | none => false
  (if field then [8] else []) ++ (if desc then [0xC] else [])

/-- An accumulator move issues (R218, R221): the tile it reads or writes, or none. The spec gives its scale area no extent where SEN = 1, since it
has no K block: the model checks no fit and counts one row of 64 bytes with the tile, and the slot (DESIGN CHOICE, log entry 93). -/
def accGo (i : Instr) (ext : Option QExt) (tile : Option (Nat × Nat)) (isWrite : Bool) (d : Nat) (f64 : Bool) (c blk : Nat) (B : Block)
    (prov : Nat) (s : State) : State :=
  match (s.core c).queue with
  | [] => s
  | _ :: _ =>
    if s.headBehind c then s
    else s.waitHead c blk B (match ext with
        | some x => if x.wen then some x.wbar.toNat else none
        | none => none) fun s =>
      match s.accCauses B tile d f64 with
      | c0 :: cs => s.chosen.engineFault c B.ctx prov ((c0 :: cs).getD (s.choice % (cs.length + 1)) c0)
      | [] =>
        let j := Job.base (.accMove i) prov blk B.ctx
        let j := match tile with
          | some (n, _) =>
            let x := mget 0 B.td n
            let r := s.descRegions c B.ctx x 64 0
            { j with da := x, slots := s.descSlots c B.ctx x, reads := if isWrite then [] else r, writes := if isWrite then r else [] }
          | none => { j with readDone := true }
        (s.addJob c j).popQueue c

def execAccld (o : QAcc) (s : State) : Host.Outcome State Fault Refusal :=
  queueWord s (.accld o) (accGo (.accld o) o.ext (some (o.a.toNat, o.m2.toNat)) false o.d.toNat (decide (o.m5 = 0#3)))
    (s.accLimits (some o.a.toNat) o.d.toNat)

def execAccst (o : QAcc) (s : State) : Host.Outcome State Fault Refusal :=
  queueWord s (.accst o) (accGo (.accst o) o.ext (some (o.a.toNat, o.m5.toNat)) true o.d.toNat (decide (o.m2 = 0#3)))
    (s.accLimits (some o.a.toNat) o.d.toNat)

def execAcczero (o : QAccz) (s : State) : Host.Outcome State Fault Refusal :=
  queueWord s (.acczero o) (accGo (.acczero o) o.ext none false o.d.toNat (decide (o.ta = 0#3)))
    (s.accLimits none o.d.toNat)

/-- The accumulator format of a half (R221). -/
def accFmt (f64 : Bool) : Fmt := fmtOf (if f64 then 0#3 else 1#3)

/-- An accumulator element as bits of its type. -/
def accBits (acc : SMap W32) (c d m n : Nat) (f64 : Bool) : Nat :=
  (mget 0 acc (accKey c d m n)).toNat + (if f64 then 2 ^ 32 * (mget 0 acc (accKey c (d + 1) m n)).toNat else 0)

def setAcc (acc : SMap W32) (c d m n : Nat) (f64 : Bool) (x : Nat) : SMap W32 :=
  let acc := mput 0 acc (accKey c d m n) (BitVec.ofNat 32 x)
  if f64 then mput 0 acc (accKey c (d + 1) m n) (BitVec.ofNat 32 (x / 2 ^ 32)) else acc

/-- All 4,096 element numbers of an accumulator, 64m + n. -/
def accElems : List Nat := List.range 4096

/-- An accumulator word of a block is poisoned: element 64 m + n of a(d), with a(d + 1) where `f64`; every element for none (R432). -/
def Block.accBad (B : Block) (c d : Nat) (f64 : Bool) (e : Option Nat) : Bool :=
  B.accMarks.any fun x => (decide (x / 4096 = c % 8 * 8 + d) || (f64 && decide (x / 4096 = c % 8 * 8 + d + 1))) && e.all fun e => decide (x % 4096 = e)

/-- `accst` moves one element to the tile (R221), through a conversion that consumes poison (R432). -/
def State.accStore (s : State) (c : Nat) (j : Job) (o : QAcc) (e : Nat) : Except Nat State := do
  let f64 := decide (o.m2 = 0#3)
  let acc := match s.block? j.blk with
    | some B => B.acc
    | none => []
  if (s.block? j.blk).any fun B => B.accBad c o.d.toNat f64 (some e) then throw 0xD
  let F := fmtOf o.m5
  let x := (F.conv 0 false ((accFmt f64).val (accBits acc c o.d.toNat (e / 64) (e % 64) f64))).1
  let z := fmtBytes (TDesc.fmt j.da)
  let b ← j.basinOf (TDesc.slot j.da)
  return s.basinWr (c / 8) b (TDesc.at j.da (e / 64) (z * (e % 64))) (natLe z x)

/-! ### Weir jobs (R225 to R234) -/

/-- The bytes a Weir command reads: slot, first byte, count. -/
def weirReads : Instr → Option (Nat × Nat × Nat)
  | .wload o => some (o.slot.toNat, (match o.rows with
      | some r => (256 * r.1.toNat, 256 * (r.2.toNat + 1))
      | none => (0, 65536)))
  | .wlaunch o => some (o.slot.toNat, o.off.toNat, 256)
  | _ => none

/-- Where a capture writes. -/
def weirWrites : Instr → Option (Nat × Nat)
  | .wcapture o => some (o.slot.toNat, o.off.toNat)
  | _ => none

/-- R224: the array at lease start, leased to a block. -/
def Weir.leased (blk : Nat) (waiting : List Nat) : Weir := { Weir.zero with lease := some blk, waiting := waiting }

/-- A Weir command issues (R224, R227, R228): it needs the lease, waits on WT, and becomes a job. The spec does not order the wait for
the lease and the arrival on WT; the model arrives once the block has the lease (DESIGN CHOICE, log entry 81). R218 makes the wait a part of
the issue; the command takes its place in the order of R232, and resolves its slot, only once the wait is over (DESIGN CHOICE, log entry
93). -/
def weirGo (i : Instr) (wt : Option Nat) (c blk : Nat) (B : Block) (prov : Nat) (s : State) : State :=
  let cl := c / 8
  let C := s.cluster cl
  if C.weir.lease ≠ some blk then
    (if C.weir.lease = none ∧ C.weir.waiting = [] then (s.setCluster cl { C with weir := Weir.leased blk [] }).unstamp c
     else if C.weir.waiting.contains blk then s.stampQueue c
     else (s.setCluster cl { C with weir := { C.weir with waiting := C.weir.waiting ++ [blk] } }).stampQueue c)
  else (if (s.core c).head = .fresh then s.unstamp c else s).waitHead c blk B wt fun s =>
    let reg (slot lo n : Nat) : List Region := match s.slotBasin c slot B.ctx with
      | .ok b => [⟨some b, (lo : Int), 0, 1, n, false⟩]
      | .error _ => []
    let j := Job.base (.weir i) prov blk B.ctx
    let j := match weirReads i with
      | some (slot, lo, n) => { j with slots := [s.resolve c slot B.ctx], reads := reg slot lo n }
      | none => { j with readDone := (weirWrites i).isNone }
    let j := match weirWrites i with
      | some (slot, off) => { j with slots := [s.resolve c slot B.ctx], writes := reg slot off 256 }
      | none => j
    (s.addJob c j).popQueue c

def execWwin (o : QWwin) (s : State) : Host.Outcome State Fault Refusal := queueWord s (.wwin o) (weirGo (.wwin o) none)

def execWcfg (o : QWcfg) (s : State) : Host.Outcome State Fault Refusal := queueWord s (.wcfg o) (weirGo (.wcfg o) none)

def execWload (o : QWload) (s : State) : Host.Outcome State Fault Refusal :=
  queueWord s (.wload o) (weirGo (.wload o) (o.wt.map (·.toNat)))

def execWlaunch (o : QWrow) (s : State) : Host.Outcome State Fault Refusal :=
  queueWord s (.wlaunch o) (weirGo (.wlaunch o) (o.bar.map (·.toNat)))

def execWcapture (o : QWrow) (s : State) : Host.Outcome State Fault Refusal := queueWord s (.wcapture o) (weirGo (.wcapture o) none)

def execWreset (s : State) : Host.Outcome State Fault Refusal := queueWord s .wreset (weirGo .wreset none)

/-- R224: a free array goes to the block that has waited longest; a block of a halted context keeps its place, and takes the array, until the
forced reset (DESIGN CHOICE, log entry 93). -/
def State.weirLease (s : State) (cl : Nat) : State :=
  let C := s.cluster cl
  match C.weir.lease, C.weir.waiting with
  | none, b :: r => s.setCluster cl { C with weir := Weir.leased b r }
  | _, _ => s

def execWeirLeaseAcquire (cl : Nat) (s : State) : Host.Outcome State Fault Refusal := .next (s.weirLease cl)

/-- A delay (R223): 0xFF where nothing was loaded. -/
def Weir.delay (w : Weir) (i j : Nat) : Nat := (mget 255 w.w (256 * i + j)).toNat

/-- One pass (R228): the outputs for the inputs `inp`. -/
def Weir.pass (w : Weir) (inp : Nat → Nat) : Weir :=
  let x (i : Nat) : Nat := if w.rows.contains i then 0 else inp i
  let out (j : Nat) : Nat :=
    if w.cols.contains j then 0
    else
      let ts := ((List.range 256).filter fun i => decide (w.delay i j ≠ 255)).map fun i =>
        if x i = 255 ∨ w.window ≤ x i + w.delay i j then 255 else x i + w.delay i j
      if w.max then (if ts = [] then 0 else if ts.contains 255 then 255 else ts.foldl Nat.max 0) else ts.foldl Nat.min 255
  let outs := (List.range 256).map out
  { w with
    out := (List.range 256).foldl (fun m j => mput 255 m j (BitVec.ofNat 8 (outs.getD j 255))) w.out
    rows := (List.range 256).filter fun i => decide (x i ≠ 255) && decide (x i < w.window)
    cols := (List.range 256).filter fun j => decide (outs.getD j 255 ≠ 255) }

/-- The Weir commands of the cluster that issued before a job and have not ended. -/
def State.weirAhead (s : State) (c : Nat) (j : Job) : Nat :=
  ((List.range 8).map fun k => ((s.core (8 * (c / 8) + k)).jobs.filter fun q => match q.kind with
    | .weir _ => decide (q.id < j.id)
    | _ => false).length).sum

/-- R232: no Weir command that issued earlier is unfinished. -/
def State.weirTurn (s : State) (c : Nat) (j : Job) : Bool := decide (s.weirAhead c j = 0)

/-- R232: a Weir job may read or write its bytes: a `wlaunch` while at most the command before it is unfinished, the others in their
turn. -/
def State.weirMay (s : State) (c : Nat) (j : Job) : Bool :=
  match j.kind with
  | .weir (.wlaunch _) => decide (s.weirAhead c j ≤ 1)
  | .weir _ => s.weirTurn c j
  | _ => true

/-- The array after a Weir job that has read its bytes (R226 to R231). -/
def Weir.apply (w : Weir) (i : Instr) (got : Nat → Nat) : Weir :=
  match i with
  | .wwin o => { w with window := o.t.toNat }
  | .wcfg o => { w with max := o.max }
  | .wload o =>
    let lo := match o.rows with
      | some r => 256 * r.1.toNat
      | none => 0
    let n := match o.rows with
      | some r => 256 * (r.2.toNat + 1)
      | none => 65536
    { w with w := (List.range n).foldl (fun m k => mput 255 m (lo + k) (BitVec.ofNat 8 (got k))) w.w }
  | .wlaunch _ => w.pass got
  | .wreset => { w with rows := [], cols := [], out := [] }
  | _ => w

/-! ### Reading and completing (R219, R342) -/

/-- Every element a job reads, or, for `accst` and `wcapture`, moves. -/
def Job.elems (j : Job) : List Nat :=
  match j.kind with
  | .matrix (.mma o) => j.matrixElems (.mma o) o
  | .matrix (.mmas o) => j.matrixElems (.mmas o) o
  | .matrix (.mmag o) => j.matrixElems (.mmag o) o
  | .accMove (.accld _) | .accMove (.accst _) => accElems
  | .weir i => (match weirReads i, weirWrites i with
      | some (_, _, n), _ => List.range n
      | none, some _ => List.range 256
      | _, _ => [])
  | _ => []

/-- A matrix job adds to an accumulator that is poisoned (R432). -/
def State.accPoison (s : State) (c : Nat) (j : Job) (i : Instr) : Bool :=
  match i, s.block? j.blk with
  | .mma o, some B | .mmas o, some B | .mmag o, some B => B.accBad c o.d.toNat (decide (o.ty = 0#3)) none
  | _, _ => false

/-- Read or move one element; the value read, where there is one. -/
def State.jobElem (s : State) (c : Nat) (j : Job) (e : Nat) : Except Nat (State × Nat) :=
  match j.kind with
  | .matrix i => do
    if s.accPoison c j i then throw 0xD
    let v ← s.matrixElem c j e
    return (s, v)
  | .accMove (.accld _) => do
    let z := fmtBytes (TDesc.fmt j.da)
    let v ← s.jobBytes c j (TDesc.slot j.da) (TDesc.at j.da (e / 64) (z * (e % 64))) z
    return (s, v)
  | .accMove (.accst o) => do
    let s ← s.accStore c j o e
    return (s, 0)
  | .weir i => (match weirReads i, weirWrites i with
      | some (slot, lo, _), _ => do
        let v ← s.jobBytes c j slot (lo + e) 1
        return (s, v)
      | none, some (slot, off) => do
        let b ← j.basinOf slot
        return (s.basinWr (c / 8) b (off + e) [mget 255 (s.cluster (c / 8)).weir.out e], 0)
      | _, _ => .ok (s, 0))
  | _ => .ok (s, 0)

/-- Read a list of elements, each once. -/
def State.readElems (s : State) (c : Nat) (j : Job) : List Nat → Except Nat (State × SMap Nat)
  | [] => .ok (s, [])
  | e :: r => do
    let p ← s.jobElem c j e
    let q ← p.1.readElems c j r
    return (q.1, (e, p.2 + 1) :: q.2)

/-- The barrier of a job's read-done arrival (R65, R219). -/
def Job.rdBar (j : Job) : Option Nat :=
  let f (o : QMma) : Option Nat := if o.ext.rden then some o.ext.rdbar.toNat else none
  match j.kind with
  | .matrix (.mma o) | .matrix (.mmas o) | .matrix (.mmag o) => f o
  | _ => none

/-- The poison marks after a(d), and a(d + 1) where `f64`, is written whole on a core. -/
def Block.marksBut (B : Block) (c d : Nat) (f64 : Bool) : List Nat :=
  B.accMarks.filter fun x => decide (x / 4096 ≠ c % 8 * 8 + d) && !(f64 && decide (x / 4096 = c % 8 * 8 + d + 1))

/-- Write an accumulator of a block. -/
def State.onAcc (s : State) (blk c d : Nat) (f64 : Bool) (f : SMap W32 → SMap W32) : State :=
  match s.block? blk with
  | some B => s.setBlock blk { B with acc := f B.acc, accMarks := B.marksBut c d f64 }
  | none => s

/-- The K steps of a matrix job, from the first on, whose elements are all read. -/
def Job.stepsRead (j : Job) (i : Instr) (o : QMma) : Nat :=
  ((List.range (kSteps i o)).takeWhile fun b => (j.stepElems i o b).all fun e => decide (mget 0 j.got e ≠ 0)).length

/-- R356: a matrix job stops after a whole K step, any one from those made to those whose elements are read; the sums up to it stand in the
accumulator, and it goes on behind it (R358). The engine makes the steps that nothing looks at between two stops at its end (log
entry 29). -/
def State.stopMatrix (s : State) (c : Nat) (j : Job) : State × Job :=
  match j.mat? with
  | some (i, o) =>
    let t := j.steps + s.choice % (j.stepsRead i o + 1 - j.steps)
    (s.chosen.onAcc j.blk c o.d.toNat (decide (o.ty = 0#3)) (j.matrixRun i o c t), { j with steps := t })
  | none => (s, j)

/-- R219, R342: a job reads the elements named, or all that are left, and is then read done. A `wcapture` and an `accst` move
theirs; Weir jobs do it in their turn (R232). -/
def State.engineRead (s : State) (c k : Nat) (part : List Nat) : State :=
  match s.jobFree c k with
  | none => s
  | some j =>
    let todo := (if part = [] then j.elems else (part.eraseDups.filter j.elems.contains)).filter fun e => decide (mget 0 j.got e = 0)
    if j.readDone || !s.weirMay c j then s
    else match s.readElems c j todo with
      | .error e => (s.stopMatrix c j).1.jobFault c (s.stopMatrix c j).2 e
      | .ok (s, vs) =>
        let s := s.setJob c k { j with got := vs.foldl (fun m v => mput 0 m v.1 v.2) j.got, readDone := decide (part = []) }
        match part, j.rdBar with
        | [], some b => s.arriveLater (c / 8) j.blk b
        | _, _ => s

def execEngineReadDone (core job : Nat) (part : List Nat) (s : State) : Host.Outcome State Fault Refusal :=
  .next (s.engineRead core job part)

/-- The barrier of a job's completion arrival (R219, R231). -/
def Job.endBar (j : Job) : Option Nat :=
  let f (e : Option QExt) : Option Nat := match e with
    | some x => if x.aen then some x.abar.toNat else none
    | none => none
  match j.kind with
  | .accMove (.accld o) | .accMove (.accst o) => f o.ext
  | .accMove (.acczero o) => f o.ext
  | .weir (.wcapture o) => o.bar.map (·.toNat)
  | _ => none

/-- What a job that has read everything does at its end: none while something is left to do first. -/
def State.jobEffect (s : State) (c : Nat) (j : Job) : Option State :=
  match j.kind with
  | .copy _ left unc => if left = [] ∧ unc = 0 then some s else none
  | .matrix i =>
    if j.readDone = false then none
    else match i with
      | .mma o | .mmas o | .mmag o => some (s.onAcc j.blk c o.d.toNat (decide (o.ty = 0#3)) (j.matrixRun i o c (kSteps i o)))
      | _ => some s
  | .accMove i =>
    if j.readDone = false then none
    else match i with
      | .accld o =>
        let f64 := decide (o.m5 = 0#3)
        some (s.onAcc j.blk c o.d.toNat f64 fun acc => accElems.foldl (fun acc e => setAcc acc c o.d.toNat (e / 64) (e % 64) f64
          ((accFmt f64).conv 0 false ((fmtOf o.m2).val (mget 0 j.got e - 1))).1) acc)
      | .acczero o => some (s.onAcc j.blk c o.d.toNat (decide (o.ta = 0#3)) fun acc =>
          accElems.foldl (fun acc e => setAcc acc c o.d.toNat (e / 64) (e % 64) (decide (o.ta = 0#3)) 0) acc)
      | _ => some s
  | .weir i =>
    if j.readDone = false ∨ s.weirTurn c j = false then none
    else
      let C := s.cluster (c / 8)
      some (s.setCluster (c / 8) { C with weir := C.weir.apply i fun k => mget 0 j.got k - 1 })

/-- R219: a job completes, with its completion arrival. -/
def State.engineComplete (s : State) (c k : Nat) : State :=
  match s.jobFree c k with
  | none => s
  | some j => match s.jobEffect c j with
    | none => s
    | some s =>
      let s := s.dropJob c k
      match j.endBar with
      | some b => s.arriveLater (c / 8) j.blk b
      | none => s

def execEngineJobComplete (core job : Nat) (s : State) : Host.Outcome State Fault Refusal := .next (s.engineComplete core job)

/-- R127: an engine arrival on its way is counted. -/
def State.countArrival (s : State) (blk bar : Nat) : State :=
  match s.block? blk with
  | none => s
  | some B =>
    let C := s.cluster B.cluster
    if C.arrivals.contains (blk, bar) then
      (s.setCluster B.cluster { C with arrivals := C.arrivals.erase (blk, bar) }).engineArrive blk bar
    else s

def execEngineArrival (blk bar : Nat) (s : State) : Host.Outcome State Fault Refusal := .next (s.countArrival blk bar)

end Sys2Proof.Machine
end

