-- ==== Sys2Proof/Machine/Stoker.lean ====
section
/-! DEFINITION. The Stoker: segments, emitting into the flues, patching, sealing, starting teams (R67 to R71, R235 to R244,
R276), and the flues' two ways out (R238, R367). -/

namespace Sys2Proof.Machine

/-! ### Words on their way (R69, R236) -/

/-- Bytes of the word that begins with this byte, none for LEN = 0b11 (R55). -/
def wordBytes (b : Byte) : Option Nat := if b.toNat % 4 = 3 then none else some (8 + 4 * (b.toNat % 4))

/-- The physical cores of a cluster that a mask names. -/
def maskCores (cl cmask : Nat) : List Nat := ((List.range 8).filter fun n => bitAt cmask n).map (8 * cl + ·)

/-- A word of `k` bytes at a code-store offset crosses a fetch block or ends at byte 28 (R69). -/
def badPlace (pos k : Nat) : Bool := decide (32 < pos % 32 + k) || decide ((pos + k) % 32 = 28)

/-- The tag a thread's next emitting instruction takes (R68, R237). -/
def Gen.nextTag (G : Gen) (g : Nat) : Nat := (g % 16) * 2 ^ 28 + G.eseq

/-- A thread stops emitting: its place in the waits for room is given up. -/
def Gen.quiet (G : Gen) : Gen := { G with emitting := none, flueWait := [] }

/-- R238, R367: a flue has a free entry for a thread, those that have waited longer for it served first, those that began in one cycle
by GTHREAD. -/
def State.flueRoom (s : State) (g : Nat) (G : Gen) (c : Nat) : Bool :=
  let mine := mget 0 G.flueWait (c % 8)
  let ahead := s.gens.filter fun q =>
    let w := mget 0 q.2.flueWait (c % 8)
    decide (q.1 / 16 = g / 16) && decide (q.1 ≠ g) && decide (w ≠ 0) &&
      (decide (mine = 0) || decide (w < mine) || (decide (w = mine) && decide (q.1 < g)))
  decide ((s.core c).flue.length + ahead.length < 64)

/-- The cycle of a thread's Stoker, plus 1: when a wait for room begins. -/
def State.flueNow (s : State) (g : Nat) : Nat := s.cycle (4096 + g / 16) + 1

/-- R367: the other threads that wait for room begin to wait, too, for those of their flues that now have none for them. -/
def State.joinWaits (s : State) (g : Nat) (cores : List Nat) : State :=
  (s.gens.filter fun q => decide (q.1 / 16 = g / 16) && decide (q.1 ≠ g) && decide (q.2.flueWait ≠ [])).foldl (fun s q =>
    match q.2.emitting with
    | some E => s.setGen q.1 { q.2 with flueWait := cores.foldl (fun w c =>
        if bitAt E.cmask (c % 8) && decide (mget 0 w (c % 8) = 0) && !s.flueRoom q.1 q.2 c then mput 0 w (c % 8) (s.flueNow g) else w) q.2.flueWait }
    | none => s) s

/-- The thread waits for room in the target flues that have none for it. -/
def State.waitFlue (s : State) (g : Nat) (G : Gen) (cores : List Nat) : State :=
  let w := cores.foldl (fun w c => if s.flueRoom g G c || decide (mget 0 w (c % 8) ≠ 0) then w else mput 0 w (c % 8) (s.flueNow g)) G.flueWait
  let s' := (s.setGen g { G with flueWait := w, status := .parked .flue }).joinWaits g cores
  if G.flueWait = [] then s'.stamp (.gen g) else s'

/-- An emitted word in the flue of a core. -/
def State.enterFlue (s : State) (c : Nat) (e : Emitted) : State :=
  let C := s.core c
  s.setCore c { C with flue := C.flue ++ [e] }

/-- What is wrong with the next word of an emission (R69, R236, R240): a cause, or its length. A word that crosses a fetch block and
passes the size of its segment too is an invalid instruction: the rules rank neither cause first (DESIGN CHOICE, log entry 93). -/
def Gen.nextWord (G : Gen) (E : Emission) : Except Nat Nat :=
  match E.left with
  | [] => .error 0x13
  | b :: _ => match wordBytes b with
    | none => .error 7
    | some k =>
      if E.left.length < k then .error 0x13
      else if E.queue then .ok k
      else match G.open? with
        | none => .error 0x13
        | some o =>
          if badPlace (o.off + o.emitted) k then .error 7
          else if o.size < o.emitted + k then .error 0x13
          else .ok k

/-- One word of an emission enters every target flue (R237, R238). -/
def State.emitWord (s : State) (g : Nat) (G : Gen) (E : Emission) (k : Nat) : State :=
  let (tag, run) := E.taken.getD (G.nextTag g, s.uid)
  let dest : FlueDest := match E.queue, G.open? with
    | false, some o => .code (o.off + o.emitted)
    | _, _ => .queue
  let e : Emitted := ⟨E.left.take k, tag, g % 16, G.blk, dest, run, false⟩
  let s := ((maskCores (g / 16) E.cmask).foldl (fun s c => s.enterFlue c e) s).joinWaits g (maskCores (g / 16) E.cmask)
  let G := if E.taken.isSome then G else
    { G with eseq := (G.eseq + 1) % (2 ^ 28 - 1), tags := ((tag, G.th.pc) :: G.tags).take 1024 }
  let o := if E.queue then G.open? else G.open?.map fun o =>
    { o with emitted := o.emitted + k, starts := o.starts ++ [o.emitted], lastTag := tag }
  (s.setGen g { G with
    open? := o, flueWait := [], emitting := some { E with left := E.left.drop k, taken := some (tag, run) } }).fresh

/-- Words enter while there is room; the thread goes on after the last, waits where a flue is full, and stops at a word that
fails (R69, R238, R256). -/
def State.emitOn (g len : Nat) : Nat → State → State
  | 0, s => s
  | f + 1, s =>
    match s.gen? g with
    | none => s
    | some G => match G.emitting with
      | none => s
      | some E =>
        if E.left = [] then s.setGen g { G.quiet with th := G.th.adv len }
        else match G.nextWord E with
          | .error c => (s.setGen g G.quiet).genFault g c
          | .ok k =>
            let cores := maskCores (g / 16) E.cmask
            if cores.all fun c => s.flueRoom g G c then State.emitOn g len f (s.emitWord g G E k)
            else s.waitFlue g G cores

/-- A fence of order release or stronger of the thread is not complete (R342). -/
def Thread.fenced (th : Thread) : Bool :=
  th.pend.any fun p => !p.finished && (match p.work with
    | .held (.fence _ o) => relOrd o
    | _ => false)

/-- An emitting instruction: begin with the bytes `src` gives (those at a register's address have their translations cached, R400), or
go on with those already read. Without an open segment it faults by R236 before its register word is looked at: the rules rank neither
fault first (DESIGN CHOICE, log entry 93). -/
def emitGo (s : State) (i : Instr) (len : Nat) (queue : Option Nat) (src : Thread → Agent → State → Except (Option Nat) (List Byte))
    (span : Option (BitVec 8 × BitVec 32) := none) : Host.Outcome State Fault Refusal :=
  issue s i noLimit fun a s => match a with
    | .gen g => match s.gen? g with
      | some G =>
        if G.th.fenced then s.park a .retry
        else match G.emitting with
          | some E => State.emitOn g len (E.left.length / 4 + 2) s
          | none =>
            if queue.isNone && G.open?.isNone then s.raise a 0x13
            else match src G.th a s with
              | .error none => s.park a .retry
              | .error (some e) => s.raise a e
              | .ok bs =>
                let cmask := match queue with
                  | some m => m
                  | none => (G.open?.map (·.cmask)).getD 0
                let s' := match span with
                  | some (r, n) => s.noteSpan s G.ctx (G.th.rd r.toNat).toNat n.toNat
                  | none => s
                State.emitOn g len (bs.length / 4 + 2) (s'.setGen g { G with emitting := some ⟨bs, none, cmask, queue.isSome⟩ })
      | none => s
    | _ => s

/-- The one word that a 64-bit form emits from s(A) and s(A + 1) (R236); poison there is consumed (R432). -/
def regWord (th : Thread) (r : Nat) : Except (Option Nat) (List Byte) :=
  let w := th.rd r
  let k := w.toNat % 4
  if k ≠ 0 ∧ k ≠ 3 ∧ 159 < r + 1 then .error (some 8)
  else if th.poisoned r (if k = 3 then 2 else 2 + k) then .error (some 0xD)
  else .ok ((natLe 8 w.toNat ++ natLe 8 (th.rd (r + 1)).toNat).take (if k = 3 then 8 else 8 + 4 * k))

/-- Bytes held little-endian in consecutive registers (R236). -/
def regBytes (th : Thread) (r n : Nat) : List Byte :=
  ((List.range ((n + 7) / 8)).flatMap fun k => natLe 8 (th.rd (r + k)).toNat).take n

/-- They are emitted unless one of their words is poisoned (R432). -/
def regRun (th : Thread) (r n : Nat) : Except (Option Nat) (List Byte) :=
  if th.poisoned r ((n + 3) / 4) then .error (some 0xD) else .ok (regBytes th r n)

/-- Bytes at a global-window address that is a multiple of 4 (R29, R236); R236 names no cause for another address, and the model takes
the address fault (DESIGN CHOICE, log entry 82). -/
def State.wordsAt (s : State) (a : Agent) (x : W64) (n : Nat) : Except (Option Nat) (List Byte) :=
  match steer x with
  | .global va => if va % 4 ≠ 0 then .error (some 2) else s.genRead a va n
  | _ => .error (some 2)

def execEmit (o : OneA) (s : State) : Host.Outcome State Fault Refusal :=
  emitGo s (.emit o) 8 none fun th _ _ => regWord th o.a.toNat

def execEmitRegs (o : GEmitR) (s : State) : Host.Outcome State Fault Refusal :=
  emitGo s (.emitRegs o) 16 none fun th _ _ => regRun th o.a.toNat o.n.toNat

def execEmitm (o : GEmitR) (s : State) : Host.Outcome State Fault Refusal :=
  emitGo s (.emitm o) 16 none (fun th a s => s.wordsAt a (th.rd o.a.toNat) o.n.toNat) (some (o.a, o.n))

def execEmitq (o : GEmitq) (s : State) : Host.Outcome State Fault Refusal :=
  emitGo s (.emitq o) 8 (some (2 ^ o.core.toNat)) fun th _ _ => regWord th o.a.toNat

def execEmitqMulti (o : GEmitqM) (s : State) : Host.Outcome State Fault Refusal :=
  emitGo s (.emitqMulti o) 16 (some o.cmask.toNat) (fun th a s => s.wordsAt a (th.rd o.a.toNat) o.n.toNat) (some (o.a, o.n))

/-! ### The flues' ways out (R238, R367) -/

/-- The block an entry belongs to runs. -/
def State.entryRuns (s : State) (e : Emitted) : Bool :=
  match s.block? e.blk with
  | some B => s.ctxRuns B.ctx
  | none => true

/-- The words of the code store that bytes fill are poisoned or not (R432); `lo` and `n` are in words. -/
def Core.codeMarked (C : Core) (lo n : Nat) (bad : Bool) : Core :=
  let clean := C.codeMarks.filter fun w => decide (w < lo) || decide (lo + n ≤ w)
  { C with codeMarks := if bad then (List.range n).map (lo + ·) ++ clean else clean }

/-- A word with its tag is written to a core's code store (R68, R71, R238), its poison with it (R432). -/
def State.storeWord (s : State) (c off : Nat) (bs : List Byte) (tag : Nat) (bad : Bool := false) : State :=
  let C := (s.core c).codeMarked (off / 4) (bs.length / 4) bad
  s.setCore c { C with
    code := mputs 0 C.code off bs
    ctag := (List.range (bs.length / 4)).foldl (fun m k => mput 0 m (off / 4 + k) tag) C.ctag }

def FlueDest.isQueue : FlueDest → Bool
  | .queue => true
  | .code _ => false

/-- The first code-store word of a flue is written to its segment (R238). -/
def State.flueCode (s : State) (c : Nat) : State :=
  let C := s.core c
  match C.flue.find? fun e => !e.dest.isQueue with
  | some e => match e.dest with
    | .code off => if s.entryRuns e then (s.setCore c { C with flue := C.flue.erase e }).storeWord c off e.bytes e.tag e.bad else s
    | .queue => s
  | none => s

def execFlueCodeWrite (core : Nat) (s : State) : Host.Outcome State Fault Refusal := .next (s.flueCode core)

/-- The run of queue words that entered a core's flue first: an emission under way counts with the words it still has
(R238). -/
def State.firstRun (s : State) (c : Nat) : Option Nat :=
  (((s.core c).flue.filter fun e => e.dest.isQueue).map (·.run) ++
    s.gens.filterMap fun q => match q.2.emitting with
      | some E => if q.1 / 16 = c / 8 ∧ E.queue ∧ E.left ≠ [] ∧ bitAt E.cmask (c % 8) then E.taken.map (·.2) else none
      | none => none).min?

/-- The oldest word of the first run moves to the engine queue when that has room (R238, R367). -/
def State.flueQueue (s : State) (c : Nat) : State :=
  let C := s.core c
  match s.firstRun c with
  | none => s
  | some r => match C.flue.find? fun e => e.dest.isQueue && decide (e.run = r) with
    | some e => if C.queue.length < 32 ∧ s.entryRuns e then s.setCore c { C with flue := C.flue.erase e, queue := C.queue ++ [e] } else s
    | none => s

def execFlueQueueMove (core : Nat) (s : State) : Host.Outcome State Fault Refusal := .next (s.flueQueue core)

/-! ### Segments (R239 to R241, R276) -/

/-- A handle (R239). -/
def segHandle (cmask tid off : Nat) : W64 := BitVec.ofNat 64 (2 ^ 63 + cmask * 2 ^ 48 + tid * 2 ^ 32 + off)

def Seg.handle (g : Seg) : W64 := segHandle g.cmask g.tid g.off

/-- The end of the code store left to segments on a core (R349). -/
def State.codeTop (s : State) (c : Nat) : Nat :=
  match (s.core c).himg with
  | some x => 196608 - x.2
  | none => 196608

/-- An offset is free for `size` bytes on every core of a mask (R239); a sealed segment without words holds no bytes (R241). -/
def State.offFree (s : State) (cl cmask size off : Nat) : Bool :=
  ((maskCores cl cmask).all fun c => decide (off + size ≤ s.codeTop c)) &&
    (s.cluster cl).segs.all fun g => decide (g.size = 0) || decide (g.held &&& cmask = 0) || decide (off + size ≤ g.off) || decide (g.off + g.size ≤ off)

/-- The offsets an `eseg` may choose from. -/
def State.segOffsets (s : State) (cl cmask size : Nat) : List Nat :=
  ((List.range 6144).map (32 * ·)).filter (s.offFree cl cmask size)

/-- The sealed segment of a launch with a TID that covers a mask, sealed first (R239, R276). Where no single segment
covers the mask a new one is opened. -/
def State.cachedSeg (s : State) (cl launch tid cmask : Nat) : Option Seg :=
  (s.cluster cl).segs.find? fun g => g.sealed && decide (g.launch = launch) && decide (g.tid = tid) && decide (g.held &&& cmask = cmask)

/-- R239. -/
def State.openSeg (s : State) (g : Nat) (G : Gen) (o : GEseg) : State :=
  let a : Agent := .gen g
  let cl := g / 16
  let m := o.cmask.toNat
  let size := o.size.toNat
  let launch := ((s.block? G.blk).map (·.launch)).getD 0
  let done (s : State) (open? : Option OpenSeg) (v : W64) : State :=
    s.setGen g { G with open? := open?, th := (G.th.wr o.d.toNat v).adv 16 }
  if G.open?.isSome ∨ (maskCores cl m).all (fun c => s.coreRuns c G.ctx) = false then s.raise a 0x13
  else match (if o.tid = 0#16 then none else s.cachedSeg cl launch o.tid.toNat m) with
    | some x => done s none x.handle
    | none => match s.segOffsets cl m size with
      | [] => s.park a (.eseg m size)
      | x :: xs =>
        let off := (x :: xs).getD (s.choice % (xs.length + 1)) x
        let C := s.cluster cl
        let s := (s.setCluster cl { C with segs := C.segs ++ [⟨launch, g % 16, m, m, o.tid.toNat, off, size, [], false⟩] }).chosen
        done s (some ⟨m, o.tid.toNat, off, size, 0, [], 0⟩) 0

def execEseg (o : GEseg) (s : State) : Host.Outcome State Fault Refusal :=
  issue s (.eseg o) noLimit fun a s => match a with
    | .gen g => match s.gen? g with
      | some G => s.openSeg g G o
      | none => s
    | _ => s

/-- A word of the segment's emission is still in a flue of its cores. -/
def State.segInFlue (s : State) (g cmask off size : Nat) : Bool :=
  (maskCores (g / 16) cmask).any fun c => (s.core c).flue.any fun e => decide (e.gen = g % 16) && (match e.dest with
    | .code x => decide (off ≤ x) && decide (x < off + size)
    | .queue => false)

/-- The fill of a gap: lengths in order (R52). -/
def fillLens (gap : Nat) : List Nat :=
  match gap with
  | 8 => [8]
  | 12 => [12]
  | 16 => [16]
  | 20 => [12, 8]
  | 24 => [16, 8]
  | 28 => [16, 12]
  | _ => []

/-- The bytes of a `nop` of a length. -/
def nopBytes (k : Nat) : List Byte :=
  match encode (.nop ⟨false, BitVec.ofNat 2 ((k - 8) / 4)⟩) with
  | some r => bitsBytes k r.toBits
  | none => []

/-- The fill words of a segment: their offsets and lengths. -/
def fillWords (emitted : Nat) : List (Nat × Nat) :=
  (fillLens ((32 - emitted % 32) % 32)).foldl (fun (ws : List (Nat × Nat)) k =>
    ws ++ [(emitted + (ws.map (·.2)).sum, k)]) []

/-- R241: the segment is complete on its cores: it is filled, sealed, and its handle returns. -/
def State.doSeal (s : State) (g n : Nat) (p : Pend) (d : Nat) (o : OpenSeg) : State :=
  if s.segInFlue g o.cmask o.off o.size then s
  else
    let cl := g / 16
    let fill : List (Nat × Nat) := fillWords o.emitted
    let s := (maskCores cl o.cmask).foldl (fun s c =>
      fill.foldl (fun s f => s.storeWord c (o.off + f.1) (nopBytes f.2) o.lastTag) s) s
    let C := s.cluster cl
    let mine (x : Seg) : Bool := !x.sealed && decide (x.off = o.off) && decide (x.cmask = o.cmask)
    let s := match C.segs.find? mine with
      | some x => s.setCluster cl { C with segs := C.segs.erase x ++
          [{ x with size := (o.emitted + 31) / 32 * 32, starts := o.starts ++ fill.map Prod.fst, sealed := true }] }
      | none => s
    s.answer (.gen g) n p [.s d (segHandle o.cmask o.tid o.off)]

def execEseal (o : OneD) (s : State) : Host.Outcome State Fault Refusal :=
  issue s (.eseal o) noLimit fun a s => match a with
    | .gen g => match s.gen? g with
      | some G => match G.open? with
        | none => s.raise a 0x13
        | some x => (s.setGen g { G with open? := none }).later a 8 [] (.held (.eseal o.d.toNat x))
      | none => s
    | _ => s

/-- A team of a core has its PC inside a segment, a `tgo` that names it waits, or an `epatch` to it is in progress (R241). -/
def State.segBusy (s : State) (c : Nat) (x : Seg) : Bool :=
  (s.teams.any fun q => decide (q.1 / 256 = c) && decide (q.2.status ≠ .allocated) &&
    decide (x.off ≤ q.2.th.pc.toNat) && decide (q.2.th.pc.toNat < x.off + x.size)) ||
  (s.gens.any fun q => decide (q.1 / 16 = c / 8) &&
    ((q.2.th.pend.any fun p => !p.finished && (match p.work with
      | .held (.tgo _ _ h _ _) => decide (h = x.handle)
      | _ => false)) || (match q.2.patching with
      | some (h, _) => decide (h = x.handle)
      | none => false)))

/-- A core gives segment `n` of its cluster up. -/
def State.dropSeg (s : State) (c n : Nat) : State :=
  let C := s.cluster (c / 8)
  match C.segs[n]? with
  | none => s
  | some x =>
    let left := (List.range 8).foldl (fun m k => if bitAt x.held k ∧ k ≠ c % 8 then m + 2 ^ k else m) 0
    s.setCluster (c / 8) { C with segs := if left = 0 then C.segs.eraseIdx n else C.segs.set n { x with held := left } }

/-- R241: a sealed segment retires from a core to make room for an `eseg` that waits. -/
def State.segRetire (s : State) (c n : Nat) : State :=
  match (s.cluster (c / 8)).segs[n]? with
  | none => s
  | some x =>
    let wanted := s.gens.any fun q => decide (q.1 / 16 = c / 8) && (match q.2.status with
      | .parked (.eseg m _) => bitAt m (c % 8)
      | _ => false)
    if x.sealed && bitAt x.held (c % 8) && wanted && !s.segBusy c x then s.dropSeg c n else s

def execSegmentRetire (core seg : Nat) (s : State) : Host.Outcome State Fault Refusal := .next (s.segRetire core seg)

/-! ### Patching (R48, R242) -/

/-- Bits of a patch field: first bit and width (R48). -/
def patchField (f : Nat) : Nat × Nat :=
  match f with
  | 0 => (15, 8)
  | 1 => (23, 8)
  | 2 => (31, 8)
  | 3 => (39, 8)
  | 4 => (47, 6)
  | 5 => (53, 11)
  | 6 => (64, 32)
  | _ => (64, 64)

/-- The word of `k` bytes with the low bits of a value in a field. -/
def patchWord (bs : List Byte) (f v : Nat) : List Byte :=
  let (lo, w) := patchField f
  let x := leNat bs
  natLe bs.length (x - bits x lo w * 2 ^ lo + v % 2 ^ w * 2 ^ lo)

/-- The bytes of the word at an offset of a code store. -/
def State.storedWord (s : State) (c off : Nat) : List Byte :=
  let C := s.core c
  mgets 0 C.code off ((wordBytes (mget 0 C.code off)).getD 8)

/-- Patch the word at an offset of one core; the 4-byte words that the field fills lose their poison (R432). -/
def State.patchAt (s : State) (c off f v : Nat) : State :=
  let (lo, w) := patchField f
  let C := (s.core c).codeMarked ((off + lo / 8) / 4) (if lo % 32 = 0 then w / 32 else 0) false
  s.setCore c { C with code := mputs 0 C.code off (patchWord (s.storedWord c off) f v) }

/-- The field reaches beyond the word (R69). -/
def State.patchShort (s : State) (c off f : Nat) : Bool :=
  let (lo, w) := patchField f
  decide (8 * (s.storedWord c off).length < lo + w)

/-- The sealed segment of the launch that a handle names (R242, R243). An empty segment and a later one at its OFF have one handle; it
names the one with words (DESIGN CHOICE, log entry 82). -/
def State.segByHandle (s : State) (cl launch : Nat) (h : W64) : Option Seg :=
  let named := (s.cluster cl).segs.filter fun g => g.sealed && decide (g.launch = launch) && decide (g.handle = h)
  match named.find? fun g => decide (g.size ≠ 0) with
  | some g => some g
  | none => named.head?

/-- R242, R256: the open segment's word once it has left the flue, a sealed segment's word core by core. A sealed segment that some of
its cores have given up is patched on those that hold it; a `nop` fill word, which the start map shows, is patched though it lies
beyond the bytes emitted (DESIGN CHOICE, log entry 82). -/
def State.patchGo (s : State) (g : Nat) (G : Gen) (o : GEpatch) : State :=
  let a : Agent := .gen g
  let cl := g / 16
  let h := G.th.rd o.a.toNat
  let v := (G.th.rd o.b.toNat).toNat
  let off := o.off.toNat
  let f := o.fld.toNat
  let next (G : Gen) : Gen := { G with patching := none, th := G.th.adv 16 }
  if h = 0 then
    match G.open? with
    | none => s.raise a 0x13
    | some x =>
      let cores := maskCores cl x.cmask
      if x.starts.contains off = false then s.raise a 0x13
      else if s.segInFlue g x.cmask x.off x.size then s.park a .retry
      else if s.patchShort (cores.headD 0) (x.off + off) f then s.raise a 0x13
      else (cores.foldl (fun s c => s.patchAt c (x.off + off) f v) s).setGen g (next G)
  else
    match s.segByHandle cl (((s.block? G.blk).map (·.launch)).getD 0) h with
    | none => (s.setGen g { G with patching := none }).raise a 0x13
    | some x =>
      let cores := match G.patching with
        | some (_, cs) => cs
        | none => maskCores cl x.held
      if x.starts.contains off = false then s.raise a 0x13
      else if s.patchShort (cores.headD 0) (x.off + off) f then s.raise a 0x13
      else match cores with
        | [] => s.setGen g (next G)
        | c0 :: cs =>
          let c := (c0 :: cs).getD (s.choice % (cs.length + 1)) c0
          let left := (c0 :: cs).filter fun k => decide (k ≠ c)
          let s := s.chosen.patchAt c (x.off + off) f v
          if left = [] then s.setGen g (next G)
          else s.setGen g { G with patching := some (h, left), status := .parked .retry }

def execEpatch (o : GEpatch) (s : State) : Host.Outcome State Fault Refusal :=
  issue s (.epatch o) noLimit fun a s => match a with
    | .gen g => match s.gen? g with
      | some G => s.patchGo g G o
      | none => s
    | _ => s

/-! ### Starting teams (R36, R243) -/

/-- R36: the state of a team at its start. -/
def Team.start (T : Team) (pc : W64) (args : List W64) (age : Nat) : Team :=
  let th : Thread := { Thread.zero with pc := pc }
  { T with
    th := (th.wrs 0 args).wrs 144 (maskSet (List.range (32 * T.words)) T.maskRegs)
    status := .ready, mbase := 144#8, age := age }

/-- A team begins at a PC. -/
def State.startTeam (s : State) (t : Nat) (T : Team) (pc : W64) (args : List W64) : State :=
  (s.setTeam t (T.start pc args s.uid)).fresh

/-- R243: the start, once the accesses before it are performed at cluster scope. -/
def State.doTgo (s : State) (g n : Nat) (p : Pend) (G : Gen) (d team : Nat) (pc : W64) (args : List W64) : State :=
  let a : Agent := .gen g
  if s.releaseOk a (G.th.pend.take n) 2 = false then s
  else match ((s.block? G.blk).bind fun B => lget B.teams team) with
    | none => s.answerS a n p d 1
    | some t => match s.team? t with
      | some T => if T.status = .allocated then (s.startTeam t T pc args).answerS a n p d 0 else s.answerS a n p d 1
      | none => s.answerS a n p d 1

/-- R243: the checks at issue. -/
def State.tgoGo (s : State) (g : Nat) (G : Gen) (o : GTgo) : State :=
  let a : Agent := .gen g
  let h := G.th.rd o.a.toNat
  match s.block? G.blk with
  | none => s
  | some B => match lget B.teams o.team.toNat, s.segByHandle (g / 16) B.launch h with
    | some t, some x =>
      if bitAt x.held (t / 256 % 8) = false ∨ x.size ≤ o.entry.toNat then s.raise a 0x13
      else s.later a 16 [] (.held (.tgo o.d.toNat o.team.toNat h (BitVec.ofNat 64 (x.off + o.entry.toNat))
        ((List.range 8).map fun k => G.th.rd (o.b.toNat + k))))
    | _, _ => s.raise a 0x13

def execTgo (o : GTgo) (s : State) : Host.Outcome State Fault Refusal :=
  issue s (.tgo o) noLimit fun a s => match a with
    | .gen g => match s.gen? g with
      | some G => s.tgoGo g G o
      | none => s
    | _ => s

/-! ### Provenance and state of the Stoker (R244) -/

/-- The PC recorded for a tag among the threads of a cluster, for a context; all ones otherwise. -/
def State.tagPc (s : State) (cl ctx tag : Nat) : W64 :=
  match s.gen? (16 * cl + tag / 2 ^ 28) with
  | some G => if G.ctx = ctx then (((G.tags.find? fun x => decide (x.1 = tag)).map (·.2)).getD (BitVec.allOnes 64)) else BitVec.allOnes 64
  | none => BitVec.allOnes 64

def execEprov (o : TwoDA) (s : State) : Host.Outcome State Fault Refusal :=
  issue s (.eprov o) noLimit fun a s =>
    s.later a 8 [] (.result [.s o.d.toNat (s.tagPc (agentCluster a) ((s.agentCtx? a).getD 0) ((s.rdS a o.a.toNat).toNat % 2 ^ 32))] 0)

/-- The largest run of code-store bytes free on all eight cores (R244). -/
def State.codeRun (s : State) (cl : Nat) : Nat :=
  let segs := (s.cluster cl).segs
  let top := ((List.range 8).map fun n => s.codeTop (8 * cl + n)).foldl Nat.min 196608
  let run (p : Nat) : Nat :=
    if segs.any fun g => decide (g.off ≤ p) && decide (p < g.off + g.size) then 0
    else ((segs.filter fun g => decide (p ≤ g.off) && decide (g.size ≠ 0)).map (·.off)).foldl Nat.min top - p
  ((0 :: segs.map fun g => g.off + g.size).map run).foldl Nat.max 0

/-- R244. -/
def State.estatValue (s : State) (g : Nat) (G : Gen) (sel : Nat) : W64 :=
  match sel with
  | 0 => match G.open? with
    | some o => BitVec.ofNat 64 o.emitted
    | none => BitVec.allOnes 64
  | 1 => BitVec.ofNat 64 G.eseq
  | 2 => BitVec.ofNat 64 (((List.range 8).map fun n => (64 - (s.core (8 * (g / 16) + n)).flue.length) * 2 ^ (8 * n)).sum)
  | _ => BitVec.ofNat 64 (s.codeRun (g / 16))

def execEstat (o : GEstat) (s : State) : Host.Outcome State Fault Refusal :=
  issue s (.estat o) noLimit fun a s => match a with
    | .gen g => match s.gen? g with
      | some G => s.later a 8 [] (.result [.s o.d.toNat (s.estatValue g G o.sel.toNat)] 0)
      | none => s
    | _ => s

end Sys2Proof.Machine
end

