-- ==== Sys2Proof/Machine/Room.lean ====
section
/-! DEFINITION. Room on cores and clusters: what the resident teams hold, what switched-out teams and `vgrow` requests come first for
(R292, R293), what a block needs (R287), what co-resident launches have reserved (R286). -/

namespace Sys2Proof.Machine

/-! ### What a core holds (R287, R292, R366) -/

/-- The team holds lane-word contexts and registers of its core. -/
def Status.resident : Status → Bool
  | .switchedOut _ _ _ | .exited => false
  | _ => true

/-- Lane-word contexts and register bytes that the resident teams of a core hold. -/
def State.coreUse (s : State) (c : Nat) : Nat × Nat :=
  s.teams.foldl (fun u q => if q.1 / 256 = c ∧ q.2.status.resident then (u.1 + q.2.words, u.2 + 128 * q.2.words * q.2.vregs) else u) (0, 0)

/-- The lane-word contexts of a core that its resident teams hold. -/
def State.wordsHeld (s : State) (c : Nat) : List Nat :=
  s.teams.flatMap fun q => if q.1 / 256 = c ∧ q.2.status.resident then q.2.place else []

/-- The lane-word contexts for `w` more lane-words: the lowest that are free (DESIGN CHOICE, log entry 84). -/
def State.wordsFree (s : State) (c w : Nat) : List Nat :=
  ((List.range 256).filter fun k => !(s.wordsHeld c).contains k).take w

/-- The granules a team takes with it when it returns. -/
def SwitchReason.granules : SwitchReason → Nat
  | .stallGrow _ g => g
  | _ => 0

/-- What a switched-out team waits for has happened, but for its registers. -/
def State.mayReturn (s : State) (t : Nat) : Bool :=
  match s.team? t with
  | some T => s.ctxRuns T.ctx && (s.block? T.blk).isSome && (match T.status with
    | .switchedOut _ why replied => (match why with
      | .svc _ _ | .fault _ _ => replied
      | .stallGrow _ _ | .stallBar _ _ => true
      | .inspect => false)
    | _ => false)
  | none => false

/-- The register bytes that a switched-out team returns with. -/
def Team.returnBytes (T : Team) : Nat :=
  match T.status with
  | .switchedOut _ why _ => 128 * T.words * (T.vregs + 8 * why.granules)
  | _ => 0

/-- The register bytes that a pending `vgrow` asks for. -/
def Team.growBytes (T : Team) : Nat :=
  match T.status with
  | .parked (.vgrow _ n) | .parked (.saving (.stallGrow _ n)) => 128 * T.words * (8 * n)
  | _ => 0

/-- R292: register bytes that go first to the switched-out teams that may return and to the pending `vgrow` requests of a core. -/
def State.claims (s : State) (c : Nat) : Nat :=
  let C := s.core c
  ((C.returning.filter s.mayReturn).map fun t => (s.team? t).elim 0 Team.returnBytes).sum +
    (C.grow.map fun t => (s.team? t).elim 0 Team.growBytes).sum

/-- `w` lane-words of `v` registers fit a core beside its teams. -/
def State.coreFits (s : State) (c w v : Nat) : Bool :=
  let u := s.coreUse c
  decide (u.1 + w ≤ 256) && decide (u.2 + 128 * w * v ≤ 2097152)

/-- They fit a new team beside what comes first (R292). -/
def State.newFits (s : State) (c w v : Nat) : Bool := s.coreFits c w v && decide ((s.coreUse c).2 + s.claims c + 128 * w * v ≤ 2097152)

/-! ### What a block needs (R280, R287) -/

/-- The FLAGS bit COR. -/
def Record.cor (r : Record) : Bool := bitAt r.flags 0

/-- The teams on a block core: team index and lane-words (R280). -/
def Record.teamsOn (r : Record) (n : Nat) : List (Nat × Nat) :=
  ((List.range r.shape.length).zip r.shape).filterMap fun t => if t.2.1 = n then some (t.1, t.2.2) else none

/-- What a block core needs: lane-words, register bytes, accumulators, code-store bytes (R287). -/
structure Need where
  words : Nat
  regs : Nat
  accs : Nat
  code : Nat
  deriving DecidableEq, Repr

def Record.need (r : Record) (n : Nat) : Need :=
  let w := ((r.teamsOn n).map (·.2)).sum
  ⟨w, 128 * r.vregs * w, r.accs, r.code⟩

def Record.needs (r : Record) : List Need := (List.range r.ncore).map r.need

def Need.fits (n c : Need) : Bool :=
  decide (n.words ≤ c.words) && decide (n.regs ≤ c.regs) && decide (n.accs ≤ c.accs) && decide (n.code ≤ c.code)

def Need.less (c n : Need) : Need := ⟨c.words - n.words, c.regs - n.regs, c.accs - n.accs, c.code - n.code⟩

/-- What a core has with nothing on it. -/
def Need.core (hsize : Nat) : Need := ⟨256, 2097152, 16, 196608 - hsize⟩

/-- Block cores, each marked where a new block begins, find places on a cluster's cores; the cores of one block are distinct. -/
def placeAll : List (Bool × Need) → List Need → List Nat → Bool
  | [], _, _ => true
  | (first, n) :: r, caps, used =>
    (List.range 8).any fun c =>
      (first || !used.contains c) && n.fits (caps.getD c ⟨0, 0, 0, 0⟩) &&
        placeAll r (caps.set c ((caps.getD c ⟨0, 0, 0, 0⟩).less n)) (if first then [c] else c :: used)

/-- The block cores of `k` blocks of a record. -/
def Record.items (r : Record) (k : Nat) : List (Bool × Need) :=
  (List.range k).flatMap fun _ => (List.range r.ncore).map fun n => (decide (n = 0), r.need n)

/-! ### What a cluster has left -/

/-- The blocks of a cluster. -/
def State.blocksOn (s : State) (cl : Nat) : List Block := (s.blocks.filter fun q => decide (q.2.cluster = cl)).map (·.2)

/-- The record of a block's launch. -/
def State.rcdOf (s : State) (B : Block) : Option Record := (s.launch? B.launch).map (·.rcd)

/-- The context has a block on a core. -/
def State.holdsCore (s : State) (c x : Nat) : Bool := (s.blocksOn (c / 8)).any fun B => decide (B.ctx = x) && B.cores.contains c

/-- HSIZE of the context whose handler image a core holds, while that context has a block there, else of the context that asks (R287,
R349). -/
def State.hsizeAt (s : State) (c ctx : Nat) : Nat :=
  match (s.core c).himg with
  | some x => if s.holdsCore c x.1 then x.2 else (s.ctx ctx).run.hsize
  | none => (s.ctx ctx).run.hsize

/-- The CODE bytes that the blocks live on a core have reserved (R287). -/
def State.codeHeld (s : State) (c : Nat) : Nat :=
  (((s.blocksOn (c / 8)).filter fun B => B.codeRes.contains c).map fun B => ((s.rcdOf B).map (·.code)).getD 0).sum

/-- What the blocks and teams of a core leave of it (R287). -/
def State.coreLeft (s : State) (c ctx : Nat) : Need :=
  let bs := s.blocksOn (c / 8)
  let u := s.coreUse c
  let accs := ((bs.filter fun B => B.cores.contains c).map fun B => ((s.rcdOf B).map (·.accs)).getD 0).sum
  ⟨256 - u.1, 2097152 - u.2, 16 - accs, 196608 - s.hsizeAt c ctx - s.codeHeld c⟩

/-- What is left for a new block: the registers beside those that come first (R292). -/
def State.newLeft (s : State) (c ctx : Nat) : Need := { s.coreLeft c ctx with regs := (s.coreLeft c ctx).regs - s.claims c }

/-- The core already holds a sealed segment of the launch (R287). -/
def State.holdsSeg (s : State) (c l : Nat) : Bool :=
  (s.cluster (c / 8)).segs.any fun g => g.sealed && bitAt g.held (c % 8) && decide (g.launch = l)

/-- Basins of the pool that no block has set aside. -/
def Cluster.pool (C : Cluster) : List Nat := (List.range 32).filter fun b => decide ((C.info b).blk = none)

/-- Generator threads of a Stoker that no block has. -/
def State.freeThreads (s : State) (cl : Nat) : List Nat := (List.range 16).filter fun g => (s.gen? (16 * cl + g)).isNone

/-- The places on a cluster that co-resident launches have reserved and no block has taken (R286): launch by launch, one record for
each place. -/
def State.placesOn (s : State) (cl : Nat) : List Record :=
  s.launches.flatMap fun q => List.replicate (mget 0 q.2.reserved cl) q.2.rcd

/-- Blocks given by their records fit together on cores with threads and basins to spare (R286, R287). -/
def fitOn (rs : List Record) (caps : List Need) (threads basins : Nat) : Bool :=
  decide (rs.length ≤ threads) && decide ((rs.map (·.basins)).sum ≤ basins) && placeAll (rs.flatMap fun r => r.items 1) caps []

/-- R286: a cluster still holds the places that launches have reserved on it; `ctx` is the context whose HSIZE counts where a core
holds no image. -/
def State.placesFit (s : State) (cl ctx : Nat) : Bool :=
  match s.placesOn cl with
  | [] => true
  | rs => fitOn rs ((List.range 8).map fun n => s.coreLeft (8 * cl + n) ctx) (s.freeThreads cl).length (s.cluster cl).pool.length

/-- What a further reservation may count on: the registers that go first to returning teams and pending `vgrow` requests (R292) are out,
unless the places reserved already keep those waiting (R286). -/
def State.roomCaps (s : State) (cl ctx : Nat) : List Need :=
  let new := (List.range 8).map fun n => s.newLeft (8 * cl + n) ctx
  if fitOn (s.placesOn cl) new (s.freeThreads cl).length (s.cluster cl).pool.length then new
  else (List.range 8).map fun n => s.coreLeft (8 * cl + n) ctx

end Sys2Proof.Machine
end

