-- ==== Sys2Proof/Machine/System.lean ====
section
/-! DEFINITION. The system words: creating teams and launches, service calls, traps, special registers, registers on demand,
breakpoints (R20 to R26, R245 to R256, R350). -/

namespace Sys2Proof.Machine

/-- The lowest TEAMID that no team of a core holds (R289). -/
def State.freeTeamId (s : State) (c : Nat) : Option Nat :=
  (List.range 256).find? fun n => (s.team? (256 * c + n)).isNone

/-- A team at its allocation (R289). -/
def Team.fresh (words vregs prio stack idx blk ctx : Nat) (place : List Nat) : Team :=
  { th := .zero, status := .allocated, place := place, v := [], p := [], vregs := vregs, words := words, idx := idx, blk := blk, ctx := ctx, prio := prio
    stack := stack, mbase := 144#8, hcause := 0, haddr := 0, hprov := 0, hpc := 0, hmbase := 0, hmsave := [], partialMask := none
    tokens := [], trig := false, age := 0, boost := none, behind := none, vmarks := [], pvgrow := 0 }

/-! ### Teams and launches (R246 to R248) -/

/-- R246: the bad-target fault at issue, else a variable-latency creation. -/
def execSpawn (o : SThree) (s : State) : Host.Outcome State Fault Refusal :=
  issue s (.spawn o) noLimit fun a s => match s.thread? a with
    | some th =>
      if s.targetOk a (th.rd o.b.toNat) then
        s.later a 8 [] (.held (.spawn o.d.toNat ((List.range 8).map fun k => th.rd (o.a.toNat + k)) (th.rd o.b.toNat)))
      else s.raise a 0xA
    | none => s

/-- What a team has stored or seen in its core's store buffer happens before what another team does (R335, R336): a release of
that team waits for it too. -/
def State.shareStores (s : State) (t u : Nat) : State :=
  s.setSbuf (coreHolder (t / 256)) ((s.sbuf (coreHolder (t / 256))).map fun e =>
    if e.owners.contains (.team t) && !e.owners.contains (.team u) then { e with owners := .team u :: e.owners } else e)

/-- R246: the new team, with the block's VREGS, once the accesses before it are performed at core scope (R335), where it fits beside
what comes first and what is reserved (R286, R292). -/
def State.doSpawn (s : State) (t n : Nat) (p : Pend) (T : Team) (d : Nat) (args : List W64) (pc : W64) : State :=
  let a : Agent := .team t
  let c := t / 256
  if s.releaseOk a (T.th.pend.take n) 1 = false then s
  else match s.block? T.blk, s.freeTeamId c with
    | some B, some id =>
      (match freeKey B.teams 0 32 with
       | some idx =>
         let v := (s.launch? B.launch).elim T.vregs fun L => L.rcd.vregs
         let k := 256 * c + id
         let s' := s.setBlock T.blk { B with teams := lset B.teams idx k, gone := B.gone.filter fun x => decide (x ≠ idx) }
         let s' := (s'.shareStores t k).startTeam k (Team.fresh 1 v T.prio T.stack idx T.blk T.ctx (s.wordsFree c 1)) pc args
         if idx < 32 ∧ B.teams.length < 32 ∧ s.newFits c 1 v ∧ s'.placesFit (t / 2048) T.ctx then s'.answerS a n p d id
         else s.answer a n p [.s d (BitVec.allOnes 64)]
       | none => s.answer a n p [.s d (BitVec.allOnes 64)])
    | _, _ => s.answer a n p [.s d (BitVec.allOnes 64)]

/-- A held instruction that is not an access of lanes faults: its thread goes back to it (R247, R263). -/
def State.heldFault (s : State) (a : Agent) (n : Nat) (p : Pend) (cause addr : Nat) : State :=
  let back (th : Thread) : Thread := th.toCheckpoint n p.pc
  match a with
  | .team t => (s.onThread a back).teamFault t cause addr []
  | .gen g => (s.onThread a back).genFault g cause
  | .queue _ => s

/-- R247: a multiple of 256 in the global window, else an address fault. -/
def execDlaunch (o : SThree) (s : State) : Host.Outcome State Fault Refusal :=
  issue s (.dlaunch o) noLimit fun a s => match s.thread? a with
    | some th =>
      let x := th.rd o.a.toNat
      (match steer x with
       | .global va => if va % 256 = 0 then s.later a 8 [] (.held (.dlaunch o.d.toNat x (th.rd o.b.toNat))) else s.raise a 2
       | _ => s.raise a 2)
    | none => s

/-- The status of `dlaunch` and its queue (R247, R387). -/
def State.devQueue (s : State) (ctx : Nat) (q : W64) : Nat × Nat × Nat :=
  let v := bits q.toNat 5 6 + 1
  let k := bits q.toNat 0 5
  let V := s.vi v
  let Q := V.queue k
  if 2048 ≤ q.toNat ∨ V.part ≠ some (ctxPart ctx) ∨ Q.en = false ∨ Q.ctx ≠ ctx % 16 then (2, v, k)
  else if 64 ≤ Q.dev.length then (1, v, k)
  else (0, v, k)

/-- R247: the device-scope release, the record read, the status. -/
def State.doDlaunch (s : State) (a : Agent) (n : Nat) (p : Pend) (th : Thread) (d : Nat) (x q : W64) : State :=
  let before := th.pend.take n
  let ctx := (s.agentCtx? a).getD 0
  if before.all Pend.checkedAll = false ∨ s.releaseOk a before 4 = false then s
  else match s.translateAll ctx (s.sup a) .read ((List.range 256).map (x.toNat + ·)) with
    | .error e =>
      let gen : Bool := match a with
        | .gen _ => true
        | _ => false
      if gen ∧ e = 1 ∧ (s.part (ctxPart ctx)).ft = false ∧ s.poolHas (ctxPart ctx) then s else s.heldFault a n p e x.toNat
    | .ok pas =>
      if pas.any fun pa => s.poisoned pa.1 1 then s.heldFault a n p 0xD x.toNat
      else
        let (st, v, k) := s.devQueue ctx q
        if st = 0 then
          let V := s.vi v
          let Q := V.queue k
          (s.setVi v (V.setQueue k { Q with dev := Q.dev ++ [pas.map fun pa => s.mem8 pa.1] })).answerS a n p d 0
        else s.answerS a n p d st

/-- R248: held, a device-scope release, then the mark. -/
def execTrig (o : Plain) (s : State) : Host.Outcome State Fault Refusal :=
  issue s (.trig o) noLimit fun a s => s.later a 8 [] (.held .trig)

def State.doTrig (s : State) (t n : Nat) (p : Pend) (T : Team) : State :=
  let a : Agent := .team t
  let before := T.th.pend.take n
  if before.all Pend.checkedAll && s.releaseOk a before 4 then (s.onTeam a fun T => { T with trig := true }).finishItem a n p else s

/-! ### Service calls and traps (R249 to R252) -/

/-- A register below VREGS, with the registers after it that the word also names (R245). -/
def SSvc.ok (o : SSvc) (T : Team) : Bool :=
  decide (o.d.toNat + 1 < T.vregs) && (decide (o.n = 0#3) || decide (o.a.toNat + 2 * o.n.toNat - 1 < T.vregs))

/-- R249: nothing without an active lane; otherwise the team parks for the call. -/
def execSvc (o : SSvc) (s : State) : Host.Outcome State Fault Refusal :=
  issue s (.svc o) (s.teamLim fun T => SSvc.ok o T) fun a s => match a with
    | .team t => match s.team? t with
      | some T => match T.active o.g.toNat with
        | [] => s.setTeam t (T.adv 8)
        | l :: ls => s.park a (.svc o.num.toNat o.d.toNat o.a.toNat o.n.toNat (l :: ls))
      | none => s
    | _ => s

/-- R251: a team enters its handler with every lane of the mask set, once no older access can fault; a generator thread
takes the path of a generator fault. -/
def execStrap (o : SCode) (s : State) : Host.Outcome State Fault Refusal :=
  issue s (.strap o) noLimit fun a s => match a with
    | .team t => match s.team? t with
      | some T =>
        if T.th.pend.any Pend.mayFault then s.park a .older
        else s.teamFault t (0x10000 + o.code.toNat) 0 T.maskLanes
      | none => s
    | .gen g => s.genFault g (0x10000 + o.code.toNat)
    | .queue _ => s

/-- R252, R350: first as at a switch marker and as `fence.dev.ar`, then R25. -/
def execRfh (o : Plain) (s : State) : Host.Outcome State Fault Refusal :=
  issue s (.rfh o) noLimit fun a s => match a with
    | .team t => match s.team? t with
      | some T =>
        if T.hcause = 0 then s.raise a 0x10
        else if T.th.busy || !s.releaseOk a T.th.pend 4 then s.park a .leave
        else s.setTeam t T.leaveHandler
      | none => s
    | _ => s

/-! ### Special registers (R20 to R26, R253, R277) -/

/-- LVLIDX of a level (R277). -/
def State.lvlIdx (s : State) (blk l : Nat) : Nat :=
  match s.block? blk with
  | none => 0
  | some B => match s.launch? B.launch with
    | none => 0
    | some L =>
      if L.rcd.nlvl ≤ l then 0
      else (L.rcd.fbase + B.blkidx) / ((L.rcd.levels.take (l - 2)).map (·.span)).foldl (· * ·) 1

/-- The clock that an agent's CYCLE counts: its core's, or the Stoker's (R21). -/
def clockKey : Agent → Nat
  | .team t => t / 256
  | .gen g => 4096 + g / 16
  | .queue c => c

/-- A special register that both places read. -/
def State.srCommon (s : State) (a : Agent) (th : Thread) (blk n : Nat) : Option W64 :=
  let nat (x : Nat) : Option W64 := some (BitVec.ofNat 64 x)
  if n = 4 then nat (((s.block? blk).map (·.blkidx)).getD 0)
  else if n = 5 then nat (agentLoc a)
  else if n = 8 then some (th.rm.setWidth 64)
  else if n = 9 then some (th.flags.setWidth 64)
  else if n = 0x10 then nat (s.cycle (clockKey a))
  else if n = 0x11 then nat s.gtime
  else if 0x13 ≤ n ∧ n ≤ 0x17 then nat (s.lvlIdx blk (n - 0x10))
  else none

/-- A special register of a team (R20), none where the number is not valid there. -/
def State.srTeam (s : State) (t : Nat) (T : Team) (n : Nat) : Option W64 :=
  let nat (x : Nat) : Option W64 := some (BitVec.ofNat 64 x)
  if n = 1 then nat (t % 256)
  else if n = 2 then nat T.words
  else if n = 3 then nat T.idx
  else if n = 6 then nat T.vregs
  else if n = 7 then nat T.mbase.toNat
  else if n = 0xA then nat T.prio
  else if n = 0xB then nat T.stack
  else if n = 0x20 then some T.hcause
  else if n = 0x21 then some T.haddr
  else if n = 0x22 then some T.hprov
  else if n = 0x23 then some T.hpc
  else if n = 0x24 then some T.hmbase
  else if 0x40 ≤ n ∧ n ≤ 0x4F then some (T.hmsave.getD (n - 0x40) 0)
  else if 0x100 ≤ n ∧ n ≤ 0x10F then nat ((s.core (t / 256)).slot (n - 0x100)).value
  else s.srCommon (.team t) T.th T.blk n

/-- A special register of a generator thread (R20). -/
def State.srGen (s : State) (g : Nat) (G : Gen) (n : Nat) : Option W64 :=
  let nat (x : Nat) : Option W64 := some (BitVec.ofNat 64 x)
  if n = 3 then nat 0
  else if n = 0xC then nat (g % 16)
  else if n = 0xD then nat G.eseq
  else s.srCommon (.gen g) G.th G.blk n

/-- The value of a special register for an agent. -/
def State.sr (s : State) (a : Agent) (n : Nat) : Option W64 :=
  match a with
  | .team t => (s.team? t).bind fun T => s.srTeam t T n
  | .gen g => (s.gen? g).bind fun G => s.srGen g G n
  | .queue _ => none

def execGetsr (o : SGetsr) (s : State) : Host.Outcome State Fault Refusal :=
  issue s (.getsr o) (fun a => (s.sr a o.num.toNat).isSome) fun a s => match s.sr a o.num.toNat with
    | some v => s.onThread a fun th => (th.wr o.d.toNat v).adv 8
    | none => s

/-- R20, R22, R253: MODE and FPFLAGS are the writable ones; reserved bits are ignored. -/
def execSetsr (o : SSetsr) (s : State) : Host.Outcome State Fault Refusal :=
  issue s (.setsr o) (fun _ => decide (o.num = 8#11) || decide (o.num = 9#11)) fun a s => s.onThread a fun th =>
    let v := th.rd o.a.toNat
    { th.adv 8 with
      rm := if o.num = 8#11 then v.setWidth 2 else th.rm
      flags := if o.num = 9#11 then v.setWidth 5 else th.flags }

/-! ### Registers on demand (R254, R292) -/

/-- The limits of `vgrow` at issue. -/
def Team.growOk (T : Team) (n : Nat) : Bool :=
  decide (T.vregs + 8 * n ≤ 256) && decide (128 * T.words * (T.vregs + 8 * n) ≤ 2097152)

/-- R254: the team parks behind the other requests of its core. -/
def execVgrow (o : SGran) (s : State) : Host.Outcome State Fault Refusal :=
  issue s (.vgrow o) (s.teamLim fun T => T.growOk o.n.toNat) fun a s => match a with
    | .team t =>
      let C := s.core (t / 256)
      ((s.setCore (t / 256) { C with grow := C.grow.filter (fun k => decide (k ≠ t)) ++ [t] }).onThread a fun th => th.adv 8).park a (.vgrow o.d.toNat o.n.toNat)
    | _ => s

/-- The registers a team is granted. -/
def Team.grown (T : Team) (d n : Nat) : Team :=
  { T with vregs := T.vregs + 8 * n, th := T.th.wr d (BitVec.ofNat 64 (T.vregs + 8 * n)), status := .ready }

/-- R254: as at a switch marker, then the top registers go with their contents. -/
def Team.shrunk (T : Team) (n : Nat) : Team :=
  { T with vregs := T.vregs - 8 * n, v := mkeep (fun k => decide (k % 512 < T.vregs - 8 * n)) T.v
           vmarks := T.vmarks.filter fun k => decide (k % 512 < T.vregs - 8 * n) }

def execVshrink (o : SGran) (s : State) : Host.Outcome State Fault Refusal :=
  issue s (.vshrink o) (s.teamLim fun T => decide (8 + 8 * o.n.toNat ≤ T.vregs)) fun a s => match a with
    | .team t => match s.team? t with
      | some T =>
        if T.th.busy then s.park a .marker
        else (s.setTeam t (T.shrunk o.n.toNat)).later a 8 [] (.result [.s o.d.toNat (BitVec.ofNat 64 (T.vregs - 8 * o.n.toNat))] 0)
      | none => s
    | _ => s

/-! ### Breakpoints (R255) -/

/-- `nop` without a debugger; else the agent stops before its next instruction and the event is posted. -/
def execBrk (o : SCode) (s : State) : Host.Outcome State Fault Refusal :=
  issue s (.brk o) noLimit fun a s =>
    let ev := Out.debug a o.code.toNat (s.agentPc a) (s.prov a)
    let s' := s.onThread a fun th => th.adv 8
    if (s.ctx ((s.agentCtx? a).getD 0)).debugger then (s'.setStatus a .broken).emitOut ev else s'

end Sys2Proof.Machine
end

