-- ==== Sys2Proof/Machine/Replay.lean ====
section
/-! DEFINITION. Fetching, choosing who issues (R70, R218, R257, R261, R290, R291), and the return of outstanding work (R19, R188,
R192, R198, R260 to R263). -/

namespace Sys2Proof.Machine

/-! ### Fetching (R69 to R73) -/

/-- The cause of a decoding error (R72, R346). -/
def DecodeError.cause : DecodeError → Nat
  | .illegalEncoding => 7
  | .placeViolation => 9
  | .illegalField => 8

/-- Sixteen bytes at an address of the global window for instruction fetch: the bytes up to the end of their fetch block. -/
def State.fetchGen (s : State) (ctx : Nat) (pc : W64) : Except Nat (List Byte) := do
  if 2 ^ 52 ≤ pc.toNat then throw 0xA
  let p ← s.translate ctx pc.toNat .fetch false
  let n := min 16 (32 - p.1 % 32)
  if s.poisoned p.1 n then throw 0xD
  return s.memRd p.1 n

/-- The word an agent stands at, or the cause that stops it; for an empty queue there is none. -/
def State.fetch (s : State) (a : Agent) : Except Nat (Option Instr) :=
  let dec (pl : Place) (pc : Nat) (bs : List Byte) : Except Nat (Option Instr) := match decodeBytes pl pc bs with
    | .ok i => .ok (some i)
    | .error e => .error (DecodeError.cause e)
  match a with
  | .team t => match s.team? t with
    | none => .ok none
    | some T =>
      if s.inSealed (t / 256) T.ctx T.th.pc.toNat then dec .team T.th.pc.toNat (mgets 0 (s.core (t / 256)).code T.th.pc.toNat 16)
      else .error 0xA
  | .gen g => match s.gen? g with
    | none => .ok none
    | some G => match s.fetchGen G.ctx G.th.pc with
      | .error e => .error e
      | .ok bs => dec .gen G.th.pc.toNat bs
  | .queue c => match (s.core c).queue with
    | [] => .ok none
    | e :: _ => dec .queue 0 e.bytes

/-- The pool of the context's partition can fill first-touch pages for its generator threads and copies (R220, R353). -/
def State.canFill (s : State) (ctx : Nat) : Bool := !(s.part (ctxPart ctx)).ft && s.poolHas (ctxPart ctx)

/-- The S bit of the word a team stands at, whatever else is wrong with it. -/
def State.standsMarked (s : State) (t : Nat) (T : Team) : Bool :=
  s.inSealed (t / 256) T.ctx T.th.pc.toNat &&
    decide ((Raw.ofBits (bytesBits (mgets 0 (s.core (t / 256)).code T.th.pc.toNat 16))).s = 1#1)

/-- A generator thread's next word lies on a first-touch page that can be filled: it waits for that (R353). -/
def State.fetchWaits (s : State) (g : Nat) : Bool :=
  (s.gen? g).any fun G => s.canFill G.ctx && (match s.fetchGen G.ctx G.th.pc with
    | .error e => decide (e = 1)
    | .ok _ => false)

/-- A word that cannot be fetched or decoded stops its agent (R70, R72, R353), a marked one once its marker is met (R261). -/
def State.fetchFault (s : State) (a : Agent) (e : Nat) : State :=
  match a with
  | .gen g => s.genFault g e
  | .team t => match s.team? t with
    | some T => if s.standsMarked t T && T.th.busy then s.park a .marker else s.raise a e
    | none => s
  | .queue _ => s.raise a e

/-- A pre-emption has stopped the thread, which stands at an instruction boundary (R296). -/
def State.isFrozen (s : State) (a : Agent) : Bool :=
  match a with
  | .gen g => (match s.gen? g with
    | some G => G.frozen && G.emitting.isNone && G.patching.isNone
    | none => false)
  | _ => false

/-- An agent may issue: its context runs and it is ready, its word on no page that is still to be filled (R294), or it is a queue with a
command. -/
def State.mayIssue (s : State) (a : Agent) : Bool :=
  match a with
  | .queue c => match (s.core c).queue with
    | e :: _ => s.entryRuns e
    | [] => false
  | _ => decide (s.status? a = some .ready) && !s.isFrozen a && (match s.agentCtx? a with
    | some ctx => s.ctxRuns ctx
    | none => false) && (match a with
    | .gen g => !s.fetchWaits g
    | _ => true)

/-! ### Choosing who issues (R257, R291, R294) -/

/-- The word issues only on the FP64-capable slot: a floating half of its modifier names .f64 (R162, R168, R257). -/
def needsFp64 : Instr → Bool
  | .vfadd o | .vfsub o | .vfmul o | .vfdiv o | .vfmin o | .vfmax o | .vfscale o => decide (o.ty = 0#3)
  | .vffma o => decide (o.ty = 0#3)
  | .vfsqrt o | .vfrcp o | .vfrsq o | .vfex2 o | .vflg2 o | .vfsin o | .vfcos o | .vfclass o | .vfrnd o => decide (o.ty = 0#3)
  | .vfcmp o => decide (o.ty = 0#3)
  | .vfcvt o => decide (o.td = 0#3) || decide (o.ts = 0#3)
  | .vfi o => decide (o.ts = 0#3)
  | .vif o => decide (o.td = 0#3)
  | .fadd o | .fmul o => decide (o.ty = 0#3)
  | .ffma o => decide (o.ty = 0#3)
  | .fcvt o => (decide (o.kind ≠ 1#2) && decide (o.td = 0#3)) || (decide (o.kind ≠ 2#2) && decide (o.ts = 0#3))
  | .vcvtds o => decide (o.ts = 0#3)
  | _ => false

/-- The word must wait before it issues: for its switch marker (R261), or for a counter that it would raise past 255 (R192). -/
def Team.waitsAt (T : Team) (i : Instr) : Bool :=
  (i.marked && T.th.busy) || (T.wordPaths i).any fun p => decide (255 ≤ T.th.counter p)

/-- A team that a slot may choose: its next word can issue now, on this slot (R290, R291). -/
def State.slotReady (s : State) (slot t : Nat) (T : Team) : Bool :=
  s.mayIssue (.team t) && (match s.fetch (.team t) with
    | .ok (some i) => !T.waitsAt i && (decide (slot = 0) || !needsFp64 i)
    | _ => !(s.standsMarked t T && T.th.busy))

/-- The order of choice (R291): boosted first, earliest boost first; then class; in the class, those behind since a `yield` last
(R130); then age; then TEAMID. -/
def Team.before (T U : Team) (t u : Nat) : Bool :=
  match T.boost, U.boost with
  | some a, some b => decide (a < b)
  | some _, none => true
  | none, some _ => false
  | none, none =>
    if T.prio ≠ U.prio then decide (U.prio < T.prio)
    else match T.behind, U.behind with
      | some a, some b => decide (a < b)
      | some _, none => false
      | none, some _ => true
      | none, none => if T.age ≠ U.age then decide (T.age < U.age) else decide (t < u)

/-- The team a slot of a core chooses. -/
def State.slotChoice (s : State) (c slot : Nat) : Option (Nat × Team) :=
  (s.teams.filterMap fun q =>
      (s.team? q.1).bind fun T => if q.1 / 256 = c ∧ s.slotReady slot q.1 T then some (q.1, T) else none).foldl (fun (b : Option (Nat × Team)) q =>
    match b with
    | none => some q
    | some x => if q.2.before x.2 q.1 x.1 then some q else b) none

/-- How many fetch turns of the cluster come before a thread's (R294): threads fetch in turn. -/
def State.turnsTo (s : State) (g : Nat) : Nat := (g % 16 + 31 - (s.cluster (g / 16)).lastFetch % 16) % 16

/-- The thread of a cluster that has the next fetch turn among those that can proceed (R294); one that gave its turn away has it
only where no other can proceed (R130). -/
def State.fetchTurn (s : State) (cl : Nat) : Option Nat :=
  let can := s.gens.filter fun q => decide (q.1 / 16 = cl) && s.mayIssue (.gen q.1)
  let going := if can.any fun q => !q.2.skip then can.filter fun q => !q.2.skip else can
  going.foldl (fun (b : Option Nat) q => match b with
    | none => some q.1
    | some x => if s.turnsTo q.1 < s.turnsTo x then some q.1 else b) none

/-- Who issues where agent `a` has the turn: the team that its slot chooses, the thread whose fetch turn it is, the queue. -/
def State.turnOf (s : State) (a : Agent) : Option Agent :=
  match a with
  | .team t => (s.slotChoice (t / 256) s.slot).map fun q => .team q.1
  | .gen g => (s.fetchTurn (g / 16)).map .gen
  | .queue _ => some a

/-- A team that is ready but for its switch marker or a full counter: it parks when it comes to issue (R290). -/
def State.parksNow (s : State) (a : Agent) : Bool :=
  match a with
  | .team t => match s.team? t with
    | some T => (match s.fetch a with
      | .ok (some i) => T.waitsAt i
      | _ => s.standsMarked t T && T.th.busy)
    | none => false
  | _ => false

/-- An agent has the issue turn: it may issue, and it is the one whose turn it is. -/
def State.canIssue (s : State) (a : Agent) : Bool := s.mayIssue a && (decide (s.turnOf a = some a) || s.parksNow a)

def State.turnTo (s : State) (a : Agent) : State := if s.canIssue a then { s with cur := some a } else s

/-- What the turn of an agent uses up: a team has been chosen (R130, R291); a thread has fetched, and the turn of those it passed
over is given away (R130, R294), and its fetch translation is cached (R400). -/
def State.turnUsed (s : State) (a : Agent) : State :=
  match a with
  | .team t => match s.team? t with
    | some T => if T.boost = none ∧ T.behind = none then s else s.setTeam t { T with boost := none, behind := none }
    | none => s
  | .gen g => match s.gen? g with
    | some G =>
      let passed (h : Nat) (H : Gen) : Bool := H.skip && decide (h / 16 = g / 16) && decide (s.turnsTo h ≤ s.turnsTo g)
      let s' := (s.gens.filter fun q => passed q.1 q.2).foldl (fun s' q => s'.setGen q.1 { q.2 with skip := false }) s
      let C := s'.cluster (g / 16)
      State.cacheVa s (if C.lastFetch = g % 16 then s' else s'.setCluster (g / 16) { C with lastFetch := g % 16 }) G.ctx G.th.pc.toNat
    | none => s
  | .queue _ => s

/-- R70: the Stoker fetches and decodes the next word of a thread. -/
def execStokerFetchDecode (g : Nat) (s : State) : Host.Outcome State Fault Refusal :=
  .next (if s.canIssue (.gen g) then (match s.fetch (.gen g) with
    | .ok _ => s.turnTo (.gen g)
    | .error e => s.fetchFault (.gen g) e) else s)

/-- R218: the head command of a queue has its turn. -/
def execEngineCommandIssue (core : Nat) (s : State) : Host.Outcome State Fault Refusal := .next (s.turnTo (.queue core))

/-- R261: a team that has parked at a switch marker is ready once every result has returned and every access is checked; it issues
where a slot now chooses it (R291). -/
def State.markerIssue (s : State) (t : Nat) : State :=
  match s.team? t with
  | some T =>
    if T.status = .parked .marker ∧ T.th.busy = false then
      let s := s.setTeam t { T with status := .ready }
      match (List.range 4).find? fun k => decide ((s.slotChoice (t / 256) k).map (·.1) = some t) with
      | some k => State.turnTo { s with slot := k } (.team t)
      | none => s
    else s
  | none => s

def execSwitchMarkerIssue (t : Nat) (s : State) : Host.Outcome State Fault Refusal := .next (s.markerIssue t)

def execSlotIssueChoice (core slot : Nat) (s : State) : Host.Outcome State Fault Refusal :=
  .next (match s.slotChoice core slot with
    | some (t, _) => State.turnTo { s with slot := slot } (.team t)
    | none => s)

/-- R291: a ready team that no slot has chosen for long enough is boosted. -/
def State.boostTeam (s : State) (t : Nat) : State :=
  match s.team? t with
  | some T => if s.slotReady 0 t T ∧ T.boost = none then (s.setTeam t { T with boost := some s.uid }).fresh else s
  | none => s

def execTeamBoost (t : Nat) (s : State) : Host.Outcome State Fault Refusal := .next (s.boostTeam t)

/-! ### Waking (R126, R127, R191, R193, R203, R211, R290) -/

/-- The end of a wait with a value for s(D). -/
def State.wakeWith (s : State) (a : Agent) (d : Nat) (v : W64) : State := (s.onThread a fun th => th.wr d v).setStatus a .ready

/-- R127: the end of a wait, its token dropped: PH differs from the token, or a phase has completed since the wait began. -/
def State.barWake (s : State) (t : Nat) (T : Team) (n seen : Nat) : State :=
  match s.block? T.blk, lget T.tokens n with
  | some B, some ph =>
    if T.th.arriving n = false ∧ ((B.bar n).ph ≠ ph ∨ (B.bar n).flips ≠ seen) then
      s.setTeam t { T with tokens := merase T.tokens n, status := .ready }
    else s
  | _, _ => s

/-- R191, R343: the wait concerns the monitor of the last earlier `marm`, so it goes on only once that is performed. -/
def State.mwaitWake (s : State) (a : Agent) (th : Thread) (d : Nat) (deadline : W64) : State :=
  let fin (v : W64) : State := (s.onThread a fun th => { th with mon := .none }).wakeWith a d v
  if th.marming then s
  else match th.mon with
  | .triggered => fin 0
  | .none => fin 2
  | .armed _ => if deadline ≠ 0 ∧ deadline.toNat ≤ s.gtime then fin 1 else s

/-- R211: the team form of `bwait`: COUNT is read behind the team's own earlier accesses to it and its acquires (R180, R332, R339);
a fault is the instruction's own (R347, R350). -/
def State.bwaitWake (s : State) (t : Nat) (T : Team) (d : Nat) (x : W64) : State :=
  match steer x with
  | .basin slot off => match s.slotBasin (t / 256) slot T.ctx with
    | .error e => if T.th.pend.any Pend.mayFault then s else s.teamFault t e x.toNat []
    | .ok b =>
      if s.olderOk (.team t) T.th.pend true (.basin slot b off 4) = false then s
      else if s.basinPoisoned (t / 2048) b off 4 then (if T.th.pend.any Pend.mayFault then s else s.teamFault t 0xD x.toNat [])
      else
        let v := sext64 32 (leNat (s.basinRd (t / 2048) b off 4))
        if v.toInt ≤ 0 then (s.onThread (.team t) fun th => th.adv 8).wakeWith (.team t) d v else s
  | _ => s

/-- R203: the slot is filled for the team's context; as a basin instruction, `take` is not performed before the accesses before it
are checked (R198, R262). -/
def State.takeWake (s : State) (t : Nat) (T : Team) (d slot : Nat) : State :=
  let v := (s.core (t / 256)).slot slot
  if (v.mode = 1 ∨ v.mode = 2) ∧ v.owner = s.cid T.ctx ∧ T.th.pend.all Pend.checkedAll then
    s.wakeWith (.team t) d (BitVec.ofNat 64 v.value) else s

/-- A full counter has come down (R192). -/
def Thread.below (th : Thread) (paths : List Path) : Bool := paths.all fun p => decide (th.counter p < 255)

/-- R131, R289: a generator thread whose program has ended exits once its words have left the flues and its accesses are
performed; teams it never started are released. -/
def State.genExit (s : State) (g : Nat) (G : Gen) : State :=
  let waiting := (List.range 8).any fun n => (s.core (8 * (g / 16) + n)).flue.any fun e => decide (e.gen = g % 16)
  if waiting || !G.th.pend.all (·.finished) then s
  else
    let s := s.setGen g { G with status := .exited }
    let left := s.teams.filter fun q => decide (q.2.blk = G.blk) && decide (q.2.status = .allocated)
    left.foldl (fun s q =>
      let s := { s with teams := merase s.teams q.1 }
      match s.block? G.blk with
      | some B => s.setBlock G.blk { B with teams := merase B.teams q.2.idx, gone := q.2.idx :: B.gone }
      | none => s) s

/-- A wait whose end is an acquire (R129, R188, R203, R211, R335): what stands in the core's store buffer may happen before it. -/
def Wait.acquires : Wait → Bool
  | .fence _ | .bar _ _ | .take _ _ | .bwait _ _ | .mwait _ _ | .saving _ => true
  | _ => false

/-- R290: an agent whose event has occurred becomes ready. -/
def State.wakeFrom (s : State) (a : Agent) : State :=
  match s.status? a, s.thread? a, s.agentCtx? a with
  | some (.parked w), some th, some ctx =>
    if s.ctxRuns ctx = false then s
    else match w with
      | .retry | .flue => s.setStatus a .ready
      | .marker => if th.busy then s else s.setStatus a .ready
      | .counter ps => if th.below ps then s.setStatus a .ready else s
      | .older => if th.pend.any Pend.mayFault then s else s.setStatus a .ready
      | .leave => if th.busy || !s.releaseOk a th.pend 4 then s else s.setStatus a .ready
      | .fence id => if s.fencePassed a th id then s.setStatus a .ready else s
      | .eseg m size => if s.segOffsets (agentCluster a) m size = [] then s else s.setStatus a .ready
      | .waitc path n => if th.counter path ≤ n.toNat then s.setStatus a .ready else s
      | .mwait d deadline => s.mwaitWake a th d deadline
      | .bar n seen => (match a with
        | .team t => (match s.team? t with
          | some T => s.barWake t T n seen
          | none => s)
        | _ => s)
      | .take d slot => (match a with
        | .team t => (match s.team? t with
          | some T => s.takeWake t T d slot
          | none => s)
        | _ => s)
      | .bwait d x => (match a with
        | .team t => (match s.team? t with
          | some T => s.bwaitWake t T d x
          | none => s)
        | _ => s)
      | .exit => (match a with
        | .gen g => (match s.gen? g with
          | some G => s.genExit g G
          | none => s)
        | _ => s)
      | .saving (.stallBar n seen) => (match a with
        | .team t => (match s.team? t with
          | some T => s.barWake t T n seen
          | none => s)
        | _ => s)
      | .vgrow _ _ | .svc _ _ _ _ _ | .called _ _ _ _ | .saving _ | .answer => s
  | _, _, _ => s

/-- The phase that a team waits for has completed. -/
def State.barPassed (s : State) (T : Team) (n seen : Nat) : Bool :=
  match s.block? T.blk, lget T.tokens n with
  | some B, some ph => decide ((B.bar n).ph ≠ ph) || decide ((B.bar n).flips ≠ seen)
  | _, _ => false

/-- TEAM_WAKE: an agent whose event has occurred becomes ready, behind what it has acquired. -/
def State.wake (s : State) (a : Agent) : State :=
  let t := s.wakeFrom a
  match s.status? a with
  | some (.parked w) => if w.acquires ∧ t.status? a = some .ready then t.acquire a else t
  | _ => t

def execTeamWake (a : Agent) (s : State) : Host.Outcome State Fault Refusal := .next (s.wake a)

/-! ### Results (R19, R23, R192, R260) -/

/-- Write one returned value. -/
def State.writeReg (s : State) (a : Agent) : RegWrite → State
  | .s r v => s.onThread a fun th => th.wr r v
  | .v r l v => s.onTeam a fun T => T.vw r l v

/-- The write belongs to the lane-word of a lane. -/
def RegWrite.inWord (lane : Nat) : RegWrite → Bool
  | .s _ _ => false
  | .v _ l _ => decide (l / 32 = lane / 32)

/-- Results return: all of them, or those of one lane-word; the flags with the last (R14, R19, R23). -/
def State.returnResult (s : State) (a : Agent) (n : Nat) (p : Pend) (th : Thread) (ws : List RegWrite) (fl : BitVec 5) (word : Option Nat) : State :=
  if th.shadowed n p.work then s
  else
    let hit (w : RegWrite) : Bool := match word with
      | none => true
      | some l => w.inWord l
    let s := (ws.filter hit).foldl (fun s w => s.writeReg a w) s
    let left := ws.filter fun w => !hit w
    if left = [] then (s.onThread a fun th => th.orFlags fl).finishItem a n { p with work := .result [] 0 }
    else s.setItem a n { p with work := .result left fl }

/-- R126, R127, R129: an arrival is counted, a cluster-scope release; a count mismatch is a fault of the `bar`. -/
def State.doArrive (s : State) (t n : Nat) (p : Pend) (T : Team) (bar e : Nat) : State :=
  let a : Agent := .team t
  let before := T.th.pend.take n
  let earlier := before.any fun q => !q.finished && (match q.work with
    | .held (.barArrive k _) => decide (k = bar)
    | _ => false)
  if earlier || !s.releaseOk a before 2 then s
  else match s.block? T.blk with
    | none => s
    | some B => match (B.bar bar).settle e with
      | none => s.heldFault a n p 0xB 0
      | some v =>
        let st : Status := match T.status with
          | .parked (.bar k seen) => .parked (.bar k (if k = bar then v.flips else seen))
          | .parked (.saving (.stallBar k seen)) => .parked (.saving (.stallBar k (if k = bar then v.flips else seen)))
          | st => st
        ((s.setBlock T.blk (B.setBar bar (v.arrive s.choice))).setTeam t { T with tokens := lset T.tokens bar v.ph, status := st }).finishItem a n p

/-- A fence before an item is not complete (R188). -/
def fencedBefore (before : List Pend) : Bool :=
  before.any fun p => !p.finished && (match p.work with
    | .held (.fence _ _) => true
    | _ => false)

/-- A held instruction is performed (R188, R198, R262). The rules order a team's own basin instructions, and its kicks, against its
accesses, not among themselves: any of them may be performed first (DESIGN CHOICE, log entry 93). -/
def State.doHeld (s : State) (a : Agent) (n : Nat) (p : Pend) (th : Thread) (o : HeldOp) (word : Option Nat) : State :=
  let before := th.pend.take n
  match o with
  | .fence scope ord => if s.fenceDone a th n scope ord then s.finishItem a n p else s
  | _ =>
    if fencedBefore before || !s.ctxRuns ((s.agentCtx? a).getD 0) then s
    else match a with
      | .team t => match s.team? t with
        | none => s
        | some T => (match o with
          | .barArrive b e => s.doArrive t n p T b e
          | .trig => s.doTrig t n p T
          | .spawn d args pc => s.doSpawn t n p T d args pc
          | .dlaunch d x q => s.doDlaunch a n p th d x q
          | .kick x cnt => if before.all Pend.checkedAll then s.doKick t n p T x cnt else s
          | .balloc _ _ | .bfree _ _ _ | .give _ _ _ _ _ | .takeTest _ _ | .bshare _ _ _ | .bmap _ _ | .bzero _ _ _ =>
            if before.all Pend.checkedAll then s.basinHeld t n p T o word else s
          | _ => s)
      | .gen g => match s.gen? g with
        | none => s
        | some G => (match o with
          | .eseal d x => s.doSeal g n p d x
          | .tgo d team _ pc args => s.doTgo g n p G d team pc args
          | .tdset d img => s.doTdset g n p G d img
          | .dlaunch d x q => s.doDlaunch a n p th d x q
          | _ => s)
      | .queue _ => s

/-- An item of a thread goes on (R19): an access is performed and its values return. `word` names a lane-word by a lane of it,
or, from 1,024 upwards, one lane that is performed without returning yet. -/
def State.goOn (s : State) (a : Agent) (n : Nat) (word : Option Nat) : State :=
  match s.thread? a with
  | none => s
  | some th => match th.pend[n]? with
    | none => s
    | some p =>
      if p.finished then s
      else match p.work with
        | .result ws fl => s.returnResult a n p th ws fl word
        | .held o => s.doHeld a n p th o word
        | .mem _ =>
          let perf : LaneReq → Bool := match word with
            | none => fun _ => true
            | some k => fun l => decide (l.lane + 1024 = k)
          let ret : Nat → Bool := match word with
            | none => fun _ => true
            | some k => fun l => decide (l / 32 = k / 32)
          let s := s.performItem a n perf
          match (s.thread? a).bind fun th => th.pend[n]? with
          | some q => (match q.work with
            | .mem m => s.returnItem a n q m ret
            | _ => s)
          | none => s

def execVariableLatencyResult (a : Agent) (n : Nat) (word : Option Nat) (s : State) : Host.Outcome State Fault Refusal :=
  .next (s.goOn a n word)

/-! ### First-touch pages and generator faults (R353, R404) -/

/-- A supervisor access of the first-touch fill at a virtual address: its physical address. -/
def State.fillPa (s : State) (ctx : Nat) (va : W64) (acc : Access) : Except Nat Nat := do
  if 2 ^ 52 ≤ va.toNat then throw 2
  let p ← s.translate ctx va.toNat acc true
  if s.poisoned p.1 8 then throw 0xD
  return p.1

/-- The steps of R404 in their order: the state they reach, and the cause of an access that fails. Nothing is mapped where another agent
has mapped or claimed the page, or the pool is empty. -/
def State.fillSteps (s : State) (ctx va : Nat) : State × Option Nat :=
  let P := s.part (ctxPart ctx)
  let c := (s.ctx ctx).run
  let entry := c.ptwin + BitVec.ofNat 64 (8 * bits va 16 36)
  match s.fillPa ctx entry .read with
  | .error x => (s, some x)
  | .ok ea =>
    let e := leNat (s.memRd ea 8)
    if bitAt e 63 || bitAt e 51 then (s, none)
    else match s.fillPa ctx entry .rmw with
      | .error x => (s, some x)
      | .ok _ =>
        let claimed := s.perform ea (natLe 8 (e + 2 ^ 51))
        match claimed.fillPa ctx c.ftpva .read, claimed.fillPa ctx (c.ftpva + 8) .read with
        | .error x, _ | _, .error x => (claimed, some x)
        | .ok ta, .ok pa =>
          let t := leNat (claimed.memRd ta 8)
          if t = leNat (claimed.memRd pa 8) then (claimed.perform ea (natLe 8 e), none)
          else match claimed.fillPa ctx c.ftpva .rmw with
            | .error x => (claimed, some x)
            | .ok _ =>
              let taken := claimed.perform ta (natLe 8 (t + 1))
              match taken.fillPa ctx (c.ftpva + BitVec.ofNat 64 (64 + 8 * (t % 2 ^ P.ftplg))) .read with
              | .error x => (taken, some x)
              | .ok ra =>
                let f := leNat (taken.memRd ra 8)
                (taken.perform ea (natLe 8 (2 ^ 63 + bits e 52 10 * 2 ^ 52 + bits e 48 3 * 2 ^ 48 + f % 2 ^ 48)), none)

/-- A page meets bytes of the global window. -/
def onPage (page va n : Nat) : Bool := decide (va / 65536 ≤ page) && decide (page ≤ (va + n - 1) / 65536)

/-- A page meets bytes that a generator's word reads as it issues (R212, R236). -/
def Gen.readsPage (G : Gen) (page : Nat) : Instr → Bool
  | .emitm o => onPage page (G.th.rd o.a.toNat).toNat o.n.toNat
  | .emitqMulti o => onPage page (G.th.rd o.a.toNat).toNat o.n.toNat
  | .tdset o => onPage page (G.th.rd o.a.toNat + dispVal o.disp).toNat 16
  | _ => false

/-- A generator thread waits for a page: that of its next word, of bytes that word reads, of an access that is not translated (R353). -/
def State.genWants (s : State) (g page : Nat) (G : Gen) : Bool :=
  (decide (G.status = .ready) || decide (G.status = .parked .retry)) &&
    (onPage page G.th.pc.toNat 8 || (match s.fetch (.gen g) with
      | .ok (some i) => G.readsPage page i
      | _ => false)) ||
  G.th.pend.any fun p => !p.finished && (match p.work with
    | .mem m => m.lanes.any fun l => decide (l.stage = .fresh) && onPage page (l.addr.toNat + l.off) l.len
    | .held (.dlaunch _ x _) => onPage page x.toNat 256
    | _ => false)

/-- A copy job waits for a page: one that a row still to be moved lies on (R220). -/
def State.jobWants (s : State) (c page : Nat) (j : Job) : Bool :=
  match j.kind with
  | .copy d left _ => left.any fun x => (List.range ((x.2 + d.rowlen) / d.rowlen + 1)).any fun k =>
      let r := x.1 / d.rowlen + k
      let at_ (base : W64) (stride : W32) (n : Nat) : Bool := onPage page (base + BitVec.ofInt 64 (stride.toInt * (n : Int))).toNat d.rowlen
      decide (r * d.rowlen < x.1 + x.2) && (at_ d.dst d.dstride r || (if d.kind = 2 then (match s.copyIndex c j d r with
        | .ok (q, _) => at_ d.src d.sstride q
        | .error _ => false) else at_ d.src d.sstride r))
  | _ => false

/-- Who takes the steps of R404 for a page: a generator thread, or a copy job of a core. -/
def State.filler (s : State) (ctx page : Nat) : Option (Nat ⊕ Nat × Job) :=
  match s.gens.find? fun q => decide (q.2.ctx = ctx) && s.genWants q.1 page q.2 with
  | some q => some (.inl q.1)
  | none => (s.cores.flatMap fun q => (q.2.jobs.filter fun j => decide (j.ctx = ctx) && s.jobWants q.1 page j).map fun j => (q.1, j)).head?.map .inr

/-- The fill's own access fails: its cause stops the context, on record for the thread or the copy job that took the steps (R404, R412,
R413). -/
def State.fillFault (s : State) (cause : Nat) : Nat ⊕ Nat × Job → State
  | .inl g => s.fatal (.gen g) cause
  | .inr (c, j) => s.jobFault c j cause

/-- R353, R404: the Stoker or a copy engine maps a first-touch page that it waits for from the pool; a fault of its own stops the
context. -/
def State.fill (s : State) (ctx : Nat) (va : W64) : State :=
  if s.ctxRuns ctx && s.canFill ctx && decide (va.toNat < 2 ^ 52) then
    match s.filler ctx (va.toNat / 65536), s.walk (ctxPart ctx) (s.ctx ctx).run.root (s.ctx ctx).run.rsplit va.toNat with
    | some w, .error 1 => (match s.fillSteps ctx va.toNat with
      | (s', some e) => s'.fillFault e w
      | (s', none) => s')
    | _, _ => s
  else s

def execFirstTouchFill (ctx : Nat) (va : W64) (s : State) : Host.Outcome State Fault Refusal := .next (s.fill ctx va)

/-- R353: a thread whose next word cannot be fetched, or whose oldest access fails, stops before that instruction. -/
def State.genFaults (s : State) (g : Nat) : State :=
  match s.gen? g with
  | none => s
  | some G =>
    if s.ctxRuns G.ctx = false then s
    else match G.th.pend.findIdx? Pend.unchecked with
      | some n => s.checkItem (.gen g) n
      | none =>
        if s.canIssue (.gen g) then (match s.fetch (.gen g) with
          | .error e => s.fetchFault (.gen g) e
          | .ok _ => s)
        else s

def execGeneratorFault (g : Nat) (s : State) : Host.Outcome State Fault Refusal := .next (s.genFaults g)

end Sys2Proof.Machine
end

