-- ==== Sys2Proof/Machine/Switch.lean ====
section
/-! DEFINITION. Switching teams out and back: the switch-out areas (R249, R250, R293, R352, R366, R407 to R409), register growth and
register stalls (R292, R293), retiring teams (R131), losing a context (R411). -/

namespace Sys2Proof.Machine

/-! ### Rings (R381, R382) -/

/-- The ring that takes a record: the partition's own, or the host ring of the lowest-numbered VI that has one enabled; VI 0
stands for the partition's own. -/
def State.ringOf (s : State) (p : Nat) (host : Bool) : Option (Nat × Ring) :=
  if host then
    ((List.range 64).find? fun k => decide ((s.vi (k + 1)).part = some p) && decide ((s.vi (k + 1)).ring.lg ≠ 0)).map fun k => (k + 1, (s.vi (k + 1)).ring)
  else if (s.part p).ring.lg = 0 then none else some (0, (s.part p).ring)

/-- A ring has room for a record (R381). -/
def Ring.room (r : Ring) (units : Nat) : Bool := decide ((2 ^ 32 + r.pi - r.ci) % 2 ^ 32 + units ≤ 2 ^ r.lg)

/-! ### Memory by virtual address -/

/-- Write bytes at virtual addresses of a context, page by page, performed at device scope: the state that the pages before a fault
leave, and its cause. -/
def State.putVa (s : State) (ctx : Nat) : Nat → Nat → List Byte → State × Option Nat
  | 0, _, _ => (s, none)
  | f + 1, va, bs =>
    if bs = [] then (s, none)
    else if 2 ^ 52 ≤ va then (s, some 2)
    else match s.translate ctx va .write false with
      | .error e => (s, some e)
      | .ok p => (s.perform p.1 (bs.take (65536 - va % 65536))).putVa ctx f (va + (65536 - va % 65536)) (bs.drop (65536 - va % 65536))

/-- Write bytes that are written whole or not at all. -/
def State.writeVa (s : State) (ctx f va : Nat) (bs : List Byte) : Except Nat State :=
  match s.putVa ctx f va bs with
  | (t, none) => .ok t
  | (_, some e) => .error e

/-- Writes go on while none has faulted. -/
def onward (r : State × Option Nat) (f : State → State × Option Nat) : State × Option Nat :=
  match r with
  | (s, none) => f s
  | r => r

/-- The sectors of words at these offsets from a virtual address are marked: poison travels with saved data (R432). -/
def State.markVa (s : State) (ctx va : Nat) (bad : List Nat) : State :=
  bad.foldl (fun s o => match s.translate ctx (va + o) .write false with
    | .ok p => s.sectorMark p.1 true
    | .error _ => s) s

/-- Read bytes at virtual addresses of a context; where the reader consumes them, poison is cause 0x000D (R432). -/
def State.bytesVa (s : State) (ctx : Nat) (consume : Bool) : Nat → Nat → Nat → Except Nat (List Byte)
  | 0, _, _ => .ok []
  | f + 1, va, len =>
    if len = 0 then .ok []
    else if 2 ^ 52 ≤ va then .error 2
    else do
      let n := min len (65536 - va % 65536)
      let p ← s.translate ctx va .read false
      if consume && s.poisoned p.1 n then throw 0xD
      let r ← s.bytesVa ctx consume f (va + n) (len - n)
      return s.memRd p.1 n ++ r

def State.readVa (s : State) (ctx f va len : Nat) : Except Nat (List Byte) := s.bytesVa ctx true f va len

/-- The 4-byte word at a virtual address lies in a poisoned sector. -/
def State.badVa (s : State) (ctx va : Nat) : Bool :=
  match s.translate ctx va .read false with
  | .ok p => s.poisoned p.1 4
  | .error _ => false

/-! ### The switch-out area (R407, R408) -/

def CtxRec.area (c : CtxRec) (slot : Nat) : Nat := (c.swva.toNat + 0x10000 * slot) % 2 ^ 64

def CtxRec.vArea (c : CtxRec) (slot : Nat) : Nat := (c.vswva.toNat + 0x100000 * slot) % 2 ^ 64

/-- Lanes as bytes of 8 lanes each. -/
def laneBytes (n : Nat) (f : Nat → Bool) : List Byte :=
  (List.range n).map fun i => BitVec.ofNat 8 ((List.range 8).foldr (fun b x => b2n (f (8 * i + b)) + 2 * x) 0)

/-- The first 0x800 bytes of an area. -/
def Team.header (T : Team) (t reason tag grow : Nat) (pc : W64) (mask : List Nat) (counters : List Nat) : List Byte :=
  natLe 8 pc.toNat ++ natLe 1 reason ++ natLe 1 T.words ++ natLe 2 T.vregs ++ natLe 1 T.mbase.toNat ++ natLe 1 (t % 256) ++
    natLe 2 (agentLoc (.team t)) ++ natLe 8 T.th.rm.toNat ++ natLe 8 T.th.flags.toNat ++ (counters.flatMap fun c => natLe 1 c) ++ zeros 3 ++
    natLe 4 tag ++ zeros 4 ++ natLe 1 grow ++ zeros 0xCF ++
    ((List.range 160).flatMap fun r => natLe 8 (T.th.rd r).toNat) ++
    laneBytes 128 (fun l => mask.contains l) ++
    (([T.hcause, T.haddr, T.hprov, T.hpc, T.hmbase] ++ (List.range 16).map fun i => T.hmsave.getD i 0).flatMap fun x => natLe 8 x.toNat) ++
    zeros 0xD8

/-- The bytes of an area from 0x2800 on. -/
def Team.predBytes (T : Team) : List Byte :=
  ((List.range 7).flatMap fun g => laneBytes 128 fun l => mget false T.p (pkey g l)) ++ zeros 0xD480

/-- The vector region: register by register, lane by lane. -/
def Team.vecBytes (T : Team) : List Byte :=
  (List.range T.vregs).flatMap fun k => (List.range (32 * T.words)).flatMap fun l => natLe 4 (T.vr k l).toNat

/-- A slot of a context is taken (R407). -/
def State.takeSlot (s : State) (ctx slot : Nat) : State :=
  let c := s.ctx ctx
  if c.slots.contains slot then s else s.setCtx ctx { c with slots := slot :: c.slots }

/-- The offsets of the poisoned words of the registers: in the area, and in the vector region. -/
def Team.areaBad (T : Team) : List Nat := T.th.marks.map fun w => 0x100 + 4 * w

def Team.vecBad (T : Team) : List Nat := T.vmarks.map fun k => 4 * (k % 512 * (32 * T.words) + k / 512)

/-- Save a team into a slot; the reply area is left alone. -/
def State.saveTeam (s : State) (T : Team) (slot : Nat) (head : List Byte) : State × Option Nat :=
  let c := (s.ctx T.ctx).run
  onward (s.putVa T.ctx 2 (c.area slot) head) fun s =>
    onward ((s.markVa T.ctx (c.area slot) T.areaBad).putVa T.ctx 2 (c.area slot + 0x2800) T.predBytes) fun s =>
      onward (s.putVa T.ctx 18 (c.vArea slot) T.vecBytes) fun s =>
        ((s.markVa T.ctx (c.vArea slot) T.vecBad).takeSlot T.ctx slot, none)

/-- A free slot of a context (R407). -/
def State.slotFree (s : State) (ctx slot : Nat) : Bool :=
  decide (slot < 2 ^ (s.ctx ctx).run.swlg) && !((s.ctx ctx).slots.contains slot)

/-- A little-endian number at an offset of bytes read. -/
def leAt (bs : List Byte) (off n : Nat) : Nat := leNat ((bs.drop off).take n)

/-- A sparse map from a list of values. -/
def mfrom {α : Type} [DecidableEq α] (d : α) (f : Nat → Nat) (vs : List α) : SMap α :=
  ((List.range vs.length).zip vs).foldl (fun m x => mput d m (f x.1) x.2) []

/-- The values of successive fields of `n` bytes. -/
def fields (bs : List Byte) (off n count : Nat) : List Nat := (List.range count).map fun i => leAt bs (off + n * i) n

/-- A set bit of a byte string. -/
def byteBit (bs : List Byte) (i : Nat) : Bool := ((bs.getD (i / 8) 0).getLsbD (i % 8))

/-- R409: what the device reloads from a slot. A mask without a lane that replaces none says that no instruction is part done (R263). -/
def Team.reload (T : Team) (head preds vec : List Byte) : Team :=
  let lanes := 32 * T.words
  let mask := (List.range lanes).filter fun l => byteBit (head.drop 0x600) l
  { T with
    th := { T.th with
      pc := BitVec.ofNat 64 (leAt head 0 8)
      rm := BitVec.ofNat 2 (leAt head 0x10 8)
      flags := BitVec.ofNat 5 (leAt head 0x18 8)
      s := mfrom 0 id ((fields head 0x100 8 160).map (BitVec.ofNat 64)) }
    mbase := BitVec.ofNat 8 (leAt head 0xC 1)
    hcause := BitVec.ofNat 64 (leAt head 0x680 8)
    haddr := BitVec.ofNat 64 (leAt head 0x688 8)
    hprov := BitVec.ofNat 64 (leAt head 0x690 8)
    hpc := BitVec.ofNat 64 (leAt head 0x698 8)
    hmbase := BitVec.ofNat 64 (leAt head 0x6A0 8)
    hmsave := (fields head 0x6A8 8 16).map (BitVec.ofNat 64)
    partialMask := if mask = [] ∧ T.partialMask = none then none else some mask
    p := mfrom false (fun i => pkey (i / lanes) (i % lanes))
      ((List.range (7 * lanes)).map fun i => byteBit (preds.drop (128 * (i / lanes))) (i % lanes))
    v := mfrom 0 (fun i => vkey (i / lanes) (i % lanes)) ((fields vec 0 4 (T.vregs * lanes)).map (BitVec.ofNat 32)) }

/-- The registers of a reloaded team are marked where what was read is poisoned (R432). -/
def State.remark (s : State) (T : Team) (slot : Nat) : Team :=
  let c := (s.ctx T.ctx).run
  let lanes := 32 * T.words
  { T with
    th := { T.th with marks := (List.range 320).filter fun w => s.badVa T.ctx (c.area slot + 0x100 + 4 * w) }
    vmarks := (List.range (T.vregs * lanes)).filterMap fun i =>
      if s.badVa T.ctx (c.vArea slot + 4 * i) then some (vkey (i / lanes) (i % lanes)) else none }

/-- Read a team back from its slot and free the slot (R407, R409). -/
def State.loadTeam (s : State) (T : Team) (slot : Nat) : Except Nat (State × Team × List Byte) := do
  let c := (s.ctx T.ctx).run
  let head ← s.bytesVa T.ctx false 2 (c.area slot) 0x2800
  let preds ← s.bytesVa T.ctx false 2 (c.area slot + 0x2800) 0x380
  let vec ← s.bytesVa T.ctx false 18 (c.vArea slot) (128 * T.words * T.vregs)
  return (s.setCtx T.ctx { s.ctx T.ctx with slots := (s.ctx T.ctx).slots.filter fun k => decide (k ≠ slot) },
    s.remark (T.reload head preds vec) slot, head)

/-! ### A forced reset (R414) and a lost context (R411) -/

/-- The registers and resources that a context holds are freed: agents, blocks, segments, flue and queue words, slots, jobs, Weir
leases, bank-map slots (R414, R415); but for the teams that `keep` names, which wait off their cores for a service call (R366).
Records of its other agents are answered by nobody any more. -/
def State.clearContext (s : State) (ctx : Nat) (keep : Nat → Bool) : State :=
  let blks := (s.blocks.filter fun b => decide (b.2.ctx = ctx)).map (·.1)
  let cid := s.cid ctx
  let mineL (l : Nat) : Bool := match s.launch? l with
    | some L => decide (L.ctx = ctx)
    | none => false
  let ours (r : SvcRec) : Bool := match r.who with
    | .team k => decide ((s.team? k).map (·.ctx) = some ctx) && !keep k
    | .gen g => decide ((s.gen? g).map (·.ctx) = some ctx)
    | .halt _ => false
  let P := s.part (ctxPart ctx)
  { s.setPart (ctxPart ctx) { P with
      waiting := P.waiting.filter fun r => !ours r, posted := P.posted.filter fun x => !ours x.rcd } with
    teams := s.teams.filter fun q => decide (q.2.ctx ≠ ctx) || keep q.1
    gens := s.gens.filter fun q => decide (q.2.ctx ≠ ctx)
    blocks := s.blocks.filter fun q => decide (q.2.ctx ≠ ctx)
    atomq := s.atomq.filter fun q => decide (s.agentCtx? q.who ≠ some ctx)
    cores := s.cores.foldl (fun m q =>
      let C := q.2
      mput .zero m q.1 { C with
        bmap := C.bmap.filter fun v => decide (v.2.owner ≠ cid)
        flue := C.flue.filter fun e => !blks.contains e.blk
        queue := C.queue.filter fun e => !blks.contains e.blk
        head := if C.queue.any fun e => blks.contains e.blk then .fresh else C.head
        jobs := C.jobs.filter fun j => decide (j.ctx ≠ ctx)
        himg := C.himg.filter fun x => decide (x.1 ≠ ctx)
        grow := C.grow.filter fun t => decide (((s.team? t).map (·.ctx)) ≠ some ctx)
        returning := C.returning.filter fun t => decide (((s.team? t).map (·.ctx)) ≠ some ctx) || keep t }) []
    clusters := s.clusters.foldl (fun m q =>
      let C := q.2
      mput .zero m q.1 { C with
        segs := C.segs.filter fun g => !mineL g.launch
        arrivals := C.arrivals.filter fun x => !blks.contains x.1
        binfo := C.binfo.filterMap fun x => match x.2.blk with
          | some b =>
            if !blks.contains b then some x
            else if x.2.allocated || x.2.last.isSome then
              some (x.1, { x.2 with blk := none, allocated := false, clearing := false, last := if x.2.allocated then some ctx else x.2.last })
            else none
          | none => some x
        weir := { C.weir with
          lease := if C.weir.lease.any blks.contains then none else C.weir.lease
          waiting := C.weir.waiting.filter fun b => !blks.contains b } }) [] }

/-- A generation change of a context (R402): cached translations of other generations go. -/
def State.newGen (s : State) (ctx gen : Nat) : State :=
  let c := s.ctx ctx
  s.setCtx ctx { c with gen := gen, genSeq := c.genSeq + 1, tlb := c.tlb.filter fun e => decide (e.gen = gen) }

/-- R411: a context whose save write failed is lost; the error record takes the cause with LOST set, and the servicer of error recovery is
told once its halt is complete (R356, R414). The context is then reset by force. -/
def State.loseContext (s : State) (ctx cause loc tag : Nat) : State :=
  let p := ctxPart ctx
  let P := s.part p
  let c := s.ctx ctx
  let told := decide (c.mode = .halted) || decide (c.mode = .lost)
  let s := s.setCtx ctx { c with
    mode := .lost, cause := if c.cause = 0 then cause else c.cause
    note := if told then c.note else some ⟨3, .halt ctx, shortRecord 3 c.run.cid loc 0 0 0 0 cause 0 0, P.er⟩ }
  if P.err0v then s
  else s.setPart p { P with
    err0v := true, err0lost := true, err0cause := cause, err1loc := loc, err1cid := c.run.cid, err2 := BitVec.ofNat 64 s.gtime, err3 := tag }

/-! ### Switching out (R249, R293, R352, R409) -/

/-- The bytes of a service-call record (R249). -/
def Team.callRecord (T : Team) (t num a n : Nat) (lanes : List Nat) (cid tag reply : Nat) : List Byte :=
  let len := (192 + 32 * lanes.length + 63) / 64 * 64
  natLe 2 num ++ natLe 1 n ++ natLe 1 T.words ++ natLe 4 len ++ natLe 2 lanes.length ++ natLe 2 cid ++
    natLe 2 (agentLoc (.team t)) ++ natLe 1 (t % 256) ++ zeros 1 ++ natLe 8 T.th.pc.toNat ++ natLe 4 tag ++ zeros 4 ++ natLe 8 reply ++
    zeros 24 ++ laneBytes 128 (fun l => lanes.contains l) ++
    (lanes.flatMap fun l => (List.range 4).flatMap fun k => natLe 8 (if k < n then T.vrd true (a + 2 * k) l else 0)) ++
    zeros (len - (192 + 32 * lanes.length))

/-- The team has left its core for a slot. -/
def State.leftCore (s : State) (t : Nat) (T : Team) (slot : Nat) (why : SwitchReason) (replied : Bool) : State :=
  let C := s.core (t / 256)
  (s.setTeam t { T with
      status := .switchedOut slot why replied, th := { T.th with mon := if T.th.mon = .none then .none else .triggered } }).setCore (t / 256)
    { C with returning := C.returning ++ [t], grow := C.grow.filter fun k => decide (k ≠ t) }

/-- A write of a team's save that fails loses the context (R411, R413). -/
def orLost (t : Nat) (T : Team) (tag : Nat) (r : State × Option Nat) (f : State → State) : State :=
  match r with
  | (s, none) => f s
  | (s, some e) => s.loseContext T.ctx e (agentLoc (.team t)) tag

/-- R249: once every result has returned and every access is performed at system scope, the record is raised, with its reply area in
the slot that the device takes for the team (R407); SPLIT is sampled now (R372). -/
def State.callSvc (s : State) (t slot : Nat) (T : Team) (num d a n : Nat) (lanes : List Nat) : State :=
  let p := ctxPart T.ctx
  let c := (s.ctx T.ctx).run
  if s.drained (.team t) 5 then
    ((s.takeSlot T.ctx slot).setTeam t { T with status := .parked (.called slot d lanes false) }).raiseRecord p
      ⟨0, .team t, T.callRecord t num a n lanes c.cid (s.tagAt (t / 256) T.th.pc) (c.area slot + 0x800), (s.part p).svc⟩
  else s

/-- R249, R366: the switch-out of a service call, whose reply may be posted already. -/
def State.saveSvc (s : State) (t slot : Nat) (T : Team) (d : Nat) (lanes : List Nat) (replied : Bool) : State :=
  let tag := s.tagAt (t / 256) T.th.pc
  let T' := T.adv 8
  orLost t T tag (s.saveTeam T' slot (T'.header t 1 tag 0 T'.th.pc [] (List.replicate 5 0))) fun s =>
    s.leftCore t T' slot (.svc d lanes) replied

/-- R352: the switch-out of a first-touch fault, and its record for the servicer that SPLIT named at the fault (R372). -/
def State.saveFault (s : State) (t slot : Nat) (T : Team) (addr : W64) (host : Bool) : State :=
  let p := ctxPart T.ctx
  let tag := s.tagAt (t / 256) T.th.pc
  orLost t T tag (s.saveTeam T slot (T.header t 3 tag 0 T.th.pc (T.partialMask.getD []) (List.replicate 5 0))) fun s =>
    (s.leftCore t T slot (.fault addr host) false).raiseRecord p
      ⟨1, .team t, shortRecord 1 (s.cid T.ctx) (agentLoc (.team t)) (t % 256) T.th.pc.toNat tag addr.toNat 1 0 0, host⟩

/-- R293: the switch-out of a register stall. -/
def State.saveStall (s : State) (t slot : Nat) (T : Team) (why : SwitchReason) (grow : Nat) : State :=
  let tag := s.tagAt (t / 256) T.th.pc
  orLost t T tag (s.saveTeam T slot (T.header t 2 tag grow T.th.pc [] (List.replicate 5 0))) fun s => s.leftCore t T slot why false

/-- R407, R409: a team is saved into a free slot once every outstanding result has returned and its stores are performed. -/
def State.switchOut (s : State) (t slot : Nat) : State :=
  match s.team? t with
  | none => s
  | some T =>
    if !T.th.pend.all (·.finished) || decide ((s.ctx T.ctx).mode = .lost) then s
    else match T.status with
      | .parked (.called k d lanes replied) => s.saveSvc t k T d lanes replied
      | .parked (.svc num d a n lanes) => if s.slotFree T.ctx slot then s.callSvc t slot T num d a n lanes else s
      | .parked (.saving why) =>
        if s.slotFree T.ctx slot = false then s
        else (match why with
          | .fault addr host => s.saveFault t slot T addr host
          | .stallGrow d g => s.saveStall t slot T (.stallGrow d g) g
          | .stallBar n seen => s.saveStall t slot T (.stallBar n seen) 0
          | _ => s)
      | _ => s

def execTeamSwitchOutSave (t slot : Nat) (s : State) : Host.Outcome State Fault Refusal := .next (s.switchOut t slot)

/-! ### Coming back (R250, R293, R352, R366) -/

/-- A team may take its lane-word contexts again: those it left after a service call (R366), any others after another switch-out. -/
def State.placeBack (s : State) (t : Nat) (T : Team) (why : SwitchReason) : Option (List Nat) :=
  match why with
  | .svc _ _ => if T.place.all fun k => !(s.wordsHeld (t / 256)).contains k then some T.place else none
  | _ => let ks := s.wordsFree (t / 256) T.words
    if ks.length = T.words then some ks else none

/-- The team holds lane-word contexts of its core and its registers again. -/
def State.seated (s : State) (t : Nat) (T : Team) (place : List Nat) (granules : Nat) : State :=
  s.setTeam t { T with status := .ready, place := place, vregs := T.vregs + 8 * granules }

/-- R292: the first of a core's switched-out teams that may return has its registers and lane-word contexts, which no launch has
reserved (R286). -/
def State.returns (s : State) (t : Nat) (T : Team) (why : SwitchReason) : Bool :=
  decide ((s.core (t / 256)).returning.find? s.mayReturn = some t) && s.coreFits (t / 256) T.words (T.vregs + 8 * why.granules) &&
    (match s.placeBack t T why with
      | some ks => (s.seated t T ks why.granules).placesFit (t / 2048) T.ctx
      | none => false)

/-- The team is on its core again with what its slot held. -/
def State.comeBack (s : State) (t : Nat) (T : Team) (slot : Nat) (why : SwitchReason) (f : Team → List Byte → Team) : State :=
  let place := (s.placeBack t T why).getD T.place
  match s.loadTeam T slot with
  | .error e => s.fatal (.team t) e
  | .ok (s, T', head) =>
    let C := s.core (t / 256)
    (s.setTeam t (f { T' with status := .ready, place := place } head)).setCore (t / 256)
      { C with returning := C.returning.filter fun k => decide (k ≠ t) }

/-- R293: a pending `vgrow` completes, a `bar` wait goes on or is over, a faulting instruction is reissued. -/
def State.returnOut (s : State) (t : Nat) : State :=
  match s.team? t with
  | none => s
  | some T => match T.status with
    | .switchedOut slot why _ =>
      if s.returns t T why = false then s
      else (match why with
        | .stallGrow d g => s.comeBack t T slot why fun T _ => T.grown d g
        | .stallBar n seen =>
          let passed := s.barPassed T n seen
          s.comeBack t T slot why fun T _ =>
            if passed then { T with tokens := merase T.tokens n } else { T with status := .parked (.bar n seen) }
        | .fault _ _ => s.comeBack t T slot why fun T _ => T
        | _ => s)
    | _ => s

def execSwitchedOutReturn (t : Nat) (s : State) : Host.Outcome State Fault Refusal := .next (s.returnOut t)

/-- R250, R366: the k-th calling lane's pair takes the k-th result. -/
def State.resumeSvc (s : State) (t : Nat) : State :=
  match s.team? t with
  | none => s
  | some T => match T.status with
    | .switchedOut slot (.svc d lanes) _ =>
      if s.returns t T (.svc d lanes) = false then s
      else s.comeBack t T slot (.svc d lanes) fun T head =>
        ((List.range lanes.length).zip lanes).foldl (fun T x => T.vwr true d x.2 (leAt head (0x800 + 8 * x.1) 8)) T
    | _ => s

def execSvcResume (t : Nat) (s : State) : Host.Outcome State Fault Refusal := .next (s.resumeSvc t)

/-! ### Register growth and stalls (R254, R292, R293) -/

/-- The oldest request is granted when it fits, no switched-out team waits for registers, and every reserved place is left (R286). A
team that still waits for a slot to be switched out to is granted its request all the same (R407). -/
def State.grantGrow (s : State) (c : Nat) : State :=
  let C := s.core c
  match C.grow with
  | [] => s
  | t :: rest =>
    let done (s : State) : State := s.setCore c { C with grow := rest }
    let grant (T : Team) (d n : Nat) : State :=
      let s' := (done s).setTeam t (T.grown d n)
      if C.returning.any s.mayReturn || !s.ctxRuns T.ctx then s
      else if (s.coreUse c).2 + 128 * T.words * (8 * n) ≤ 2097152 ∧ s'.placesFit (c / 8) T.ctx then s' else s
    match s.team? t with
    | none => done s
    | some T => match T.status with
      | .parked (.vgrow d n) | .parked (.saving (.stallGrow d n)) => grant T d n
      | _ => done s

def execVgrowGrant (core : Nat) (s : State) : Host.Outcome State Fault Refusal := .next (s.grantGrow core)

/-- What a team of a stalled core waits for; one that no slot is free for waits on (R407). -/
def Status.stall : Status → Option SwitchReason
  | .parked (.vgrow d n) | .parked (.saving (.stallGrow d n)) => some (.stallGrow d n)
  | .parked (.bar n seen) | .parked (.saving (.stallBar n seen)) => some (.stallBar n seen)
  | _ => none

/-- R293: the youngest team of a stalled core, but the holder of the oldest request only when it is the only one, is to be
switched out. -/
def State.stallCore (s : State) (c : Nat) : State :=
  let here := s.teams.filter fun q => decide (q.1 / 256 = c) && q.2.status.resident
  let grows := here.any fun q => match q.2.status.stall with
    | some (.stallGrow _ _) => true
    | _ => false
  if grows && here.all fun q => q.2.status.stall.isSome then
    let others := here.filter fun q => decide ((s.core c).grow.head? ≠ some q.1)
    let pickFrom := if others = [] then here else others
    match pickFrom.foldl (fun (b : Option (Nat × Team)) q =>
      match b with
      | none => some q
      | some x => if x.2.age < q.2.age then some q else b) none with
    | some (t, T) => (match T.status.stall with
      | some why => s.setTeam t { T with status := .parked (.saving why) }
      | none => s)
    | none => s
  else s

def execRegisterStall (core : Nat) (s : State) : Host.Outcome State Fault Refusal := .next (s.stallCore core)

/-! ### Retiring a team (R131, R289) -/

/-- R131: once every result has returned and its stores are performed at core scope, the team's lane-words and registers are
released; its arrivals stand. -/
def State.retireTeam (s : State) (t : Nat) : State :=
  match s.team? t with
  | none => s
  | some T =>
    if T.status = .parked .exit ∧ T.th.pend.all (·.finished) then
      let s := { s with teams := merase s.teams t }
      match s.block? T.blk with
      | some B => s.setBlock T.blk { B with teams := merase B.teams T.idx, gone := T.idx :: B.gone }
      | none => s
    else s

def execTeamRetire (t : Nat) (s : State) : Host.Outcome State Fault Refusal := .next (s.retireTeam t)

end Sys2Proof.Machine
end

