-- ==== Sys2Proof/Machine/Blocks.lean ====
section
/-! DEFINITION. From launches to blocks: cutting and dispatch (R283 to R286), block start and retirement (R287 to R289, R295), the
handler image (R349), pre-emption (R296, R359, R410). -/

namespace Sys2Proof.Machine

/-! ### Ranges of block indices -/

/-- How many indices a list of ranges (first, last) holds. -/
def ivCount (l : List (Nat × Nat)) : Nat := (l.map fun r => r.2 + 1 - r.1).sum

/-- The first `n` indices of a list of ranges. -/
def ivTake : Nat → List (Nat × Nat) → List (Nat × Nat)
  | _, [] => []
  | n, r :: l =>
    if n = 0 then []
    else if r.2 + 1 - r.1 ≤ n then r :: ivTake (n - (r.2 + 1 - r.1)) l
    else [(r.1, r.1 + n - 1)]

/-- A list of ranges without its first `n` indices. -/
def ivDrop : Nat → List (Nat × Nat) → List (Nat × Nat)
  | _, [] => []
  | n, r :: l =>
    if n = 0 then r :: l
    else if r.2 + 1 - r.1 ≤ n then ivDrop (n - (r.2 + 1 - r.1)) l
    else (r.1 + n, r.2) :: l

/-- A list of ranges without one index. -/
def ivErase (k : Nat) (l : List (Nat × Nat)) : List (Nat × Nat) :=
  l.flatMap fun r =>
    if r.1 ≤ k ∧ k ≤ r.2 then (if r.1 < k then [(r.1, k - 1)] else []) ++ (if k < r.2 then [(k + 1, r.2)] else []) else [r]

/-- An index lies in a list of ranges. -/
def ivMem (k : Nat) (l : List (Nat × Nat)) : Bool := l.any fun r => decide (r.1 ≤ k) && decide (k ≤ r.2)

/-- The whole units of `du` indices, aligned where `fb` plus the index is a multiple of `du`, in a list of ranges (R283). -/
def ivWhole (du fb : Nat) (l : List (Nat × Nat)) : List (Nat × Nat) :=
  l.filterMap fun r =>
    let a := r.1 + (du - (fb + r.1) % du) % du
    let n := (r.2 + 1 - a) / du * du
    if n = 0 then none else some (a, a + n - 1)

/-- What is left of a list of ranges beside its whole units: the rest of units of which a block has started. -/
def ivPart (du fb : Nat) (l : List (Nat × Nat)) : List (Nat × Nat) :=
  l.flatMap fun r =>
    let a := r.1 + (du - (fb + r.1) % du) % du
    let n := (r.2 + 1 - a) / du * du
    if n = 0 then [r] else (if r.1 < a then [(r.1, a - 1)] else []) ++ (if a + n ≤ r.2 then [(a + n, r.2)] else [])

/-- Block indices in ascending order as maximal runs. -/
def runsOf : List Nat → List (Nat × Nat)
  | [] => []
  | b :: r => match runsOf r with
    | (x, y) :: t => if x = b + 1 then (b, y) :: t else (b, b) :: (x, y) :: t
    | [] => [(b, b)]

/-- Insertion into an ascending list. -/
def insertNat (x : Nat) : List Nat → List Nat
  | [] => [x]
  | y :: r => if x ≤ y then x :: y :: r else y :: insertNat x r

/-- A list of numbers in ascending order. -/
def sortNat (l : List Nat) : List Nat := l.foldl (fun m x => insertNat x m) []

/-- The retired blocks of a launch on a die, ascending. -/
def Launch.retiredOn (L : Launch) (d : Nat) : List Nat :=
  sortNat ((L.retired.filter fun x => decide (x.2 = d)).map (·.1))

/-! ### What a launch asks for (R280, R283, R287) -/

/-- R283: the dispatch unit. -/
def Record.du (r : Record) : Nat :=
  let hi := ((List.range (r.nlvl - 3)).filter fun k => decide ((r.levels.getD k ⟨0, 0, 0⟩).domain = 1)).getLast?
  match hi with
  | some k => ((r.levels.take (k + 1)).map (·.span)).foldl (· * ·) 1
  | none => 1

/-- NBLK (R282). -/
def Record.nblk (r : Record) : Nat := ((r.ranges.filter fun x => x.en).map fun x => x.last + 1).foldl Nat.max 0

/-! ### What a cluster has left -/

/-- The places of other launches on a cluster. -/
def State.placesBut (s : State) (cl l : Nat) : List Record :=
  s.launches.flatMap fun q => if q.1 = l then [] else List.replicate (mget 0 q.2.reserved cl) q.2.rcd

/-- `k` blocks of launch `l` fit a cluster beside what runs there and what others have reserved (R286). -/
def State.roomFor (s : State) (cl l k : Nat) (L : Launch) : Bool :=
  fitOn (List.replicate k L.rcd ++ s.placesBut cl l) (s.roomCaps cl L.ctx) (s.freeThreads cl).length (s.cluster cl).pool.length

/-- The most blocks of a record that an empty cluster holds. -/
def Record.most (r : Record) (hsize : Nat) : Nat :=
  ((List.range 17).filter fun k => decide (k * r.basins ≤ 32) && placeAll (r.items k) (List.replicate 8 (.core hsize)) []).foldl Nat.max 0

/-- The clusters of a partition on a die that is not off. -/
def State.dieClusters (s : State) (p d : Nat) : List Nat :=
  if s.dev.off.contains d then [] else (s.part p).clusters.filter fun cl => decide (cl / 64 = d)

/-- R286, R389 reason 10: the blocks of a co-resident launch fit the partition's clusters of each die, empty of other work. -/
def State.corFits (s : State) (p hsize : Nat) (r : Record) : Bool :=
  let m := r.most hsize
  (List.range 8).all fun d =>
    let x := r.ranges.getD d ⟨0, 0, false, false⟩
    !x.en || decide ((x.last + 1 - x.first) / r.du ≤ (s.dieClusters p d).length * (m / r.du))

/-! ### Reading a context record (R406) -/

def CtxRec.parse (b : List Byte) : CtxRec :=
  let w (o n : Nat) : W64 := BitVec.ofNat 64 (leAt b o n)
  { cid := leAt b 0 2 % 4096, rsplit := bitAt (leAt b 2 1) 0, gh := bitAt (leAt b 2 1) 1, root := leAt b 8 8
    hentry := leAt b 16 4, ptwin := w 24 8, ftpva := w 32 8, savebase := leAt b 40 8, savesize := leAt b 48 8
    swva := w 56 8, vswva := w 64 8, swlg := leAt b 72 1, himage := w 80 8, hsize := leAt b 88 4, stkva := w 96 8, stklg := leAt b 104 1 }

/-- The context record as it stands in memory. -/
def State.readCtxRec (s : State) (ctx : Nat) : CtxRec := CtxRec.parse (s.memRd (bits (s.ctx ctx).ctxrec.toNat 6 42 * 64) 128)

/-- R406: the record is read when the context first runs. -/
def State.firstRunOf (s : State) (ctx : Nat) : State :=
  let c := s.ctx ctx
  if c.mode = .idle then s.setCtx ctx { c with mode := .running, run := s.readCtxRec ctx } else s

/-! ### The handler image (R349) -/

/-- Every word of an image passes R69: bytes, offset of the image in the code store, offset in the image. -/
def imageOk : Nat → Nat → List Byte → Bool
  | 0, _, bs => decide (bs = [])
  | f + 1, pos, bs => match bs with
    | [] => true
    | b :: _ => match wordBytes b with
      | none => false
      | some k => !badPlace pos k && decide (k ≤ bs.length) && imageOk f (pos + k) (bs.drop k)

/-- A context has work for the cores of its partition. -/
def State.hasWork (s : State) (ctx : Nat) : Bool :=
  (s.launches.any fun q => decide (q.2.ctx = ctx) && decide (q.2.phase = .running)) || decide ((s.ctx ctx).saved ≠ []) ||
    decide ((s.ctx ctx).savedSegs ≠ [])

/-- The core has no block of the context whose image it holds, nothing stands where the new image goes, and what is reserved there still
fits. -/
def State.imageRoom (s : State) (c hsize : Nat) : Bool :=
  (s.core c).himg.all (fun x => !s.holdsCore c x.1) && decide (s.codeHeld c + hsize ≤ 196608) &&
  (s.cluster (c / 8)).segs.all fun g => !bitAt g.held (c % 8) || decide (g.off + g.size ≤ 196608 - hsize)

/-- The copy of a handler image faults: the stop record names the core (R349); it counts as a copy (DESIGN CHOICE, log entry 61). -/
def State.imageFault (s : State) (c ctx cause : Nat) : State :=
  s.engineStop c ctx 0xFFFFFFFF cause { s.stopRecord (.queue c) cause 0 with kind := 3, id := 0 }

/-- R349: a core copies the handler image of a context before it runs a block of it, where that leaves every reserved place (R286). -/
def State.copyImage (s : State) (c ctx : Nat) : State :=
  let m := (s.ctx ctx).mode
  if (m ≠ .idle ∧ m ≠ .running) ∨ s.hasWork ctx = false ∨ (s.part (ctxPart ctx)).clusters.contains (c / 8) = false ∨
    (s.core c).himg.any (fun x => decide (x.1 = ctx)) then s
  else
    let u := s.firstRunOf ctx
    let r := (u.ctx ctx).run
    let top := 196608 - r.hsize
    if r.hsize = 0 ∨ u.imageRoom c r.hsize = false then s
    else match u.readVa ctx 2 r.himage.toNat r.hsize with
      | .error e => u.imageFault c ctx e
      | .ok bs =>
        if imageOk (r.hsize / 8) top bs then
          let v := u.storeWord c top bs 0xFFFFFFFF
          let v := v.setCore c { v.core c with himg := some (ctx, r.hsize) }
          if v.placesFit (c / 8) ctx then v else s
        else u.imageFault c ctx 7

def execHandlerImageCopy (core ctx : Nat) (s : State) : Host.Outcome State Fault Refusal := .next (s.copyImage core ctx)

/-! ### Dispatch (R284 to R286) -/

/-- The launch is being dispatched and its context is not pre-empted. -/
def State.dispatching (s : State) (L : Launch) : Bool :=
  decide (L.phase = .running) && (decide ((s.ctx L.ctx).mode = .idle) || decide ((s.ctx L.ctx).mode = .running))

/-- Reserved places of a launch on a cluster that no unit has taken yet. -/
def Launch.spare (L : Launch) (cl : Nat) : Nat := mget 0 L.reserved cl - ivCount (mget [] L.clusters cl)

/-- R284: the die distributor hands its first unit to a cluster distributor of its die. -/
def State.dispatchUnit (s : State) (l d cl : Nat) : State :=
  match s.launch? l with
  | none => s
  | some L =>
    let du := L.rcd.du
    let iv := mget [] L.dies d
    if s.dispatching L && (s.dieClusters (ctxPart L.ctx) d).contains cl && decide (iv ≠ []) &&
        (!L.rcd.cor || decide (du ≤ L.spare cl)) then
      s.setLaunch l { L with
        dies := mput [] L.dies d (ivDrop du iv), clusters := mput [] L.clusters cl (mget [] L.clusters cl ++ ivTake du iv) }
    else s

def execUnitDispatch (l die cl : Nat) (s : State) : Host.Outcome State Fault Refusal := .next (s.dispatchUnit l die cl)

/-- R284: a cluster distributor without undispatched units takes the upper half of a sibling's, or its single one; a unit of which a
block has started stays where it is (R283). -/
def State.stealUnits (s : State) (l thief victim : Nat) : State :=
  match s.launch? l with
  | none => s
  | some L =>
    let du := L.rcd.du
    let iv := mget [] L.clusters victim
    let own := mget [] L.clusters thief
    let whole := ivWhole du L.rcd.fbase iv
    let n := ivCount whole / du
    let k := if n = 1 then 1 else n / 2
    if s.dispatching L && decide (thief / 64 = victim / 64) && (s.dieClusters (ctxPart L.ctx) (thief / 64)).contains thief &&
        decide (ivWhole du L.rcd.fbase own = []) && decide (0 < k) && (!L.rcd.cor || decide (k * du ≤ L.spare thief)) then
      s.setLaunch l { L with
        clusters := mput [] (mput [] L.clusters victim (ivPart du L.rcd.fbase iv ++ ivTake ((n - k) * du) whole)) thief
          (own ++ ivDrop ((n - k) * du) whole) }
    else s

def execUnitSteal (l thief victim : Nat) (s : State) : Host.Outcome State Fault Refusal := .next (s.stealUnits l thief victim)

/-- R285: the chip distributor moves a unit of a floating range to a die with a floating range and nothing left. -/
def State.moveUnit (s : State) (l src dst : Nat) : State :=
  match s.launch? l with
  | none => s
  | some L =>
    let du := L.rcd.du
    let floats (d : Nat) : Bool := let x := L.rcd.ranges.getD d ⟨0, 0, false, false⟩
      x.en && x.flt
    let iv := mget [] L.dies src
    let spare := ((s.dieClusters (ctxPart L.ctx) dst).map fun cl => L.spare cl).sum
    if s.dispatching L && floats src && floats dst && decide (src ≠ dst) && decide (iv ≠ []) && decide (mget [] L.dies dst = []) &&
        decide (s.dieClusters (ctxPart L.ctx) dst ≠ []) && (!L.rcd.cor || decide (du ≤ spare)) then
      let left := ivCount iv - du
      s.setLaunch l { L with dies := mput [] (mput [] L.dies src (ivTake left iv)) dst (ivDrop left iv) }
    else s

def execFloatingUnitMove (l src dst : Nat) (s : State) : Host.Outcome State Fault Refusal := .next (s.moveUnit l src dst)

/-- Places a co-resident launch still needs on a die. -/
def State.placesLeft (s : State) (L : Launch) (d : Nat) : Nat :=
  ivCount (mget [] L.dies d) - ((s.dieClusters (ctxPart L.ctx) d).map fun cl => mget 0 L.reserved cl).sum

/-- The clusters on which the next place can be reserved: those with a unit begun, else those with room for a unit. -/
def State.placeChoices (s : State) (l : Nat) (L : Launch) : List Nat :=
  (List.range 8).flatMap fun d =>
    if s.placesLeft L d = 0 then []
    else
      let cls := s.dieClusters (ctxPart L.ctx) d
      match cls.filter fun cl => decide (mget 0 L.reserved cl % L.rcd.du ≠ 0) with
      | [] => cls.filter fun cl => s.roomFor cl l (mget 0 L.reserved cl + L.rcd.du) L
      | begun => begun.filter fun cl => s.roomFor cl l (mget 0 L.reserved cl + 1) L

/-- The co-resident launch of a partition whose turn it is to reserve: the one that does, else the first accepted of those that are
not admitted, whether or not it may be dispatched yet. -/
def State.reserver (s : State) (p : Nat) : Option Nat :=
  match (s.part p).reserving with
  | some l => some l
  | none => ((s.launches.filter fun q => decide (ctxPart q.2.ctx = p) && q.2.rcd.cor &&
      (decide (q.2.phase = .reserving) || decide (q.2.phase = .waiting))).map (·.1)).min?

/-- R286: one place is reserved; with the last one the launch is admitted. -/
def State.reservePlace (s : State) (l : Nat) : State :=
  match s.launch? l with
  | none => s
  | some L =>
    let p := ctxPart L.ctx
    if L.phase ≠ .reserving ∨ s.reserver p ≠ some l ∨ s.ctxRuns L.ctx = false then s
    else
      let admitted (s : State) (L : Launch) : State :=
        if (List.range 8).all fun d => decide (s.placesLeft L d = 0) then
          (s.setLaunch l { L with phase := .running }).setPart p { s.part p with reserving := none }
        else s
      match s.placeChoices l L with
      | [] => admitted (s.setPart p { s.part p with reserving := some l }) L
      | c0 :: cs =>
        let cl := (c0 :: cs).getD (s.choice % (cs.length + 1)) c0
        let L' := { L with reserved := mput 0 L.reserved cl (mget 0 L.reserved cl + 1) }
        admitted ((s.chosen.setLaunch l L').setPart p { s.part p with reserving := some l }) L'

def execCoresidentReserve (l : Nat) (s : State) : Host.Outcome State Fault Refusal := .next (s.reservePlace l)

/-! ### Block start (R287 to R289) -/

/-- s2 of R288. -/
def coreBytes (cores : List Nat) : Nat := leNat ((List.range 8).map fun k => match cores[k]? with
  | some c => BitVec.ofNat 8 (c % 8)
  | none => 255)

def coreMask (cores : List Nat) : Nat := ((List.range 8).map fun n => b2n (cores.any fun c => decide (c % 8 = n)) * 2 ^ n).sum

/-- R288: the registers a generator thread starts with. -/
def genStart (r : Record) (blkidx : Nat) (cores : List Nat) : Thread :=
  let th : Thread := { Thread.zero with pc := BitVec.ofNat 64 r.entry }
  th.wrs 0 [BitVec.ofNat 64 r.params, BitVec.ofNat 64 blkidx, BitVec.ofNat 64 (coreBytes cores), BitVec.ofNat 64 (coreMask cores),
    BitVec.ofNat 64 (r.fbase + blkidx)]

def Gen.fresh (r : Record) (blkidx blk ctx : Nat) (cores : List Nat) : Gen :=
  { th := genStart r blkidx cores, status := .ready, blk := blk, ctx := ctx, eseq := 0, open? := none, tags := [], emitting := none
    flueWait := [], patching := none, faulted := none, frozen := false, skip := false }

/-- R289: the teams of a block are allocated on its cores in ascending order of team index. -/
def State.allocTeams (s : State) (b : Nat) (B : Block) (r : Record) (idxs : List Nat) : State :=
  idxs.foldl (fun s i =>
    let sh := r.shape.getD i (0, 1)
    let c := B.cores.getD sh.1 0
    match s.freeTeamId c, s.block? b with
    | some id, some B =>
      (s.setTeam (256 * c + id) (Team.fresh sh.2 r.vregs r.prio r.stack i b B.ctx (s.wordsFree c sh.2))).setBlock b { B with teams := lset B.teams i (256 * c + id) }
    | _, _ => s) s

/-- Set basins of the pool aside for a block. -/
def Cluster.setAside (C : Cluster) (b n : Nat) : Cluster :=
  (C.pool.take n).foldl (fun C k => C.setInfo k { C.info k with blk := some b }) C

/-- The cores, numbered in their cluster, meet the needs of a block (R287); a launch with a place reserved there need not leave what comes
first by R292 (R286). -/
def State.coresMeet (s : State) (l cl : Nat) (L : Launch) (cores : List Nat) : Bool :=
  decide (cores.length = L.rcd.ncore) && decide (cores.eraseDups = cores) && cores.all (fun n => decide (n < 8)) &&
    ((List.range cores.length).zip cores).all fun x =>
      let c := 8 * cl + x.2
      let n := L.rcd.need x.1
      let n := if s.holdsSeg c l then { n with code := 0 } else n
      n.fits (if mget 0 L.reserved cl = 0 then s.newLeft c L.ctx else s.coreLeft c L.ctx) &&
        (decide ((s.ctx L.ctx).run.hsize = 0) || (s.core c).himg.any fun x => decide (x.1 = L.ctx))

/-- The cores, numbered in their cluster, have TEAMIDs for the teams of a block (R289). -/
def State.idsLeft (s : State) (cl : Nat) (L : Launch) (cores : List Nat) : Bool :=
  ((List.range cores.length).zip cores).all fun x =>
    decide ((L.rcd.teamsOn x.1).length ≤ ((List.range 256).filter fun n => (s.team? (256 * (8 * cl + x.2) + n)).isNone).length)

/-- R394: whichever blocks retire next, the retired blocks of the launch on a die form at most 1,152 ranges once this block has
started: a resident block that is not among them cuts at most one range. -/
def State.rangesKept (s : State) (l blk d : Nat) (L : Launch) : Bool :=
  let here := (s.blocks.filter fun q => decide (q.2.launch = l) && decide (q.2.cluster / 64 = d)).map (·.2.blkidx) ++
    ((s.ctx L.ctx).saved.filter fun x => decide (x.blk.launch = l) && decide (x.blk.cluster / 64 = d)).map (·.blk.blkidx)
  decide ((runsOf (sortNat (blk :: here ++ L.retiredOn d))).length + here.length + 1 ≤ 1152)

/-- A core that a context takes loses the image of another that has no block there any more (R349). -/
def State.takeCore (s : State) (ctx c : Nat) : State :=
  let C := s.core c
  s.setCore c { C with himg := C.himg.filter fun x => decide (x.1 = ctx) || s.holdsCore c x.1 }

/-- A block takes its resources on a cluster and its generator thread starts. -/
def State.placeBlock (s : State) (l blk cl : Nat) (L : Launch) (cores : List Nat) : State :=
  match s.freeThreads cl with
  | [] => s
  | g0 :: gs =>
    let g := (g0 :: gs).getD (s.choice % (gs.length + 1)) g0
    let b := s.uid
    let phys := cores.map (8 * cl + ·)
    let B : Block := { launch := l, ctx := L.ctx, cluster := cl, gthread := g, cores := phys, blkidx := blk, teams := [], gone := []
                       bars := [], td := [], acc := [], held := 0, codeRes := phys.filter fun c => !s.holdsSeg c l, accMarks := [] }
    let s := (s.chosen.fresh.setBlock b B).setCluster cl ((s.cluster cl).setAside b L.rcd.basins)
    let s := phys.foldl (fun s c => s.takeCore L.ctx c) s
    (s.allocTeams b B L.rcd (List.range L.rcd.nteam)).setGen (16 * cl + g) (Gen.fresh L.rcd blk b L.ctx phys)

/-- A block of a launch leaves its cluster distributor and takes its place on the cluster. -/
def State.started (s : State) (l blk cl : Nat) (L : Launch) (cores : List Nat) : State :=
  (s.setLaunch l { L with
    clusters := mput [] L.clusters cl (ivErase blk (mget [] L.clusters cl))
    reserved := mput 0 L.reserved cl (mget 0 L.reserved cl - 1) }).placeBlock l blk cl L cores

/-- What a block start needs of its cluster (R287): cores, a thread, basins, TEAMIDs; every reserved place is left (R286), and the
retired blocks will fit their ranges (R394). -/
def State.mayStart (s : State) (l blk cl : Nat) (L : Launch) (cores : List Nat) : Bool :=
  s.coresMeet l cl L cores && decide (s.freeThreads cl ≠ []) && decide (L.rcd.basins ≤ (s.cluster cl).pool.length) &&
    s.idsLeft cl L cores && s.rangesKept l blk (cl / 64) L && (s.started l blk cl L cores).placesFit cl L.ctx

/-- R287: a cluster distributor starts one of its blocks. -/
def State.startBlock (s : State) (l blk cl : Nat) (cores : List Nat) : State :=
  match s.launch? l with
  | none => s
  | some L =>
    if s.dispatching L = false ∨ ivMem blk (mget [] L.clusters cl) = false ∨ (s.ctx L.ctx).saved ≠ [] ∨ (s.ctx L.ctx).savedSegs ≠ [] ∨
      s.dev.off.contains (cl / 64) then s
    else
      let u := s.firstRunOf L.ctx
      if u.mayStart l blk cl L cores then u.started l blk cl L cores else s

def execBlockStart (l blk cl : Nat) (cores : List Nat) (s : State) : Host.Outcome State Fault Refusal := .next (s.startBlock l blk cl cores)

/-! ### Retirement (R295) -/

/-- Nothing of the block is left: teams, thread, engine jobs and words, arrivals, stores. -/
def State.blockDone (s : State) (b : Nat) (B : Block) : Bool :=
  let cl := B.cluster
  let cores := (List.range 8).map (8 * cl + ·)
  B.teams.isEmpty && decide ((s.gen? (16 * cl + B.gthread)).map (·.status) = some .exited) &&
    cores.all (fun c =>
      let C := s.core c
      C.jobs.all (fun j => decide (j.blk ≠ b)) && C.queue.all (fun e => decide (e.blk ≠ b)) && C.flue.all (fun e => decide (e.blk ≠ b))) &&
    (s.cluster cl).arrivals.all (fun x => decide (x.1 ≠ b)) &&
    (List.range 9).all (fun n => decide (s.sbuf (16 * cl + n) = [])) && (s.cluster cl).cistern.isEmpty

/-- A basin that a block had set aside goes back to the pool. -/
def BInfo.release (i : BInfo) (ctx : Nat) : BInfo :=
  { i with blk := none, allocated := false, last := if i.allocated then some ctx else i.last }

/-- R295: the resources of a block are freed; the array's lease with them (R224, R234). -/
def State.freeBlock (s : State) (b : Nat) (B : Block) : State :=
  let cl := B.cluster
  let C := s.cluster cl
  let mine := (List.range 32).filter fun k => decide ((C.info k).blk = some b)
  let C' := mine.foldl (fun C k => C.setInfo k ((C.info k).release B.ctx)) C
  let W := C.weir
  let W' : Weir := if W.lease = some b then { Weir.zero with waiting := W.waiting } else W
  let s := s.setCluster cl { C' with weir := { W' with waiting := W'.waiting.filter fun x => decide (x ≠ b) } }
  let s := (List.range 8).foldl (fun s n =>
    let K := s.core (8 * cl + n)
    s.setCore (8 * cl + n) { K with bmap := K.bmap.filter fun v => !mine.contains v.2.basin || decide (v.2.mode = 0) }) s
  { s with blocks := merase s.blocks b, gens := merase s.gens (16 * cl + B.gthread) }

def State.retireBlock (s : State) (b : Nat) : State :=
  match s.block? b with
  | none => s
  | some B =>
    if s.blockDone b B && s.ctxRuns B.ctx then
      let s := s.freeBlock b B
      match s.launch? B.launch with
      | some L => s.setLaunch B.launch { L with retired := L.retired ++ [(B.blkidx, B.cluster / 64)] }
      | none => s
    else s

def execBlockRetire (b : Nat) (s : State) : Host.Outcome State Fault Refusal := .next (s.retireBlock b)

/-- Sealed segments go with their launch (R241). -/
def State.dropSegs (s : State) (l : Nat) : State :=
  { s with clusters := s.clusters.foldl (fun m q => mput .zero m q.1 { q.2 with segs := q.2.segs.filter fun g => decide (g.launch ≠ l) }) [] }

/-! ### The context save area (R410, R411) -/

/-- What a section holds: an entry's bytes, with the offsets of the poisoned words among them (R432). -/
abbrev Entry := List Byte × List Nat

/-- Sectors of device memory are marked, at these offsets from an address. -/
def State.markPa (s : State) (pa : Nat) (bad : List Nat) : State := bad.foldl (fun s o => s.sectorMark (pa + o) true) s

/-- A write of the save area: inside it and wholly in the partition's page sets, else an address fault. -/
def State.writeSave (s : State) (ctx off : Nat) (e : Entry) : State × Option Nat :=
  let r := (s.ctx ctx).run
  let pa := r.savebase + off
  if r.savesize < off + e.1.length ∨ (s.part (ctxPart ctx)).pages.contains (pa / 2 ^ 30) = false ∨
    (s.part (ctxPart ctx)).pages.contains ((pa + e.1.length - 1) / 2 ^ 30) = false then (s, some 2)
  else ((s.perform pa e.1).markPa pa e.2, none)

/-- A directory entry of R410. -/
def State.writeDir (s : State) (ctx k off count : Nat) : State × Option Nat := s.writeSave ctx (16 * k) (natLe 8 off ++ natLe 8 count, [])

/-- Successive entries of a section, each at the offset where the one before it ends. -/
def State.writeEntries (s : State) (ctx : Nat) : Nat → List Entry → State × Option Nat
  | _, [] => (s, none)
  | off, e :: es => onward (s.writeSave ctx off e) fun s => s.writeEntries ctx (off + e.1.length) es

/-- A section: its directory entry and its entries. -/
def State.writeSection (s : State) (ctx k off : Nat) (es : List Entry) : State × Option Nat :=
  onward (s.writeDir ctx k off es.length) fun s => s.writeEntries ctx off es

/-- The bytes of entries. -/
def entryBytes (es : List Entry) : Nat := (es.map (·.1.length)).sum

/-- Sections one after another, from section `k` at `off` on. -/
def State.writeSections (s : State) (ctx : Nat) : Nat → Nat → List (List Entry) → State × Option Nat
  | _, _, [] => (s, none)
  | k, off, es :: r => onward (s.writeSection ctx k off es) fun s => s.writeSections ctx (k + 1) (off + entryBytes es) r

/-- A flue word of a generator entry: 24 bytes. -/
def flueEntry (x : Nat × Emitted) : List Byte :=
  x.2.bytes ++ zeros (16 - x.2.bytes.length) ++ natLe 4 x.2.tag ++ natLe 1 (x.1 % 8) ++ zeros 3

/-- A generator entry, 16 KiB (R410). -/
def genEntry (B : Block) (G : Gen) (flue : List (Nat × Emitted)) : Entry :=
  let open8 := match G.open? with
    | some o => natLe 8 (segHandle o.cmask o.tid o.off).toNat ++ natLe 4 o.emitted ++ natLe 4 o.size
    | none => zeros 16
  let head := natLe 8 G.th.pc.toNat ++ ((List.range 160).flatMap fun r => natLe 8 (G.th.rd r).toNat) ++
    natLe 8 G.th.rm.toNat ++ natLe 8 G.th.flags.toNat ++ natLe 4 G.eseq ++ natLe 4 B.gthread ++ open8 ++ natLe 8 B.blkidx ++ zeros 8 ++
    ((List.range 16).flatMap fun d => natLe 16 (mget 0 B.td d).toNat)
  let tail := natLe 2 flue.length ++ flue.flatMap flueEntry
  let bad := (G.th.marks.map fun w => 8 + 4 * w) ++
    ((List.range flue.length).zip flue).flatMap fun f => if f.2.2.bad then [0x642 + 24 * f.1, 0x642 + 24 * f.1 + 12] else []
  (head ++ tail ++ zeros (16384 - head.length - tail.length), bad)

/-- The words a thread has in the flues of its cluster, core by core in flue order. -/
def State.flueOf (s : State) (cl g : Nat) : List (Nat × Emitted) :=
  (List.range 8).flatMap fun n => ((s.core (8 * cl + n)).flue.filter fun e => decide (e.gen = g)).map fun e => (8 * cl + n, e)

/-- A core that holds a segment, for its bytes. -/
def Seg.core (g : Seg) (cl : Nat) : Nat := (maskCores cl g.held).headD (8 * cl)

/-- A segment entry (R410). -/
def State.segEntry (s : State) (cl : Nat) (g : Seg) : Entry :=
  let C := s.core (g.core cl)
  (natLe 8 g.handle.toNat ++ natLe 4 g.size ++ zeros 4 ++ mgets 0 C.code g.off g.size,
    (C.codeMarks.filter fun w => decide (g.off ≤ 4 * w) && decide (4 * w < g.off + g.size)).map fun w => 16 + 4 * w - g.off)

/-- The segments of a context's launches, with their clusters. -/
def State.ctxSegs (s : State) (ctx : Nat) : List (Nat × Seg) :=
  s.clusters.flatMap fun q => (q.2.segs.filter fun g => match s.launch? g.launch with
    | some L => decide (L.ctx = ctx)
    | none => false).map fun g => (q.1, g)

/-- The basins that blocks of a context have allocated: cluster and basin. -/
def State.ctxBasins (s : State) (ctx : Nat) : List (Nat × Nat) :=
  s.clusters.flatMap fun q => ((List.range 32).filter fun b => (q.2.info b).allocated && (match (q.2.info b).blk with
    | some k => decide ((s.block? k).map (·.ctx) = some ctx)
    | none => false)).map fun b => (q.1, b)

/-- The slots that map a basin: core of the cluster, slot, contents. -/
def State.basinMaps (s : State) (cl b : Nat) : List (Nat × Nat × Slot) :=
  (List.range 8).flatMap fun n =>
    ((s.core (8 * cl + n)).bmap.filter fun v => decide (v.2.basin = b) && decide (v.2.mode ≠ 0)).map fun v => (n, v)

/-- A basin entry: a slot's value, the cores that map it, its bytes. -/
def State.basinEntry (s : State) (cl b : Nat) : Entry :=
  let maps := s.basinMaps cl b
  let value := (maps.map fun v => v.2.2.value).headD 0
  let mask := ((List.range 8).map fun n => if maps.any fun v => decide (v.1 = n) then 2 ^ n else 0).sum
  (natLe 8 value ++ natLe 8 mask ++ s.basinRd cl b 0 65536,
    (s.bpoison.filter fun k => decide (k / 16384 = cl * 32 + b)).map fun k => 16 + 4 * (k % 16384))

/-- The accumulator entries of a block. -/
def State.accEntries (s : State) (B : Block) : List Entry :=
  let accs := ((s.rcdOf B).map (·.accs)).getD 0
  B.cores.flatMap fun c => (List.range accs).map fun d =>
    (natLe 1 (c % 8) ++ natLe 1 d ++ zeros 6 ++ (List.range 4096).flatMap fun e => natLe 4 (mget 0 B.acc (accKey c d (e / 64) (e % 64))).toNat,
      ((List.range 4096).filter fun e => B.accMarks.contains (accKey c d (e / 64) (e % 64))).map fun e => 8 + 4 * e)

/-- The barrier entry of a block. -/
def barEntry (B : Block) : Entry :=
  (natLe 8 B.blkidx ++ (List.range 16).flatMap fun n => natLe 4 (b2n (B.bar n).ph * 2 ^ 31 + (B.bar n).exp * 256 + (B.bar n).cnt), [])

/-! ### Pre-emption (R296, R359) -/

/-- Words and jobs of a block in the engines of its cluster. -/
def State.engineHas (s : State) (b : Nat) (B : Block) : Bool :=
  (List.range 8).any fun n =>
    let C := s.core (8 * B.cluster + n)
    C.queue.any (fun e => decide (e.blk = b)) || C.jobs.any fun j => decide (j.blk = b)

/-- R296 step 2: the block has started a team, or has a word in an engine queue; one that holds the Weir lease has had one, and keeps
the lease until it retires (R224). -/
def State.blockBegun (s : State) (b : Nat) (B : Block) : Bool :=
  decide (B.gone ≠ []) || (B.teams.any fun x => match s.team? x.2 with
    | some T => decide (T.status ≠ .allocated)
    | none => false) ||
  decide ((s.cluster B.cluster).weir.lease = some b) || s.engineHas b B

/-- The blocks of a context. -/
def State.ctxBlocks (s : State) (ctx : Nat) : List (Nat × Block) := s.blocks.filter fun q => decide (q.2.ctx = ctx)

/-- R296 steps 1 and 3: the threads of blocks with nothing else started stop at an instruction boundary; a block that has
begun since goes on. -/
def State.freeze (s : State) (ctx : Nat) : State :=
  (s.ctxBlocks ctx).foldl (fun s q =>
    match s.gen? (16 * q.2.cluster + q.2.gthread) with
    | some G => s.setGen (16 * q.2.cluster + q.2.gthread) { G with frozen := !s.blockBegun q.1 q.2 }
    | none => s) s

/-- The thread of a block stands at an instruction boundary with nothing outstanding. -/
def State.genStill (s : State) (B : Block) : Bool :=
  match s.gen? (16 * B.cluster + B.gthread) with
  | some G => G.th.pend.all (·.finished) && G.emitting.isNone && G.patching.isNone && decide (G.status ≠ .parked .answer)
  | none => false

/-- A team that a service call has switched out (R249). -/
def Status.away : Status → Bool
  | .switchedOut _ (.svc _ _) _ => true
  | _ => false

/-- R366: what the block has started are teams parked off their cores by service calls, and nothing else of it is under way. -/
def State.blockAway (s : State) (b : Nat) (B : Block) : Bool :=
  (B.teams.any fun x => (s.team? x.2).any fun T => T.status.away) &&
    B.teams.all (fun x => (s.team? x.2).all fun T => T.status.away || decide (T.status = .allocated)) &&
    !s.engineHas b B && decide ((s.cluster B.cluster).weir.lease ≠ some b)

/-- A pre-emption need not wait for the block: nothing of it has started, or only service calls of it are left, which are saved with
the context (R366; against R296 step 2 and R410, DEDUCED, log entry 85); no engine arrival of it is on its way. -/
def State.blockStill (s : State) (q : Nat × Block) : Bool :=
  (!s.blockBegun q.1 q.2 || s.blockAway q.1 q.2) && s.genStill q.2 && (s.cluster q.2.cluster).arrivals.all fun x => decide (x.1 ≠ q.1)

/-- The block has something in its barriers or accumulators, or may have. -/
def State.blockCounts (s : State) (q : Nat × Block) : Bool := s.blockBegun q.1 q.2 || decide (q.2.bars ≠ []) || decide (q.2.acc ≠ [])

/-- The basins of a saved block; `at` is where the entries of the section begin and `all` lists the section. -/
def State.savedBasins (s : State) (b : Nat) (B : Block) (off : Nat) (all : List (Nat × Nat)) : List SavedBasin :=
  (((List.range all.length).zip all).filter fun x => decide (x.2.1 = B.cluster) && decide (((s.cluster B.cluster).info x.2.2).blk = some b)).map fun x =>
    ⟨x.2.2, (s.cluster B.cluster).info x.2.2, s.basinMaps B.cluster x.2.2, off + 65552 * x.1⟩

/-- What a pre-emption writes: the sections of R410 in the order of the directory, from 0x1000 on; and the blocks and segments as the
device keeps them. -/
def State.saveParts (s : State) (ctx : Nat) : List SavedBlock × List SavedSeg × List (List Entry) :=
  let bs := s.ctxBlocks ctx
  let gens := bs.filterMap fun q => (s.gen? (16 * q.2.cluster + q.2.gthread)).map fun G => (q, G, s.flueOf q.2.cluster q.2.gthread)
  let ges := gens.map fun x => genEntry x.1.2 x.2.1 x.2.2
  let segs := s.ctxSegs ctx
  let ses := segs.map fun x => s.segEntry x.1 x.2
  let begun := bs.filter s.blockCounts
  let basins := s.ctxBasins ctx
  let off := 4096 + 16384 * ges.length
  let boff := off + entryBytes ses
  let sb := ((List.range gens.length).zip gens).map fun (x : Nat × (Nat × Block) × Gen × List (Nat × Emitted)) =>
    let G := x.2.2.1
    let B := x.2.1.2
    (⟨x.2.1.1, B, { G with th := { G.th with mon := if G.th.mon = .none then .none else .triggered, pend := [] }, frozen := false },
      x.2.2.2, (B.teams.filter fun y => !((s.team? y.2).any fun T => T.status.away)).map (·.1),
      s.savedBasins x.2.1.1 B boff basins, 4096 + 16384 * x.1⟩ : SavedBlock)
  let ss := ((List.range segs.length).zip segs).map fun (x : Nat × Nat × Seg) =>
    (⟨x.2.1, x.2.2, (List.range (x.2.2.size / 4)).map fun k => mget 0 (s.core (x.2.2.core x.2.1)).ctag (x.2.2.off / 4 + k),
      off + entryBytes (ses.take x.1)⟩ : SavedSeg)
  let outs := s.teams.filterMap fun q => if q.2.ctx = ctx then (match q.2.status with
    | .switchedOut n _ _ => some ((natLe 8 n, []) : Entry)
    | _ => none) else none
  (sb, ss, [ges, ses, [], basins.map fun x => s.basinEntry x.1 x.2, begun.flatMap fun q => s.accEntries q.2,
    begun.map fun q => barEntry q.2, [], outs])

/-- R296 step 4: the context is saved and its resources are released; teams that service calls have parked stay switched out (R366).
A save write that fails loses the context (R411). -/
def State.saveCtx (s : State) (ctx : Nat) : State :=
  let (sb, ss, parts) := s.saveParts ctx
  match s.writeSections ctx 0 4096 parts with
  | (s', some e) => s'.loseContext ctx e 0 0
  | (s', none) =>
    let s' := s'.clearContext ctx fun t => (s.team? t).any fun T => T.status.away
    s'.setCtx ctx { s'.ctx ctx with mode := .saved, saved := sb, savedSegs := ss }

/-- The deadline of a pre-emption has passed (R296). -/
def State.overdue (s : State) (ctx : Nat) : Bool := decide ((s.ctx ctx).since + 1000 * (s.ctx ctx).limit ≤ s.gtime)

/-- R359: the deadline raises the halt line with no error cause. -/
def State.preemptDeadline (s : State) (ctx : Nat) : State :=
  let c := s.ctx ctx
  if (c.mode = .preempting ∨ (c.mode = .debugHalted ∧ c.leaving)) ∧ s.overdue ctx then (s.setCtx ctx { c with late := true }).haltLine ctx 0 0 0 else s

/-- The launches of a context that have not ended. -/
def State.openLaunches (s : State) (ctx : Nat) : List Launch :=
  (s.launches.filter fun q => decide (q.2.ctx = ctx) && (match q.2.phase with
    | .ended _ => false
    | _ => true)).map (·.2)

/-- The priority at which a context is time-sliced: the highest PRIO of its launches that have not ended (DESIGN CHOICE, log entry 90). -/
def State.ctxPrio (s : State) (ctx : Nat) : Nat := ((s.openLaunches ctx).map (·.rcd.prio)).foldl max 0

/-- The context has launches to run, or is saved (R296). -/
def State.wantsTime (s : State) (ctx : Nat) : Bool :=
  match (s.ctx ctx).mode with
  | .saved => true
  | .idle | .running => decide (s.openLaunches ctx ≠ [])
  | _ => false

/-- The other contexts of a context's partition. -/
def ctxPeers (ctx : Nat) : List Nat := ((List.range 16).map (16 * ctxPart ctx + ·)).filter fun x => decide (x ≠ ctx)

/-- R372: with PS = 1 only a host command pre-empts; with PS = 0 the command unit does, for a context of no lower priority (DESIGN
CHOICE, log entry 90). -/
def State.mayPreempt (s : State) (ctx : Nat) (host : Bool) : Bool :=
  if (s.part (ctxPart ctx)).ps then host
  else !host && (ctxPeers ctx).any fun x => s.wantsTime x && decide (s.ctxPrio ctx ≤ s.ctxPrio x)

/-- R296: the pre-emption begins, then goes on until no block of the context is left to wait for, or its deadline has passed. A context
that does not run is saved by the values of its last CTXREC write: no record is read here (R406). -/
def State.preempt (s : State) (ctx : Nat) (host : Bool) : State :=
  match (s.ctx ctx).mode with
  | .idle | .running =>
    if s.mayPreempt ctx host then
      let c := s.ctx ctx
      (s.setCtx ctx { c with run := c.tables, mode := .preempting, since := s.gtime, limit := (s.part (ctxPart ctx)).pdeadline }).freeze ctx
    else s
  | .preempting =>
    if s.overdue ctx then s.preemptDeadline ctx
    else
      let s := s.freeze ctx
      if (s.ctxBlocks ctx).all s.blockStill then s.saveCtx ctx else s
  | _ => s

/-- R296: the command unit pre-empts a context, or goes on with it. -/
def execPreemption (ctx : Nat) (s : State) : Host.Outcome State Fault Refusal := .next (s.preempt ctx false)

/-- R296, R372: a host command pre-empts a context, or the command unit goes on with it. -/
def execPreemptionCommand (ctx : Nat) (s : State) : Host.Outcome State Fault Refusal := .next (s.preempt ctx true)

def execPreemptionDeadline (ctx : Nat) (s : State) : Host.Outcome State Fault Refusal := .next (s.preemptDeadline ctx)

/-! ### Restoring a saved context (R296, R406, R410) -/

/-- The words, by number, of `n` at an address that lie in poisoned sectors (R432). -/
def State.badWords (s : State) (pa n : Nat) : List Nat := (List.range n).filter fun w => s.poisoned (pa + 4 * w) 4

/-- A saved segment comes back at its place, with its bytes from the save area. -/
def State.restoreSeg (s : State) (ctx : Nat) (x : SavedSeg) (rest : List SavedSeg) : State :=
  let g := x.seg
  if s.offFree x.cluster g.held g.size g.off = false then s
  else
    let pa := (s.ctx ctx).run.savebase + x.entry + 16
    let bs := s.memRd pa g.size
    let bad := ((s.badWords pa (g.size / 4)).map (g.off / 4 + ·))
    let s := (maskCores x.cluster g.held).foldl (fun s c =>
      let C := (s.core c).codeMarked (g.off / 4) (g.size / 4) false
      s.setCore c { C with code := mputs 0 C.code g.off bs, ctag := mputs 0 C.ctag (g.off / 4) x.tags, codeMarks := bad ++ C.codeMarks }) s
    let C := s.cluster x.cluster
    (s.setCluster x.cluster { C with segs := C.segs ++ [g] }).setCtx ctx { s.ctx ctx with savedSegs := rest }

/-- A flue word read back from a generator entry, where it is poisoned or not; where it goes is the device's own. Its run keeps its place
among the thread's, behind those that stand in the flues (R238). -/
def reloadWord (bs : List Byte) (runs : Nat) (bad : Bool) (x : Nat × Emitted) : Nat × Emitted :=
  (x.1, { x.2 with bytes := bs.take x.2.bytes.length, tag := leAt bs 16 4, run := runs + x.2.run, bad := bad })

/-- The thread of a generator entry (R410). -/
def reloadGen (G : Gen) (bs : List Byte) (marks : List Nat) : Gen :=
  { G with
    th := { G.th with
      pc := BitVec.ofNat 64 (leAt bs 0 8)
      s := mfrom 0 id ((fields bs 8 8 160).map (BitVec.ofNat 64))
      rm := BitVec.ofNat 2 (leAt bs 0x508 8)
      flags := BitVec.ofNat 5 (leAt bs 0x510 8)
      marks := marks }
    eseq := leAt bs 0x518 4 % 2 ^ 28 }

/-- The flues have room for the words of a saved block (R238). -/
def State.fluesFit (s : State) (x : SavedBlock) : Bool :=
  (List.range 8).all fun n =>
    let c := 8 * x.blk.cluster + n
    decide ((s.core c).flue.length + (x.flue.filter fun f => decide (f.1 = c)).length ≤ 64)

/-- The cores, thread, basins, flue entries and TEAMIDs that a saved block needs are free for it again. -/
def State.blockFits (s : State) (x : SavedBlock) : Bool :=
  let B := x.blk
  match s.launch? B.launch with
  | none => false
  | some L =>
    let pool := (s.cluster B.cluster).pool
    s.coresMeet B.launch B.cluster L (B.cores.map (· % 8)) && (s.freeThreads B.cluster).contains B.gthread &&
      decide (L.rcd.basins ≤ pool.length) && s.fluesFit x && s.idsLeft B.cluster L (B.cores.map (· % 8))

/-- R299: basins come back under their own numbers, and where those are held under others that no basin after them had. -/
def basinPlaces : List Nat → List Nat → List Nat
  | [], _ => []
  | b :: r, pool =>
    let k := if pool.contains b then b else (pool.find? fun k => !r.contains k).getD b
    k :: basinPlaces r (pool.erase k)

/-- A saved basin comes back with its bytes from the save area as basin `k`, in the slots that mapped it, BASIN rewritten (R299). -/
def State.restoreBasin (s : State) (ctx key cl k : Nat) (x : SavedBasin) : State :=
  let pa := (s.ctx ctx).run.savebase + x.entry + 16
  let bs := s.memRd pa 65536
  let bad := (s.badWords pa 16384).map fun w => cl * 524288 + k * 16384 + w
  let s := ((s.setCluster cl ((s.cluster cl).setInfo k { x.info with blk := some key })).basinWr cl k 0 bs).unpoisonBasin cl k
  x.maps.foldl (fun s m => s.setCore (8 * cl + m.1) ((s.core (8 * cl + m.1)).setSlot m.2.1 { m.2.2 with basin := k }))
    { s with bpoison := bad ++ s.bpoison }

/-- A saved block resumes on its cluster and cores. -/
def State.resumed (s : State) (ctx : Nat) (x : SavedBlock) (rest : List SavedBlock) (L : Launch) : State :=
  let cl := x.blk.cluster
  let pa := (s.ctx ctx).run.savebase + x.entry
  let bs := s.memRd pa 16384
  let B := { x.blk with
    teams := x.blk.teams.filter fun y => !x.teams.contains y.1, td := mfrom 0 id ((fields bs 0x540 16 16).map (BitVec.ofNat 128)) }
  let places := basinPlaces (x.basins.map (·.basin)) (s.cluster cl).pool
  let s := (places.zip x.basins).foldl (fun s b => s.restoreBasin ctx x.key cl b.1 b.2) s
  let s := (s.setBlock x.key B).setCluster cl ((s.cluster cl).setAside x.key (L.rcd.basins - x.basins.length))
  let s := B.cores.foldl (fun s c => s.takeCore ctx c) s
  let s := (s.allocTeams x.key B L.rcd x.teams).setGen (16 * cl + B.gthread) (reloadGen x.gen bs (s.badWords (pa + 8) 320))
  let runs := s.uid
  let s := ((List.range x.flue.length).zip x.flue).foldl (fun s f =>
    let at_ := 0x642 + 24 * f.1
    let w := reloadWord ((bs.drop at_).take 24) runs (s.poisoned (pa + at_) 16) f.2
    s.enterFlue w.1 w.2) { s with uid := 2 * runs + 1 }
  s.setCtx ctx { s.ctx ctx with saved := rest }

/-- It does so once it fits there beside every reserved place (R286). -/
def State.restoreBlock (s : State) (ctx : Nat) (x : SavedBlock) (rest : List SavedBlock) : State :=
  match s.launch? x.blk.launch with
  | none => s
  | some L =>
    let s' := s.resumed ctx x rest L
    if s.blockFits x && s'.placesFit x.blk.cluster ctx then s' else s

/-- R372: with PS = 0 the saved contexts of a partition come back by priority. -/
def State.mayResume (s : State) (ctx : Nat) : Bool :=
  (s.part (ctxPart ctx)).ps || (ctxPeers ctx).all fun x => decide ((s.ctx x).mode ≠ .saved) || decide (s.ctxPrio x ≤ s.ctxPrio ctx)

/-- R296: a saved context resumes: its record is read again, then its segments and its blocks come back one by one. -/
def State.restore (s : State) (ctx : Nat) : State :=
  let c := s.ctx ctx
  match c.mode, c.savedSegs, c.saved with
  | .saved, _, _ => if s.mayResume ctx then s.setCtx ctx { c with mode := .running, run := s.readCtxRec ctx } else s
  | .running, g :: gs, _ => s.restoreSeg ctx g gs
  | .running, [], b :: bs => s.restoreBlock ctx b bs
  | _, _, _ => s

def execContextRestore (ctx : Nat) (s : State) : Host.Outcome State Fault Refusal := .next (s.restore ctx)

end Sys2Proof.Machine
end

