-- ==== Sys2Proof/Machine/Halt.lean ====
section
/-! DEFINITION. Stopping a context: the watchdog (R354), the halt line and the stop of each agent (R355, R356, R412), debugger halts
(R255, R358), the inspection save (R410, R411), forced reset (R414). -/

namespace Sys2Proof.Machine

/-! ### Stop records (R356, R412) -/

/-- How far PC stands behind the word that a waiting thread waits at. -/
def Wait.back : Wait → Nat
  | .waitc _ _ | .bar _ _ | .take _ _ | .mwait _ _ | .vgrow _ _ | .fence _ => 8
  | _ => 0

/-- Where an agent stops, its PC and its provenance (R356, R412): a team at its checkpoint, the oldest instruction with an access
that is not checked (R263), else at the word it waits at or is to issue. -/
def State.stopPoint (s : State) (a : Agent) : W64 × Nat :=
  match s.thread? a with
  | none => (0, s.prov a)
  | some th =>
    let pc := th.pc - BitVec.ofNat 64 (match s.status? a with
      | some (.parked w) => w.back
      | _ => 0)
    match a, th.pend.find? Pend.unchecked with
    | .team _, some p => (p.pc, p.prov)
    | .team t, none => (pc, s.tagAt (t / 256) pc)
    | _, some p => (p.pc, s.prov a)
    | _, none => (pc, s.prov a)

/-- The 64 bytes of a stop record. -/
def StopRec.bytes (r : StopRec) : List Byte :=
  natLe 1 r.kind ++ natLe 1 r.fl ++ zeros 2 ++ natLe 4 r.cause ++ natLe 2 r.loc ++ natLe 1 r.id ++ zeros 5 ++ natLe 8 r.pc.toNat ++
    natLe 8 r.gtime.toNat ++ natLe 4 r.tag ++ natLe 4 r.prog ++ natLe 8 r.done ++ natLe 1 r.wait ++ zeros 15

/-- The jobs of a context on a core. -/
def State.ctxJobs (s : State) (c ctx : Nat) : List Job := (s.core c).jobs.filter fun j => decide (j.ctx = ctx)

/-- The stop records of an agent of a context that raised no cause itself. -/
def State.stopRecords (s : State) (a : Agent) (ctx fl : Nat) : List StopRec :=
  match a with
  | .queue c => (s.ctxJobs c ctx).map fun j => s.jobRecord c j fl
  | _ => if (s.thread? a).isSome then [{ s.stopRecord a 0 fl with pc := (s.stopPoint a).1, tag := (s.stopPoint a).2 }] else []

/-- An agent of a context that a halt has still to stop. -/
def Status.active : Status → Bool
  | .ready | .parked _ | .broken => true
  | _ => false

/-- Words and jobs of a context in an engine. -/
def State.queueActive (s : State) (c ctx : Nat) : Bool :=
  decide (s.ctxJobs c ctx ≠ []) || (s.core c).queue.any fun e => decide ((s.block? e.blk).map (·.ctx) = some ctx)

def State.active (s : State) (a : Agent) (ctx : Nat) : Bool :=
  match a with
  | .queue c => s.queueActive c ctx
  | _ => decide (s.agentCtx? a = some ctx) && (match s.status? a with
    | some st => st.active
    | none => false)

/-- The matrix jobs of a context on a core stop at a whole K step (R356, R358). -/
def State.settleJobs (s : State) (c ctx : Nat) : State :=
  (s.ctxJobs c ctx).foldl (fun s j =>
    let x := s.stopMatrix c j
    let C := x.1.core c
    x.1.setCore c { C with jobs := C.jobs.map fun k => if k.id = j.id then x.2 else k }) s

/-- The engine of a core drops what it holds of a context. -/
def State.stopEngine (s : State) (c ctx : Nat) : State :=
  let C := s.core c
  s.setCore c { C with
    queue := C.queue.filter fun e => decide ((s.block? e.blk).map (·.ctx) ≠ some ctx)
    jobs := C.jobs.filter fun j => decide (j.ctx ≠ ctx)
    head := .fresh, stamp := none }

/-- The entries of the stop-record section (R410). -/
def State.stopEntries (s : State) (ctx : Nat) : List Entry := (s.ctx ctx).stops.map fun r => (r.bytes, [])

/-- A context has stop records that are not in its save area yet (R412). -/
def State.unwritten (s : State) (ctx : Nat) : Bool := decide ((s.ctx ctx).written ≠ (s.ctx ctx).stops.length)

/-- The stop-record section of the save area is written, behind the directory; a write that fails loses the context (R411). -/
def State.writeStops (s : State) (ctx : Nat) : State :=
  if (s.ctx ctx).mode = .lost then s
  else match s.writeSection ctx 2 4096 (s.stopEntries ctx) with
    | (s', none) => s'.setCtx ctx { s'.ctx ctx with written := (s'.ctx ctx).stops.length }
    | (s', some e) => s'.loseContext ctx e 0 0

def State.addStops (s : State) (ctx : Nat) (rs : List StopRec) : State :=
  let c := s.ctx ctx
  s.setCtx ctx { c with stops := c.stops ++ rs }

/-- The contexts an agent may stop for: a thread's own; on a core, those with work in its engines or records to write. -/
def State.stopCtxs (s : State) (a : Agent) : List Nat :=
  match a with
  | .queue c => (s.ctxs.map (·.1)).filter fun x => s.queueActive c x || s.unwritten x
  | _ => (s.agentCtx? a).toList

/-- Every agent of the context has stopped and nothing it sent is on its way, but for one on a lost die. -/
def State.allStopped (s : State) (ctx : Nat) : Bool :=
  let gone (a : Agent) : Bool := s.dev.off.contains (agentCluster a / 64)
  (s.teams.all fun q => decide (q.2.ctx ≠ ctx) || (!q.2.status.active && (gone (.team q.1) || q.2.th.pend.all Pend.finished))) &&
    (s.gens.all fun q => decide (q.2.ctx ≠ ctx) || (!q.2.status.active && (gone (.gen q.1) || q.2.th.pend.all Pend.finished))) &&
    (s.cores.all fun q => !s.queueActive q.1 ctx) && s.atomq.all fun q => gone q.who || decide (s.agentCtx? q.who ≠ some ctx)

/-- The stores of the partition's clusters are performed at device scope, but for those of a lost die. -/
def State.storesOut (s : State) (p : Nat) : Bool :=
  (s.part p).clusters.all fun cl => s.dev.off.contains (cl / 64) ||
    ((s.cluster cl).cistern.isEmpty && (List.range 9).all fun n => decide (s.sbuf (16 * cl + n) = []))

/-- The halt of a context is complete (R356): its agents have stopped, their records stand in the save area unless the context is lost
(R411, R412), its stores are drained. -/
def State.haltDone (s : State) (ctx : Nat) : Bool :=
  s.allStopped ctx && (!s.unwritten ctx || decide ((s.ctx ctx).mode = .lost)) && s.storesOut (ctxPart ctx)

/-- R356: once its halt is complete, the servicer of error recovery is told of a context. -/
def State.tellHalt (s : State) (ctx : Nat) : State :=
  let c := s.ctx ctx
  match c.note with
  | some r => if s.haltDone ctx then (s.setCtx ctx { c with note := none }).raiseRecord (ctxPart ctx) r else s
  | none => s

/-- The contexts of a partition whose halt is complete are told of. -/
def State.tellHalts (s : State) (p : Nat) : State := (List.range 16).foldl (fun s c => s.tellHalt (16 * p + c)) s

/-- R358: an agent halted by a debugger stands at its checkpoint, its held instructions discarded (R263, R356). It waits where a lane
of the checkpoint has left its core. -/
def State.heldBack (s : State) (a : Agent) : Option State :=
  match s.thread? a with
  | none => some s
  | some th => match th.pend.findIdx? Pend.unchecked with
    | none => some s
    | some n => match th.pend[n]? with
      | some p => (match p.work with
        | .mem m => if m.faultWaits (th.shadowed n p.work) then none else some ((s.backTo a n p m).setStatus a .ready)
        | _ => some s)
      | none => some s

/-- The granules of a pending `vgrow` (R408). -/
def Status.growing : Status → Nat
  | .parked (.vgrow _ n) | .parked (.saving (.stallGrow _ n)) => n
  | _ => 0

/-- An agent stops where the halt finds it (R356), its PC at its resumption point (R263, R408). -/
def State.stopHere (s : State) (a : Agent) : State :=
  let pc := (s.stopPoint a).1
  let s := match a with
    | .team t => (match s.team? t with
      | some T => s.setTeam t { T with pvgrow := T.status.growing }
      | none => s)
    | _ => s
  (s.onThread a fun th => { th with pc := pc }).stopAgent a

/-- R356, R358: an agent of a halted context stops and its stop record is written; under a debugger it keeps its place. -/
def State.stopFor (s : State) (a : Agent) (ctx : Nat) : State :=
  let s := match a with
    | .queue c => if s.ctxRuns ctx then s else s.settleJobs c ctx
    | _ => s
  match (s.ctx ctx).mode with
  | .halted | .lost =>
    (if s.active a ctx then
      let s := s.addStops ctx (s.stopRecords a ctx 0)
      (match a with
       | .queue c => s.stopEngine c ctx
       | _ => s.stopHere a).writeStops ctx
    else s.writeStops ctx).tellHalts (ctxPart ctx)
  | .debugHalted =>
    let rs := (s.stopRecords a ctx 2).filter fun r => (s.ctx ctx).stops.all fun x =>
      !(decide (x.fl = 2) && decide (x.kind = r.kind) && decide (x.loc = r.loc) && decide (x.id = r.id) && decide (x.tag = r.tag))
    if s.active a ctx ∧ rs ≠ [] then (match s.heldBack a with
      | some s => (s.addStops ctx rs).writeStops ctx
      | none => s)
    else s
  | _ => s

def execAgentStop (a : Agent) (s : State) : Host.Outcome State Fault Refusal :=
  .next ((s.stopCtxs a).foldl (fun s ctx => s.stopFor a ctx) s)

/-! ### The watchdog and the halt line (R354, R355, R360) -/

/-- The watched wait of an agent: its number in the list of R354, its start, its period in µs. A `bar` wait stays watched where a
register stall has switched its team out (R293), until its phase completes. -/
def State.watched (s : State) (a : Agent) : Option (Nat × Nat × Nat) :=
  match a with
  | .queue c => (s.core c).stamp.map fun x => ((match s.fetch (.queue c) with
    | .ok (some (.bwaitQueue _)) => 4
    | _ => 5), x)
  | _ => match s.status? a, s.thread? a with
    | some (.switchedOut _ (.stallBar n seen) _), some th => (match a with
      | .team t => if (s.team? t).any fun T => s.barPassed T n seen then none else some (1, th.since, th.period)
      | _ => none)
    | some (.parked w), some th => (match w with
      | .bar _ _ | .saving (.stallBar _ _) => some 1
      | .take _ _ => some 2
      | .mwait _ _ => some 3
      | .bwait _ _ => some 4
      | .flue | .eseg _ _ => some 6
      | _ => none).map fun n => (n, th.since, th.period)
    | _, _ => none

/-- R354: an agent of a running context has waited longer than the period of its wait. -/
def State.watchdog (s : State) (a : Agent) : State :=
  match s.agentCtx? a, s.watched a with
  | some ctx, some (n, since, period) =>
    if s.ctxRuns ctx && decide (since + 1000 * period < s.gtime) then
      let r := { s.stopRecord a 0xE 0 with kind := 6, wait := n, pc := (s.stopPoint a).1, tag := (s.stopPoint a).2 }
      let s := (s.haltLine ctx 0xE (agentLoc a) r.tag).addStops ctx [r]
      if (s.status? a).any Status.active then s.stopHere a else s
    else s
  | _, _ => s

def execWatchdog (a : Agent) (s : State) : Host.Outcome State Fault Refusal := .next (s.watchdog a)

/-- The 96 die-to-die links (R2), eight across each of the twelve edges: link 8e + k; edges 0 to 5 lie between die columns c and c + 1
of die row r, e = 2r + c, and are crossed in router row 8r + k; edges 6 to 11 lie between die rows r and r + 1 of die column c,
e = 6 + 3r + c (the numbers: DESIGN CHOICE, log entry 86). -/
def linkOk (link : Nat) : Bool := decide (link < 96)

/-- The way by X then Y from a router to another crosses a link (R312). -/
def routeUses (r home link : Nat) : Bool :=
  let e := link / 8
  if e < 6 then decide (routerY r = 8 * (e / 2) + link % 8) && (decide (routerX r ≤ 8 * (e % 2) + 7) != decide (routerX home ≤ 8 * (e % 2) + 7))
  else
    let y := 8 * ((e - 6) / 3) + 7
    decide (routerX home = 8 * ((e - 6) % 3) + link % 8) && (decide (routerY r ≤ y) != decide (routerY home ≤ y))

/-- The clusters at which lines of a context may be homed (R308), as far as its cached leaves tell: those of the named dies, every one
where a leaf is interleaved or none is cached. -/
def Ctx.homeDies (c : Ctx) : List Nat :=
  if c.tlb.all (fun e => bitAt e.attrs 55) && decide (c.tlb ≠ []) then (c.tlb.map fun e => bits e.attrs 52 3).eraseDups else List.range 8

/-- R360: the traffic of a context crosses a link (DEDUCED, log entry 86): between the clusters where it has blocks and the home slices of its
lines, and in the trees of the lines that those clusters hold (R317, R321). -/
def State.crosses (s : State) (ctx link : Nat) : Bool :=
  let cls := (s.blocks.filter fun q => decide (q.2.ctx = ctx)).map (·.2.cluster)
  (cls.any fun cl => (s.ctx ctx).homeDies.any fun d => (List.range 64).any fun k => routeUses (clusterRouter cl) (clusterRouter (64 * d + k)) link) ||
    s.lines.any fun q => decide (q.1 % 16384 < 8192) && cls.contains (q.1 % 16384 / 16) &&
      s.lines.any fun p => decide (p.1 / 16384 = q.1 / 16384) && decide (p.1 % 16384 < 8256) &&
        routeUses (holderRouter (p.1 % 16384)) (s.homeRouter (q.1 / 16384)) link

/-- The context has a block, and with it an agent, on a die. -/
def State.usesDie (s : State) (ctx d : Nat) : Bool := s.blocks.any fun q => decide (q.2.ctx = ctx) && decide (q.2.cluster / 64 = d)

/-- A die that the context uses is lost, or a link that its traffic crosses (R360). -/
def State.lossMeets (s : State) (ctx : Nat) : Bool := s.dev.lostLinks.any (s.crosses ctx) || s.dev.off.any (s.usesDie ctx)

/-- A context that a loss halts: one that runs or stands for a debugger. -/
def State.inUse (s : State) (ctx : Nat) : Bool :=
  match (s.ctx ctx).mode with
  | .running | .preempting | .debugHalted => true
  | _ => false

/-- R355, R360: the loss of a die or a link raises the halt line of a context that it meets. -/
def State.partitionHalt (s : State) (ctx cause : Nat) : State :=
  let m := (s.ctx ctx).mode
  if cause = 0xF ∧ (m = .running ∨ m = .preempting ∨ m = .debugHalted) ∧ s.lossMeets ctx then s.haltLine ctx cause 0 0 else s

def execHaltLine (ctx cause : Nat) (s : State) : Host.Outcome State Fault Refusal := .next (s.partitionHalt ctx cause)

/-! ### Debuggers (R255, R358) -/

/-- A debugger halts a context that runs or is being pre-empted. -/
def State.debugHalt (s : State) (ctx : Nat) : State :=
  let c := s.ctx ctx
  if c.debugger ∧ (c.mode = .running ∨ c.mode = .preempting) then
    s.setCtx ctx { c with mode := .debugHalted, leaving := decide (c.mode = .preempting) }
  else s

def execDebuggerHalt (ctx : Nat) (s : State) : Host.Outcome State Fault Refusal := .next (s.debugHalt ctx)

/-- The PC in the stop record that a debugger's halt wrote for an agent: it may have been changed since in the save area. -/
def State.recordPc (s : State) (ctx : Nat) (a : Agent) : Option W64 :=
  let c := s.ctx ctx
  let mine (r : StopRec) : Bool := decide (r.fl = 2) && decide (r.loc = agentLoc a) && (match a with
    | .team t => decide (r.kind = 1) && decide (r.id = t % 256)
    | .gen g => decide (r.kind = 5) && decide (r.id = g % 16)
    | .queue _ => false)
  (c.stops.findIdx? mine).map fun i => BitVec.ofNat 64 (leNat (s.memRd (c.run.savebase + 4096 + 64 * i + 16) 8))

/-- An agent goes on from its stop record. -/
def State.goFrom (s : State) (ctx : Nat) (a : Agent) : State :=
  match s.recordPc ctx a, s.thread? a with
  | some pc, some th => s.onThread a fun th' => { th' with pc := pc + (th.pc - (s.stopPoint a).1) }
  | _, _ => s

/-- The threads of a context. -/
def State.ctxThreads (s : State) (ctx : Nat) : List Agent :=
  (s.teams.filter fun q => decide (q.2.ctx = ctx)).map (.team ·.1) ++ (s.gens.filter fun q => decide (q.2.ctx = ctx)).map (.gen ·.1)

/-- A context goes on from its stop records, its context record read again (R358, R406), or one agent after its `brk` (R255). -/
def State.debugRelease (s : State) (ctx : Nat) (a : Option Agent) : State :=
  match a with
  | none =>
    if (s.ctx ctx).mode = .debugHalted then
      let s := (s.ctxThreads ctx).foldl (fun s a => s.goFrom ctx a) s
      let c := s.ctx ctx
      s.setCtx ctx { c with
        mode := if c.leaving then .preempting else .running, leaving := false, run := s.readCtxRec ctx
        stops := c.stops.filter fun r => decide (r.fl ≠ 2), written := 0 }
    else s
  | some a => if s.agentCtx? a = some ctx ∧ s.status? a = some .broken then s.setStatus a .ready else s

def execDebuggerRelease (ctx : Nat) (a : Option Agent) (s : State) : Host.Outcome State Fault Refusal := .next (s.debugRelease ctx a)

def execDebuggerAttach (ctx : Nat) (on : Bool) (s : State) : Host.Outcome State Fault Refusal :=
  .next (s.setCtx ctx { s.ctx ctx with debugger := on })

/-! ### The inspection save (R410, R411) -/

/-- The teams of a context go to the free slots in ascending order, as far as those reach, with REASON 4. -/
def State.saveAll (s : State) (ctx : Nat) : List Nat → List Nat → State × Option Nat
  | t :: ts, n :: ns =>
    match s.team? t with
    | some T =>
      let cs := [Path.gl, .bl, .st, .at, .rq].map fun p => T.th.counter p
      onward (s.saveTeam T n (T.header t 4 (s.tagAt (t / 256) T.th.pc) T.pvgrow T.th.pc [] cs)) fun s =>
        (s.setTeam t { T with status := .switchedOut n .inspect false }).saveAll ctx ts ns
    | none => s.saveAll ctx ts ns
  | _, _ => (s, none)

/-- The slots that hold teams of a context, as entries (R410). -/
def State.savedTeams (s : State) (ctx : Nat) : List Entry :=
  (s.teams.filter fun q => decide (q.2.ctx = ctx)).filterMap fun q => match q.2.status with
    | .switchedOut n _ _ => some (natLe 8 n, [])
    | _ => none

/-- R411: every section of R410, the stop records first, where they already stand. -/
def State.inspect (s : State) (ctx : Nat) : State :=
  let c := s.ctx ctx
  if c.mode ≠ .halted ∨ s.haltDone ctx = false then s
  else
    let bs := s.ctxBlocks ctx
    let gens := bs.filterMap fun q => (s.gen? (16 * q.2.cluster + q.2.gthread)).map fun G => genEntry q.2 G (s.flueOf q.2.cluster q.2.gthread)
    let segs := (s.ctxSegs ctx).map fun x => s.segEntry x.1 x.2
    let basins := (s.ctxBasins ctx).map fun x => s.basinEntry x.1 x.2
    let accs := bs.flatMap fun q => s.accEntries q.2
    let bars := bs.map fun q => barEntry q.2
    let free := (List.range (2 ^ c.run.swlg)).filter fun n => s.slotFree ctx n
    let ts := (s.teams.filter fun q => decide (q.2.ctx = ctx) && (decide (q.2.status = .stopped) || decide (q.2.status = .allocated))).map (·.1)
    let o1 := 4096 + 64 * c.stops.length
    let o2 := o1 + entryBytes gens + entryBytes segs
    let o3 := o2 + entryBytes basins + entryBytes accs + entryBytes bars
    match onward (s.writeSection ctx 2 4096 (s.stopEntries ctx)) fun s =>
      onward (s.writeSections ctx 0 o1 [gens, segs]) fun s =>
        onward (s.writeSections ctx 3 o2 [basins, accs, bars, []]) fun s =>
          onward (s.saveAll ctx ts free) fun s => s.writeSection ctx 7 o3 (s.savedTeams ctx) with
    | (s', none) => s'
    | (s', some e) => s'.loseContext ctx e 0 0

def execInspectionSave (ctx : Nat) (s : State) : Host.Outcome State Fault Refusal := .next (s.inspect ctx)

/-- The context's state is on its way to memory: its own save, or a team on its way to a slot. -/
def State.savingCtx (s : State) (ctx : Nat) : Bool := decide ((s.ctx ctx).mode = .preempting) || decide ((s.ctx ctx).mode = .halted)

def State.savingTeam (s : State) (ctx : Nat) : Option (Nat × Team) :=
  s.teams.find? fun q => decide (q.2.ctx = ctx) && (match q.2.status with
    | .parked (.svc _ _ _ _ _) | .parked (.called _ _ _ _) | .parked (.saving _) => true
    | _ => false)

/-- R411: a save write met an uncorrectable error; a team's switch-out is on record for the team (R413). -/
def State.saveFails (s : State) (ctx cause : Nat) : State :=
  if cause ≠ 0xD then s
  else match s.savingTeam ctx with
    | some (t, T) => s.loseContext ctx cause (agentLoc (.team t)) (s.tagAt (t / 256) T.th.pc)
    | none => if s.savingCtx ctx then s.loseContext ctx cause 0 0 else s

def execSaveLost (ctx cause : Nat) (s : State) : Host.Outcome State Fault Refusal := .next (s.saveFails ctx cause)

/-! ### Forced reset (R414) -/

/-- The launch ends with a state of R393, if it is of this context and has not ended. -/
def Launch.endFor (L : Launch) (ctx st cause : Nat) : Launch :=
  match L.phase with
  | .ended _ => L
  | _ => if L.ctx = ctx then { L with phase := .ended st, reserved := [], cause := cause } else L

/-- The launches of a context that have not ended end with a state of R393. -/
def State.endLaunches (s : State) (ctx st : Nat) : State :=
  let s : State := { s with launches := s.launches.map fun q => (q.1, q.2.endFor ctx st (s.ctx ctx).cause) }
  let P := s.part (ctxPart ctx)
  match P.reserving with
  | some l => if (s.launch? l).map (·.ctx) = some ctx then s.setPart (ctxPart ctx) { P with reserving := none } else s
  | none => s

/-- R414, R415: the basins that a context held last are cleared. -/
def State.wipeBasins (s : State) (ctx : Nat) : State :=
  s.clusters.foldl (fun s q => ((List.range 32).filter fun b => decide ((q.2.info b).last = some ctx)).foldl (fun s b =>
    let C := s.cluster q.1
    (s.setCluster q.1 ((C.clearBasin b).setInfo b { C.info b with last := none })).unpoisonBasin q.1 b) s) s

/-- R414: the halt is complete; what the context holds is freed and cleared, its generation changes, its launches end. -/
def State.forceReset (s : State) (ctx : Nat) : State :=
  let c := s.ctx ctx
  if (c.mode ≠ .halted ∧ c.mode ≠ .lost) ∨ s.haltDone ctx = false then s
  else
    let s := s.tellHalt ctx
    let s := (((s.clearContext ctx fun _ => false).wipeBasins ctx).newGen ctx ((c.gen + 1) % 2 ^ 32)).endLaunches ctx (if c.late then 3 else 2)
    s.setCtx ctx { s.ctx ctx with mode := .idle, slots := [], stops := [], written := 0, leaving := false, late := false, cause := 0, saved := [], savedSegs := [] }

def execForcedReset (ctx : Nat) (s : State) : Host.Outcome State Fault Refusal := .next (s.forceReset ctx)

end Sys2Proof.Machine
end

