-- ==== Sys2Proof/Machine/Command.lean ====
section
/-! DEFINITION. The command unit: queues and their commands (R385 to R387), acceptance and refusal (R282, R388, R389), the
buffer-handle table and forerunner streams (R390 to R392), completion records (R393 to R395). -/

namespace Sys2Proof.Machine

/-! ### The launch record (R279, R280) -/

def Record.parse (b : List Byte) : Record :=
  let nteam := leAt b 6 1
  { ver := leAt b 0 2, nlvl := leAt b 2 1, flags := leAt b 3 1, prio := leAt b 4 1 % 4, trig := leAt b 5 1, nteam := nteam
    ncore := leAt b 7 1, entry := leAt b 8 8, params := leAt b 16 8, psize := leAt b 24 4, vregs := leAt b 28 2
    basins := leAt b 30 1, accs := leAt b 31 1, code := leAt b 32 4, stack := leAt b 36 4, tdg := leAt b 40 1
    shape := (fields b 48 1 (min nteam 32)).map fun x => (x / 32, x % 32 + 1)
    levels := (List.range 5).map fun k => ⟨leAt b (80 + 8 * k) 1, leAt b (81 + 8 * k) 1, leAt b (84 + 8 * k) 4⟩
    fbase := leAt b 120 8
    bufs := ((fields b 128 2 16).filter fun x => bitAt x 15).map fun x => (x % 4096, bits x 12 2)
    ranges := (List.range 8).map fun d =>
      ⟨leAt b (160 + 12 * d) 4, leAt b (164 + 12 * d) 4, bitAt (leAt b (168 + 12 * d) 1) 0, bitAt (leAt b (168 + 12 * d) 1) 1⟩ }

def Record.zero : Record := Record.parse []

/-- The levels below NLVL, and those at or above it. -/
def Record.declared (r : Record) : List Level := r.levels.take (r.nlvl - 3)

def Record.beyond (r : Record) : List Level := r.levels.drop (r.nlvl - 3)

/-- VER and the limits of R279 and R280 (reason 1); `rest` are the SHAPE bytes from NTEAM on. -/
def Record.limitBad (r : Record) (rest : List Byte) : Bool :=
  decide (r.ver ≠ 2) || decide (r.nlvl < 3) || decide (8 < r.nlvl) || decide (1 < r.trig) || decide (r.nteam = 0) || decide (32 < r.nteam) ||
    decide (r.ncore = 0) || decide (8 < r.ncore) || decide (r.entry % 32 ≠ 0) || decide (r.params % 8 ≠ 0) || decide (r.psize % 8 ≠ 0) ||
    decide (65536 < r.psize) || decide (r.vregs % 8 ≠ 0) || decide (r.vregs < 8) || decide (256 < r.vregs) || decide (32 < r.basins) ||
    decide (8 < r.accs) || decide (r.code % 32 ≠ 0) || decide (196608 < r.code) || decide (r.stack % 4 ≠ 0) || decide (4 < r.tdg) ||
    rest.any (fun b => decide (b ≠ 0)) || r.bufs.any (fun x => decide (x.2 = 0)) ||
    r.levels.any fun l => decide (4 < l.domain) || decide (5 < l.scope) || (decide (l.domain ≠ 0) && decide (l.span = 0))

/-- The smallest scope a domain accepts (R278). -/
def minScope (domain : Nat) : Nat := domain + 1

/-- The enabled ranges. -/
def Record.enabled (r : Record) : List Range := r.ranges.filter fun x => x.en

/-- The instance of a level, of `size` blocks of the grid, that holds block `x` of the launch lies in the range of no one die. -/
def Record.stray (r : Record) (size x : Nat) : Bool :=
  let k := (r.fbase + x) / size
  !(r.enabled.any fun a => decide (a.first ≤ k * size - r.fbase) && decide (min (r.nblk - 1) ((k + 1) * size - 1 - r.fbase) ≤ a.last))

/-- Some instance of a level bound to a die does not lie in one range (R278): one where a range begins or ends, or between two. -/
def Record.splits (r : Record) (size : Nat) : Bool :=
  ((0 :: r.enabled.flatMap fun a => [a.first, a.last, a.last + 1]).filter fun x => decide (x < r.nblk)).any (r.stray size)

/-- R278, R282 (reason 3). -/
def Record.levelsBad (r : Record) : Bool :=
  let ls := r.declared
  ls.any (fun l => decide (l.domain = 0)) || r.beyond.any (fun l => decide (l.domain ≠ 0)) ||
    !(decide (List.Pairwise (fun a b : Level => a.domain ≤ b.domain) ls)) || ls.any (fun l => decide (l.scope < minScope l.domain)) ||
    (List.range ls.length).any fun k => decide ((ls.getD k ⟨0, 0, 0⟩).domain = 2) &&
      (r.enabled.any (fun x => x.flt) || r.splits ((ls.take (k + 1)).map (·.span) |>.foldl (· * ·) 1))

/-- R282 (reason 4). -/
def Record.shapeBad (r : Record) : Bool :=
  r.shape.any (fun t => decide (r.ncore ≤ t.1)) || (List.range r.ncore).any fun n => r.teamsOn n = []

/-- R282 (reason 5). -/
def Record.coreBad (r : Record) (hsize stklg : Nat) : Bool :=
  r.needs.any (fun n => decide (256 < n.words) || decide (2097152 < n.regs)) || decide (196608 - hsize < r.code) ||
    r.shape.any fun t => decide (2 ^ stklg < r.stack * 32 * t.2)

/-- R282 (reason 7): the enabled ranges cover 0 to NBLK − 1, each index once. -/
def Record.coverBad (r : Record) : Bool :=
  let en := r.enabled
  decide (en = []) || en.any (fun a => decide (a.last < a.first)) ||
    !((List.range en.length).all fun i => (List.range en.length).all fun j =>
      let a := en.getD i ⟨0, 0, false, false⟩
      let b := en.getD j ⟨0, 0, false, false⟩
      decide (i = j) || decide (a.last < b.first) || decide (b.last < a.first)) ||
    decide ((en.map fun a => a.last + 1 - a.first).sum ≠ r.nblk)

/-- R282, R283 (reason 8). -/
def Record.unitBad (r : Record) : Bool :=
  r.enabled.any fun a => decide ((r.fbase + a.first) % r.du ≠ 0) || decide ((r.fbase + a.last + 1) % r.du ≠ 0)

/-- R389 (reason 9). -/
def State.dieBad (s : State) (p : Nat) (r : Record) : Bool :=
  (List.range 8).any fun d => (r.ranges.getD d ⟨0, 0, false, false⟩).en && decide (s.dieClusters p d = [])

/-- R389 (reason 12): use entries as handle and MODE, an ill-formed one with MODE 0. -/
def usesBad (u : List (Nat × Nat)) : Bool := u.any (fun x => decide (x.2 = 0) || decide (3 < x.2)) || !decide ((u.map (·.1)).Nodup)

/-- The reason a launch is refused with, 0 for none: the lowest code that applies (R389). `entry` is the outcome of the
LAUNCH entry's own checks and reads. -/
def State.refusal (s : State) (ctx : Nat) (raw : Option (List Byte)) (uses : List (Nat × Nat)) (entryBad v1 : Bool) : Nat :=
  match raw with
  | none => 11
  | some b =>
    let r := Record.parse b
    let c := (s.ctx ctx).acc
    let p := ctxPart ctx
    let tests : List (Nat × Bool) :=
      [(1, r.limitBad (((b.drop 48).take 32).drop r.nteam)), (2, decide (r.trig = 1) && !v1), (3, r.levelsBad), (4, r.shapeBad),
       (5, r.coreBad c.hsize c.stklg), (6, decide (512 < (r.shape.map (·.2)).sum)), (7, r.coverBad), (8, r.unitBad), (9, s.dieBad p r),
       (10, r.cor && !s.corFits p c.hsize r), (11, entryBad), (12, usesBad uses)]
    ((tests.find? fun t => t.2).map (·.1)).getD 0

/-! ### Interrupts -/

/-- The port that an interrupt of a virtual interface goes to: the lease holder's once a lease is held (R374). -/
def State.irqPort (s : State) (v : Nat) : Nat :=
  if s.dev.leaseState = 0 then (if (s.vi v).port0 then 0 else 1) else s.dev.holder

def State.raiseIrq (s : State) (v vec : Nat) : State :=
  { s with dev := { s.dev with irqs := s.dev.irqs ++ [⟨v, vec, s.irqPort v⟩] } }

def State.irqIf (s : State) (on : Bool) (v q : Nat) : State := if on then s.raiseIrq v (2 + q) else s

/-- Change a queue. -/
def State.onQueue (s : State) (v q : Nat) (f : Queue → Queue) : State :=
  let V := s.vi v
  s.setVi v (V.setQueue q (f (V.queue q)))

/-! ### Completion records (R393 to R395) -/

/-- The ranges of a completion record with their dies, die 0's first. -/
def Launch.allRuns (L : Launch) : List (Nat × Nat × Nat) :=
  (List.range 8).flatMap fun d => (runsOf (L.retiredOn d)).map fun r => (d, r)

/-- The bytes of a completion record (R393, R394). -/
def Launch.completion (L : Launch) (state gtime : Nat) : List Byte :=
  let runs := L.allRuns
  let kept := runs.take ((L.crsize - 128) / 8)
  let lost := runs.drop ((L.crsize - 128) / 8)
  natLe 4 (2 ^ 31 + L.reason * 256 + state) ++ natLe 4 (if state = 2 then L.cause else 0) ++ natLe 8 L.ser ++ natLe 8 gtime ++
    natLe 4 (128 + 8 * kept.length) ++ zeros 36 ++
    ((List.range 8).flatMap fun d => natLe 4 (L.retiredOn d).length ++ natLe 2 (kept.filter fun r => decide (r.1 = d)).length ++
      natLe 2 (b2n (lost.any fun r => decide (r.1 = d)))) ++
    kept.flatMap fun r => natLe 4 r.2.1 ++ natLe 4 r.2.2

/-- The record is written where the LAUNCH asked for one; its interrupt is raised (R386, R393, R394). -/
def State.writeCompletion (s : State) (l : Nat) (L : Launch) (k : Nat) : State :=
  let o := L.from?
  let s := s.setLaunch l { L with recorded := true }
  let s := s.onQueue o.vi o.q fun Q => { Q with launches := Q.launches.filter fun x => decide (x ≠ l) }
  let s := if L.crec = 0 then s
    else if L.crsize < 128 then s.onQueue o.vi o.q fun Q => { Q with err := 3 }
    else match s.writeVa L.ctx 3 L.crec.toNat (L.completion k s.gtime) with
      | .ok s => s
      | .error _ => s
  s.irqIf o.irq o.vi o.q

/-! ### Acceptance (R388 to R392) -/

/-- A launch counts as retired (R390). -/
def State.retiredL (s : State) (l : Nat) : Bool :=
  match s.launch? l with
  | some L => (match L.phase with
    | .ended k => decide (k = 0) || L.recorded
    | _ => false)
  | none => true

/-- The declarations of a launch: handles with the MODE bits ORed (R280, R390). -/
def declares (bufs uses : List (Nat × Nat)) : List (Nat × Nat) :=
  (bufs ++ uses).foldl (fun m x => lset m x.1 (((lget m x.1).getD 0) ||| x.2)) []

def Handle.none : Handle := ⟨Option.none, []⟩

def Ctx.handle (c : Ctx) (h : Nat) : Handle := mget Handle.none c.handles h

/-- MODE holds a write. -/
def modeWrites (m : Nat) : Bool := bitAt m 1

/-- R390: what a launch waits for because of one of its handles. -/
def Handle.waits (h : Handle) (m : Nat) : List Nat :=
  h.writer.toList ++ (if modeWrites m then h.readers else if 64 ≤ h.readers.length then h.readers.take 1 else [])

/-- R390: the table entry once the launch is accepted. -/
def Handle.note (h : Handle) (m l : Nat) : Handle :=
  if modeWrites m then ⟨some l, []⟩ else { h with readers := (if 64 ≤ h.readers.length then h.readers.drop 1 else h.readers) ++ [l] }

/-- What a LAUNCH entry of a queue gives beside its record. -/
structure Asked where
  vi : Nat
  q : Nat
  v1 : Bool
  irq : Bool
  crec : W64
  crsize : Nat
  deriving DecidableEq, Repr

/-- A LAUNCH is accepted or refused: it takes the next SER (R388); a refused one writes its completion record at once (R389). -/
def State.accept (s : State) (ctx : Nat) (e : Asked) (raw : Option (List Byte)) (uses : List (Nat × Nat)) (entryBad : Bool) : State :=
  let c := s.ctx ctx
  let V := s.vi e.vi
  let Q := V.queue e.q
  let l := s.uid
  let reason := s.refusal ctx raw uses entryBad e.v1
  let r := match raw with
    | some b => Record.parse b
    | none => Record.zero
  let decl := declares r.bufs uses
  let table := decide (reason = 0) && !e.v1 && !(s.part (ctxPart ctx)).lo
  let hw := if table then (decl.flatMap fun x => (c.handle x.1).waits x.2).eraseDups else []
  let early : Bool := match Q.lastV1 with
    | some k => decide ((s.launch? k).map (fun K => K.rcd.trig) = some 1)
    | none => false
  let waits := if e.v1 ∧ !early then hw ++ Q.lastV1.toList else hw
  let L : Launch := { rcd := r, ctx := ctx, ser := c.ser, from? := ⟨e.vi, e.q, e.v1, e.irq⟩, crec := e.crec, crsize := e.crsize
                      reason := reason, phase := if reason = 0 then .waiting else .ended 1, waits := waits
                      waitTrig := if e.v1 ∧ early then Q.lastV1 else none, dies := [], clusters := [], reserved := [], retired := []
                      cause := 0, recorded := false }
  let handles := if table then decl.foldl (fun m x => mput Handle.none m x.1 ((mget Handle.none m x.1).note x.2 l)) c.handles else c.handles
  let s := (s.fresh.setLaunch l L).setCtx ctx { c with ser := (c.ser + 1) % 2 ^ 64, handles := handles }
  let s := s.setVi e.vi (V.setQueue e.q { Q with launches := Q.launches ++ [l], lastV1 := if e.v1 then some l else Q.lastV1 })
  if reason = 0 then s else s.writeCompletion l L 1

/-! ### The head of a queue (R385 to R387) -/

/-- What a queue would take next. -/
inductive Head where
  | none
  | bad (err : Nat)
  | dev (r : List Byte)
  | cmd (op : Nat) (b : List Byte)
  deriving DecidableEq, Repr

def Queue.depth (Q : Queue) : Nat := (2 ^ 32 + Q.pi - Q.ci) % 2 ^ 32

/-- The bytes of an entry that its command uses, besides 0 and 1 (R386). -/
def entrySpan (v1 : Bool) (op : Nat) : Nat × Nat :=
  if op = 1 then (if v1 then (8, 24) else (4, 36)) else if op = 2 ∨ op = 3 then (8, 24) else (2, 2)

/-- A byte of an entry that its command does not use is set (R385); the reserved FLAGS bits are ignored (R7, R386). -/
def entryReserved (v1 : Bool) (b : List Byte) : Bool :=
  let (lo, hi) := entrySpan v1 (leAt b 0 1)
  (List.range b.length).any fun i => decide (2 ≤ i) && (decide (i < lo) || decide (hi ≤ i)) && decide (b.getD i 0 ≠ 0)

/-- The context key of a queue. -/
def State.queueCtx (s : State) (v q : Nat) : Option Nat := ((s.vi v).part).map fun p => 16 * p + ((s.vi v).queue q).ctx

/-- The head of a queue: ring and device list in turn. -/
def State.head (s : State) (v q : Nat) : Head :=
  let Q := (s.vi v).queue q
  match s.queueCtx v q with
  | none => .none
  | some ctx =>
    match Q.dev, (Q.turn || decide (Q.depth = 0)) with
    | r :: _, true => .dev r
    | _, _ =>
      if Q.depth = 0 then .none
      else if 2 ^ Q.lg < Q.depth then .bad 2
      else
        let n := if Q.fmt then 32 else 64
        match s.readVa ctx 2 (Q.base.toNat + n * (Q.ci % 2 ^ Q.lg)) n with
        | .error _ => .bad 3
        | .ok b => if 3 < leAt b 0 1 ∨ entryReserved Q.fmt b then .bad 1 else .cmd (leAt b 0 1) b

/-- A LAUNCH of a v1 queue still waits and holds the commands behind it (R392). -/
def State.v1Held (s : State) (Q : Queue) : Bool :=
  match Q.lastV1 with
  | some l => decide ((s.launch? l).map (fun L => L.phase) = some Phase.waiting)
  | none => false

/-- The word a WAIT reads is high enough, or the read faults (R386). -/
def State.waitOver (s : State) (ctx : Nat) (b : List Byte) : Bool :=
  decide (leAt b 8 8 % 8 ≠ 0) || (match s.readVa ctx 2 (leAt b 8 8) 8 with
    | .error _ => true
    | .ok x => decide (leAt b 16 8 ≤ leNat x))

/-- Every launch of the context that a halt or reset ended has written its record (R395, R414). -/
def State.settled (s : State) (ctx : Nat) : Bool :=
  s.launches.all fun q => decide (q.2.ctx ≠ ctx) || q.2.recorded || (match q.2.phase with
    | .ended 2 | .ended 3 => false
    | _ => true)

/-- The queue has a command the command unit can take (R385, R388, R395). -/
def State.queueReady (s : State) (v q : Nat) : Bool :=
  let Q := (s.vi v).queue q
  match s.queueCtx v q with
  | none => false
  | some ctx =>
    Q.en && decide (Q.err = 0) && Q.wait.isNone && (s.ctx ctx).ctxrec.getLsbD 63 && s.ctxRuns ctx && s.settled ctx && !s.v1Held Q &&
      (match s.head v q with
       | .none => false
       | _ => true)

/-- R388: the queue is the next of its context, in ascending number after the one served last. -/
def State.inTurn (s : State) (v q : Nat) : Bool :=
  match s.queueCtx v q with
  | none => false
  | some ctx =>
    let last := (s.ctx ctx).lastQ
    let rank (k : Nat) : Nat := (k + 2048 - last - 1) % 2048
    let mine := 32 * (v - 1) + q
    s.queueReady v q && s.vis.all fun x => x.2.queues.all fun y =>
      decide (s.queueCtx x.1 y.1 ≠ some ctx) || !s.queueReady x.1 y.1 || decide (rank mine ≤ rank (32 * (x.1 - 1) + y.1))

/-! ### Taking commands (R386) -/

/-- The head of a queue is taken, if it is a command of this kind and the queue's turn; a bad entry sets ERR, and is read where it is its
bytes that are bad. -/
def State.take (s : State) (v q op : Nat) (f : Nat → List Byte → State → State) : State :=
  match s.inTurn v q, s.queueCtx v q with
  | true, some ctx =>
    let served (s : State) : State := s.setCtx ctx { s.ctx ctx with lastQ := 32 * (v - 1) + q }
    (match s.head v q with
     | .none => s
     | .bad e => s.onQueue v q fun Q => { Q with err := e, ci := if e = 1 then (Q.ci + 1) % 2 ^ 32 else Q.ci }
     | .dev r =>
       if op = 1 then
         let s := served (s.onQueue v q fun Q => { Q with dev := Q.dev.tail, turn := false })
         s.accept ctx ⟨v, q, ((s.vi v).queue q).fmt, false, 0, 0⟩ (some r) [] false
       else s
     | .cmd k b =>
       if k = op then f ctx b (served (s.onQueue v q fun Q => { Q with ci := (Q.ci + 1) % 2 ^ 32, turn := decide (Q.dev ≠ []) })) else s)
  | _, _ => s

/-- FLAGS bit 0. -/
def wantsIrq (b : List Byte) : Bool := bitAt (leAt b 1 1) 0

def State.takeNop (s : State) (v q : Nat) : State := s.take v q 0 fun _ b s => s.irqIf (wantsIrq b) v q

def execQueueNop (vi q : Nat) (s : State) : Host.Outcome State Fault Refusal := .next (s.takeNop vi q)

/-- A use entry: handle, and MODE or 0 where R389 refuses it (R271). -/
def useEntry (b : List Byte) : Nat × Nat :=
  (leAt b 0 2, if 4095 < leAt b 0 2 ∨ (b.drop 3).any (fun x => decide (x ≠ 0)) then 0 else leAt b 2 1)

/-- The record and the use entries are read once (R388); a misaligned field or a read that faults is reason 11. -/
def State.takeLaunch (s : State) (v q : Nat) : State :=
  s.take v q 1 fun ctx b s =>
    let v1 := ((s.vi v).queue q).fmt
    let va := leAt b 8 8
    let crec := leAt b 16 8
    let uva := if v1 then 0 else leAt b 24 8
    let crs := if v1 then 128 else leAt b 32 4
    let nuse := if v1 then 0 else leAt b 4 4
    let fieldBad := decide (va % 256 ≠ 0) || decide (crec % 64 ≠ 0) || decide (uva % 8 ≠ 0) || decide (crs % 64 ≠ 0) || decide (4096 < nuse)
    let raw : Option (List Byte) := if va % 256 ≠ 0 then none else match s.readVa ctx 2 va 256 with
      | .ok x => some x
      | .error _ => none
    let uses : Option (List (Nat × Nat)) := if uva % 8 ≠ 0 ∨ 4096 < nuse then some [] else match s.readVa ctx 3 uva (8 * nuse) with
      | .ok x => some ((List.range nuse).map fun i => useEntry ((x.drop (8 * i)).take 8))
      | .error _ => none
    s.accept ctx ⟨v, q, v1, wantsIrq b, BitVec.ofNat 64 crec, crs / 64 * 64⟩ raw (uses.getD []) (fieldBad || uses.isNone)

def execLaunch (vi q : Nat) (s : State) : Host.Outcome State Fault Refusal := .next (s.takeLaunch vi q)

/-- A WAIT that has been read ends once its word is high enough, and holds the queue until then; an address that faults sets ERR to 3. -/
def State.waitOn (s : State) (v q ctx : Nat) (b : List Byte) : State :=
  let bad : Bool := decide (leAt b 8 8 % 8 ≠ 0) || (match s.readVa ctx 2 (leAt b 8 8) 8 with
    | .error _ => true
    | .ok _ => false)
  if s.waitOver ctx b = false then s.onQueue v q fun Q => { Q with wait := some (ctx, b) }
  else
    let s := s.onQueue v q fun Q => { Q with wait := none }
    if bad then s.onQueue v q fun Q => { Q with err := 3 } else s.irqIf (wantsIrq b) v q

/-- QUEUE_WAIT: the WAIT that holds the queue, or one that heads it. -/
def State.takeWait (s : State) (v q : Nat) : State :=
  match ((s.vi v).queue q).wait with
  | some (ctx, b) => if s.ctxRuns ctx then s.waitOn v q ctx b else s
  | none => s.take v q 2 fun ctx b s => s.waitOn v q ctx b

def execQueueWait (vi q : Nat) (s : State) : Host.Outcome State Fault Refusal := .next (s.takeWait vi q)

/-- The launches of a queue that have not written their record. -/
def State.unrecorded (s : State) (Q : Queue) : List Nat :=
  Q.launches.filter fun l => match s.launch? l with
    | some L => !L.recorded
    | none => false

/-- A SIGNAL that may be written now. -/
def State.signalReady (s : State) (x : Signal) : Bool :=
  x.after.all fun l => match s.launch? l with
    | some L => L.recorded
    | none => true

/-- R386: the first SIGNAL of the queue whose launches have all written their records is written; failing that, one that heads the
queue is taken to wait for them. -/
def State.doSignal (s : State) (v q : Nat) : State :=
  match ((s.vi v).queue q).signals.find? s.signalReady with
  | some x =>
    let s := s.onQueue v q fun Q => { Q with signals := Q.signals.erase x }
    if x.addr.toNat % 8 ≠ 0 then s.onQueue v q fun Q => { Q with err := 3 }
    else match s.writeVa x.ctx 2 x.addr.toNat (natLe 8 x.value.toNat) with
      | .ok s => s.irqIf x.irq v q
      | .error _ => s.onQueue v q fun Q => { Q with err := 3 }
  | none => s.take v q 3 fun ctx b s =>
      let before := s.unrecorded ((s.vi v).queue q)
      s.onQueue v q fun Q => { Q with
        signals := Q.signals ++ [⟨BitVec.ofNat 64 (leAt b 8 8), BitVec.ofNat 64 (leAt b 16 8), ctx, before, wantsIrq b⟩] }

def execSignal (vi q : Nat) (s : State) : Host.Outcome State Fault Refusal := .next (s.doSignal vi q)

/-! ### Dispatch of accepted launches (R390 to R392) -/

/-- R392: every team of a producer has triggered or exited. -/
def State.allTriggered (s : State) (l : Nat) : Bool :=
  match s.launch? l with
  | none => true
  | some L => (match L.phase with
    | .ended k => decide (k = 0) || L.recorded
    | .running => L.dies.isEmpty && L.clusters.isEmpty && (s.ctx L.ctx).saved.all (fun x => decide (x.blk.launch ≠ l)) &&
        s.teams.all fun q => decide ((s.block? q.2.blk).map (·.launch) ≠ some l) || q.2.trig || decide (q.2.status = .parked .exit)
    | _ => false)

/-- The ranges of a record by die. -/
def Record.byDie (r : Record) : SMap (List (Nat × Nat)) :=
  ((List.range 8).zip r.ranges).filterMap fun x => if x.2.en then some (x.1, [(x.2.first, x.2.last)]) else none

/-- A launch whose waits have ended is dispatched, or begins to reserve its places (R286). -/
def State.dispatchLaunch (s : State) (l : Nat) : State :=
  match s.launch? l with
  | none => s
  | some L =>
    let early : Bool := match L.waitTrig with
      | some k => s.allTriggered k
      | none => true
    if decide (L.phase = .waiting) && s.ctxRuns L.ctx && L.waits.all s.retiredL && early then
      s.setLaunch l { L with phase := if L.rcd.cor then .reserving else .running, dies := L.rcd.byDie }
    else s

def execLaunchHandleDispatch (l : Nat) (s : State) : Host.Outcome State Fault Refusal := .next (s.dispatchLaunch l)

/-! ### Completion (R295, R393 to R395) -/

/-- R295, R388: a launch retires when every block index has, and writes its record: launches that end write theirs in that order. -/
def State.retireLaunch (s : State) (l : Nat) : State :=
  match s.launch? l with
  | none => s
  | some L =>
    if L.phase = .running ∧ L.retired.length = L.rcd.nblk then
      let L := { L with phase := .ended 0 }
      ((s.setLaunch l L).dropSegs l).writeCompletion l L 0
    else s

def execLaunchRetire (l : Nat) (s : State) : Host.Outcome State Fault Refusal := .next (s.retireLaunch l)

/-- R393, R395: a launch that has ended, or one of a context whose halt is complete, writes its record. -/
def State.complete (s : State) (l : Nat) : State :=
  match s.launch? l with
  | none => s
  | some L => match L.phase with
    | .ended k => if L.recorded then s else s.writeCompletion l L k
    | _ =>
      let c := s.ctx L.ctx
      if c.mode = .halted ∧ s.haltDone L.ctx then
        let k := if c.late then 3 else 2
        (s.endLaunches L.ctx k).writeCompletion l (L.endFor L.ctx k c.cause) k
      else s

def execCompletionRecord (l : Nat) (s : State) : Host.Outcome State Fault Refusal := .next (s.complete l)

end Sys2Proof.Machine
end

