-- ==== Sys2Proof/Machine/Routers.lean ====
section
/-! DEFINITION. The coherence messages at routers and cluster interfaces (R312 to R330, R362, R363), and the store path's own moves
(R303 to R305). An event names a message in flight by its place in State.msgs. -/

namespace Sys2Proof.Machine

/-! ### Misses and reads (R317 to R319, R325) -/

/-- A read or reply of a holder for a line is on its way. -/
def State.asking (s : State) (h line : Nat) : Bool :=
  s.msgs.any fun m => decide (m.line = line) && (match m.kind with
    | .read req _ _ _ _ | .reply req _ _ _ _ _ => decide (req = h)
    | _ => false)

/-- A piece of a load of a thread waits for a line: it is checked, and may be performed once its holder has the line. -/
def State.pieceWants (s : State) (a : Agent) (th : Thread) (line n : Nat) (l : LaneReq) : Bool :=
  match th.pend[n]? with
  | some p => !p.finished && (match p.work with
    | .mem m => m.kind.isLoad && decide (l.stage = .checked) && (match l.spot with
      | some (.mem pas home) => pas.any (fun pa => decide (pa / 128 = line)) && s.orderOk a th n m l (.mem pas home)
      | _ => false)
    | _ => false)
  | none => false

/-- The agents whose accesses go through a holder (R303, R307), with their threads. -/
def State.usersOf (s : State) (h : Nat) : List (Agent × Thread) :=
  if h % 16 = 8 then (s.gens.filter fun q => decide (stokerHolder (q.1 / 16) = h)).map fun q => (.gen q.1, q.2.th)
  else (s.teams.filter fun q => decide (coreHolder (q.1 / 256) = h)).map fun q => (.team q.1, q.2.th)

/-- The pieces of an item. -/
def Pend.pieces (p : Pend) : List LaneReq :=
  match p.work with
  | .mem m => m.lanes
  | _ => []

/-- The bytes, and the home that their entries give, of the loads that wait for a line at a holder. -/
def State.wanted (s : State) (h line : Nat) : List (List Nat × Nat) :=
  (s.usersOf h).flatMap fun x => (List.range x.2.pend.length).flatMap fun n =>
    (((x.2.pend[n]?).elim [] Pend.pieces).filter (s.pieceWants x.1 x.2 line n)).filterMap fun l => match l.spot with
      | some (.mem pas home) => some (pas, home)
      | _ => none

/-- The agents with a load that waits for a line at a holder. -/
def State.wantedBy (s : State) (h line : Nat) : List Agent :=
  ((s.usersOf h).filter fun x => (List.range x.2.pend.length).any fun n =>
    ((x.2.pend[n]?).elim [] Pend.pieces).any (s.pieceWants x.1 x.2 line n)).map (·.1)

/-- The sectors of a line that those loads touch (R307). -/
def State.wantedSectors (s : State) (h line : Nat) : List Nat :=
  (List.range 4).filter fun k => (s.wanted h line).any fun w => w.1.any fun pa => decide (pa / 32 = 4 * line + k)

/-- The loads that wait for a line at a holder take their bytes of it (R326). -/
def State.loadsTake (s : State) (h line : Nat) : State :=
  (s.usersOf h).foldl (fun s x => (List.range x.2.pend.length).foldl (fun s n =>
    s.performItem x.1 n fun l => s.pieceWants x.1 x.2 line n l) s) s

/-- R307, R317: a miss of a load is served by another holder of the cluster, or a read leaves for the home. The line's state covers a
sector that no request has touched yet, so that one is filled under it at once: no message of R313 is for it (DESIGN CHOICE, log
entry 87). -/
def State.miss (s : State) (h line : Nat) : State :=
  let want := s.wanted h line
  if 8192 ≤ h ∨ 9 ≤ h % 16 ∨ s.asking h line ∨ want = [] then s
  else if s.line h line ≠ .i then (s.fillSectors h line (s.wantedSectors h line) (s.newMarks line)).loadsTake h line
  else
    let r := holderRouter h
    match s.clHolders r line with
    | k :: _ =>
      let marks := s.suppliedMarks k line
      ((s.setLine k line (s.line k line).supplied).takeLine h line .s (s.wantedSectors h line) marks).loadsTake h line
    | [] => s.sendIn r line (.read h 0 0 [] (homeOf line ((want.map (·.2)).headD 0)))

def execClusterMiss (h line : Nat) (s : State) : Host.Outcome State Fault Refusal := .next (s.miss h line)

/-- The router before this one on a read's path steered it here (R317). -/
def steeredIn (path : List (Nat × Nat)) : Bool := path.head?.any fun p => decide (8 ≤ p.2)

/-- A read goes on from a router without being steered; back to the router that steered it here, it goes to be steered again (R325). -/
def State.passRead (s : State) (r port line req c : Nat) (path : List (Nat × Nat)) (home out : Nat) : State :=
  if out = port ∧ steeredIn path then s.sendOut r port line (.read req 2 c path home)
  else s.sendOut r out line (.read req 0 c ((r, port) :: path) home)

/-- A read is steered along a link: the entry is used and pinned until the reply passes (R316, R317, R362). -/
def State.steerRead (s : State) (r port line req c : Nat) (path : List (Nat × Nat)) (home : Nat) (e : TEntry) (out : Nat) : State :=
  let n := path.length + 1
  (s.setEntry r { e with pins := e.pins + 1 }).sendOut r out line (.read req 1 (if c = 0 then n else c) ((r, port + 8) :: path) home)

/-- A read whose reply will not pass a router unpins the entry that steered it (R316). -/
def State.unpin (s : State) (line : Nat) (p : Nat × Nat) : State :=
  match (s.router p.1).entry? line with
  | some e => if 8 ≤ p.2 then s.tidyEntry p.1 { e with pins := e.pins - 1 } else s
  | none => s

/-- Memory out of reach cannot be supplied: the agents that wait for the line stop with cause 0x000F (R421, R436). -/
def State.lostRead (s : State) (line req : Nat) (path : List (Nat × Nat)) : State :=
  (s.wantedBy req line).foldl (fun s a => s.fatal a 0xF) (path.foldl (fun s p => s.unpin line p) s)

/-- A read is supplied at its root. -/
def State.supplyRead (s : State) (r line req c : Nat) (path : List (Nat × Nat)) : State :=
  if s.lineGone line then s.lostRead line req path else s.homeSupply r line req c path

/-- A read that enters a router with an entry that is not being torn down (R317). -/
def State.readAt (s : State) (r port line req c : Nat) (path : List (Nat × Nat)) (home : Nat) (e : TEntry) : State :=
  if e.root = 4 then
    if e.own = false then s.supplyRead r line req c ((r, port) :: path)
    else match e.best port with
      | some out => s.steerRead r port line req c path home e out
      | none => s.steerRead r port line req c path home e port
  else match e.best port with
    | some out => s.steerRead r port line req c path home e out
    | none => s.passRead r port line req c path home e.root

/-- Another package owns the line (R330), so this package's home slice cannot supply it. -/
def State.isAway (s : State) (line : Nat) : Bool := decide (mget 0 s.away line ≠ 0)

/-- A read at router `r` (R317, R325); `n` is the message's place. A root with OWN = 1 and no link left, which another read on its way back
still pins, holds it, as does the home of a line that another package owns: the home slice never supplies a line while OWN = 1. -/
def State.readHere (s : State) (n r port line req mode c : Nat) (path : List (Nat × Nat)) (home : Nat) : State :=
  if (s.router r).overfull ∨ (home = r ∧ s.isAway line) then s.holdMsg n
  else match (s.router r).entry? line with
  | some e =>
    if e.tear.isSome ∨ (e.root = 4 ∧ e.own ∧ e.links = []) then s.holdMsg n else (s.dropMsg n).readAt r port line req c path home e
  | none =>
    if mode = 1 then (s.dropMsg n).sendOut r port line (.read req 2 c path home)
    else if home = r then
      (if s.canPut n r line then (s.dropMsg n).supplyRead r line req 0 ((r, port) :: path) else s.holdMsg n)
    else (s.dropMsg n).passRead r port line req c path home (xyPort r home)

/-- The part of a read's path behind its last steering at router `r`, that item included, and the rest. -/
def loopOf (r : Nat) (path : List (Nat × Nat)) : List (Nat × Nat) × List (Nat × Nat) :=
  let loop := path.takeWhile fun p => !(decide (p.1 = r) && decide (8 ≤ p.2))
  (path.take (loop.length + 1), path.drop (loop.length + 1))

/-- A steered read has come back to a router that steered it, from a neighbour that held nothing: it is handled again as it first came
(R325), steered in or on its way to the home, and the way that it went in vain is no part of its path (R319). -/
def State.readBack (s : State) (n r line req c : Nat) (path : List (Nat × Nat)) (home : Nat) : State :=
  match (loopOf r path).1.getLast? with
  | none => s.dropMsg n
  | some p =>
    let rest := (loopOf r path).2
    let s := (loopOf r path).1.foldl (fun s p => s.unpin line p) s
    { s with msgs := s.msgs.set n ⟨r, p.2 % 8, line, .read req (b2n (steeredIn rest)) (if rest.length < c then 0 else c) rest home, false, 0⟩ }

/-- The read comes up again to a router that has steered it. -/
def comesBack (r : Nat) (path : List (Nat × Nat)) : Bool := path.any fun p => decide (p.1 = r) && decide (8 ≤ p.2)

/-- ROUTER_READ: a read at a router, or at the holders behind its CL port (R317, R318, R325). -/
def State.routeRead (s : State) (n : Nat) : State :=
  match s.deliverable n with
  | none => s
  | some m => match m.kind with
    | .read req mode c path home =>
      let r := m.dest
      if m.port = 5 then
        (match s.clHolders r m.line with
         | [] => (s.dropMsg n).sendIn r m.line (.read req 2 c path home)
         | k :: _ => ((s.dropMsg n).setLine k m.line (s.line k m.line).supplied).sendIn r m.line
             (.reply req .s path c (rdcOnPath home req path) (s.suppliedMarks k m.line)))
      else if mode = 2 ∨ (mode = 0 ∧ comesBack r path) then s.readBack n r m.line req c path home
      else s.readHere n r m.port m.line req mode c path home
    | _ => s

def execRouterRead (n : Nat) (s : State) : Host.Outcome State Fault Refusal := .next (s.routeRead n)

/-- A reply cannot cross a router whose entry is being evicted (R328). -/
def State.evicting (s : State) (r line : Nat) : Bool :=
  match (s.router r).entry? line with
  | some e => e.tear.any (·.evict)
  | none => false

/-- REPLY: a reply at a router on its way, or at its requester, which takes the line in the granted state, and the loads that wait for
it their bytes (R319, R326). A router without a way for its entry holds it (R319, R363), as does one that evicts the line (R328). -/
def State.routeReply (s : State) (n : Nat) : State :=
  match s.deliverable n with
  | none => s
  | some m => match m.kind with
    | .reply req st path c rdc marks =>
      if m.port = 5 then
        (if s.deadHolder req then (s.dropMsg n).deadCopy req m.line (decide (st = .e))
        else ((s.dropMsg n).takeLine req m.line st (s.wantedSectors req m.line) marks).loadsTake req m.line)
      else if path.length < c ∧ (s.canPut n m.dest m.line = false ∨ s.evicting m.dest m.line) then s.holdMsg n
      else (s.dropMsg n).replyAt m.dest m.port m.line req st path c rdc marks
    | _ => s

def execReply (n : Nat) (s : State) : Host.Outcome State Fault Refusal := .next (s.routeReply n)

/-! ### Owns and grants (R320, R322) -/

/-- OWN: towards the home by X then Y; the root takes owns one after another, each after the grant of the one before. -/
def State.routeOwn (s : State) (n : Nat) : State :=
  match s.deliverable n with
  | none => s
  | some m => match m.kind with
    | .own req held path home =>
      let r := m.dest
      if (s.router r).overfull then s.holdMsg n
      else if r ≠ home then (s.dropMsg n).sendOut r (xyPort r home) m.line (.own req held ((r, m.port) :: path) home)
      else
        let first := !((s.msgs.take n).any fun q => q.held && decide (q.dest = r) && decide (q.line = m.line) && (match q.kind with
          | .own _ _ _ _ => true
          | _ => false)) && (m.held || !(s.msgs.any fun q => q.held && decide (q.dest = r) && decide (q.line = m.line) && (match q.kind with
          | .own _ _ _ _ => true
          | _ => false)))
        let busy : Bool := match (s.router r).entry? m.line with
          | some e => e.tear.isSome
          | none => !s.canPut n r m.line
        if busy || !first then s.holdMsg n else (s.dropMsg n).rootOwn r m.line req ((r, m.port) :: path)
    | _ => s

def execOwn (n : Nat) (s : State) : Host.Outcome State Fault Refusal := .next (s.routeOwn n)

/-- GRANT: the chain entry of a router on its way; the requester performs the masked bytes and holds the line in M (R305, R320,
R322). -/
def State.routeGrant (s : State) (n : Nat) : State :=
  match s.deliverable n with
  | none => s
  | some m => match m.kind with
    | .grant req data path =>
      if m.port = 5 then
        (if s.deadHolder req then (s.dropMsg n).deadCopy req m.line true
        else ((s.dropMsg n).takeLine req m.line .m [] []).drainPerform (req / 16) m.line)
      else if s.canPut n m.dest m.line = false ∨ s.evicting m.dest m.line then s.holdMsg n
      else (s.dropMsg n).grantAt m.dest m.port m.line req data path
    | _ => s

def execGrant (n : Nat) (s : State) : Host.Outcome State Fault Refusal := .next (s.routeGrant n)

/-! ### Invals and acks (R321, R326 to R328) -/

/-- The interface of a router answers an inval for all its holders together (R321, R327). -/
def State.invalHolders (s : State) (r line : Nat) (keep : Option Nat) : State :=
  match s.clHolders r line with
  | [] => s.sendIn r line (.ack false true false)
  | hs =>
    let gone := hs.filter fun h => decide (keep ≠ some h)
    let data := gone.any fun h => (s.line h line).dirty
    let kept := hs.any fun h => decide (keep = some h)
    ((gone.foldl (fun s h => s.loseLine h line) s).sendIn r line (.ack data false kept)).settle line

/-- An inval at a router (R321, R327, R328). One that finds the entry already answering an inval came behind a reply that recorded
its link here (R326): it is answered at once, and the answer of the teardown covers that link (log entry 62). -/
def State.invalAt (s : State) (r port line : Nat) (keep : Option Nat) : State :=
  match (s.router r).entry? line with
  | none => s.sendOut r port line (.ack false true false)
  | some e => match e.tear with
    | some t => match t.why with
      | .parent _ _ => s.sendOut r port line (.ack false false false)
      | _ => s.keepEntry r { e with tear := some { t with why := .parent port keep } }
    | none => s.startTear r e (.parent port keep) keep (some port)

def State.routeInval (s : State) (n : Nat) : State :=
  match s.deliverable n with
  | none => s
  | some m => match m.kind with
    | .inval keep => if m.port = 5 then (s.dropMsg n).invalHolders m.dest m.line keep else (s.dropMsg n).invalAt m.dest m.port m.line keep
    | _ => s

def execInval (n : Nat) (s : State) : Host.Outcome State Fault Refusal := .next (s.routeInval n)

/-- A link of an entry being torn down has answered. -/
def State.answered (s : State) (r port : Nat) (e : TEntry) (t : Tear) (data kept : Bool) : State :=
  let wait := t.wait.erase port
  s.tearOn r { e with links := if wait.contains port then e.links else merase e.links port }
    { t with wait := wait, data := t.data || data, kept := t.kept || kept }

/-- An ack at a router: the first NOCOPY on a link already counted through a prune is discarded (R327). -/
def State.ackAt (s : State) (r port line : Nat) (data nocopy kept : Bool) : State :=
  let R := s.router r
  if nocopy ∧ R.owed.contains (line, port) then s.setRouter r { R with owed := R.owed.erase (line, port) }
  else match R.entry? line with
    | none => s
    | some e => match e.tear with
      | none => s
      | some t => if t.wait.contains port then s.answered r port e t data kept else s

def State.routeAck (s : State) (n : Nat) : State :=
  match s.deliverable n with
  | none => s
  | some m => match m.kind with
    | .ack data nocopy kept => (s.dropMsg n).ackAt m.dest m.port m.line data nocopy kept
    | _ => s

def execAck (n : Nat) (s : State) : Host.Outcome State Fault Refusal := .next (s.routeAck n)

/-! ### Prunes, evictions and cuts (R323, R324) -/

/-- Past a router that keeps other links, or on its way up: a write-back or report that clears no link. -/
def State.reportUp (s : State) (r line : Nat) (e : TEntry) (dirty reportsE : Bool) : State :=
  if e.root = 4 then (if dirty || reportsE then (s.homeWrite line dirty).keepEntry r { e with own := false } else s)
  else if dirty then s.sendOut r e.root line (.prune true false false)
  else if reportsE then s.sendOut r e.root line (.prune false true false)
  else s

/-- The link on a port is cleared (R316, R323, R324): the entry goes with its last link, and its parent is told. -/
def State.clearLink (s : State) (r port line : Nat) (e : TEntry) (dirty reportsE : Bool) : State :=
  let e := { e with links := merase e.links port }
  if e.links = [] ∧ e.pins = 0 then
    let s := s.setRouter r ((s.router r).drop line)
    if e.root = 4 then s.homeWrite line dirty else s.sendOut r e.root line (.prune dirty reportsE true)
  else (s.keepEntry r e).reportUp r line e dirty reportsE

/-- A prune, write-back or report at a router; at the root OWN is cleared with the data or the report of E (R323, R327). -/
def State.pruneAt (s : State) (r port line : Nat) (dirty reportsE clears : Bool) : State :=
  match (s.router r).entry? line with
  | none =>
    if dirty ∧ s.homeRouter line ≠ r then s.sendOut r (xyPort r (s.homeRouter line)) line (.prune true false false)
    else s.homeWrite line dirty
  | some e => match e.tear with
    | some t =>
      let s := if e.root = 4 then s.homeWrite line dirty else s
      let e := if e.root = 4 ∧ (dirty ∨ reportsE) then { e with own := false } else e
      if clears ∧ t.wait.contains port then
        (s.setRouter r { s.router r with owed := (s.router r).owed ++ [(line, port)] }).answered r port e t dirty false
      else if e.root = 4 then s.keepEntry r e
      else s.keepEntry r { e with tear := some { t with data := t.data || dirty } }
    | none => if clears then s.clearLink r port line e dirty reportsE else s.reportUp r line e dirty reportsE

def State.routePrune (s : State) (n : Nat) : State :=
  match s.deliverable n with
  | none => s
  | some m => match m.kind with
    | .prune dirty reportsE clears => (s.dropMsg n).pruneAt m.dest m.port m.line dirty reportsE clears
    | _ => s

def execPrune (n : Nat) (s : State) : Host.Outcome State Fault Refusal := .next (s.routePrune n)

/-- A holder of the cluster side asks for a line: a read or an own of it is on its way. -/
def State.wantsLine (s : State) (h line : Nat) : Bool :=
  s.msgs.any fun m => decide (m.line = line) && (match m.kind with
    | .read req _ _ _ _ | .reply req _ _ _ _ _ | .own req _ _ _ | .grant req _ _ => decide (req = h)
    | _ => false)

/-- R307, R310: the least recently used line of a full set goes where the holder asks for another one of that set; an RDC slice may give
up any copy (DESIGN CHOICE, log entry 87). -/
def State.giveUp (s : State) (h line : Nat) : State :=
  if 8256 ≤ h then s
  else if 8192 ≤ h ∨ (s.victimLine h line = none ∧ (s.setLines h line).length + 1 = holderWays h ∧
      ((mget [] s.recent h).filter fun l => decide (lineSet h l = lineSet h line)).getLast? = some line ∧
      s.msgs.any fun m => decide (lineSet h m.line = lineSet h line) && decide (s.line h m.line = .i) && s.wantsLine h m.line)
  then s.evictLine h line else s

def execHolderEviction (h line : Nat) (s : State) : Host.Outcome State Fault Refusal := .next (s.giveUp h line)

/-- A cut clears the link to the router that evicted; on an entry being torn down that router's NOCOPY ack is still to come
(R324, R327, R328). -/
def State.cutAt (s : State) (r port line : Nat) : State :=
  match (s.router r).entry? line with
  | none => s
  | some e => match e.tear with
    | some _ => s
    | none => s.clearLink r port line e false false

def State.routeCut (s : State) (n : Nat) : State :=
  match s.deliverable n with
  | none => s
  | some m => match m.kind with
    | .cut => (s.dropMsg n).cutAt m.dest m.port m.line
    | _ => s

def execCut (n : Nat) (s : State) : Host.Outcome State Fault Refusal := .next (s.routeCut n)

/-- The victim of a set (R324, R362): the least recently used entry that is not pinned. -/
def Router.victim (R : Router) (set : Nat) : Option TEntry :=
  ((R.inSet set).filter fun e => decide (e.tear = none) && decide (e.pins = 0)).getLast?

/-- An entry outside the geometry that can be evicted now (R329). -/
def Router.leaver (R : Router) : Option TEntry := (R.tree.filter fun e => e.outside && decide (e.tear = none) && decide (e.pins = 0)).getLast?

/-- The ways of a set that evictions are freeing, whomever they answer in the end (R328, R363). -/
def Router.freeing (R : Router) (set : Nat) : Nat := ((R.inSet set).filter fun e => e.tear.any (·.evict)).length

/-- R324: an entry outside the limiter's geometry (R329) goes, or one of a full set, as many as the messages held for its ways. -/
def State.evictEntry (s : State) (r set : Nat) : State :=
  let R := s.router r
  let out (e : TEntry) : State := s.startTear r e .evict none (if e.root = 4 then none else some e.root)
  match R.leaver with
  | some e => out e
  | none =>
    if R.ways < (R.inSet set).length + (s.msgs.filter (s.wants r set)).length - R.freeing set then
      (match R.victim set with
       | some e => out e
       | none => s)
    else s

def execTreeEntryEviction (r set : Nat) (s : State) : Host.Outcome State Fault Refusal := .next (s.evictEntry r set)

/-! ### The store path (R303 to R305) -/

def execStoreBufferToCistern (h : Nat) (s : State) : Host.Outcome State Fault Refusal := .next (s.moveStore h)

/-- A scope that drains the cistern: .die, .dev, .sys (R304). -/
def wideScope (scope : Nat) : Bool := decide (3 ≤ scope)

/-- An outstanding item drains a cistern line: a release, fence or `trig` at a wide scope drains every one, a `cwb` or `cinv` at a wide
scope, an atomic, a `cas` and a `marm` that of their line (R304). -/
def Pend.drains (p : Pend) (line : Nat) : Bool :=
  !p.finished && (match p.work with
    | .mem m =>
      (relOrd m.ord && wideScope m.scope) ||
        ((match m.kind with
          | .atom _ | .cas | .marm => true
          | .cwb | .cinv => wideScope m.scope
          | _ => false) && m.lanes.any fun l => match l.spot with
            | some (.mem pas _) => pas.any fun pa => decide (pa / 128 = line)
            | _ => false)
    | .held (.fence scope ord) => relOrd ord && wideScope scope
    | .held .trig | .held (.dlaunch _ _ _) => true
    | _ => false)

/-- A wait that asks for a release at a wide scope: a service call, `rfh`, a switch-out (R249, R350, R409). -/
def Status.releases : Status → Bool
  | .parked (.svc _ _ _ _ _) | .parked (.saving _) | .parked .leave => true
  | _ => false

/-- A block waits for nothing but its cistern (R295). -/
def State.blockDraining (s : State) (cl : Nat) : Bool :=
  s.blocks.any fun q => decide (q.2.cluster = cl) && q.2.teams.isEmpty && decide ((s.gen? (16 * cl + q.2.gthread)).map (·.status) = some .exited)

/-- A halted context's stores are drained before its halt completes (R356); so are those that a generation change waits for (R402). -/
def State.ctxDraining (s : State) (cl : Nat) : Bool :=
  s.parts.any fun q => q.2.clusters.contains cl && (List.range 16).any fun c =>
    let C := s.ctx (16 * q.1 + c)
    decide (C.mode = .halted) || decide (C.mode = .lost) || decide (C.genWait ≠ [])

/-- R304: a case in which the first entry of a line drains, but for its age. -/
def State.drainCause (s : State) (cl line : Nat) : Bool :=
  let C := s.cluster cl
  (decide (48 ≤ C.cistern.length) && decide ((C.cistern.find? fun e => !e.draining).map (·.line) = some line)) ||
    (s.teams.any fun q => decide (q.1 / 2048 = cl) && (q.2.status.releases || q.2.th.pend.any fun p => p.drains line)) ||
    (s.gens.any fun q => decide (q.1 / 16 = cl) && q.2.th.pend.any fun p => p.drains line) ||
    s.blockDraining cl || s.ctxDraining cl

def execCisternDrain (cl line : Nat) (s : State) : Host.Outcome State Fault Refusal :=
  .next (if s.drainCause cl line then s.drain cl line else s)

/-- R304: an entry that has stood for 2,048 core cycles drains. -/
def State.ageOut (s : State) (cl line : Nat) : State :=
  match (s.cluster cl).cistern.find? fun e => decide (e.line = line) with
  | some e => if e.since + 2048 ≤ s.holderClock e.opener then s.drain cl line else s
  | none => s

def execCisternAgeExpiry (cl line : Nat) (s : State) : Host.Outcome State Fault Refusal := .next (s.ageOut cl line)

/-! ### The limiter and the fabric (R329, R330) -/

/-- R329: the entries that a new geometry does not reach lie outside it: in a set or a way no longer in use, or in a set that their line no
longer maps to. -/
def Router.limit (R : Router) (lg w : Nat) : Router :=
  { R with
    setlg := lg, ways := w
    tree := R.tree.map fun e =>
      let set := e.line % 2 ^ R.setlg
      { e with outside := e.outside || decide (2 ^ lg ≤ set) || decide (w ≤ e.way) || decide (e.line % 2 ^ lg ≠ set) } }

/-- R329: a write outside the limits is ignored whole. -/
def State.writeTclim (s : State) (r v : Nat) : State :=
  let lg := bits v 4 4
  let w := bits v 0 4
  if lg ≤ 9 ∧ 2 ≤ w ∧ w ≤ 8 then s.setRouter r ((s.router r).limit lg w) else s

def State.port (s : State) (n : Nat) : Port := mget ⟨false, 0, 0, 0⟩ s.dev.ports n

/-- The port has trained (R368). -/
def State.portUp (s : State) (n : Nat) : Bool := (s.port n).up

/-- PF0 of the lease holder's port while a lease is held (R371). -/
def State.pf0Ok (s : State) (port : Nat) : Bool := decide (s.dev.leaseState = 1) && decide (s.dev.holder = port) && s.portUp port

/-- R437: the write comes through PF0 of the lease holder's port; while there is none, it is dropped. -/
def execTclimWrite (r : Nat) (v : W64) (s : State) : Host.Outcome State Fault Refusal :=
  .next (if s.pf0Ok s.dev.holder then s.writeTclim r v.toNat else s)

/-- A line's tree and its copies go, from the root (R330). -/
def State.tearLine (s : State) (line : Nat) : State :=
  let r := s.homeRouter line
  match (s.router r).entry? line with
  | some e => if e.tear.isSome then s else s.startTear r e .evict none none
  | none => s

/-- The lines of a tile. -/
def tileLines (tile : Nat) : List Nat := (List.range 32).map (32 * tile + ·)

/-- A write to a tile is under way at the chimney. -/
def State.tileBusy (s : State) (tile : Nat) : Bool := s.tileOps.any fun o => decide (o.line / 32 = tile)

/-- R330: another package reads a line of this one: its bit is set, and the line's holders here share it from now on (R318). -/
def State.tileRead (s : State) (line pkg : Nat) : State :=
  let tile := line / 32
  if s.tileBusy tile then s
  else
    let v := mget 0 s.tiles tile
    let s : State := { s with tiles := mput 0 s.tiles tile (if bitAt v pkg then v else v + 2 ^ pkg) }
    (s.lines.filter fun q => decide (q.1 / 16384 = line) && decide (q.1 % 16384 < 8256)).foldl (fun s q => s.setLine (q.1 % 16384) line q.2.supplied) s

/-- A teardown of the line runs at its root. -/
def State.tearing (s : State) (line : Nat) : Bool :=
  ((s.router (s.homeRouter line)).entry? line).any fun e => e.tear.isSome

/-- R330: another package writes a line. Of this package's memory: the other sharers of the tile are asked to give it up, and the line's
ownership is gained as by an own (R320). Of another package's: the trees of all the tile's lines here go, once no teardown of them runs. A
line that a message kept before it waits for a way of (R363) waits with it. -/
def State.tileWrite (s : State) (line pkg : Nat) : State :=
  if paRemote (128 * line) then
    (if (tileLines (line / 32)).any s.tearing then s else (tileLines (line / 32)).foldl (fun s l => s.tearLine l) s)
  else
    let r := s.homeRouter line
    let e := ((s.router r).entry? line).getD (TEntry.new line 4)
    let v := s.sharers line
    if s.tileBusy (line / 32) ∨ e.tear.isSome ∨ s.canPut s.msgs.length r line = false then s
    else State.startTear { s with tileOps := s.tileOps ++ [⟨line, pkg, if bitAt v pkg then v - 2 ^ pkg else v⟩] } r e (.tile pkg) none none

/-- A teardown for an ownership that only the answers of other packages held back is finished. -/
def State.tileDone (s : State) (line : Nat) : State :=
  let r := s.homeRouter line
  match (s.router r).entry? line with
  | some e => (match e.tear with
    | some t => s.tearOn r e t
    | none => s)
  | none => s

/-- R330: a package has given up a tile, or granted a line of its own memory: its bytes arrive, its bit goes, and what waited for it
goes on. -/
def State.tileAnswer (s : State) (line pkg off : Nat) (bytes : List Byte) : State :=
  let tile := line / 32
  let v := mget 0 s.tiles tile
  let asked := s.tileOps.any fun o => decide (o.line / 32 = tile) && bitAt o.wait pkg
  let home := decide (paRemote (128 * line)) && decide (bits (128 * line) 44 3 = pkg)
  if !bitAt v pkg && !asked && !home then s
  else
    let s := if bytes ≠ [] ∧ off + bytes.length ≤ 4096 then s.perform (4096 * tile + off) bytes else s
    let s : State := { s with
      tiles := mput 0 s.tiles tile (if bitAt v pkg then v - 2 ^ pkg else v)
      tileOps := s.tileOps.map fun o => if o.line / 32 = tile ∧ bitAt o.wait pkg then { o with wait := o.wait - 2 ^ pkg } else o }
    let s := (s.tileOps.filter fun o => decide (o.line / 32 = tile)).foldl (fun s o => s.tileDone o.line) s
    if home then s else { s with away := mkeep (fun l => decide (l / 32 ≠ tile)) s.away }

/-- A package other than this one, that can be reached. -/
def State.foreign (s : State) (pkg : Nat) : Bool := decide (pkg ≠ s.dev.fpkg) && decide (pkg < 8) && !s.cutOff pkg

/-- R419: the tables of the chimney that serves a tile of this package admit a request of partition `by / 8` of package `by % 8`: its route is
valid, and an entry for this package's page set grants that partition the access (DEDUCED, log entry 96). -/
def State.admits (s : State) (who pa : Nat) (write : Bool) : Bool :=
  (s.route (chimneyOf pa) (who % 8)).v && s.aperture (chimneyOf pa) (who / 8) s.dev.fpkg (bits pa 30 11) write

/-- R330: partition `pkg / 8` of package `pkg % 8` asks to write a line of a tile. For memory of this package the request is checked as it
arrives (R419, R420); for other memory its home package has taken it. -/
def execTileWriteFabric (line pkg : Nat) (s : State) : Host.Outcome State Fault Refusal :=
  .next (if s.foreign (pkg % 8) && (paRemote (128 * line) || s.admits pkg (128 * line) true) then s.tileWrite line (pkg % 8) else s)

/-- R330, R419: partition `pkg / 8` of package `pkg % 8` reads a line of this package's memory. -/
def execTileReadFabric (line pkg : Nat) (s : State) : Host.Outcome State Fault Refusal :=
  .next (if s.foreign (pkg % 8) && !paRemote (128 * line) && s.admits pkg (128 * line) false then s.tileRead line (pkg % 8) else s)

/-- R330: another package answers, its copies of a tile gone, with the bytes it had changed from an offset in the tile on. -/
def execTileAnswerFabric (line pkg off : Nat) (bytes : List Byte) (s : State) : Host.Outcome State Fault Refusal :=
  .next (if s.foreign (pkg % 8) then s.tileAnswer line (pkg % 8) off bytes else s)

end Sys2Proof.Machine
end

