-- ==== Sys2Proof/Machine/Reliability.lean ====
section
/-! DEFINITION. Power, clocks and router gating (R425 to R430), errors, poison, sparing and scrubbing (R431 to R435), die loss and
isolation (R360, R427, R436), diagnostics (R437), attestation (R439), device reset (R376, R438). -/

namespace Sys2Proof.Machine

/-! ### Power (R425, R426) -/

/-- Nanoseconds in a millisecond. -/
def msNs : Nat := 1000000

/-- One evaluation of the power controller at a time, with the average it measures, as far as AVG holds it. The clocks follow
(`Dev.clockStep`). -/
def Dev.evalPower (d : Dev) (gtime avg : Nat) : Dev :=
  let a := avg % 65536
  let step := if d.pwrLimit < a ∧ 0 < d.pwrStep then d.pwrStep - 1
    else if 100 * a < 97 * d.pwrLimit ∧ d.pwrStep < 22 then d.pwrStep + 1 else d.pwrStep
  { d with
    pwrAvg := a, pwrStep := step, pwrCap := decide (step < 22), pwrFloor := decide (step = 0) && decide (d.pwrLimit < a), pwrAt := gtime }

/-- R426: the controller evaluates once in every millisecond. -/
def execPowerEvaluation (avg : Nat) (s : State) : Host.Outcome State Fault Refusal :=
  .next (if s.dev.pwrAt + msNs ≤ s.gtime then { s with dev := s.dev.evalPower s.gtime avg } else s)

/-! ### Router power gating (R429, R430) -/

/-- The router holds a read, reply or own, or a flit is on its way to it. -/
def State.routerBusy (s : State) (r : Nat) : Bool := s.msgs.any fun m => decide (m.dest = r)

/-- R429: a router gates when EN is set, no teardown runs in its tree cache and it holds nothing; a waiting flit wins (R430). -/
def State.gateRouter (s : State) (r : Nat) : State :=
  let R := s.router r
  if s.dev.rgateEn && R.tree.all (fun e => e.tear.isNone) && !s.routerBusy r then s.setRouter r { R with gated := true } else s

def execRouterGate (r : Nat) (s : State) : Host.Outcome State Fault Refusal := .next (s.gateRouter r)

/-- R429, R430: a flit, or the clearing of EN, opens it again. -/
def State.wakeRouter (s : State) (r : Nat) : State :=
  if s.routerBusy r || !s.dev.rgateEn then s.setRouter r { s.router r with gated := false } else s

def execRouterWake (r : Nat) (s : State) : Host.Outcome State Fault Refusal := .next (s.wakeRouter r)

/-! ### Leadership of the service pairs in time (R378) -/

/-- The places behind the leader in ring order, from the one at which the successor is sought. -/
def Dev.places (d : Dev) : List Nat := (List.range 7).map fun k => (d.hbNext + k) % 7

/-- The place of the successor: the first one with a healthy pair. -/
def Dev.place? (d : Dev) : Option Nat := d.places.find? fun k => bitAt d.sphealth ((d.hbDie + k + 1) % 8)

/-- The successor of the moment, once 10 ms have passed without an accepted write. -/
def Dev.successor? (d : Dev) : Option Nat := if d.hbStage = 0 then none else d.place?.map fun k => (d.hbDie + k + 1) % 8

/-- Another 10 ms pass: the first pair in ring order becomes the successor, later the one behind the successor. -/
def Dev.beatPasses (d : Dev) : Dev :=
  { d with hbStage := d.hbStage + 1, hbNext := if d.hbStage = 0 then 0 else (d.place?.map fun k => (k + 1) % 7).getD 0 }

/-- So many periods of 10 ms pass. -/
def Dev.beatsPass : Nat → Dev → Dev
  | 0, d => d
  | n + 1, d => d.beatPasses.beatsPass n

/-- R378: the periods of 10 ms that have passed since the last accepted write are counted. -/
def Dev.beatClock (d : Dev) (gtime : Nat) : Dev := d.beatsPass ((gtime - d.hbSince) / (10 * msNs) - d.hbStage)

/-! ### Loss and isolation of a die (R360, R427, R436) -/

/-- A holder of lines on a compute die (R307): an L1 or a Stoker data cache. -/
def holderOnDie (h d : Nat) : Bool := decide (h < 8192) && decide (h / 1024 = d)

/-- R360: the copies of a lost die go, and with the last copy of a line the writes that stood only there; the home slice's values, performed
before them, stand then (`State.settle`). The die's own home slices are off. -/
def State.loseLines (s : State) (d : Nat) : State :=
  let slice (h : Nat) : Bool := decide (8256 ≤ h) && decide ((h - 8256) / 64 = d)
  let s := (s.lines.filter fun q => holderOnDie (q.1 % 16384) d).foldl (fun s q =>
    (s.loseLine (q.1 % 16384) (q.1 / 16384)).deadCopy (q.1 % 16384) (q.1 / 16384) (decide (q.2 = .e) || decide (q.2 = .m))) s
  { s with lines := s.lines.filter fun q => !slice (q.1 % 16384), recent := s.recent.filter fun q => !slice q.1 }

/-- R436: the die is off, its service pair with it; its contexts halt, its clusters leave their partitions, its stores are lost. -/
def State.loseDie (s : State) (d : Nat) : State :=
  if s.dev.off.contains d ∨ 8 ≤ d then s
  else
    let hit := (s.ctxs.map (·.1)).filter fun x => s.usesDie x d
    let v := s.dev.beatClock s.gtime
    let s : State := { s with dev := { v with
      off := d :: s.dev.off
      sphealth := s.dev.sphealth - (if bitAt s.dev.sphealth d then 2 ^ d else 0) } }
    let s := hit.foldl (fun s x => s.haltLine x 0xF 0 0) s
    let s : State := { s with
      parts := s.parts.foldl (fun m q => mput .zero m q.1 { q.2 with clusters := q.2.clusters.filter fun cl => decide (cl / 64 ≠ d) }) []
      sbufs := s.sbufs.filter fun q => decide (q.1 / 1024 ≠ d)
      clusters := s.clusters.foldl (fun m q => mput .zero m q.1 (if q.1 / 64 = d then { q.2 with cistern := [] } else q.2)) [] }
    s.loseLines d

/-! ### Routes to other packages (R421) -/

/-- A request of one for a tile waits for a package. -/
def State.tileAsks (s : State) (line p : Nat) : Bool := s.tileOps.any fun o => decide (o.line = line) && bitAt o.wait p

/-- The contexts that wait for a package: those whose store waits for it to give a line up or to grant one (R330), and those with a
descriptor on its way there (R423). -/
def State.waitsOn (s : State) (p : Nat) : List Nat :=
  ((s.tileOps.filter fun o => bitAt o.wait p).flatMap fun o => match ((s.router (s.homeRouter o.line)).entry? o.line).bind (·.tear) with
    | some t => (match t.why with
      | .own req _ => s.ctxsAt req
      | _ => [])
    | none => []) ++
  (s.dev.eps.filter fun q => q.2.flying.any fun d => decide (leAt d 1 1 = p)).map fun q => 16 * q.2.part + q.2.ctx

/-- R421: an unreachable package leaves every sharer vector, and nothing waits for it any more; the agents of atomics that waited take
cause 0x000F. -/
def State.dropPackage (s : State) (p : Nat) : State :=
  let lines := (s.tiles.filter fun q => bitAt q.2 p).map (fun q => 32 * q.1) ++ (s.tileOps.filter fun o => bitAt o.wait p).map (·.line)
  let hit := (s.atomq.filter fun q => q.asked && s.tileAsks (q.pa / 128) p).map (·.who)
  let s : State := { s with dev := { s.dev with
    eps := s.dev.eps.map fun q => (q.1, { q.2 with flying := q.2.flying.filter fun d => decide (leAt d 1 1 ≠ p) }) } }
  hit.foldl (fun s a => s.fatal a 0xF) (lines.foldl (fun s l => s.tileAnswer l p 0 []) s)

/-- The routes change: a package to which no pair is left now is unreachable, and what waits for it halts (R421). -/
def State.reroute (s : State) (d : Dev) : State :=
  let t : State := { s with dev := d }
  let gone := (List.range 8).filter fun p => t.cutOff p && !s.cutOff p
  let halts := (gone.flatMap s.waitsOn).filter s.inUse
  halts.foldl (fun s x => s.haltLine x 0xF 0 0) (gone.foldl State.dropPackage t)

/-- R421: a pair that fails leaves every FROUTE mask. -/
def State.failPair (s : State) (pair : Nat) : State :=
  if 32 ≤ pair ∨ s.dev.failedPairs.contains pair then s
  else s.reroute { s.dev with
    failedPairs := pair :: s.dev.failedPairs
    froute := s.dev.froute.foldl (fun m q => mput .zero m q.1 (if bitAt q.2.mask pair then { q.2 with mask := q.2.mask - 2 ^ pair } else q.2)) [] }

/-! ### Other dies, the whole package (R427, R436) -/

/-- Chimney die `c`, die 9 + c, is off: its pairs fail, and the contexts that may use it halt: those of a partition that an entry of its
tables admits (DESIGN CHOICE, log entry 97). -/
def State.loseChimney (s : State) (c : Nat) : State :=
  if s.dev.off.contains (9 + c) then s
  else
    let users := (s.ctxs.map (·.1)).filter fun x => s.inUse x && s.dev.faper.any fun e => decide (e.1 / 256 = c) && e.2.v && decide (e.2.part = ctxPart x)
    let s : State := { s with dev := { s.dev with off := (9 + c) :: s.dev.off } }
    users.foldl (fun s x => s.haltLine x 0xF 0 0) ((List.range 8).foldl (fun s i => s.failPair (8 * c + i)) s)

/-- The whole package is out of service (R427, R436): every die is off, the hearth die, number 8, with its RDC lines and the ports. -/
def State.loseAll (s : State) : State :=
  if s.dev.off.contains 8 then s
  else
    let s := (List.range 4).foldl State.loseChimney ((List.range 8).foldl State.loseDie s)
    let s := ((s.ctxs.map (·.1)).filter s.inUse).foldl (fun s x => s.haltLine x 0xF 0 0) s
    let s := (s.lines.filter fun q => decide (8192 ≤ q.1 % 16384)).foldl (fun s q => s.loseLine (q.1 % 16384) (q.1 / 16384)) s
    { s with dev := { s.dev with off := 8 :: s.dev.off, ports := [] } }

/-- R427: the die trips, 8 the hearth die (R436), 9 to 12 a chimney die, or the whole package does. -/
def State.trip (s : State) (die : Option Nat) : State :=
  match die with
  | some d => if d < 8 then s.loseDie d else if d = 8 then s.loseAll else if d < 13 then s.loseChimney (d - 9) else s
  | none => s.loseAll

def execThermalVoltageTrip (die : Option Nat) (s : State) : Host.Outcome State Fault Refusal := .next (s.trip die)

/-- R436: ISOLATE takes the value; a bit newly set isolates its die. -/
def State.writeIsolate (s : State) (v : Nat) : State :=
  let new := (List.range 8).filter fun d => bitAt v d && !bitAt s.dev.isolate d
  new.foldl (fun s d => s.loseDie d) { s with dev := { s.dev with isolate := v % 256 } }

/-! ### Errors (R431 to R435) -/

def Dev.countCe (v : Dev) (d : Nat) : Dev := { v with errCe := raiseCount v.errCe d 32 }

/-- An uncorrectable error is counted for a die (R435). -/
def State.countUe (s : State) (d : Nat) : State := { s with dev := s.dev.countUe d }

/-- A sector of a holder's copy is poisoned; one that the holder has changed is the newest. -/
def State.markCopy (s : State) (h q : Nat) : State :=
  if (s.line h (q / 4)).dirty then { s with poison := q :: s.poison.erase q }
  else { s with cmarks := copyKey h (q / 4) (q % 4) :: s.cmarks.erase (copyKey h (q / 4) (q % 4)) }

/-- Entry `n` of a list of emitted words is poisoned. -/
def badAt (l : List Emitted) (n : Nat) : List Emitted := l.mapIdx fun i e => if i = n then { e with bad := true } else e

/-- Sector `k` of the first cistern entry of a line is poisoned. -/
def State.markCistern (s : State) (cl line k : Nat) : State :=
  let C := s.cluster cl
  match C.cistern.find? fun e => decide (e.line = line) with
  | some e => s.setCluster cl { C with cistern := C.cistern.map fun f => if f = e then { e with marks := k :: e.marks.erase k } else f }
  | none => s

/-- R431: the data is poisoned, or the die whose control arrays fail is isolated. A place that holds nothing is left alone. -/
def State.uncorrectable (s : State) (loc : ErrLoc) : State :=
  match loc with
  | .sector n => if 32 * n < 3 * 2 ^ 39 then (s.markHbm n).countUe (s.lineDie (n / 4)) else s
  | .copy h n => if h < 8256 ∧ s.filled h (n / 4) (n % 4) then (s.markCopy h n).countUe (if h < 8192 then h / 1024 else 8) else s
  | .slice n => if s.line (s.sliceOf (n / 4)) (n / 4) = .i then s else (s.markBehind n).countUe (s.lineDie (n / 4))
  | .cistern cl line k =>
    if k < 4 ∧ ((s.cluster cl).cistern.any fun e => decide (e.line = line)) then (s.markCistern cl line k).countUe (cl / 64) else s
  | .basinWord cl w =>
    if cl < 512 ∧ w < 524288 then
      State.countUe { s with bpoison := (cl * 524288 + w) :: s.bpoison.erase (cl * 524288 + w) } (cl / 64)
    else s
  | .uniform a w => match s.thread? a with
    | some th => if w < 320 then (s.setThread a { th with marks := w :: th.marks.erase w }).countUe (agentCluster a / 64) else s
    | none => s
  | .vector t r l => match s.team? t with
    | some T => if r < T.vregs ∧ l < 32 * T.words then
        (s.setTeam t { T with vmarks := vkey r l :: T.vmarks.erase (vkey r l) }).countUe (t / 131072) else s
    | none => s
  | .acc b c d e => match s.block? b with
    | some B => if B.cores.contains c ∧ d < 8 ∧ e < 4096 then
        (s.setBlock b { B with accMarks := accKey c d (e / 64) (e % 64) :: B.accMarks.erase (accKey c d (e / 64) (e % 64)) }).countUe (c / 512) else s
    | none => s
  | .codeWord c w => if c < 4096 ∧ w < 49152 then
      let C := s.core c
      (s.setCore c { C with codeMarks := w :: C.codeMarks.erase w }).countUe (c / 512) else s
  | .flueWord c n =>
    let C := s.core c
    if n < C.flue.length then (s.setCore c { C with flue := badAt C.flue n }).countUe (c / 512) else s
  | .queueWord c n =>
    let C := s.core c
    if n < C.queue.length then (s.setCore c { C with queue := badAt C.queue n }).countUe (c / 512) else s
  | .control d => if d < 8 then (s.countUe d).loseDie d else if d = 8 then (s.countUe d).loseAll else s
  | .router r => if r < 576 then s.loseAll else s
  | .hearth => s.loseAll

def execUncorrectableError (loc : ErrLoc) (s : State) : Host.Outcome State Fault Refusal := .next (s.uncorrectable loc)

/-- Nanoseconds in an hour. -/
def hourNs : Nat := 3600000000000

/-- A scrub pass ends after SCRUB.HOURS (R434); the counts of the page sets begin anew. -/
def Dev.scrubPass (v : Dev) (gtime : Nat) : Dev :=
  if v.scrubSince + v.scrubHours * hourNs ≤ gtime then { v with scrubSince := gtime, pageCe := [] } else v

/-- R431, R433, R435: an error of an HBM4 sector is corrected: its die counts it, and its page set, reported where that count passes 4,096 in
one scrub pass. -/
def State.corrected (s : State) (n : Nat) : State :=
  let v := s.dev.scrubPass s.gtime
  let ps := 32 * n / 2 ^ 30
  let k := mget 0 v.pageCe ps + 1
  { s with dev := { v.countCe (s.lineDie (n / 4)) with pageCe := mput 0 v.pageCe ps k, rasps := if k = 4097 then ps else v.rasps } }

/-- A correctable error of an on-chip array of a die, 8 the hearth die. -/
def execCorrectableError (die : Nat) (s : State) : Host.Outcome State Fault Refusal :=
  .next (if die < 9 then { s with dev := s.dev.countCe die } else s)

/-- A correctable error of an HBM4 sector that an access reads. -/
def execCorrectableSector (n : Nat) (s : State) : Host.Outcome State Fault Refusal :=
  .next (if 32 * n < 3 * 2 ^ 39 then s.corrected n else s)

/-- R360, R433: a link is lost, and with it the contexts whose traffic crosses it. -/
def State.loseLink (s : State) (link : Nat) : State :=
  if s.dev.lostLinks.contains link then s
  else
    let s : State := { s with dev := { s.dev with lostLinks := link :: s.dev.lostLinks } }
    (s.ctxs.map (·.1)).foldl (fun s x => s.partitionHalt x 0xF) s

/-- R433: one of the die-to-die links takes its spare lane; a second failure is a link loss. -/
def execLinkSpare (link : Nat) (s : State) : Host.Outcome State Fault Refusal :=
  .next (if linkOk link = false then s
    else if s.dev.spared.contains link then s.loseLink link
    else { s with dev := { s.dev with spared := link :: s.dev.spared } })

/-- R434: the scrubber meets a sector that it corrects, or poisons in HBM4: what a home slice or a copy holds is left as it is. -/
def State.scrubSector (s : State) (n : Nat) (bad : Bool) : State :=
  if !s.dev.scrubEn ∨ 3 * 2 ^ 39 ≤ 32 * n then s
  else if bad then (s.markHbm n).countUe (s.lineDie (n / 4))
  else s.corrected n

def execScrub (sector : Nat) (bad : Bool) (s : State) : Host.Outcome State Fault Refusal := .next (s.scrubSector sector bad)

/-- R435: both counts of a die are cleared. -/
def Dev.clearCounts (v : Dev) (d : Nat) : Dev := { v with errUe := merase v.errUe d, errCe := merase v.errCe d }

/-! ### Diagnostics (R437) -/

/-- The TCLIM value of a router (R329). -/
def Router.tclim (R : Router) : Nat := R.setlg * 16 + R.ways

/-- The router that DIAGSEL names. -/
def Dev.diagRouter (v : Dev) : Nat := 24 * bits v.diagsel 10 5 + bits v.diagsel 5 5

/-- What a read of DIAGDATA returns. -/
def State.diagRead (s : State) : W64 :=
  let R := s.router s.dev.diagRouter
  let n := bits s.dev.diagsel 20 12
  match s.dev.diagsel % 32 with
  | 0 => (match (R.inSet (n / 8)).find? fun e => decide (e.way = n % 8) && !e.outside with
    | some e => e.image
    | none => 0)
  | 1 => BitVec.ofNat 64 R.tclim
  | _ => 0

/-- A write of DIAGDATA goes to TCLIM when REG = 1. -/
def State.diagWrite (s : State) (v : Nat) : State := if s.dev.diagsel % 32 = 1 then s.writeTclim s.dev.diagRouter v else s

/-! ### Attestation (R438, R439) -/

/-- Numbers as one number, for a digest. -/
def digestOf (l : List Nat) : Nat := l.foldl (fun x y => x * 2 ^ 64 + y + 1) 0

/-- Lists as one list, each behind its length. -/
def joinLists (ls : List (List Nat)) : List Nat := ls.flatMap fun l => l.length :: l

/-- The fields of the FROUTE and FAPER entries of each chimney die (R418). -/
def Dev.tables (d : Dev) : List Nat :=
  joinLists [d.froute.flatMap fun q => [q.1, b2n q.2.v, q.2.mask],
    d.faper.flatMap fun q => [q.1, b2n q.2.v, b2n q.2.w, b2n q.2.r, q.2.pkg, q.2.part, q.2.first, q.2.last]]

/-- The partition map (R370): clusters and page sets of each partition, binding and ports of each virtual interface. -/
def State.partMap (s : State) : List Nat :=
  joinLists [s.parts.flatMap fun q => q.1 :: b2n q.2.exists_ :: joinLists [q.2.clusters, q.2.pages],
    s.vis.flatMap fun q => [q.1, (q.2.part.map (· + 1)).getD 0, b2n q.2.port0, b2n q.2.port1]]

def Image.zero : Image := ⟨0, 0, 0⟩

/-- What a measurement index is taken over (R439). -/
def State.measured (s : State) (index : Nat) : Nat :=
  let im (k : Nat) : Nat := digestOf [(mget .zero s.dev.images k).version, (mget .zero s.dev.images k).digest]
  if index ≤ 3 then im index
  else if index = 4 then digestOf [s.dev.fuses, s.dev.secver]
  else if index = 5 then digestOf s.dev.tables
  else digestOf s.partMap

/-! ### Device reset (R376, R438) -/

/-- The lowest die whose bit is set. -/
def lowestDie (h : Nat) : Nat := ((List.range 8).find? fun d => bitAt h d).getD 0

/-- R375: an error of each die whose service pair failed its reset self-test. -/
def selfTestErrors (healthy : Nat) : SMap Nat := ((List.range 8).filter fun d => !bitAt healthy d).map fun d => (d, 1)

/-- The images with those staged for this reset in place. -/
def Dev.booted (d : Dev) : SMap Image := d.staged.foldl (fun m q => mput .zero m q.1 q.2) d.images

/-- The security version after a reset: a signed image may raise it (R438). -/
def raised (ims : SMap Image) (secver : Nat) : Nat := ims.foldl (fun k q => max k q.2.asks) secver

/-- The package after a device reset: the reset state, with what survives a reset, the outcome of the self-tests, the images that were
staged, and the outcome of the image check, which also fails below the fused security version. -/
def State.deviceReset (s : State) (healthy : Nat) (verified : Bool) : State :=
  let ims := s.dev.booted
  let ok := verified && ims.all fun q => decide (s.dev.secver ≤ q.2.version)
  { State.reset with
    agenda := s.agenda, free := s.free
    dev := { Dev.reset with
      sphealth := healthy % 256, errUe := selfTestErrors healthy, hbDie := lowestDie (healthy % 256), images := ims, fuses := s.dev.fuses
      secver := if ok then raised ims s.dev.secver else s.dev.secver, verified := ok, identity := s.dev.identity, certs := s.dev.certs } }

def execDeviceReset (healthy : BitVec 8) (verified : Bool) (s : State) : Host.Outcome State Fault Refusal :=
  .next (s.deviceReset healthy.toNat verified)

end Sys2Proof.Machine
end

