-- ==== Sys2Proof/Machine/Attach.lean ====
section
/-! DEFINITION. The host side: ports (R368), partition and device registers (R371, R372, R381, R382, R401 to R405, R413, R425, R435),
the lease (R373, R374), service pairs (R375 to R379), rings and posts (R381 to R383), queue registers (R385), host access to device
memory (R368). -/

namespace Sys2Proof.Machine

/-! ### Who may write (R371, R374, R379) -/

/-- The leading pair, not stopped (R371, R379). -/
def State.leads (s : State) (die : Nat) : Bool := decide (s.dev.hbDie = die) && decide (die < 8) && bitAt s.dev.sphealth die

/-- The port takes traffic to a virtual interface (R370, R374): one that it is enabled on while no lease is held; one that it is enabled
on, or that a takeover has moved there before, during a takeover by the port; every one once the port holds the lease. -/
def State.portServes (s : State) (port v : Nat) : Bool :=
  let V := s.vi v
  let enabled := if port = 0 then V.port0 else decide (port = 1) && V.port1
  match s.dev.leaseState with
  | 0 => enabled
  | 3 => decide (s.dev.taker = some port) && (match s.dev.moved with
    | some m => decide (m = port)
    | none => enabled)
  | _ => decide (s.dev.holder = port)

/-- The virtual interface answers on the port (R370, R374, R438). -/
def State.viServes (s : State) (port v : Nat) : Bool :=
  decide (1 ≤ v) && decide (v ≤ 64) && (s.vi v).part.isSome && s.portUp port && s.portServes port v && s.dev.verified

/-- Requests to PF0 on the port that a takeover has fenced off complete with Unsupported Request (R374). -/
def State.pf0Fenced (s : State) (port : Nat) : Bool := decide (s.dev.leaseState = 3) && decide (s.dev.taker ≠ some port)

/-- A request to PF0 on a port (R368, R374): none arrives on a port that is down, and none is served on one fenced off. -/
def State.onPf0 (s : State) (port : Nat) (f : State) : State :=
  if s.portUp port = false then s else if s.pf0Fenced port then s.emitOut (.unsupported port) else f

/-! ### Ports (R368) -/

/-- A port trains at a listed rate and width, or stays down, as it does on a package out of service (R436). -/
def State.train (s : State) (port width rate cxl : Nat) : State :=
  if 2 ≤ port then s
  else
    let ok := !s.dev.off.contains 8 && (decide (width = 16) || decide (width = 8)) && decide (4 ≤ rate) && decide (rate ≤ 6)
    let x : Port := if ok then ⟨true, width, rate, if cxl = 31 ∨ cxl = 20 then cxl else 0⟩ else ⟨false, 0, 0, 0⟩
    { s with dev := { s.dev with ports := mput ⟨false, 0, 0, 0⟩ s.dev.ports port x } }

def execPortTraining (port width rate cxl : Nat) (s : State) : Host.Outcome State Fault Refusal := .next (s.train port width rate cxl)

/-! ### The lease (R373, R374) -/

/-- A write counts: the current EPOCH, exactly one of TAKE and RENEW. -/
def Dev.leaseCounts (d : Dev) (v : Nat) : Bool := decide (bits v 32 32 = d.epoch) && (bitAt v 0 != bitAt v 1)

/-- RENEW (R373). -/
def State.renewLease (s : State) (port v : Nat) : State :=
  let d := s.dev
  if d.leaseCounts v && bitAt v 0 && decide (d.leaseState = 1) && decide (d.holder = port) && decide (bits v 16 16 ≠ 0) then
    { s with dev := { d with renewed := s.gtime, period := bits v 16 16 } }
  else s

def execLeaseRenew (port : Nat) (v : W64) (s : State) : Host.Outcome State Fault Refusal :=
  .next (s.onPf0 port (s.renewLease port v.toNat))

/-- TAKE: step 1 of R374. -/
def State.takeLease (s : State) (port v : Nat) : State :=
  let d := s.dev
  let per := bits v 16 16
  let free := decide (d.leaseState = 0) || decide (d.leaseState = 2)
  let forced := decide (d.leaseState = 1) && decide (d.holder ≠ port) && decide (per = 0)
  if d.leaseCounts v && bitAt v 1 && decide (port < 2) && (free || forced) then
    { s with dev := { d with leaseState := 3, taker := some port, period := if per = 0 then d.period else per } }
  else s

def execLeaseTake (port : Nat) (v : W64) (s : State) : Host.Outcome State Fault Refusal :=
  .next (s.onPf0 port (s.takeLease port v.toNat))

/-- Steps 3 and 4 of R374: interrupts move to the new port, with the doorbells of every virtual interface (`State.portServes`), the lease
is held. -/
def State.finishTake (s : State) : State :=
  match s.dev.leaseState, s.dev.taker with
  | 3, some q =>
    { s with dev := { s.dev with
      irqs := s.dev.irqs.map fun i => { i with port := q }, epoch := (s.dev.epoch + 1) % 2 ^ 32, holder := q, leaseState := 1
      taker := none, moved := some q, renewed := s.gtime } }
  | _, _ => s

def execLeaseTakeoverComplete (s : State) : Host.Outcome State Fault Refusal := .next s.finishTake

/-- R373: the timer reaches PERIOD; vector 0 of PF0 on both ports. -/
def State.expireLease (s : State) : State :=
  let d := s.dev
  if d.leaseState = 1 ∧ d.renewed + d.period * msNs ≤ s.gtime then
    { s with dev := { d with leaseState := 2, irqs := d.irqs ++ [⟨0, 0, 0⟩, ⟨0, 0, 1⟩] } }
  else s

def execLeaseExpiry (s : State) : Host.Outcome State Fault Refusal := .next s.expireLease

/-- A write to LEASE from a port. -/
def State.writeLease (s : State) (port v : Nat) : State := if bitAt v 1 then s.takeLease port v else s.renewLease port v

/-! ### Heartbeat and leadership (R375, R376, R378) -/

/-- The heartbeat of the leader is taken. -/
def State.beat (s : State) (die v : Nat) : State :=
  let d := s.dev
  if s.leads die && decide (bits v 32 32 = d.hbTerm) && decide (v % 8 = die) then
    { s with dev := { d with hbCount := bits v 8 24, hbStage := 0, hbNext := 0, hbSince := s.gtime } }
  else s

def execHeartbeat (die : Nat) (v : W64) (s : State) : Host.Outcome State Fault Refusal := .next (s.beat die v.toNat)

def State.beatTimeout (s : State) : State := { s with dev := s.dev.beatClock s.gtime }

def execHeartbeatTimeout (s : State) : Host.Outcome State Fault Refusal := .next s.beatTimeout

/-- The takeover write of the successor is taken. -/
def State.takeLead (s : State) (die v : Nat) : State :=
  let d := s.dev.beatClock s.gtime
  if decide (d.successor? = some die) && decide (bits v 32 32 = (d.hbTerm + 1) % 2 ^ 32) && decide (v % 8 = die) then
    { s with dev := { d with
      hbTerm := (d.hbTerm + 1) % 2 ^ 32, hbCount := bits v 8 24, hbDie := die, hbStage := 0, hbNext := 0, hbSince := s.gtime } }
  else s

def execLeaderTakeover (die : Nat) (v : W64) (s : State) : Host.Outcome State Fault Refusal := .next (s.takeLead die v.toNat)

/-- A write to HBEAT by a pair: a heartbeat, or a takeover (R378). -/
def State.writeHbeat (s : State) (die v : Nat) : State := if bits v 32 32 = s.dev.hbTerm then s.beat die v else s.takeLead die v

/-- R375: a mismatch stops the pair and counts as an error of its die. -/
def State.pairFails (s : State) (d : Nat) : State :=
  if bitAt s.dev.sphealth d ∧ d < 8 then
    let v := (s.dev.beatClock s.gtime).countUe d
    { s with dev := { v with sphealth := v.sphealth - 2 ^ d } }
  else s

def execLockstepMismatch (die : Nat) (s : State) : Host.Outcome State Fault Refusal := .next (s.pairFails die)

/-! ### Rings and posts (R381 to R383) -/

/-- A write to RSIZE or HRSIZE: ignored whole for an LG that is not listed. -/
def Ring.writeSize (r : Ring) (v : Nat) : Ring :=
  let lg := v % 32
  if lg = 0 ∨ (6 ≤ lg ∧ lg ≤ 24) then { r with lg := lg, ctx := bits v 8 4 } else r

/-- The units of a record are written from unit index `i` on; a write that faults makes none of them. -/
def State.writeUnits (s : State) (ctx : Nat) (r : Ring) : Nat → Nat → List Byte → Except Nat State
  | 0, _, _ => .ok s
  | f + 1, i, bs =>
    if bs = [] then .ok s
    else do
      let s1 ← s.writeVa ctx 2 (r.base.toNat + 64 * (i % 2 ^ r.lg)) (bs.take 64)
      s1.writeUnits ctx r f (i + 1) (bs.drop 64)

/-- R381: the first record that waits for a servicer goes into its ring, and PI advances; a host ring raises vector 1 (R372). -/
def State.postRecord (s : State) (p : Nat) (host : Bool) : State :=
  let s := s.tellHalts p
  match (s.part p).waiting.find? (fun r => decide (r.host = host)), s.ringOf p host with
  | some rcd, some (v, r) =>
    let n := (rcd.bytes.length + 63) / 64
    if r.room n = false then s
    else (match s.writeUnits (16 * p + r.ctx) r (n + 1) r.pi rcd.bytes with
      | .error _ => s
      | .ok s =>
        let P := s.part p
        let r' := { r with pi := (r.pi + n) % 2 ^ 32 }
        let P := { P with waiting := P.waiting.erase rcd, posted := P.posted ++ [⟨v, r.pi, rcd⟩] }
        if host then ((s.setPart p P).setVi v { s.vi v with ring := r' }).raiseIrq v 1 else s.setPart p { P with ring := r' })
  | _, _ => s

/-- `vi` names the host ring, none the partition's own. -/
def execRingRecordPost (p : Nat) (vi : Option Nat) (s : State) : Host.Outcome State Fault Refusal :=
  .next (if vi.isNone ∨ (s.ringOf p true).map (·.1) = vi then s.postRecord p vi.isSome else s)

/-- Bytes of the word a generator stands at, 8 where none can be read (R353, R383). -/
def State.genWordLen (s : State) (ctx : Nat) (pc : W64) : Nat :=
  match s.fetchGen ctx pc with
  | .ok (b :: _) => (wordBytes b).getD 8
  | _ => 8

/-- The answer to a fault record (R352, R353, R383); none where the ACT is not accepted for the KIND. -/
def State.answerRecord (s : State) (r : SvcRec) (act : Nat) : Option State :=
  match r.who, r.kind with
  | .team t, k =>
    if act = 0 ∧ k < 2 then
      some (match s.team? t with
        | some T => (match T.status with
          | .switchedOut n w _ => s.setTeam t { T with status := .switchedOut n w true }
          | .parked (.called n d lanes _) => s.setTeam t { T with status := .parked (.called n d lanes true) }
          | _ => s)
        | none => s)
    else if act = 1 ∧ k = 1 then some (s.fatal (.team t) 4)
    else none
  | .gen g, _ =>
    if act < 2 ∨ 4 < act then none
    else some (match s.gen? g with
      | none => s
      | some G =>
        if G.status ≠ .parked .answer then s
        else if act = 2 then s.setGen g { G with status := .ready, faulted := none }
        else if act = 3 then
          s.setGen g { G with status := .ready, faulted := none, emitting := none, th := G.th.adv (s.genWordLen G.ctx G.th.pc) }
        else s.fatal (.gen g) (G.faulted.getD 0))
  | .halt _, _ => if act = 0 then some s else none

/-- R383: a post answers the record that begins at its unit, once. -/
def State.post (s : State) (p v value : Nat) : State :=
  match (s.part p).posted.find? fun x => decide (x.vi = v) && decide (x.unit = value % 2 ^ 32) with
  | none => s
  | some x => match s.answerRecord x.rcd (bits value 32 8) with
    | none => s
    | some s' => s'.setPart p { s'.part p with posted := (s'.part p).posted.erase x }

/-! ### Context registers (R401 to R406, R413) -/

/-- Stores on their way in the clusters of a partition: holder and line. -/
def State.storesLeft (s : State) (p : Nat) : List (Nat × Nat) :=
  (s.part p).clusters.flatMap fun cl =>
    ((List.range 9).flatMap fun n => (s.sbuf (16 * cl + n)).map fun e => (16 * cl + n, e.sector / 4)) ++
      (s.cluster cl).cistern.map fun e => (16 * cl + 15, e.line)

/-- R402: a differing value starts a generation change. -/
def State.writeGen (s : State) (p c v : Nat) : State :=
  let ctx := 16 * p + c
  if (s.ctx ctx).gen = v % 2 ^ 32 then s
  else
    let s := s.newGen ctx (v % 2 ^ 32)
    s.setCtx ctx { s.ctx ctx with genWait := s.storesLeft p }

/-- A store on its way then has been performed. -/
def State.storeGone (s : State) (x : Nat × Nat) : Bool :=
  (s.sbuf x.1).all (fun e => decide (e.sector / 4 ≠ x.2)) && (s.cluster (x.1 / 16)).cistern.all fun e => decide (e.line ≠ x.2)

/-- A thread has an access that was translated under an earlier generation and is not performed (R402). -/
def Thread.oldAccess (th : Thread) (seq : Nat) : Bool :=
  th.pend.any fun p => match p.work with
    | .mem m => m.lanes.any fun l => l.spot.isSome && decide (l.gen ≠ seq) && (match l.stage with
      | .checked | .sent => true
      | _ => false)
    | _ => false

/-- The agents of a context that a lost die has not taken hold such an access. -/
def State.oldAccesses (s : State) (ctx seq : Nat) : Bool :=
  (s.teams.any fun q => decide (q.2.ctx = ctx) && !s.dev.off.contains (q.1 / 131072) && q.2.th.oldAccess seq) ||
    s.gens.any fun q => decide (q.2.ctx = ctx) && !s.dev.off.contains (q.1 / 1024) && q.2.th.oldAccess seq

/-- R402: every die has the new generation and earlier accesses are performed at device scope; a lost die does not count. -/
def State.genDone (s : State) (p c : Nat) : State :=
  let ctx := 16 * p + c
  let C := s.ctx ctx
  if !s.oldAccesses ctx C.genSeq && C.genWait.all fun x => s.dev.off.contains (x.1 / 1024) || s.storeGone x then
    s.setCtx ctx { C with gendone := C.gen, genWait := [] }
  else s

def execGenerationDone (p c : Nat) (s : State) : Host.Outcome State Fault Refusal := .next (s.genDone p c)

/-- Code stores that hold the handler image of a context hold none from now on: the next block copies it anew (R349, R406). -/
def State.forgetImage (s : State) (ctx : Nat) : State :=
  { s with cores := s.cores.foldl (fun m q => mput .zero m q.1 { q.2 with himg := q.2.himg.filter fun x => decide (x.1 ≠ ctx) }) [] }

/-- The context has a running or parked agent: a team, a generator thread, an engine with words or jobs of it (R3). -/
def State.ctxLive (s : State) (ctx : Nat) : Bool :=
  (s.teams.any fun q => decide (q.2.ctx = ctx) && q.2.status.active) || (s.gens.any fun q => decide (q.2.ctx = ctx) && q.2.status.active) ||
    s.cores.any fun q => s.queueActive q.1 ctx

/-- R405, R406: dropped while the context has a running or parked agent; with V = 1 the record is read, and a context that has run
reads it again when it next runs. -/
def State.writeCtxrec (s : State) (p c : Nat) (v : W64) : State :=
  let ctx := 16 * p + c
  let C := s.ctx ctx
  if s.ctxLive ctx then s
  else
    let v' : W64 := v &&& 0x8000FFFFFFFFFFC0
    let C := { C with ctxrec := v', mode := if C.mode = .running then .idle else C.mode }
    let s := (s.forgetImage ctx).setCtx ctx C
    if v'.getLsbD 63 then s.setCtx ctx { C with acc := s.readCtxRec ctx } else s

/-- The bytes of a pool frame are zeroed behind every cache (R403): its lines leave every cache and tree. -/
def State.zeroFrame (s : State) (pa : Nat) : State :=
  let lo := pa / 128
  let mine (l : Nat) : Bool := decide (lo ≤ l) && decide (l < lo + 512)
  let s : State := { s with
    mem := mkeep (fun k => decide (k < pa) || decide (pa + 65536 ≤ k)) s.mem
    poison := s.poison.filter fun q => !mine (q / 4)
    hpoison := s.hpoison.filter fun q => !mine (q / 4)
    umarks := s.umarks.filter fun q => !mine (q / 4)
    homes := s.homes.filter fun q => !mine q.1
    under := s.under.filter fun q => !mine (q.1 / 128)
    hostLines := s.hostLines.filter fun l => !mine l
    resv := s.resv.filter fun q => !mine (q.2 - 1)
    routers := s.routers.foldl (fun m q => mput .zero m q.1 { q.2 with tree := q.2.tree.filter fun e => !mine e.line }) [] }
  let held := s.lines.filter fun q => mine (q.1 / 16384)
  held.foldl (fun s q => s.loseLine (q.1 % 16384) (q.1 / 16384)) s

/-- R403: a frame enters the pool; dropped for a full ring, LG = 0 or a reserved bit. -/
def State.pushFrame (s : State) (p v : Nat) : State :=
  let P := s.part p
  let take := leNat (s.memRd P.ftpbase 8)
  let put := leNat (s.memRd (P.ftpbase + 8) 8)
  if P.ftplg = 0 ∨ v % 65536 ≠ 0 ∨ 2 ^ 48 ≤ v ∨ 2 ^ P.ftplg ≤ (2 ^ 64 + put - take) % 2 ^ 64 then s
  else
    let s := s.zeroFrame v
    (s.perform (P.ftpbase + 64 + 8 * (put % 2 ^ P.ftplg)) (natLe 8 v)).perform (P.ftpbase + 8) (natLe 8 (put + 1))

/-- R413: a write of 1 to V clears the error record. -/
def State.clearErr (s : State) (p v : Nat) : State :=
  if bitAt v 63 then
    s.setPart p { s.part p with err0v := false, err0lost := false, err0cause := 0, err1loc := 0, err1cid := 0, err2 := 0, err3 := 0 }
  else s

/-! ### The partition registers (R371, R381, R401, R403, R405, R413) -/

/-- The registers a host writes through PF0 alone. -/
def Part.writeHost (P : Part) (off v : Nat) : Part :=
  if off = 0 then { P with ft := bitAt v 0, svc := bitAt v 1, lo := bitAt v 2, ps := bitAt v 3, er := bitAt v 4 }
  else if off = 8 then (if 1000 ≤ v % 2 ^ 32 then { P with wdtime := v % 2 ^ 32 } else P)
  else if off = 0x10 then (if 100 ≤ v % 2 ^ 32 ∧ v % 2 ^ 32 ≤ 1000000 then { P with pdeadline := v % 2 ^ 32 } else P)
  else P

/-- The ring registers, which the leading pair alone writes. -/
def Part.writeRing (P : Part) (off : Nat) (v : W64) : Part :=
  if off = 0x18 then { P with ring := { P.ring with base := v } }
  else if off = 0x20 then { P with ring := P.ring.writeSize v.toNat }
  else if off = 0x30 then { P with ring := { P.ring with ci := v.toNat % 2 ^ 32 } }
  else P

/-- The pool registers. -/
def Part.writePool (P : Part) (off v : Nat) : Part :=
  if off = 0x40 then { P with ftpbase := v % 2 ^ 48 }
  else if off = 0x48 then (if v % 32 = 0 ∨ (4 ≤ v % 32 ∧ v % 32 ≤ 20) then { P with ftplg := v % 32 } else P)
  else P

/-- A write inside a partition's block, by PF0 of the holder's port (`host`) or by the leading pair. -/
def State.writePart (s : State) (host : Bool) (p off : Nat) (v : W64) : State :=
  if off < 0x18 then (if host then s.setPart p ((s.part p).writeHost off v.toNat) else s)
  else if off = 0x38 then (if host then s else s.post p 0 v.toNat)
  else if off < 0x38 then (if host then s else s.setPart p ((s.part p).writeRing off v))
  else if off = 0x50 then s.pushFrame p v.toNat
  else if off < 0x58 then s.setPart p ((s.part p).writePool off v.toNat)
  else if 0x80 ≤ off ∧ off < 0x100 then (if off % 8 = 0 then s.writeGen p ((off - 0x80) / 8) v.toNat else s)
  else if 0x180 ≤ off ∧ off < 0x200 then (if off % 8 = 0 then s.writeCtxrec p ((off - 0x180) / 8) v else s)
  else if off = 0x200 then (if host then s.clearErr p v.toNat else s)
  else s

/-! ### The device registers (R373, R378, R425, R435, R437) -/

/-- A write through PF0 of the lease holder's port. -/
def State.writeDev (s : State) (off v : Nat) : State :=
  let d := s.dev
  if off = 0x40000 then
    (if 2500 ≤ v % 65536 ∧ v % 65536 ≤ 6200 ∧ 1 ≤ bits v 16 8 ∧ bits v 16 8 ≤ 100 then
      { s with dev := { d with pwrLimit := v % 65536, pwrWindow := bits v 16 8 } } else s)
  else if off = 0x40010 then
    (if 256 ≤ v % 65536 then { s with dev := { d with rgateIdle := v % 65536, rgateEn := bitAt v 16 } } else s)
  else if off = 0x40100 then
    (if 1 ≤ v % 65536 ∧ v % 65536 ≤ 720 then { s with dev := { d with scrubHours := v % 65536, scrubEn := bitAt v 16 } } else s)
  else if 0x40108 ≤ off ∧ off ≤ 0x40148 then (if off % 8 = 0 then { s with dev := d.clearCounts ((off - 0x40108) / 8) } else s)
  else if off = 0x40150 then s.writeIsolate v
  else if off = 0x40160 then
    { s with dev := { d with diagsel := bits v 20 12 * 2 ^ 20 + bits v 5 10 * 2 ^ 5 + v % 32 } }
  else if off = 0x40168 then s.diagWrite v
  else s

/-- A pair that has not been stopped (R375). -/
def State.pairRuns (s : State) (die : Nat) : Bool := decide (die < 8) && bitAt s.dev.sphealth die

/-- A write to PF0 BAR 2 (R371, R377). -/
def State.writeBar2 (s : State) (w : Writer) (off : Nat) (v : W64) : State :=
  match w with
  | .pf0 port =>
    s.onPf0 port (
      if off = 0x40180 then s.writeLease port v.toNat
      else if s.pf0Ok port = false then s
      else if off < 0x40000 then s.writePart true (off / 0x1000) (off % 0x1000) v
      else s.writeDev off v.toNat)
  | .pair die =>
    if off = 0x40188 then (if s.pairRuns die then s.writeHbeat die v.toNat else s)
    else if s.leads die ∧ off < 0x40000 then s.writePart false (off / 0x1000) (off % 0x1000) v
    else s
  | .vi _ _ => s

/-! ### The registers of a virtual interface (R382, R385) -/

/-- QCTL (R385). -/
def Queue.writeCtl (Q : Queue) (v : Nat) : Queue :=
  let lg := bits v 2 5
  if lg < 4 ∨ 16 < lg then Q
  else if Q.en then (if bitAt v 0 then Q else { Q with en := false, err := 0, ci := 0, pi := 0 })
  else { Q with ctx := bits v 8 4, lg := lg, fmt := bitAt v 1, en := bitAt v 0 }

/-- QPI: the doorbell (R385). -/
def Queue.ring (Q : Queue) (v : Nat) : Queue := { Q with pi := v % 2 ^ 32 }

/-- A write to BAR 0 of a virtual interface. -/
def State.writeBar0 (s : State) (v off : Nat) (x : W64) : State :=
  let V := s.vi v
  if off < 0x800 then
    s.onQueue v (off / 0x40) fun Q =>
      if off % 0x40 = 0 then (if Q.en then Q else { Q with base := x })
      else if off % 0x40 = 8 then Q.writeCtl x.toNat
      else if off % 0x40 = 0x10 then Q.ring x.toNat
      else Q
  else if off = 0x800 then s.setVi v { V with ring := { V.ring with base := x } }
  else if off = 0x808 then s.setVi v { V with ring := V.ring.writeSize x.toNat }
  else if off = 0x818 then s.setVi v { V with ring := { V.ring with ci := x.toNat % 2 ^ 32 } }
  else if off = 0x820 then (match V.part with
    | some p => s.post p v x.toNat
    | none => s)
  else s

/-- A request to a virtual interface on a port: one that does not answer there completes it with Unsupported Request. -/
def State.onVi (s : State) (port v : Nat) (f : State) : State :=
  if s.portUp port = false then s else if s.viServes port v then f else s.emitOut (.unsupported port)

def State.viWrite (s : State) (port v off : Nat) (x : W64) : State := s.onVi port v (s.writeBar0 v off x)

/-! ### Partitions and their virtual interfaces (R370) -/

/-- A context of the partition runs. -/
def State.partRuns (s : State) (p : Nat) : Bool :=
  (List.range 16).any fun c => match (s.ctx (16 * p + c)).mode with
    | .running | .preempting | .debugHalted => true
    | _ => false

/-- A set of clusters and page sets that a partition may have: whole clusters, at least one, and page sets, none of them another
partition's, and no cluster of a lost die (R436). -/
def State.shapeOk (s : State) (p : Nat) (clusters pages : List Nat) : Bool :=
  decide clusters.Nodup && decide pages.Nodup && decide (clusters ≠ []) &&
    clusters.all (fun c => decide (c < 512) && !s.dev.off.contains (c / 64)) && pages.all (fun g => decide (g < 1536)) &&
    s.parts.all fun q => decide (q.1 = p) || (clusters.all (fun c => !q.2.clusters.contains c) && pages.all fun g => !q.2.pages.contains g)

/-- Through PF0 of the lease holder's port a partition is created, resized or removed. -/
def State.shapePart (s : State) (port p : Nat) (clusters pages : List Nat) : State :=
  let gone := decide (clusters = []) && decide (pages = [])
  if s.pf0Ok port && decide (p < 64) && !s.partRuns p && (gone || s.shapeOk p clusters pages) then
    s.setPart p { s.part p with exists_ := !gone, clusters := clusters, pages := pages }
  else s

/-- Through PF0 of the lease holder's port a virtual interface is bound to a partition, or to none, and enabled on ports. -/
def State.bindVi (s : State) (port v : Nat) (p : Option Nat) (port0 port1 : Bool) : State :=
  let old := (s.vi v).part
  if s.pf0Ok port && decide (1 ≤ v) && decide (v ≤ 64) && !old.any s.partRuns && !p.any s.partRuns && p.all (fun x => (s.part x).exists_) then
    s.setVi v { s.vi v with part := p, port0 := port0, port1 := port1 }
  else s

def execRpost (w : Writer) (p : Nat) (v : W64) (s : State) : Host.Outcome State Fault Refusal :=
  .next (s.writeBar2 w (0x1000 * (p % 64) + 0x38) v)

def execHrpost (port vi : Nat) (v : W64) (s : State) : Host.Outcome State Fault Refusal := .next (s.viWrite port vi 0x820 v)

def execQctlWrite (port vi q : Nat) (v : W64) (s : State) : Host.Outcome State Fault Refusal :=
  .next (s.viWrite port vi (0x40 * (q % 32) + 8) v)

def execQpiDoorbell (port vi q : Nat) (v : W64) (s : State) : Host.Outcome State Fault Refusal :=
  .next (s.viWrite port vi (0x40 * (q % 32) + 0x10) v)

def execCtxgenWrite (w : Writer) (p c : Nat) (v : W64) (s : State) : Host.Outcome State Fault Refusal :=
  .next (s.writeBar2 w (0x1000 * (p % 64) + 0x80 + 8 * (c % 16)) v)

def execFtppush (w : Writer) (p : Nat) (v : W64) (s : State) : Host.Outcome State Fault Refusal :=
  .next (s.writeBar2 w (0x1000 * (p % 64) + 0x50) v)

def execCtxrecWrite (w : Writer) (p c : Nat) (v : W64) (s : State) : Host.Outcome State Fault Refusal :=
  .next (s.writeBar2 w (0x1000 * (p % 64) + 0x180 + 8 * (c % 16)) v)

def execErr0Clear (w : Writer) (p : Nat) (v : W64) (s : State) : Host.Outcome State Fault Refusal :=
  .next (s.writeBar2 w (0x1000 * (p % 64) + 0x200) v)

def execErrcntWrite (w : Writer) (d : Nat) (s : State) : Host.Outcome State Fault Refusal :=
  .next (s.writeBar2 w (0x40108 + 8 * (d % 9)) 0)

def execIsolate (w : Writer) (v : W64) (s : State) : Host.Outcome State Fault Refusal := .next (s.writeBar2 w 0x40150 v)

/-! ### Reading registers -/

/-- The value of a register in a partition's block. -/
def State.readPart (s : State) (p off : Nat) : Nat :=
  let P := s.part p
  let c := s.ctx (16 * p + off % 0x80 / 8)
  if off = 0 then b2n P.ft + 2 * b2n P.svc + 4 * b2n P.lo + 8 * b2n P.ps + 16 * b2n P.er
  else if off = 8 then P.wdtime
  else if off = 0x10 then P.pdeadline
  else if off = 0x18 then P.ring.base.toNat
  else if off = 0x20 then P.ring.ctx * 256 + P.ring.lg
  else if off = 0x28 then P.ring.pi
  else if off = 0x30 then P.ring.ci
  else if off = 0x40 then P.ftpbase
  else if off = 0x48 then P.ftplg
  else if off = 0x58 then (2 ^ 64 + leNat (s.memRd (P.ftpbase + 8) 8) - leNat (s.memRd P.ftpbase 8)) % 2 ^ 64
  else if 0x80 ≤ off ∧ off < 0x100 then (if off % 8 = 0 then c.gen else 0)
  else if 0x100 ≤ off ∧ off < 0x180 then (if off % 8 = 0 then c.gendone else 0)
  else if 0x180 ≤ off ∧ off < 0x200 then (if off % 8 = 0 then c.ctxrec.toNat else 0)
  else if off = 0x200 then b2n P.err0v * 2 ^ 63 + b2n P.err0lost * 2 ^ 32 + P.err0cause
  else if off = 0x208 then P.err1loc * 65536 + P.err1cid
  else if off = 0x210 then P.err2.toNat
  else if off = 0x218 then P.err3
  else 0

/-- The value of a register of PF0 BAR 2; an offset beyond the registers reads zero (R377). -/
def State.readBar2 (s : State) (off : Nat) : W64 :=
  let d := s.dev
  if off = 0x40168 then s.diagRead
  else BitVec.ofNat 64 (
    if off < 0x40000 then s.readPart (off / 0x1000) (off % 0x1000)
    else if off = 0x40000 then d.pwrWindow * 65536 + d.pwrLimit
    else if off = 0x40008 then b2n d.pwrFloor * 2 ^ 33 + b2n d.pwrCap * 2 ^ 32 + d.pwrStep * 65536 + d.pwrAvg
    else if off = 0x40010 then b2n d.rgateEn * 65536 + d.rgateIdle
    else if off = 0x40100 then b2n d.scrubEn * 65536 + d.scrubHours
    else if 0x40108 ≤ off ∧ off ≤ 0x40148 then
      (if off % 8 = 0 then mget 0 d.errUe ((off - 0x40108) / 8) * 2 ^ 32 + mget 0 d.errCe ((off - 0x40108) / 8) else 0)
    else if off = 0x40150 then d.isolate
    else if off = 0x40158 then d.rasps
    else if off = 0x40160 then d.diagsel
    else if off = 0x40180 then d.epoch * 2 ^ 32 + d.period * 2 ^ 16 + d.leaseState * 64 + d.holder * 16
    else if off = 0x40188 then d.hbTerm * 2 ^ 32 + d.hbCount * 256 + d.hbDie
    else if off = 0x40190 then d.sphealth
    else 0)

/-- The value of a register of BAR 0 of a virtual interface (R382, R385). -/
def State.readBar0 (s : State) (v off : Nat) : W64 :=
  let V := s.vi v
  let Q := V.queue (off / 0x40)
  if off < 0x800 then
    if off % 0x40 = 0 then Q.base
    else BitVec.ofNat 64 (
      if off % 0x40 = 8 then Q.ctx * 256 + Q.lg * 4 + b2n Q.fmt * 2 + b2n Q.en
      else if off % 0x40 = 0x10 then Q.pi
      else if off % 0x40 = 0x18 then Q.ci
      else if off % 0x40 = 0x20 then Q.err
      else 0)
  else if off = 0x800 then V.ring.base
  else BitVec.ofNat 64 (
    if off = 0x808 then V.ring.ctx * 256 + V.ring.lg
    else if off = 0x810 then V.ring.pi
    else if off = 0x818 then V.ring.ci
    else 0)

/-- A read: of PF0 BAR 2 by either port (R377) or by a pair that has not been stopped, of BAR 0 by a virtual interface. -/
def State.readReg (s : State) (w : Writer) (off : Nat) : State :=
  match w with
  | .pf0 port => s.onPf0 port (s.emitOut (.reg off (s.readBar2 off)))
  | .pair die => if s.pairRuns die then s.emitOut (.reg off (s.readBar2 off)) else s
  | .vi port v => s.onVi port v (s.emitOut (.reg off (s.readBar0 v off)))

/-- The partition registers of R371 as a virtual interface sees them, read-only (R370). -/
def State.viewPart (s : State) (v off : Nat) : W64 :=
  match (s.vi v).part with
  | some p => if off < 0x18 then BitVec.ofNat 64 (s.readPart p off) else 0
  | none => 0

/-- A write to the registers: BAR 0 of a virtual interface or PF0 BAR 2. -/
def State.regWrite (s : State) (w : Writer) (off : Nat) (v : W64) : State :=
  match w with
  | .vi port k => s.viWrite port k off v
  | w => s.writeBar2 w off v

def execRegisterWrite (w : Writer) (off : Nat) (v : W64) (s : State) : Host.Outcome State Fault Refusal := .next (s.regWrite w off v)

/-- R438: an image of R439 waits for the next reset. -/
def State.stageImage (s : State) (k : Nat) (x : Image) : State :=
  if 1 ≤ k ∧ k ≤ 3 then { s with dev := { s.dev with staged := mput .zero s.dev.staged k x } } else s

/-- Who drives the rings of an endpoint, 16 × its partition + its number (R422): the service kernel, on the leading pair, or a host through a
virtual interface of the partition. The rings' registers are not given (DESIGN CHOICE, log entry 98). -/
def State.onEndpoint (s : State) (w : Writer) (e : Nat) (f : State) : State :=
  match w with
  | .pair die => if s.leads die ∧ e < 1024 then f else s
  | .vi port v => s.onVi port v (if (s.vi v).part = some (e / 16) then f else s)
  | .pf0 _ => s

/-- Change an endpoint. -/
def State.onEp (s : State) (e : Nat) (f : Endpoint → Endpoint) : State :=
  match lget s.dev.eps e with
  | some E => { s with dev := { s.dev with eps := lset s.dev.eps e (f E) } }
  | none => s

/-- An endpoint begins with empty rings, or is taken away. -/
def State.bindEndpoint (s : State) (e ctx : Nat) (ring : W64) (lg : Nat) : State :=
  { s with dev := { s.dev with eps := if lg = 0 then merase s.dev.eps e else lset s.dev.eps e ⟨e / 16, ctx % 16, [], [], [], ring, lg, 0⟩ } }

/-- Any other access to the registers: a read, or what PF0 alone does (R368, R370). -/
def State.regAccess (s : State) (w : Writer) (op : RegOp) : State :=
  match op, w with
  | .read off, w => s.readReg w off
  | .view off, .vi port k => s.onVi port k (s.emitOut (.reg off (s.viewPart k off)))
  | .readPort n, .pf0 port =>
    s.onPf0 port (if n < 2 then s.emitOut (.port n (s.port n).up (s.port n).width (s.port n).rate (s.port n).cxl s.dev.verified) else s)
  | .shape p clusters pages, .pf0 port => s.onPf0 port (s.shapePart port p clusters pages)
  | .stage k version digest asks, .pf0 port => s.onPf0 port (if s.pf0Ok port then s.stageImage k ⟨version, digest, asks⟩ else s)
  | .endpoint e ctx ring lg, w => s.onEndpoint w e (s.bindEndpoint e ctx ring lg)
  | .postBuffer e va size, w => s.onEndpoint w e (s.onEp e fun E => { E with bufs := E.bufs ++ [(va, size % 2 ^ 32)] })
  | .postSend e d, w => s.onEndpoint w e (if d.length = 64 then s.onEp e fun E => { E with send := E.send ++ [d] } else s)
  | .bind v p port0 port1, .pf0 port => s.onPf0 port (s.bindVi port v p port0 port1)
  | _, _ => s

def execRegisterAccess (w : Writer) (op : RegOp) (s : State) : Host.Outcome State Fault Refusal := .next (s.regAccess w op)

/-- R437: a read hands the value out, a write is one of the register. -/
def execDiagdata (w : Writer) (v : Option W64) (s : State) : Host.Outcome State Fault Refusal :=
  .next (match v with
    | some x => s.writeBar2 w 0x40168 x
    | none => match w with
      | .vi port _ => if s.portUp port then s.emitOut (.unsupported port) else s
      | w => s.readReg w 0x40168)

/-- R439: the device answers on PF0 of either port, with the chain of the key that signs. -/
def State.spdm (s : State) (port index : Nat) : State :=
  if 1 ≤ index ∧ index ≤ 6 ∧ port < 2 then s.onPf0 port (s.emitOut (.measurement port index (Config.measure index (s.measured index)) s.dev.certs)) else s

def execSpdmRequest (port index : Nat) (s : State) : Host.Outcome State Fault Refusal := .next (s.spdm port index)

/-! ### Memory accesses from outside the clusters (R368, R375, R377) -/

/-- R377: the window of a service pair onto PF0 BAR 2. -/
def pairWindow (pa : Nat) : Option Nat :=
  if bits pa 48 8 = 0x80 ∧ bits pa 24 24 = 0 ∧ pa / 2 ^ 56 = 0 then some (pa % 2 ^ 24) else none

/-- The bytes at a service-pair address are device memory here, or on another package. -/
def State.pairMem (s : State) (pa n : Nat) : Bool :=
  decide (pa + n ≤ 2 ^ 48) && paOk s.dev.fpkg pa && paOk s.dev.fpkg (pa + n - 1)

/-- What a RISC-V atomic stores over `old`, in `w` bytes. -/
def amoValue (op w old v : Nat) : Nat :=
  let m := 2 ^ (8 * w)
  let x := v % m
  let sg (n : Nat) : Int := if m / 2 ≤ n then (n : Int) - (m : Int) else n
  match op with
  | 0 => x
  | 1 => (old + x) % m
  | 2 => old ^^^ x
  | 3 => old &&& x
  | 4 => old ||| x
  | 5 => if sg old ≤ sg x then old else x
  | 6 => if sg x ≤ sg old then old else x
  | 7 => min old x
  | 8 => max old x
  | _ => old

/-- The poisoned sectors that bytes lie in. -/
def State.badSectors (s : State) (pa n : Nat) : List Nat := (s.poison.filter fun q => decide (pa < 32 * q + 32) && decide (32 * q < pa + n)).mergeSort

/-- An access of the hart to device memory; to any other address, or misaligned by an atomic, it is a fault of the hart. -/
def State.pairTo (s : State) (die pa n : Nat) (atomic : Bool) (f : State) : State :=
  if s.pairMem pa n && (!atomic || decide (pa % n = 0)) then f else s.emitOut (.hartFault die pa)

/-- The hart takes bytes into a register, which consumes poison (R432): a fault of the hart then. -/
def State.pairReads (s : State) (die pa n : Nat) (f : State) : State := if s.poisoned pa n then s.emitOut (.hartFault die pa) else f

/-- An access of a pair that has not been stopped. -/
def State.pairAccess (s : State) (die : Nat) (acc : PairAccess) : State :=
  if s.pairRuns die = false then s
  else match acc with
    | .load pa n => (match pairWindow pa with
      | some off => s.readReg (.pair die) off
      | none => s.pairTo die pa n false (s.pairReads die pa n (s.emitOut (.mem pa (s.memRd pa n) []))))
    | .store pa bs => (match pairWindow pa with
      | some off => s.writeBar2 (.pair die) off (BitVec.ofNat 64 (leNat bs))
      | none => s.pairTo die pa bs.length false (s.perform pa bs))
    | .amo op wide pa v =>
      let w := if wide then 8 else 4
      let old := s.memRd pa w
      s.pairTo die pa w true (s.pairReads die pa w ((s.emitOut (.mem pa old [])).perform pa (natLe w (amoValue op w (leNat old) v.toNat))))
    | .loadReserved wide pa =>
      let w := if wide then 8 else 4
      s.pairTo die pa w true (s.pairReads die pa w { s.emitOut (.mem pa (s.memRd pa w) []) with resv := mput 0 s.resv die (pa / 128 + 1) })
    | .storeConditional wide pa v =>
      let w := if wide then 8 else 4
      let held := decide (mget 0 s.resv die = pa / 128 + 1)
      let t : State := { s.emitOut (.conditional die held) with resv := merase s.resv die }
      s.pairTo die pa w true (if held then t.perform pa (natLe w v.toNat) else t)
    | .fence => s

def execServicePairAccess (die : Nat) (acc : PairAccess) (s : State) : Host.Outcome State Fault Refusal := .next (s.pairAccess die acc)

/-- A page set is given to a host on a port: it belongs to the partition of a virtual interface that answers there. -/
def State.hostReaches (s : State) (port pa n : Nat) : Bool :=
  s.vis.any fun x => s.viServes port x.1 && (match x.2.part with
    | some p => (s.part p).pages.contains (pa / 2 ^ 30) && (s.part p).pages.contains ((pa + n - 1) / 2 ^ 30)
    | none => false)

/-- The lines from `lo` up to `hi` that an L1, a Stoker data cache or an RDC slice holds. -/
def State.heldLines (s : State) (lo hi : Nat) : List Nat :=
  (((s.lines.filter fun q => decide (q.1 % 16384 < 8256)).map fun q => q.1 / 16384).filter fun l => decide (lo ≤ l) && decide (l < hi)).eraseDups

/-- A host's access to device memory. Under CXL 2.0 the device's copies of the page go first; under 3.1 they go before a write, and share
the line with the copy that a read gives to the host, until a write of the device takes it back (`State.overwrite`). Poison goes with the
bytes (R432). -/
def State.hostMem (s : State) (cxl pa : Nat) (bs : List Byte) (write : Bool) : State :=
  let lo := if cxl = 20 then pa / 65536 * 512 else pa / 128
  let hi := if cxl = 20 then (pa + bs.length - 1) / 65536 * 512 + 512 else (pa + bs.length + 127) / 128
  let held := s.heldLines lo hi
  if (cxl = 20 ∨ write) ∧ held ≠ [] then held.foldl (fun s l => s.tearLine l) s
  else if write then s.perform pa bs
  else
    let s := s.emitOut (.mem pa (s.memRd pa bs.length) (s.badSectors pa bs.length))
    if cxl = 20 then s
    else
      let new := ((List.range (hi - lo)).map (lo + ·)).filter fun l => !s.hostLines.contains l
      let s : State := { s with hostLines := s.hostLines ++ new }
      (s.lines.filter fun q => decide (q.1 % 16384 < 8256) && new.contains (q.1 / 16384)).foldl (fun s q => s.setLine (q.1 % 16384) (q.1 / 16384) q.2.supplied) s

/-- R368 CXL.mem: a host reads or writes the memory of its page sets. -/
def State.hostAccess (s : State) (port pa : Nat) (bs : List Byte) (write : Bool) : State :=
  if s.portUp port = false then s
  else if (s.port port).cxl = 0 ∨ s.hostReaches port pa bs.length = false then s.emitOut (.unsupported port)
  else s.hostMem (s.port port).cxl pa bs write

def execHostMemoryAccess (port pa : Nat) (bytes : List Byte) (write : Bool) (s : State) : Host.Outcome State Fault Refusal :=
  .next (s.hostAccess port pa bytes write)

end Sys2Proof.Machine
end

