-- ==== Sys2Proof/Machine/Fabric.lean ====
section
/-! DEFINITION. The fabric between packages: the manager's tables (R417, R418), failing fibre pairs (R421), the put/get messaging
engine (R422, R423), with what reaches this package from another one. -/

namespace Sys2Proof.Machine

/-! ### Tables (R417, R418) -/

def Route.parse (v : Nat) : Route := ⟨bitAt v 63, v % 2 ^ 32⟩

def Aper.parse (v : Nat) : Aper := ⟨bitAt v 63, bitAt v 62, bitAt v 61, bits v 58 3, bits v 52 6, bits v 30 11, bits v 19 11⟩

/-- A table write over the management channel: register `reg % 512` of chimney die `reg / 512` (DESIGN CHOICE, log entry 8): FROUTE 0 to 7,
then FAPER 0 to 255; then FPKG, of the package. -/
def State.writeTable (s : State) (reg v : Nat) : State :=
  let d := s.dev
  let c := reg / 512
  let k := reg % 512
  if 4 ≤ c then s
  else if k < 8 then s.reroute { d with froute := mput .zero d.froute (8 * c + k) (Route.parse v) }
  else if k < 264 then { s with dev := { d with faper := mput .zero d.faper (256 * c + (k - 8)) (Aper.parse v) } }
  else if k = 264 then { s with dev := { d with fpkg := v % 8 } }
  else s

def execFabricTableWrite (reg : Nat) (v : W64) (s : State) : Host.Outcome State Fault Refusal := .next (s.writeTable reg v.toNat)

def execFibrePairFailure (pair : Nat) (s : State) : Host.Outcome State Fault Refusal := .next (s.failPair pair)

/-! ### Completions and spans (R423) -/

def State.ep? (s : State) (e : Nat) : Option Endpoint := lget s.dev.eps e

/-- A completion of 32 bytes. -/
def completion (status len placed tag : Nat) : List Byte :=
  natLe 1 status ++ zeros 7 ++ natLe 8 len ++ natLe 8 placed ++ natLe 8 tag

/-- The context of an endpoint. -/
def Endpoint.key (E : Endpoint) : Nat := 16 * E.part + E.ctx

/-- Write a completion into the next entry of an endpoint's completion ring; one whose write faults is lost (DESIGN CHOICE, log entry 98). -/
def State.complEp (s : State) (e : Nat) (c : List Byte) : State :=
  match s.ep? e with
  | some E =>
    let t := match s.writeVa E.key 2 (E.cring.toNat + 32 * (E.cpi % 2 ^ E.clg)) c with
      | .ok t => t
      | .error _ => s
    t.onEp e fun E => { E with cpi := E.cpi + 1 }
  | none => s

/-- Status 4: the tables of R418 refused a remote byte that its leaf permits. -/
def State.aperRefused (s : State) (ctx va : Nat) (acc : Access) : Bool :=
  match s.pageOf ctx va with
  | .ok (page, leaf) => leafOk leaf acc false && paRemote (page + va % 65536) && decide (s.remoteCause (ctxPart ctx) (page + va % 65536) (decide (acc = .write)) = 3)
  | .error _ => false

/-- Where a byte of a span of a context stands, or the status that refuses it, 15 for memory out of reach; `asker`, a partition and
package that ask for it, is checked by R419 too. -/
def State.spanPa (s : State) (ctx va : Nat) (acc : Access) (asker : Option Nat) : Except Nat Nat :=
  if 2 ^ 52 ≤ va then .error 2
  else match s.translate ctx va acc false with
    | .ok p => if asker.all fun b => paRemote p.1 || s.admits b p.1 (decide (acc = .write)) then .ok p.1 else .error 4
    | .error e => .error (if e = 0xF then 15 else if s.aperRefused ctx va acc then 4 else 2)

/-- Where the bytes of a span stand. -/
def State.span (s : State) (ctx va n : Nat) (acc : Access) (asker : Option Nat) : Except Nat (List Nat) :=
  (List.range n).mapM fun i => s.spanPa ctx (va + i) acc asker

/-- Bytes of memory with their poison marks. -/
def State.spanRd (s : State) (pas : List Nat) : List (Byte × Bool) := pas.map fun pa => (s.mem8 pa, s.poisoned pa 1)

/-- Bytes are placed, their poison with them (R432). -/
def State.spanWr (s : State) (pas : List Nat) (bs : List (Byte × Bool)) : State :=
  s.engineWrite 0 ((pas.zip bs).map fun x => (.inl x.1, x.2))

/-- What an endpoint is told, or, with memory out of reach, its context's halt (R421). -/
def State.tellEp (s : State) (e status len placed tag : Nat) : State :=
  if status = 15 then (match s.ep? e with
    | some E => if s.inUse E.key then s.haltLine E.key 0xF 0 0 else s
    | none => s)
  else s.complEp e (completion status len placed tag)

/-- The head of a send ring is consumed. -/
def State.popSend (s : State) (e : Nat) : State := s.onEp e fun E => { E with send := E.send.tail }

/-! ### Put and get (R422, R423) -/

/-- R419: an entry of a chimney die with a valid route gives a partition access to a package, to write or to read. The page sets are the target's
to check, since they are not known here. -/
def State.aperOpens (s : State) (part pkg : Nat) (write : Bool) : Bool :=
  s.dev.faper.any fun e => e.2.opens pkg part write && (s.route (e.1 / 256) pkg).v

/-- A descriptor for another package leaves (R419, R423): status 4 where the tables refuse it; the endpoint's context halts where no
fibre pair is left (R421); otherwise the answer is to come. -/
def State.sendRemote (s : State) (e : Nat) (E : Endpoint) (d : List Byte) (write : Bool) : State :=
  let p := leAt d 1 1
  let s := s.popSend e
  if s.aperOpens E.part p write = false then s.tellEp e 4 (leAt d 16 8) 0 (leAt d 32 8)
  else if s.cutOff p then s.tellEp e 15 0 0 0
  else s.onEp e fun E => { E with flying := E.flying ++ [d] }

/-- R423: a put of `len` bytes reaches an endpoint that is `D` now: its status and how many bytes it places, and the state with them placed in the
oldest buffer and the receiver told; `get n` gives the first `n` bytes or the status that refuses them. -/
def State.takePut (s : State) (dst : Nat) (D : Endpoint) (asker : Option Nat) (len tag : Nat) (get : Nat → Except Nat (List (Byte × Bool))) :
    Nat × Nat × State :=
  match D.bufs with
  | [] => (3, 0, s)
  | (a, size) :: rest =>
    let n := min len size
    let st := if size < len then 1 else 0
    match s.span D.key a.toNat n .write asker, get n with
    | .ok pas, .ok bs => (st, n, ((s.spanWr pas bs).onEp dst fun E => { E with bufs := rest }).tellEp dst st len n tag)
    | .error e, _ | _, .error e => (e, 0, s)

/-- A put to endpoint `dst` of this package: the sender is told after the receiver. -/
def State.putLocal (s : State) (e dst : Nat) (E : Endpoint) (d : List Byte) : State :=
  let len := leAt d 16 8
  let tag := leAt d 32 8
  let s := s.popSend e
  match s.ep? dst with
  | none => s.tellEp e 3 len 0 tag
  | some D =>
    let r := s.takePut dst D none len tag fun n => (s.span E.key (leAt d 8 8) n .read none).map s.spanRd
    r.2.2.tellEp e r.1 len r.2.1 tag

/-- The head of the send ring of `ep` is a put to `dst`. -/
def State.doPut (s : State) (e dst : Nat) : State :=
  match s.ep? e with
  | none => s
  | some E => match E.send with
    | [] => s
    | d :: _ =>
      if leAt d 0 1 ≠ 1 ∨ 16 * leAt d 2 1 + leAt d 3 1 % 16 ≠ dst then s
      else if leAt d 1 1 ≠ s.dev.fpkg then s.sendRemote e E d true
      else s.putLocal e dst E d

def execPut (ep dst : Nat) (s : State) : Host.Outcome State Fault Refusal := .next (s.doPut ep dst)

/-- R422: a get from an endpoint's context of this package. -/
def State.getLocal (s : State) (e : Nat) (E : Endpoint) (d : List Byte) : State :=
  let len := leAt d 16 8
  let tag := leAt d 32 8
  let s := s.popSend e
  match s.ep? (16 * leAt d 2 1 + leAt d 3 1 % 16) with
  | none => s.tellEp e 3 len 0 tag
  | some D => match s.span E.key (leAt d 8 8) len .write none, s.span D.key (leAt d 24 8) len .read none with
    | .ok pas, .ok src => (s.spanWr pas (s.spanRd src)).tellEp e 0 len len tag
    | .error st, _ | _, .error st => s.tellEp e st len 0 tag

/-- The head of the send ring of `ep` is a get. -/
def State.doGet (s : State) (e : Nat) : State :=
  match s.ep? e with
  | none => s
  | some E => match E.send with
    | [] => s
    | d :: _ =>
      if leAt d 0 1 ≠ 2 then s
      else if leAt d 1 1 ≠ s.dev.fpkg then s.sendRemote e E d false
      else s.getLocal e E d

def execGet (ep : Nat) (s : State) : Host.Outcome State Fault Refusal := .next (s.doGet ep)

/-! ### Between packages (R419, R423) -/

/-- A put of partition `who / 8` of package `who % 8` reaches endpoint `dst`; its status goes back. -/
def State.putArrives (s : State) (who dst tag : Nat) (bytes : List (Byte × Bool)) : State :=
  match s.ep? dst with
  | none => s.emitOut (.fabric (who % 8) tag 3 0 [])
  | some D =>
    let r := s.takePut dst D (some who) bytes.length tag fun n => .ok (bytes.take n)
    r.2.2.emitOut (.fabric (who % 8) tag r.1 r.2.1 [])

def execPutFabric (pkg dst tag : Nat) (bytes : List (Byte × Bool)) (s : State) : Host.Outcome State Fault Refusal :=
  .next (if s.foreign (pkg % 8) then s.putArrives pkg dst tag bytes else s)

/-- A get of partition `who / 8` of package `who % 8` reaches endpoint `dst`, whose context translates REMOTE; the bytes go back. -/
def State.getArrives (s : State) (who dst tag va len : Nat) : State :=
  match s.ep? dst with
  | none => s.emitOut (.fabric (who % 8) tag 3 0 [])
  | some D => match s.span D.key va len .read (some who) with
    | .ok pas => s.emitOut (.fabric (who % 8) tag 0 len (s.spanRd pas))
    | .error st => s.emitOut (.fabric (who % 8) tag st 0 [])

def execGetFabric (pkg dst tag va len : Nat) (s : State) : Host.Outcome State Fault Refusal :=
  .next (if s.foreign (pkg % 8) then s.getArrives pkg dst tag va len else s)

/-- Descriptor `n` of those that wait for another package's answer. -/
def State.flying? (s : State) (e n : Nat) : Option (Endpoint × List Byte) :=
  match s.ep? e with
  | some E => (E.flying[n]?).map fun d => (E, d)
  | none => none

/-- The answer to it has come: it no longer waits. -/
def State.landed (s : State) (e n : Nat) : State := s.onEp e fun E => { E with flying := E.flying.eraseIdx n }

/-- The target package has answered a put: its sender is told. -/
def State.putAnswered (s : State) (e n status placed : Nat) : State :=
  match s.flying? e n with
  | some (_, d) => if leAt d 0 1 = 1 ∧ status ≤ 4 then
      (s.landed e n).tellEp e status (leAt d 16 8) (if status ≤ 1 then placed else 0) (leAt d 32 8) else s
  | none => s

def execPutAnswerFabric (ep n status placed : Nat) (s : State) : Host.Outcome State Fault Refusal := .next (s.putAnswered ep n status placed)

/-- The target package has answered a get: its bytes are placed at the local address, or it refuses. -/
def State.getAnswered (s : State) (e n status : Nat) (bytes : List (Byte × Bool)) : State :=
  match s.flying? e n with
  | none => s
  | some (E, d) =>
    let len := leAt d 16 8
    let tag := leAt d 32 8
    if leAt d 0 1 ≠ 2 ∨ 4 < status then s
    else if status ≠ 0 then (s.landed e n).tellEp e status len 0 tag
    else if bytes.length ≠ len then s
    else match s.span E.key (leAt d 8 8) len .write none with
      | .ok pas => ((s.landed e n).spanWr pas bytes).tellEp e 0 len len tag
      | .error st => (s.landed e n).tellEp e st len 0 tag

def execGetAnswerFabric (ep n status : Nat) (bytes : List (Byte × Bool)) (s : State) : Host.Outcome State Fault Refusal :=
  .next (s.getAnswered ep n status bytes)

end Sys2Proof.Machine
end

