-- ==== Sys2Proof/Machine/Uniform.lean ====
section
/-! DEFINITION. The uniform integer group (R112 to R118). -/

namespace Sys2Proof.Machine

/-- A fixed-latency uniform word that changes its thread only. -/
def uni (s : State) (i : Instr) (len : Nat) (f : Thread → Thread) : Host.Outcome State Fault Refusal :=
  issue s i noLimit fun a s => s.onThread a fun th => (f th).adv len

/-- R115: s(D) := the n-bit result, extended (R12). -/
def uniBin (op : IOp) (signedImm : Bool) (o : UBin) (th : Thread) : Thread :=
  th.wr o.d.toNat (extTo 64 o.ty (op.run o.ty (th.rd o.a.toNat).toNat (th.src signedImm o.src).toNat))

def execAdd (o : UBin) (s : State) : Host.Outcome State Fault Refusal := uni s (.add o) (srcLen o.src) (uniBin .add true o)

def execSub (o : UBin) (s : State) : Host.Outcome State Fault Refusal := uni s (.sub o) (srcLen o.src) (uniBin .sub true o)

def execMul (o : UBin) (s : State) : Host.Outcome State Fault Refusal := uni s (.mul o) (srcLen o.src) (uniBin .mul true o)

def execMulh (o : UBin) (s : State) : Host.Outcome State Fault Refusal := uni s (.mulh o) (srcLen o.src) (uniBin .mulh true o)

/-- R116: `div` and `rem` are variable-latency; the result is computed from the sources at issue. -/
def uniDiv (op : IOp) (o : UBin) (i : Instr) (s : State) : Host.Outcome State Fault Refusal :=
  issue s i noLimit fun a s => match s.thread? a with
    | some th => s.later a (srcLen o.src) [] (.result [.s o.d.toNat ((uniBin op true o th).rd o.d.toNat)] 0)
    | none => s

def execDiv (o : UBin) (s : State) : Host.Outcome State Fault Refusal := uniDiv .div o (.div o) s

def execRem (o : UBin) (s : State) : Host.Outcome State Fault Refusal := uniDiv .rem o (.rem o) s

def execMin (o : UBin) (s : State) : Host.Outcome State Fault Refusal := uni s (.min o) (srcLen o.src) (uniBin .min true o)

def execMax (o : UBin) (s : State) : Host.Outcome State Fault Refusal := uni s (.max o) (srcLen o.src) (uniBin .max true o)

def execAnd (o : UBin) (s : State) : Host.Outcome State Fault Refusal := uni s (.and o) (srcLen o.src) (uniBin .and false o)

def execOr (o : UBin) (s : State) : Host.Outcome State Fault Refusal := uni s (.or o) (srcLen o.src) (uniBin .or false o)

def execXor (o : UBin) (s : State) : Host.Outcome State Fault Refusal := uni s (.xor o) (srcLen o.src) (uniBin .xor false o)

def execAndn (o : UBin) (s : State) : Host.Outcome State Fault Refusal := uni s (.andn o) (srcLen o.src) (uniBin .andn false o)

def execShl (o : UBin) (s : State) : Host.Outcome State Fault Refusal := uni s (.shl o) (srcLen o.src) (uniBin .shl false o)

def execShr (o : UBin) (s : State) : Host.Outcome State Fault Refusal := uni s (.shr o) (srcLen o.src) (uniBin .shr false o)

def execSar (o : UBin) (s : State) : Host.Outcome State Fault Refusal := uni s (.sar o) (srcLen o.src) (uniBin .sar false o)

def execRotl (o : UBin) (s : State) : Host.Outcome State Fault Refusal := uni s (.rotl o) (srcLen o.src) (uniBin .rotl false o)

/-- A one-source operation on n bits (R115). -/
def uniUn (f : Nat → Nat → Nat) (o : UUn) (th : Thread) : Thread :=
  th.wr o.d.toNat (extTo 64 o.ty (f (tyBits o.ty) (th.rd o.a.toNat).toNat))

def execPopc (o : UUn) (s : State) : Host.Outcome State Fault Refusal := uni s (.popc o) 8 (uniUn popN o)

def execClz (o : UUn) (s : State) : Host.Outcome State Fault Refusal := uni s (.clz o) 8 (uniUn clzN o)

def execCtz (o : UUn) (s : State) : Host.Outcome State Fault Refusal := uni s (.ctz o) 8 (uniUn ctzN o)

def execBrev (o : UUn) (s : State) : Host.Outcome State Fault Refusal := uni s (.brev o) 8 (uniUn brevN o)

def execAbs (o : UAbs) (s : State) : Host.Outcome State Fault Refusal :=
  uni s (.abs o) (if o.long then 12 else 8) fun th =>
    th.wr o.d.toNat (extTo 64 o.ty (absN o.ty false (th.rd o.a.toNat).toNat))

/-- R117. -/
def execBfx (o : UBfx) (s : State) : Host.Outcome State Fault Refusal :=
  uni s (.bfx o) 8 fun th =>
    th.wr o.d.toNat (extTo 64 o.ty (bfxN o.ty (th.rd o.a.toNat).toNat o.pos.toNat o.width.toNat))

def execBfi (o : UBfi) (s : State) : Host.Outcome State Fault Refusal :=
  uni s (.bfi o) 8 fun th =>
    th.wr o.d.toNat (extTo 64 o.ty (bfiN o.ty (th.rd o.a.toNat).toNat (th.rd o.b.toNat).toNat o.pos.toNat o.width.toNat))

/-- R115: 1 if the condition of R84 holds, otherwise 0, as an n-bit result that is then extended (R12). -/
def execCmp (o : UCmp) (s : State) : Host.Outcome State Fault Refusal :=
  uni s (.cmp o) (srcLen o.src) fun th =>
    th.wr o.d.toNat (extTo 64 o.ty (b2n (condInt o.cond (tyVal o.ty (th.rd o.a.toNat).toNat) (tyVal o.ty (th.src true o.src).toNat))))

def execSel (o : USel) (s : State) : Host.Outcome State Fault Refusal :=
  uni s (.sel o) (srcLen o.src) fun th =>
    th.wr o.d.toNat (extTo 64 o.ty (if th.rd o.c.toNat ≠ 0 then (th.rd o.a.toNat).toNat else (th.src true o.src).toNat))

def execMov (o : UMov) (s : State) : Host.Outcome State Fault Refusal :=
  uni s (.mov o) (srcLen o.src) fun th => th.wr o.d.toNat (extTo 64 o.ty (th.src true o.src).toNat)

/-- R118: the 64-bit sign extension of the immediate. -/
def execMovi (o : UMovi) (s : State) : Host.Outcome State Fault Refusal :=
  uni s (.movi o) (immLen o.imm) fun th =>
    th.wr o.d.toNat (match o.imm with
      | .i11 x => x.signExtend 64
      | .i32 x => x.signExtend 64
      | .i64 x => x)

/-- R118 with M = 0: s(D) := s(A) + imm. -/
def execLea (o : ULea) (s : State) : Host.Outcome State Fault Refusal :=
  uni s (.lea o) (offLen o.off) fun th => th.wr o.d.toNat (th.rd o.a.toNat + BitVec.ofInt 64 (offInt o.off))

/-- R118 with M = 1: s(D) := PC + imm. -/
def execLeaPc (o : ULeaPc) (s : State) : Host.Outcome State Fault Refusal :=
  uni s (.leaPc o) (offLen o.off) fun th => th.wr o.d.toNat (th.pc + BitVec.ofInt 64 (offInt o.off))

end Sys2Proof.Machine
end

