-- ==== Sys2Proof/Machine/Dispatch.lean ====
section
/-! DEFINITION. One arm per row of the opcode table: a direct call of its meaning. -/

namespace Sys2Proof.Machine

def exec (i : Instr) (s : State) : Host.Outcome State Fault Refusal :=
  match i with
  | .add o => Sys2Proof.Machine.execAdd o s
  | .sub o => Sys2Proof.Machine.execSub o s
  | .mul o => Sys2Proof.Machine.execMul o s
  | .mulh o => Sys2Proof.Machine.execMulh o s
  | .div o => Sys2Proof.Machine.execDiv o s
  | .rem o => Sys2Proof.Machine.execRem o s
  | .abs o => Sys2Proof.Machine.execAbs o s
  | .min o => Sys2Proof.Machine.execMin o s
  | .max o => Sys2Proof.Machine.execMax o s
  | .and o => Sys2Proof.Machine.execAnd o s
  | .or o => Sys2Proof.Machine.execOr o s
  | .xor o => Sys2Proof.Machine.execXor o s
  | .andn o => Sys2Proof.Machine.execAndn o s
  | .shl o => Sys2Proof.Machine.execShl o s
  | .shr o => Sys2Proof.Machine.execShr o s
  | .sar o => Sys2Proof.Machine.execSar o s
  | .rotl o => Sys2Proof.Machine.execRotl o s
  | .popc o => Sys2Proof.Machine.execPopc o s
  | .clz o => Sys2Proof.Machine.execClz o s
  | .ctz o => Sys2Proof.Machine.execCtz o s
  | .brev o => Sys2Proof.Machine.execBrev o s
  | .bfx o => Sys2Proof.Machine.execBfx o s
  | .bfi o => Sys2Proof.Machine.execBfi o s
  | .cmp o => Sys2Proof.Machine.execCmp o s
  | .sel o => Sys2Proof.Machine.execSel o s
  | .mov o => Sys2Proof.Machine.execMov o s
  | .movi o => Sys2Proof.Machine.execMovi o s
  | .lea o => Sys2Proof.Machine.execLea o s
  | .leaPc o => Sys2Proof.Machine.execLeaPc o s
  | .b o => Sys2Proof.Machine.execB o s
  | .bz o => Sys2Proof.Machine.execBz o s
  | .bnz o => Sys2Proof.Machine.execBnz o s
  | .bc o => Sys2Proof.Machine.execBc o s
  | .call o => Sys2Proof.Machine.execCall o s
  | .ret o => Sys2Proof.Machine.execRet o s
  | .jmp o => Sys2Proof.Machine.execJmp o s
  | .loop o => Sys2Proof.Machine.execLoop o s
  | .skipz o => Sys2Proof.Machine.execSkipz o s
  | .setmask o => Sys2Proof.Machine.execSetmask o s
  | .ballot o => Sys2Proof.Machine.execBallot o s
  | .ballotNz o => Sys2Proof.Machine.execBallotNz o s
  | .mpop o => Sys2Proof.Machine.execMpop o s
  | .mffs o => Sys2Proof.Machine.execMffs o s
  | .barArrive o => Sys2Proof.Machine.execBarArrive o s
  | .barWait o => Sys2Proof.Machine.execBarWait o s
  | .barSync o => Sys2Proof.Machine.execBarSync o s
  | .yield o => Sys2Proof.Machine.execYield o s
  | .exit o => Sys2Proof.Machine.execExit o s
  | .nop o => Sys2Proof.Machine.execNop o s
  | .hint o => Sys2Proof.Machine.execHint o s
  | .vadd o => Sys2Proof.Machine.execVadd o s
  | .vsub o => Sys2Proof.Machine.execVsub o s
  | .vmul o => Sys2Proof.Machine.execVmul o s
  | .vmulh o => Sys2Proof.Machine.execVmulh o s
  | .vmad o => Sys2Proof.Machine.execVmad o s
  | .vabs o => Sys2Proof.Machine.execVabs o s
  | .vmin o => Sys2Proof.Machine.execVmin o s
  | .vmax o => Sys2Proof.Machine.execVmax o s
  | .vand o => Sys2Proof.Machine.execVand o s
  | .vor o => Sys2Proof.Machine.execVor o s
  | .vxor o => Sys2Proof.Machine.execVxor o s
  | .vandn o => Sys2Proof.Machine.execVandn o s
  | .vnot o => Sys2Proof.Machine.execVnot o s
  | .vshl o => Sys2Proof.Machine.execVshl o s
  | .vshr o => Sys2Proof.Machine.execVshr o s
  | .vsar o => Sys2Proof.Machine.execVsar o s
  | .vrotl o => Sys2Proof.Machine.execVrotl o s
  | .vpopc o => Sys2Proof.Machine.execVpopc o s
  | .vclz o => Sys2Proof.Machine.execVclz o s
  | .vctz o => Sys2Proof.Machine.execVctz o s
  | .vbrev o => Sys2Proof.Machine.execVbrev o s
  | .vbfx o => Sys2Proof.Machine.execVbfx o s
  | .vbfi o => Sys2Proof.Machine.execVbfi o s
  | .vcmp o => Sys2Proof.Machine.execVcmp o s
  | .vsel o => Sys2Proof.Machine.execVsel o s
  | .vmov o => Sys2Proof.Machine.execVmov o s
  | .vbcast o => Sys2Proof.Machine.execVbcast o s
  | .vlane o => Sys2Proof.Machine.execVlane o s
  | .vcvt o => Sys2Proof.Machine.execVcvt o s
  | .vsat o => Sys2Proof.Machine.execVsat o s
  | .vshfl o => Sys2Proof.Machine.execVshfl o s
  | .vrot o => Sys2Proof.Machine.execVrot o s
  | .vred o => Sys2Proof.Machine.execVred o s
  | .vredx o => Sys2Proof.Machine.execVredx o s
  | .vscan o => Sys2Proof.Machine.execVscan o s
  | .vextract o => Sys2Proof.Machine.execVextract o s
  | .vinsert o => Sys2Proof.Machine.execVinsert o s
  | .vmatch o => Sys2Proof.Machine.execVmatch o s
  | .vfadd o => Sys2Proof.Machine.execVfadd o s
  | .vfsub o => Sys2Proof.Machine.execVfsub o s
  | .vfmul o => Sys2Proof.Machine.execVfmul o s
  | .vffma o => Sys2Proof.Machine.execVffma o s
  | .vfdiv o => Sys2Proof.Machine.execVfdiv o s
  | .vfsqrt o => Sys2Proof.Machine.execVfsqrt o s
  | .vfmin o => Sys2Proof.Machine.execVfmin o s
  | .vfmax o => Sys2Proof.Machine.execVfmax o s
  | .vfcmp o => Sys2Proof.Machine.execVfcmp o s
  | .vfrcp o => Sys2Proof.Machine.execVfrcp o s
  | .vfrsq o => Sys2Proof.Machine.execVfrsq o s
  | .vfex2 o => Sys2Proof.Machine.execVfex2 o s
  | .vflg2 o => Sys2Proof.Machine.execVflg2 o s
  | .vfsin o => Sys2Proof.Machine.execVfsin o s
  | .vfcos o => Sys2Proof.Machine.execVfcos o s
  | .vfclass o => Sys2Proof.Machine.execVfclass o s
  | .vfscale o => Sys2Proof.Machine.execVfscale o s
  | .vfrnd o => Sys2Proof.Machine.execVfrnd o s
  | .vfcvt o => Sys2Proof.Machine.execVfcvt o s
  | .vfi o => Sys2Proof.Machine.execVfi o s
  | .vif o => Sys2Proof.Machine.execVif o s
  | .fadd o => Sys2Proof.Machine.execFadd o s
  | .fmul o => Sys2Proof.Machine.execFmul o s
  | .ffma o => Sys2Proof.Machine.execFfma o s
  | .fcvt o => Sys2Proof.Machine.execFcvt o s
  | .vdot2 o => Sys2Proof.Machine.execVdot2 o s
  | .vdot4 o => Sys2Proof.Machine.execVdot4 o s
  | .vdotds o => Sys2Proof.Machine.execVdotds o s
  | .vcvtds o => Sys2Proof.Machine.execVcvtds o s
  | .vbpl o => Sys2Proof.Machine.execVbpl o s
  | .vbpu o => Sys2Proof.Machine.execVbpu o s
  | .vbpdot o => Sys2Proof.Machine.execVbpdot o s
  | .vbpsel o => Sys2Proof.Machine.execVbpsel o s
  | .ld o => Sys2Proof.Machine.execLd o s
  | .st o => Sys2Proof.Machine.execSt o s
  | .vld o => Sys2Proof.Machine.execVld o s
  | .vst o => Sys2Proof.Machine.execVst o s
  | .vprefetch o => Sys2Proof.Machine.execVprefetch o s
  | .atom o => Sys2Proof.Machine.execAtom o s
  | .cas o => Sys2Proof.Machine.execCas o s
  | .vatom o => Sys2Proof.Machine.execVatom o s
  | .vcas o => Sys2Proof.Machine.execVcas o s
  | .vfatom o => Sys2Proof.Machine.execVfatom o s
  | .vscadd o => Sys2Proof.Machine.execVscadd o s
  | .vbin o => Sys2Proof.Machine.execVbin o s
  | .fence o => Sys2Proof.Machine.execFence o s
  | .cinv o => Sys2Proof.Machine.execCinv o s
  | .cwb o => Sys2Proof.Machine.execCwb o s
  | .marm o => Sys2Proof.Machine.execMarm o s
  | .mwait o => Sys2Proof.Machine.execMwait o s
  | .waitc o => Sys2Proof.Machine.execWaitc o s
  | .balloc o => Sys2Proof.Machine.execBalloc o s
  | .bfree o => Sys2Proof.Machine.execBfree o s
  | .give o => Sys2Proof.Machine.execGive o s
  | .take o => Sys2Proof.Machine.execTake o s
  | .takeTest o => Sys2Proof.Machine.execTakeTest o s
  | .bshare o => Sys2Proof.Machine.execBshare o s
  | .bmap o => Sys2Proof.Machine.execBmap o s
  | .bzero o => Sys2Proof.Machine.execBzero o s
  | .kick o => Sys2Proof.Machine.execKick o s
  | .copy o => Sys2Proof.Machine.execCopy o s
  | .binit o => Sys2Proof.Machine.execBinit o s
  | .bwait o => Sys2Proof.Machine.execBwait o s
  | .bwaitQueue o => Sys2Proof.Machine.execBwaitQueue o s
  | .tdset o => Sys2Proof.Machine.execTdset o s
  | .tdsetQueue o => Sys2Proof.Machine.execTdsetQueue o s
  | .mma o => Sys2Proof.Machine.execMma o s
  | .mmas o => Sys2Proof.Machine.execMmas o s
  | .mmag o => Sys2Proof.Machine.execMmag o s
  | .accld o => Sys2Proof.Machine.execAccld o s
  | .accst o => Sys2Proof.Machine.execAccst o s
  | .acczero o => Sys2Proof.Machine.execAcczero o s
  | .wwin o => Sys2Proof.Machine.execWwin o s
  | .wcfg o => Sys2Proof.Machine.execWcfg o s
  | .wload o => Sys2Proof.Machine.execWload o s
  | .wlaunch o => Sys2Proof.Machine.execWlaunch o s
  | .wcapture o => Sys2Proof.Machine.execWcapture o s
  | .wreset => Sys2Proof.Machine.execWreset s
  | .eseg o => Sys2Proof.Machine.execEseg o s
  | .emit o => Sys2Proof.Machine.execEmit o s
  | .emitRegs o => Sys2Proof.Machine.execEmitRegs o s
  | .emitm o => Sys2Proof.Machine.execEmitm o s
  | .emitq o => Sys2Proof.Machine.execEmitq o s
  | .emitqMulti o => Sys2Proof.Machine.execEmitqMulti o s
  | .epatch o => Sys2Proof.Machine.execEpatch o s
  | .eseal o => Sys2Proof.Machine.execEseal o s
  | .tgo o => Sys2Proof.Machine.execTgo o s
  | .eprov o => Sys2Proof.Machine.execEprov o s
  | .estat o => Sys2Proof.Machine.execEstat o s
  | .spawn o => Sys2Proof.Machine.execSpawn o s
  | .svc o => Sys2Proof.Machine.execSvc o s
  | .strap o => Sys2Proof.Machine.execStrap o s
  | .rfh o => Sys2Proof.Machine.execRfh o s
  | .getsr o => Sys2Proof.Machine.execGetsr o s
  | .setsr o => Sys2Proof.Machine.execSetsr o s
  | .vgrow o => Sys2Proof.Machine.execVgrow o s
  | .vshrink o => Sys2Proof.Machine.execVshrink o s
  | .trig o => Sys2Proof.Machine.execTrig o s
  | .dlaunch o => Sys2Proof.Machine.execDlaunch o s
  | .brk o => Sys2Proof.Machine.execBrk o s
  | .stokerFetchDecode g => Sys2Proof.Machine.execStokerFetchDecode g s
  | .variableLatencyResult a n word => Sys2Proof.Machine.execVariableLatencyResult a n word s
  | .switchMarkerIssue t => Sys2Proof.Machine.execSwitchMarkerIssue t s
  | .teamWake a => Sys2Proof.Machine.execTeamWake a s
  | .slotIssueChoice core slot => Sys2Proof.Machine.execSlotIssueChoice core slot s
  | .teamBoost t => Sys2Proof.Machine.execTeamBoost t s
  | .accessFault a n => Sys2Proof.Machine.execAccessFault a n s
  | .firstTouchFill ctx va => Sys2Proof.Machine.execFirstTouchFill ctx va s
  | .generatorFault g => Sys2Proof.Machine.execGeneratorFault g s
  | .storeBufferToCistern h => Sys2Proof.Machine.execStoreBufferToCistern h s
  | .cisternDrain cl line => Sys2Proof.Machine.execCisternDrain cl line s
  | .cisternAgeExpiry cl line => Sys2Proof.Machine.execCisternAgeExpiry cl line s
  | .basinAccessServed a n lane => Sys2Proof.Machine.execBasinAccessServed a n lane s
  | .giveDrainDone core slot => Sys2Proof.Machine.execGiveDrainDone core slot s
  | .zeroEngineClear cl basin => Sys2Proof.Machine.execZeroEngineClear cl basin s
  | .engineArrival blk bar => Sys2Proof.Machine.execEngineArrival blk bar s
  | .engineCommandIssue core => Sys2Proof.Machine.execEngineCommandIssue core s
  | .engineReadDone core job part => Sys2Proof.Machine.execEngineReadDone core job part s
  | .engineJobComplete core job => Sys2Proof.Machine.execEngineJobComplete core job s
  | .copyBytesCounted core job row n => Sys2Proof.Machine.execCopyBytesCounted core job row n s
  | .weirLeaseAcquire cl => Sys2Proof.Machine.execWeirLeaseAcquire cl s
  | .flueCodeWrite core => Sys2Proof.Machine.execFlueCodeWrite core s
  | .flueQueueMove core => Sys2Proof.Machine.execFlueQueueMove core s
  | .segmentRetire core seg => Sys2Proof.Machine.execSegmentRetire core seg s
  | .handlerImageCopy core ctx => Sys2Proof.Machine.execHandlerImageCopy core ctx s
  | .unitDispatch l die cl => Sys2Proof.Machine.execUnitDispatch l die cl s
  | .unitSteal l thief victim => Sys2Proof.Machine.execUnitSteal l thief victim s
  | .floatingUnitMove l src dst => Sys2Proof.Machine.execFloatingUnitMove l src dst s
  | .coresidentReserve l => Sys2Proof.Machine.execCoresidentReserve l s
  | .blockStart l blk cl cores => Sys2Proof.Machine.execBlockStart l blk cl cores s
  | .teamRetire t => Sys2Proof.Machine.execTeamRetire t s
  | .blockRetire b => Sys2Proof.Machine.execBlockRetire b s
  | .launchRetire l => Sys2Proof.Machine.execLaunchRetire l s
  | .vgrowGrant core => Sys2Proof.Machine.execVgrowGrant core s
  | .registerStall core => Sys2Proof.Machine.execRegisterStall core s
  | .switchedOutReturn t => Sys2Proof.Machine.execSwitchedOutReturn t s
  | .teamSwitchOutSave t slot => Sys2Proof.Machine.execTeamSwitchOutSave t slot s
  | .svcResume t => Sys2Proof.Machine.execSvcResume t s
  | .preemption ctx => Sys2Proof.Machine.execPreemption ctx s
  | .preemptionCommand ctx => Sys2Proof.Machine.execPreemptionCommand ctx s
  | .preemptionDeadline ctx => Sys2Proof.Machine.execPreemptionDeadline ctx s
  | .watchdog a => Sys2Proof.Machine.execWatchdog a s
  | .haltLine ctx cause => Sys2Proof.Machine.execHaltLine ctx cause s
  | .agentStop a => Sys2Proof.Machine.execAgentStop a s
  | .debuggerHalt ctx => Sys2Proof.Machine.execDebuggerHalt ctx s
  | .debuggerRelease ctx a => Sys2Proof.Machine.execDebuggerRelease ctx a s
  | .inspectionSave ctx => Sys2Proof.Machine.execInspectionSave ctx s
  | .saveLost ctx cause => Sys2Proof.Machine.execSaveLost ctx cause s
  | .forcedReset ctx => Sys2Proof.Machine.execForcedReset ctx s
  | .routerRead n => Sys2Proof.Machine.execRouterRead n s
  | .clusterMiss h line => Sys2Proof.Machine.execClusterMiss h line s
  | .reply n => Sys2Proof.Machine.execReply n s
  | .own n => Sys2Proof.Machine.execOwn n s
  | .grant n => Sys2Proof.Machine.execGrant n s
  | .inval n => Sys2Proof.Machine.execInval n s
  | .ack n => Sys2Proof.Machine.execAck n s
  | .prune n => Sys2Proof.Machine.execPrune n s
  | .holderEviction h line => Sys2Proof.Machine.execHolderEviction h line s
  | .cut n => Sys2Proof.Machine.execCut n s
  | .treeEntryEviction r set => Sys2Proof.Machine.execTreeEntryEviction r set s
  | .atomicUnitOp unit => Sys2Proof.Machine.execAtomicUnitOp unit s
  | .tileWriteFabric line pkg => Sys2Proof.Machine.execTileWriteFabric line pkg s
  | .tileReadFabric line pkg => Sys2Proof.Machine.execTileReadFabric line pkg s
  | .tileAnswerFabric line pkg off bytes => Sys2Proof.Machine.execTileAnswerFabric line pkg off bytes s
  | .tclimWrite r v => Sys2Proof.Machine.execTclimWrite r v s
  | .portTraining port width rate cxl => Sys2Proof.Machine.execPortTraining port width rate cxl s
  | .leaseRenew port v => Sys2Proof.Machine.execLeaseRenew port v s
  | .leaseTake port v => Sys2Proof.Machine.execLeaseTake port v s
  | .leaseTakeoverComplete => Sys2Proof.Machine.execLeaseTakeoverComplete s
  | .leaseExpiry => Sys2Proof.Machine.execLeaseExpiry s
  | .registerWrite w off v => Sys2Proof.Machine.execRegisterWrite w off v s
  | .registerAccess w op => Sys2Proof.Machine.execRegisterAccess w op s
  | .heartbeat die v => Sys2Proof.Machine.execHeartbeat die v s
  | .leaderTakeover die v => Sys2Proof.Machine.execLeaderTakeover die v s
  | .heartbeatTimeout => Sys2Proof.Machine.execHeartbeatTimeout s
  | .lockstepMismatch die => Sys2Proof.Machine.execLockstepMismatch die s
  | .ringRecordPost p vi => Sys2Proof.Machine.execRingRecordPost p vi s
  | .rpost w p v => Sys2Proof.Machine.execRpost w p v s
  | .hrpost port vi v => Sys2Proof.Machine.execHrpost port vi v s
  | .qctlWrite port vi q v => Sys2Proof.Machine.execQctlWrite port vi q v s
  | .qpiDoorbell port vi q v => Sys2Proof.Machine.execQpiDoorbell port vi q v s
  | .queueNop vi q => Sys2Proof.Machine.execQueueNop vi q s
  | .launch vi q => Sys2Proof.Machine.execLaunch vi q s
  | .queueWait vi q => Sys2Proof.Machine.execQueueWait vi q s
  | .signal vi q => Sys2Proof.Machine.execSignal vi q s
  | .launchHandleDispatch l => Sys2Proof.Machine.execLaunchHandleDispatch l s
  | .completionRecord l => Sys2Proof.Machine.execCompletionRecord l s
  | .ctxgenWrite w p c v => Sys2Proof.Machine.execCtxgenWrite w p c v s
  | .generationDone p c => Sys2Proof.Machine.execGenerationDone p c s
  | .ftppush w p v => Sys2Proof.Machine.execFtppush w p v s
  | .ctxrecWrite w p c v => Sys2Proof.Machine.execCtxrecWrite w p c v s
  | .err0Clear w p v => Sys2Proof.Machine.execErr0Clear w p v s
  | .fabricTableWrite reg v => Sys2Proof.Machine.execFabricTableWrite reg v s
  | .fibrePairFailure pair => Sys2Proof.Machine.execFibrePairFailure pair s
  | .put ep dst => Sys2Proof.Machine.execPut ep dst s
  | .get ep => Sys2Proof.Machine.execGet ep s
  | .putFabric pkg dst tag bytes => Sys2Proof.Machine.execPutFabric pkg dst tag bytes s
  | .putAnswerFabric ep n status placed => Sys2Proof.Machine.execPutAnswerFabric ep n status placed s
  | .getFabric pkg dst tag va len => Sys2Proof.Machine.execGetFabric pkg dst tag va len s
  | .getAnswerFabric ep n status bytes => Sys2Proof.Machine.execGetAnswerFabric ep n status bytes s
  | .powerEvaluation avg => Sys2Proof.Machine.execPowerEvaluation avg s
  | .thermalVoltageTrip die => Sys2Proof.Machine.execThermalVoltageTrip die s
  | .routerGate r => Sys2Proof.Machine.execRouterGate r s
  | .routerWake r => Sys2Proof.Machine.execRouterWake r s
  | .uncorrectableError loc => Sys2Proof.Machine.execUncorrectableError loc s
  | .correctableError die => Sys2Proof.Machine.execCorrectableError die s
  | .correctableSector n => Sys2Proof.Machine.execCorrectableSector n s
  | .linkSpare link => Sys2Proof.Machine.execLinkSpare link s
  | .scrub sector bad => Sys2Proof.Machine.execScrub sector bad s
  | .errcntWrite w d => Sys2Proof.Machine.execErrcntWrite w d s
  | .isolate w v => Sys2Proof.Machine.execIsolate w v s
  | .diagdata w v => Sys2Proof.Machine.execDiagdata w v s
  | .spdmRequest port index => Sys2Proof.Machine.execSpdmRequest port index s
  | .deviceReset healthy verified => Sys2Proof.Machine.execDeviceReset healthy verified s
  | .contextRestore ctx => Sys2Proof.Machine.execContextRestore ctx s
  | .hostMemoryAccess port pa bytes write => Sys2Proof.Machine.execHostMemoryAccess port pa bytes write s
  | .servicePairAccess die acc => Sys2Proof.Machine.execServicePairAccess die acc s
  | .debuggerAttach ctx on => Sys2Proof.Machine.execDebuggerAttach ctx on s

end Sys2Proof.Machine
end

