-- ==== Sys2Proof/Machine/Turn.lean ====
section
/-! DEFINITION. What a step does around the meanings: time passes, a turn of the agenda is taken, the agent in turn issues its word or
what it waits for goes on; and how a word is laid where the next step fetches it. -/

namespace Sys2Proof.Machine

/-- The clocks that run: those of the cores and Stokers that hold a block (R21). -/
def State.clocks (s : State) : List Nat := (s.blocks.flatMap fun b => (4096 + b.2.cluster) :: b.2.cores).eraseDups

/-- The STEP at which the clocks run at a time: a new one holds 20 µs after its evaluation at the latest (R426); the device chooses when. -/
def Dev.clockStep (d : Dev) (gtime choice : Nat) : Nat :=
  if d.pwrAt + 20000 ≤ gtime ∨ choice % 2 = 1 then d.pwrStep else d.pwrRun

/-- Thousandths of a core cycle in a nanosecond: 0.8 GHz and 50 MHz a step (R425, R428). -/
def clockRate (step : Nat) : Nat := 800 + 50 * step

/-- Time passes (R21): GTIME and the CYCLE of every running core and Stoker advance by what the step takes, at the clock of the moment (R426),
and the counter of free values moves on. -/
def State.tick (s : State) : State :=
  let ns := Config.stepNs s.free
  let k := s.dev.clockStep (s.gtime + ns) s.choice
  { s with
    gtime := s.gtime + ns
    cycles := s.clocks.foldl (fun m c => mput 0 m c (mget 0 m c + ns * clockRate k)) s.cycles
    dev := { s.dev with pwrRun := k }
    free := s.free + 1 }

/-- A row of the opcode table that is no instruction word: an event of the machine. -/
def isEvent (i : Instr) : Bool := (encode i).isNone

/-! ### An agent that waits -/

/-- A way for the machine to go on. -/
abbrev Going := State → Host.Outcome State Fault Refusal

/-- How an outstanding item of an agent goes on: an access is checked, a value returns, the basin switch serves a word. -/
def Pend.going (a : Agent) (n : Nat) (p : Pend) : List Going :=
  if p.finished then []
  else if p.unchecked then [execAccessFault a n]
  else match p.work with
    | .mem m => execVariableLatencyResult a n none :: (m.lanes.filter fun l => l.inBasin && !l.stage.done).map fun l => execBasinAccessServed a n l.lane
    | _ => [execVariableLatencyResult a n none]

/-- How the stores of a cluster go on. -/
def State.storeGoing (s : State) (cl : Nat) : List Going :=
  ((List.range 9).filterMap fun n => if s.sbuf (16 * cl + n) = [] then none else some (execStoreBufferToCistern (16 * cl + n))) ++
    (s.cluster cl).cistern.map fun e => execCisternDrain cl e.line

/-- How message `n` goes on. -/
def MsgKind.going (n : Nat) : MsgKind → Going
  | .read _ _ _ _ _ => execRouterRead n
  | .own _ _ _ _ => execOwn n
  | .reply _ _ _ _ _ _ => execReply n
  | .grant _ _ _ => execGrant n
  | .inval _ => execInval n
  | .ack _ _ _ => execAck n
  | .prune _ _ _ => execPrune n
  | .cut => execCut n

/-- How the messages go on, and how an entry makes way for one that waits at its router (R324). -/
def State.msgGoing (s : State) : List Going :=
  ((List.range s.msgs.length).zip s.msgs).map (fun x => x.2.kind.going x.1) ++
    (s.msgs.filter fun m => m.held).map fun m => execTreeEntryEviction m.dest ((s.router m.dest).setOf m.line)

/-- The lines that the loads of an agent miss (R306, R317). -/
def State.missGoing (s : State) (a : Agent) (p : Pend) : List Going :=
  match p.work with
  | .mem m => m.lanes.filterMap fun l =>
      if l.stage = .checked ∧ (m.kind = .ld ∨ m.kind = .marm) then (match s.spotOf a m l with
        | .ok (.mem pas _) => some (execClusterMiss (agentHolder a) (pas.headD 0 / 128))
        | _ => none) else none
  | _ => []

/-- The first-touch pages that the accesses and the fetch of a generator thread may wait for (R353). -/
def State.genFills (s : State) (g : Nat) : List Going :=
  match s.gen? g with
  | none => []
  | some G => execGeneratorFault g :: execFirstTouchFill G.ctx G.th.pc :: G.th.pend.flatMap fun p => match p.work with
    | .mem m => (m.lanes.filter fun l => decide (l.stage = .fresh)).map fun l => execFirstTouchFill G.ctx l.addr
    | _ => []

/-- The first-touch pages that a copy job of core `c` may wait for (R220): those of the ends of its next row. -/
def State.jobFills (s : State) (c : Nat) (j : Job) : List Going :=
  match j.kind with
  | .copy d left _ => (left.take 1).flatMap fun x =>
      let row (stride : W32) (r : Nat) : W64 := BitVec.ofInt 64 (stride.toInt * (r : Int))
      let srcs : List W64 := if d.kind = 2 then (match s.copyIndex c j d (x.1 / d.rowlen) with
          | .ok (r, _) => [d.src + row d.sstride r]
          | .error _ => []) else [d.src + row d.sstride (x.1 / d.rowlen)]
      ((d.dst + row d.dstride (x.1 / d.rowlen)) :: srcs).flatMap fun va =>
        [execFirstTouchFill j.ctx (va + BitVec.ofNat 64 (x.1 % d.rowlen)), execFirstTouchFill j.ctx (va + BitVec.ofNat 64 (d.rowlen - 1))]
  | _ => []

/-- How job `k` of a core goes on: a copy moves the rest of a row or counts down, another job reads or completes. -/
def Job.going (c k : Nat) (j : Job) : List Going :=
  (match j.kind with
   | .copy d left unc =>
     (left.take 1).map (fun x => execCopyBytesCounted c k x.1 (min x.2 (d.rowlen - x.1 % d.rowlen))) ++
       (if unc = 0 then [] else [execCopyBytesCounted c k unc 0])
   | _ => if j.readDone then [] else [execEngineReadDone c k []]) ++ [execEngineJobComplete c k]

/-- How the engines of a core go on, its flue, and the slots and basins of its cluster. -/
def State.engineGoing (s : State) (c : Nat) : List Going :=
  (((List.range (s.core c).jobs.length).zip (s.core c).jobs).flatMap fun x => Job.going c x.1 x.2) ++
    ((s.cluster (c / 8)).arrivals.map fun x => execEngineArrival x.1 x.2) ++ [execFlueCodeWrite c, execFlueQueueMove c] ++
    ((List.range 16).filter fun n => ((s.core c).slot n).busy).map (execGiveDrainDone c) ++
    (s.core c).jobs.flatMap (s.jobFills c) ++
    ((List.range 32).filter fun b => ((s.cluster (c / 8)).info b).clearing).map (execZeroEngineClear (c / 8)) ++
    [execWeirLeaseAcquire (c / 8)]

/-- How a team that waits for registers, a slot or a servicer goes on, and one that has exited. -/
def State.statusGoing (s : State) (t : Nat) (T : Team) : List Going :=
  let p := ctxPart T.ctx
  let rings := [execRingRecordPost p none, execRingRecordPost p ((s.ringOf p true).map (·.1))]
  match T.status with
  | .parked (.vgrow _ _) | .parked (.bar _ _) => [execVgrowGrant (t / 256), execRegisterStall (t / 256)]
  | .parked (.svc _ _ _ _ _) | .parked (.called _ _ _ _) | .parked (.saving _) =>
    execTeamSwitchOutSave t (Config.pick (s.free + 1) % 2 ^ (s.ctx T.ctx).run.swlg) :: rings
  | .parked .exit => [execTeamRetire t]
  | .switchedOut _ _ _ => execSvcResume t :: execSwitchedOutReturn t :: rings
  | _ => []

/-- What may go on while an agent waits. -/
def State.waitGoing (s : State) (a : Agent) : List Going :=
  (match s.thread? a with
   | some th => ((List.range th.pend.length).zip th.pend).flatMap fun x => x.2.going a x.1 ++ s.missGoing a x.2
   | none => []) ++
    s.storeGoing (agentCluster a) ++ s.msgGoing ++ (s.atomq.map fun q => execAtomicUnitOp q.unit) ++
    (match a with
     | .team t => s.engineGoing (t / 256) ++ ((s.team? t).map (s.statusGoing t)).getD []
     | .gen g => s.genFills g ++ (List.range 8).flatMap fun n => s.engineGoing (8 * (g / 16) + n)
     | .queue c => s.engineGoing c) ++ [execTeamWake a]

/-- The agent waits: one of these goes on, the device choosing. -/
def State.waitTurn (s : State) (a : Agent) : Host.Outcome State Fault Refusal :=
  let gs := s.waitGoing a
  gs.getD (s.choice % gs.length) (execTeamWake a) s.chosen

/-! ### The turn of an agent -/

/-- The agent in turn stops with its context (what it sent out then goes on, R356), issues the word it stands at (R57, R70, R72),
gives the turn to the one that its slot or Stoker now chooses (R291, R294), or waits. -/
def State.turn (s : State) (a : Agent) : Host.Outcome State Fault Refusal :=
  match s.agentCtx? a with
  | none => .next { s with cur := none }
  | some ctx =>
    if s.ctxRuns ctx = false then (if s.status? a = some .stopped ∧ s.unwritten ctx = false then s.waitTurn a else execAgentStop a s)
    else if s.canIssue a then
      (match s.fetch a with
       | .ok (some i) => exec i (s.turnUsed a)
       | .ok none => .next { s with cur := none }
       | .error e => .next (s.fetchFault a e))
    else if s.mayIssue a then .next { s with cur := s.turnOf a }
    else s.waitTurn a

/-- The turn of the current agent, if there is one. -/
def State.issueTurn (s : State) : Host.Outcome State Fault Refusal :=
  match s.cur with
  | none => .next s
  | some a => s.turn a

/-- One turn: the head of the agenda, or the current agent's. -/
def State.oneTurn (s : State) : Host.Outcome State Fault Refusal :=
  match s.agenda with
  | [] => s.issueTurn
  | .issue :: r => { s with agenda := r }.issueTurn
  | .event i :: r => if isEvent i then exec i { s with agenda := r } else .next { s with agenda := r }

/-! ### A word where the next step fetches it -/

/-- The launch that stands for the load of a word from outside: its blocks have every resource a record can ask for. -/
def loadedLaunch : Launch :=
  { rcd := { Record.zero with ver := 2, nlvl := 3, nteam := 1, ncore := 1, vregs := 256, basins := 32, accs := 8, tdg := 4, shape := [(0, 1)] }
    ctx := 0, ser := 0, from? := ⟨1, 0, false, false⟩, crec := 0, crsize := 0, reason := 0, phase := .running, waits := []
    waitTrig := none, dies := [], clusters := [], reserved := [], retired := [], cause := 0, recorded := false }

def loadedBlock : Block :=
  { launch := 0, ctx := 0, cluster := 0, gthread := 0, cores := [0], blkidx := 0, teams := [(0, 0)], gone := [], bars := [], td := []
    acc := [], held := 0, codeRes := [], accMarks := [] }

/-- Bytes of the word, from LEN. -/
def loadedBytes (w : Nat) : List Byte :=
  let b := natLe 16 w
  b.take ((wordBytes (b.headD 0)).getD 16)

/-- Where the page table of the loaded word's context lies: one leaf that maps the first 16 GiB with every right. -/
def loadedRoot : Nat := 0x100000

def loadedLeaf : Nat := 2 ^ 63 + 2 * 2 ^ 60 + 7 * 2 ^ 57

/-- The current context, launch and block of the loaded word, with a team and a generator thread. -/
def State.withBlock (s : State) : State :=
  let c := s.ctx 0
  let s := s.setCtx 0 { c with mode := .running, run := { c.run with root := loadedRoot, rsplit := false }, tlb := [] }
  let s := (s.setLaunch 0 loadedLaunch).setBlock 0 loadedBlock
  let s := s.setTeam 0 { Team.fresh 1 256 0 0 0 0 0 [0] with status := .ready, th := (Thread.zero.wrs 144 (maskSet (List.range 32) 1)) }
  let s := s.setGen 0 { th := .zero, status := .ready, blk := 0, ctx := 0, eseq := 0, open? := none, tags := [], emitting := none
                        flueWait := [], patching := none, faulted := none, frozen := false, skip := false }
  { s with agenda := [] }

/-- A sealed segment of core 0 holds the word at offset 0. -/
def State.withTeamWord (s : State) (bs : List Byte) : State :=
  let C := s.core 0
  let K := s.cluster 0
  { ((s.setCore 0 { C with code := mputs 0 C.code 0 bs }).setCluster 0 { K with segs := [⟨0, 0, 1, 1, 0, 0, 32, [0], true⟩] }) with
    cur := some (.team 0) }

/-- The word lies at virtual address 0, in an executable page. -/
def State.withGenWord (s : State) (bs : List Byte) : State :=
  { (s.memWr loadedRoot (natLe 8 loadedLeaf)).memWr 0 bs with cur := some (.gen 0) }

/-- The word heads the engine queue of core 0. -/
def State.withQueueWord (s : State) (bs : List Byte) : State :=
  let C := s.core 0
  { s.setCore 0 { C with queue := ⟨bs, 0, 0, 0, .queue, 0, false⟩ :: C.queue, head := .fresh, stamp := none } with cur := some (.queue 0) }

/-- A word placed where the agent of its place stands. -/
def State.placeWord (s : State) (w : Nat) : State :=
  let s := s.withBlock
  match tablePlace (BitVec.ofNat 128 w) with
  | .team => s.withTeamWord (loadedBytes w)
  | .gen => s.withGenWord (loadedBytes w)
  | .queue => s.withQueueWord (loadedBytes w)

end Sys2Proof.Machine
end

