-- ==== Sys2Proof/Machine/Step.lean ====
section
/-! DEFINITION. One step of the package, and the state in which the next step runs a given word. -/

namespace Sys2Proof.Machine

/-- Time passes, then one turn is taken. -/
def step (s : State) : Host.Outcome State Fault Refusal := s.tick.oneTurn

/-- The state with the word `w` (numbered as the opcode table numbers its bits) where `step` fetches its next instruction. -/
def State.withFetchWord (s : State) (_nbits w : Nat) : State := s.placeWord w

end Sys2Proof.Machine
end

