-- ==== Sys2Proof/Safety.lean ====
section
/-! DEFINITION. The terms that claims about the package use: the invariant of a state, when a word may issue, and what it
means that a word changed one register file only. -/

namespace Sys2Proof.Machine

/-- What every reachable state keeps: device memory stands in its canonical form. -/
def State.Inv (s : State) : Prop := Memory.wf s.mem = true

/-- Every byte of device memory reads in `t` as it reads in `s`. -/
def SameMem (s t : State) : Prop := ∀ pa, t.mem8 pa = s.mem8 pa

/-- The word `i` may issue for agent `a` with thread `th`: the agent is in turn, the word is one of its place (R72, R89),
no switch marker of the word waits (R58, R261), and for a generator thread no earlier access can still fault and no
register of the word is still to be written (R58, R353). -/
structure Issuing (s : State) (i : Instr) (a : Agent) (th : Thread) : Prop where
  cur : s.cur = some a
  place : agentPlace a ∈ encPlaces i
  thread : s.thread? a = some th
  marker : i.marked = true → th.busy = false
  clear : ∀ g, a = .gen g → ∀ p ∈ th.pend, p.mayFault = false ∧ (p.finished = false → ∀ r ∈ p.work.dests, r ∉ Instr.touches i th.rd)

/-- The same for a word of a team. -/
structure TeamIssuing (s : State) (i : Instr) (t : Nat) (T : Team) : Prop where
  team : s.team? t = some T
  issuing : Issuing s i (.team t) T.th

/-- The same for a word of a generator thread. -/
structure GenIssuing (s : State) (i : Instr) (g : Nat) (G : Gen) : Prop where
  gen : s.gen? g = some G
  issuing : Issuing s i (.gen g) G.th

/-- The word `i` heads the queue of core `c`, which is in turn, for block `B` (R73, R218). -/
structure QueueIssuing (s : State) (i : Instr) (c : Nat) (e : Emitted) (rest : List Emitted) (B : Block) : Prop where
  cur : s.cur = some (.queue c)
  place : Place.queue ∈ encPlaces i
  head : (s.core c).queue = e :: rest
  block : s.block? e.blk = some B

/-- From `s` to `t` only the thread of `a` changed: register `d` holds `v` and is not poisoned (R432), every other register its old value
and mark, the PC moved by `len`; FPFLAGS, the rounding mode, outstanding work and every byte of memory are as before. -/
def WroteS (s t : State) (a : Agent) (th : Thread) (d : Nat) (v : W64) (len : Nat) : Prop :=
  ∃ th', t = s.setThread a th' ∧ t.thread? a = some th' ∧ th'.rd d = v ∧ (∀ r, r ≠ d → th'.rd r = th.rd r) ∧
    (∀ w, w ∈ th'.marks ↔ w ∈ th.marks ∧ w / 2 ≠ d) ∧
    th' = { th with s := th'.s, marks := th'.marks, pc := th.pc + BitVec.ofNat 64 len } ∧ SameMem s t

/-- As `WroteS`, with the flags `f` ORed into FPFLAGS (R23). -/
def WroteSF (s t : State) (a : Agent) (th : Thread) (d : Nat) (v : W64) (f : BitVec 5) (len : Nat) : Prop :=
  ∃ th', t = s.setThread a th' ∧ t.thread? a = some th' ∧ th'.rd d = v ∧ (∀ r, r ≠ d → th'.rd r = th.rd r) ∧
    (∀ w, w ∈ th'.marks ↔ w ∈ th.marks ∧ w / 2 ≠ d) ∧
    th' = { th with s := th'.s, marks := th'.marks, flags := th.flags ||| f, pc := th.pc + BitVec.ofNat 64 len } ∧ SameMem s t

/-- From `s` to `t` only the PC of the thread of `a` moved, by `len`. -/
def OnlyPc (s t : State) (a : Agent) (th : Thread) (len : Nat) : Prop :=
  t = s.setThread a { th with pc := th.pc + BitVec.ofNat 64 len } ∧ SameMem s t

/-- A lane register or pair of `wide` words takes the number `x`. -/
def laneBits (wide : Bool) (x : Nat) : Nat := if wide then x % 2 ^ 64 else x % 2 ^ 32

/-- From `s` to `t` only team `k` changed: in every lane of `ls`, v(d) (with v(d + 1) where `wide`) holds `f` of the lane; every
other vector register of every lane keeps its value; the predicates, the uniform registers and all else of the team are as before
but for FPFLAGS, into which `fl` is ORed, the PC, which moved by `len`, and the lanes a replay still owes (R263); every byte of
memory is as before. -/
def WroteV (s t : State) (k : Nat) (T : Team) (ls : List Nat) (wide : Bool) (d : Nat) (f : Nat → Nat) (fl : BitVec 5) (len : Nat) : Prop :=
  ∃ T', t = s.setTeam k T' ∧ t.team? k = some T' ∧
    (∀ l ∈ ls, T'.vrd wide d l = laneBits wide (f l)) ∧
    (∀ r l, r < 256 → (l ∉ ls ∨ (r ≠ d ∧ ¬(wide = true ∧ r = d + 1))) → T'.vr r l = T.vr r l) ∧
    (∀ r l, r < 256 → (vkey r l ∈ T'.vmarks ↔ vkey r l ∈ T.vmarks ∧ (l ∉ ls ∨ (r ≠ d ∧ ¬(wide = true ∧ r = d + 1))))) ∧
    T' = { T with
      v := T'.v, vmarks := T'.vmarks
      th := { T.th with flags := T.th.flags ||| fl, pc := T.th.pc + BitVec.ofNat 64 len }
      partialMask := if T.hcause = 0 then none else T.partialMask } ∧ SameMem s t

/-- From `s` to `t` the thread of `a` has one more outstanding item, work `w` on the counters `paths` (R192), which carries the
word's PC and provenance; the PC moved by `len`; no register and no byte of memory changed. -/
def Queued (s t : State) (a : Agent) (th : Thread) (len : Nat) (paths : List Path) (w : Work) : Prop :=
  t = { s.setThread a { th with
      pend := th.pend ++ [⟨s.uid, th.pc, s.prov a, w, paths, false⟩]
      pc := th.pc + BitVec.ofNat 64 len } with uid := s.uid + 1 } ∧ SameMem s t

/-- The in-flight counters of these paths have room (R192). -/
def CountersFree (th : Thread) (paths : List Path) : Prop := ∀ p ∈ paths, th.counter p < 255

/-! ### Typed values -/

/-- The n low bits of a uniform register under a type of n bits (R61, R114). -/
def low (ty : BitVec 3) (x : W64) : BitVec (tyBits ty) := x.setWidth (tyBits ty)

/-- An n-bit result in a 64-bit register: sign-extended for a signed type, zero-extended otherwise (R12). -/
def extend (ty : BitVec 3) (v : BitVec (tyBits ty)) : W64 := if tySigned ty then v.signExtend 64 else v.setWidth 64

/-- The n low bits of a lane value. -/
def lowN (ty : BitVec 3) (x : Nat) : BitVec (tyBits ty) := BitVec.ofNat (tyBits ty) x

/-- What a typed result leaves in a lane register or pair (R133). -/
def laneOf (ty : BitVec 3) (v : BitVec (tyBits ty)) : Nat := (extend ty v).toNat

/-- A two-source uniform word writes `f` of the n low bits of its sources, extended, and changes nothing else; the immediate is
sign-extended where `imm`, else zero-extended (R112, R113). -/
def UniBinary (i : UBin → Instr) (imm : Bool) (f : (n : Nat) → Bool → BitVec n → BitVec n → BitVec n) : Prop :=
  ∀ (s : State) (a : Agent) (th : Thread) (o : UBin), Issuing s (i o) a th → ∃ t, exec (i o) s = .next t ∧
    WroteS s t a th o.d.toNat
      (extend o.ty (f (tyBits o.ty) (tySigned o.ty) (low o.ty (th.rd o.a.toNat)) (low o.ty (th.src imm o.src)))) (srcLen o.src)

/-- A one-source uniform word likewise. -/
def UniUnary (i : UUn → Instr) (f : (n : Nat) → BitVec n → BitVec n) : Prop :=
  ∀ (s : State) (a : Agent) (th : Thread) (o : UUn), Issuing s (i o) a th → ∃ t, exec (i o) s = .next t ∧
    WroteS s t a th o.d.toNat (extend o.ty (f (tyBits o.ty) (low o.ty (th.rd o.a.toNat)))) 8

/-- From `s` to `t` the thread of `a` stands at `pc` and nothing else changed. -/
def Jumped (s t : State) (a : Agent) (th : Thread) (pc : W64) : Prop := t = s.setThread a { th with pc := pc } ∧ SameMem s t

/-- From `s` to `t` the agent has parked for `w` with its PC moved by `len`: the wait is stamped with GTIME and the watchdog period
of the partition (R290, R354), and no register and no byte of memory changed. -/
def Parked (s t : State) (a : Agent) (th : Thread) (w : Wait) (len : Nat) : Prop :=
  t = (s.setThread a { th with
    pc := th.pc + BitVec.ofNat 64 len, since := s.gtime
    period := (s.part (ctxPart ((s.agentCtx? a).getD 0))).wdtime }).setStatus a (.parked w) ∧
  t.status? a = some (.parked w) ∧ SameMem s t

/-- From `s` to `t` only team `k` changed: predicate `d` holds `f` in the lanes of `ls` unless `d` is p7, which is never written (R13);
every other predicate bit, every vector and uniform register are as before; `fl` is ORed into FPFLAGS and the PC moved by 8. -/
def WroteP (s t : State) (k : Nat) (T : Team) (ls : List Nat) (d : Nat) (f : Nat → Bool) (fl : BitVec 5) : Prop :=
  ∃ T', t = s.setTeam k T' ∧ t.team? k = some T' ∧
    (∀ l ∈ ls, d ≠ 7 → T'.pred d l = f l) ∧
    (∀ r l, r < 8 → (l ∉ ls ∨ r ≠ d ∨ d = 7) → T'.pred r l = T.pred r l) ∧
    T' = { T with
      p := T'.p
      th := { T.th with flags := T.th.flags ||| fl, pc := T.th.pc + 8 }
      partialMask := if T.hcause = 0 then none else T.partialMask } ∧ SameMem s t

/-- From `s` to `t` only team `k` changed: the mask set of ⌈W/2⌉ registers from s(d) holds the lanes `ls` in the layout of R15 (lane
64 i + b is bit b of register i), every other register is as before, and the PC moved by 8. -/
def WroteMask (s t : State) (k : Nat) (T : Team) (d : Nat) (ls : Nat → Prop) : Prop :=
  ∃ T', t = s.setTeam k T' ∧ t.team? k = some T' ∧
    (∀ i b, i < T.maskRegs → b < 64 → ((T'.th.rd (d + i)).getLsbD b = true ↔ ls (64 * i + b))) ∧
    (∀ r, ¬(d ≤ r ∧ r < d + T.maskRegs) → T'.th.rd r = T.th.rd r) ∧
    (∀ w, w ∈ T'.th.marks ↔ w ∈ T.th.marks ∧ ¬(d ≤ w / 2 ∧ w / 2 < d + T.maskRegs)) ∧
    T' = { T with
      th := { T.th with s := T'.th.s, marks := T'.th.marks, pc := T.th.pc + 8 }
      partialMask := if T.hcause = 0 then none else T.partialMask } ∧ SameMem s t

/-- From `s` to `t` the head command of core `c`'s queue was consumed. -/
def Popped (s t : State) (c : Nat) (rest : List Emitted) : Prop :=
  t = s.setCore c { s.core c with queue := rest, head := .fresh, stamp := none }

/-- x < y as the type reads them. -/
def tyLt (signed : Bool) {n : Nat} (x y : BitVec n) : Bool := if signed then x.slt y else x.ult y

/-- The state with team `k` as `T`, for which the replay of the word at its PC is over (R263). -/
def State.replayed (s : State) (k : Nat) (T : Team) : State :=
  s.setTeam k { T with partialMask := if T.hcause = 0 then none else T.partialMask }

/-- From `s` to `t` the memory instruction `m` has become outstanding work of `a` with its counters (R192; a generator thread has
none), its word's PC and provenance; the PC moved by `len`; no register, predicate or byte of memory changed, no other thread and no
other part of the state, but for the lanes that a replay of a team's word still owed (R263). -/
def QueuedMem (s t : State) (a : Agent) (th : Thread) (len : Nat) (m : MemOp) : Prop :=
  match a with
  | .team k => ∃ T, s.team? k = some T ∧ Queued (s.replayed k T) t a th len m.paths (.mem m)
  | _ => Queued s t a th len [] (.mem m)

/-- From `s` to `t` the head command of core `c`'s queue has become the job `j` behind the others, under a new number, with its block
and its provenance (R217, R218), and was consumed; nothing else changed. -/
def JobIssued (s t : State) (c : Nat) (e : Emitted) (rest : List Emitted) (j : Job) : Prop :=
  t = { s.setCore c { s.core c with
      jobs := (s.core c).jobs ++ [{ j with id := s.uid, blk := e.blk, prov := e.tag }], queue := rest, head := .fresh, stamp := none } with
    uid := s.uid + 1 } ∧ SameMem s t

/-- The watchdog stamp of the head command of core `c` of a block `B`: the one it has, or GTIME with the partition's period (R354). -/
def State.headStamp (s : State) (c : Nat) (B : Block) : Nat × Nat :=
  (s.core c).stamp.getD (s.gtime, (s.part (ctxPart B.ctx)).wdtime)

/-- From `s` to `t` the head command of core `c`'s queue has arrived on barrier `n` of its block (R127, R218 step 1) and waits there
for the next completion; nothing else changed. -/
def HeadWaits (s t : State) (c : Nat) (e : Emitted) (B : Block) (n : Nat) : Prop :=
  t = (s.setBlock e.blk (B.setBar n ((B.bar n).arrive s.choice))).setCore c { s.core c with
    head := .waitBar n (B.bar n).flips, stamp := some (s.headStamp c B) } ∧ SameMem s t

/-- The head command has nothing to wait for: it names no barrier, or its barrier has completed since it arrived. -/
def HeadPast (s : State) (c : Nat) (B : Block) (bar : Option Nat) : Prop :=
  bar = none ∨ (s.core c).head = .ready ∨ ∃ n seen, (s.core c).head = .waitBar n seen ∧ (B.bar n).flips ≠ seen

/-- The head command still waits: its barrier has not completed since it arrived. -/
def HeadHeld (s : State) (c : Nat) (B : Block) (bar : Option Nat) : Prop :=
  bar ≠ none ∧ ∃ n seen, (s.core c).head = .waitBar n seen ∧ (B.bar n).flips = seen

/-- A `tdset` that the thread of the emitted word `e` issued before it has not taken effect (R212). -/
def TdsetAhead (s : State) (c : Nat) (e : Emitted) : Prop :=
  ∃ G p d img, s.gen? (16 * (c / 8) + e.gen) = some G ∧ p ∈ G.th.pend ∧ p.finished = false ∧ p.id < e.run ∧ p.work = .held (.tdset d img)

/-- The job of the k-th descriptor, at `off` of basin `b`, of a copy list that core `c` issues (R208, R210). -/
def State.copyJob (s : State) (c b off ctx k : Nat) : Job :=
  let d := (parseCopy (s.basinRd (c / 8) b (off + 64 * k) 64)).1
  let r := s.copyRegions c ctx d
  { Job.base (.copy d [(0, d.rows * d.rowlen)] 0) 0 0 ctx with
    num := k, reads := r.1, writes := r.2.1 ++ r.2.2, slots := d.slotNums.map fun n => s.resolve c n ctx }

/-- That descriptor is a legal one (R208). -/
def State.copyLegal (s : State) (c b off k : Nat) : Bool := (parseCopy (s.basinRd (c / 8) b (off + 64 * k) 64)).2

/-- Its source, destination and count footprints keep apart (R208, R340). -/
def State.copyApart (s : State) (c b off ctx k : Nat) : Prop :=
  let r := s.copyRegions c ctx (parseCopy (s.basinRd (c / 8) b (off + 64 * k) 64)).1
  (∀ x ∈ r.1, ∀ y ∈ r.2.1 ++ r.2.2, x.meets y = false) ∧ ∀ x ∈ r.2.2, ∀ y ∈ r.2.1, x.meets y = false

/-- The state in which the first `k` descriptors of the list have become jobs. -/
def State.copied (s : State) (c b off : Nat) (e : Emitted) (ctx k : Nat) : State :=
  if k = 0 then s else { s.setCore c { s.core c with
    jobs := (s.core c).jobs ++ (List.range k).map fun n => { s.copyJob c b off ctx n with id := s.uid + n, blk := e.blk, prov := e.tag } } with
    uid := s.uid + k }

/-- The job of a matrix command `i` with the fields `o` (R214 to R218): both descriptors as they stand at issue, the regions and slots
they name, and the registers staged from the team. -/
def State.matrixJob (s : State) (i : Instr) (o : QMma) (c : Nat) (B : Block) : Job :=
  let da := mget 0 B.td o.a.toNat
  let db := mget 0 B.td o.b.toNat
  let kv := QMma.kv i o
  let jmax := (kv + 31) / 32 - 1
  let rows := match i with
    | .mmag _ => TDesc.rows da
    | _ => 64
  let stage (regs : List Nat) : List W32 := match s.stager? B o with
    | some T => regs.flatMap fun r => (List.range 64).map fun m => T.vr r (64 * o.ext.lsel.toNat + m)
    | none => []
  let st := QMma.staged i o
  { Job.base (.matrix i) 0 0 B.ctx with
    reads := s.descRegions c B.ctx da rows jmax ++ s.descRegions c B.ctx db kv jmax
    da := da, db := db, slots := s.descSlots c B.ctx da ++ s.descSlots c B.ctx db
    idx := stage st.1, pos := stage st.2.1, scl := stage st.2.2 }

/-- The job of an accumulator move (R221): its tile is read, written, or there is none. -/
def State.accJob (s : State) (i : Instr) (c : Nat) (B : Block) (tile : Option Nat) (isWrite : Bool) : Job :=
  let j := Job.base (.accMove i) 0 0 B.ctx
  match tile with
  | some n =>
    let x := mget 0 B.td n
    let r := s.descRegions c B.ctx x 64 0
    { j with da := x, slots := s.descSlots c B.ctx x, reads := if isWrite then [] else r, writes := if isWrite then r else [] }
  | none => { j with readDone := true }

/-- The region of `n` bytes at `lo` of a slot, where the slot names a basin of the context. -/
def State.slotRegion (s : State) (c ctx slot lo n : Nat) : List Region :=
  match s.slotBasin c slot ctx with
  | .ok b => [⟨some b, (lo : Int), 0, 1, n, false⟩]
  | .error _ => []

/-- The job of a Weir command (R225 to R231): the bytes it reads, `rd`, or writes, `wr`, as slot, offset and count. -/
def State.weirJob (s : State) (i : Instr) (c : Nat) (B : Block) (rd wr : Option (Nat × Nat × Nat)) : Job :=
  let j := Job.base (.weir i) 0 0 B.ctx
  match rd, wr with
  | some (slot, lo, n), _ => { j with slots := [s.resolve c slot B.ctx], reads := s.slotRegion c B.ctx slot lo n }
  | none, some (slot, lo, n) => { j with slots := [s.resolve c slot B.ctx], writes := s.slotRegion c B.ctx slot lo n }
  | none, none => { j with readDone := true }

/-- A byte list is one word: its length is the one its first byte gives (R55). -/
def OneWord (w : List Byte) : Prop := w.head?.bind wordBytes = some w.length

/-- No other thread of the cluster waits for room in a flue, and this one holds no place among the waits (R238, R367). -/
def FlueQuiet (s : State) (g : Nat) : Prop :=
  ∀ q ∈ s.gens, q.1 / 16 = g / 16 → q.2.flueWait = [] ∧ (q.1 ≠ g → q.2.status ≠ .parked .flue)

/-- The words a thread emits to the cores of `cmask` have room: no thread of the cluster waits for one of the flues, and each flue has
an entry for every word (R238, R367). -/
def FlueFree (s : State) (g cmask : Nat) (ws : List (List Byte)) : Prop :=
  FlueQuiet s g ∧ ∀ c ∈ maskCores (g / 16) cmask, (s.core c).flue.length + ws.length ≤ 64

/-- The words `ws` go in order into the flue of every core of `cmask`, behind the words there, with the thread's next tag, to the place
`dest` gives for the bytes before each (R237, R238); the emission sequence advances, the tag is recorded with the PC (R244), the open
segment becomes `o`, the PC moves by `len`; the teams, the blocks, the clusters, the other cores and threads and every byte of memory are
as before. -/
def WordsEmitted (s t : State) (g : Nat) (G : Gen) (ws : List (List Byte)) (cmask len : Nat) (dest : Nat → FlueDest) (o : Option OpenSeg) :
    Prop :=
  (∀ c ∈ maskCores (g / 16) cmask, t.core c = { s.core c with
    flue := (s.core c).flue ++ (List.range ws.length).map fun k =>
      ⟨ws.getD k [], G.nextTag g, g % 16, G.blk, dest (ws.take k).flatten.length, s.uid, false⟩ }) ∧
  (∀ c, c ∉ maskCores (g / 16) cmask → t.core c = s.core c) ∧
  t.gen? g = some { G with
    eseq := (G.eseq + 1) % (2 ^ 28 - 1), tags := ((G.nextTag g, G.th.pc) :: G.tags).take 1024, open? := o, flueWait := []
    th := { G.th with pc := G.th.pc + BitVec.ofNat 64 len } } ∧
  (∀ h, h ≠ g → t.gen? h = s.gen? h) ∧ t.teams = s.teams ∧ t.blocks = s.blocks ∧ t.clusters = s.clusters ∧ SameMem s t

/-- The first word of the bytes `bs` cannot be emitted, for the cause `x`: its first byte names no length (R55, R69), its bytes run out,
or in the open segment `x` it would cross a fetch block or end at byte 28, or does not fit the size (R69, R236, R240). -/
def FirstBad (seg : Option OpenSeg) (bs : List Byte) (cause : Nat) : Prop :=
  ∃ b tl, bs = b :: tl ∧ match wordBytes b with
    | none => cause = 7
    | some k => (bs.length < k ∧ cause = 0x13) ∨ (k ≤ bs.length ∧ ∃ x, seg = some x ∧
        ((badPlace (x.off + x.emitted) k = true ∧ cause = 7) ∨
          (badPlace (x.off + x.emitted) k = false ∧ x.size < x.emitted + k ∧ cause = 0x13)))

/-- An offset is free for a segment of `size` bytes on every core of `cmask`: a multiple of 32 below the code left to segments there,
and apart from the bytes of every segment that one of the cores holds (R239, R241). -/
def OffFree (s : State) (cl cmask size off : Nat) : Prop :=
  off % 32 = 0 ∧ off < 196608 ∧ (∀ c ∈ maskCores cl cmask, off + size ≤ s.codeTop c) ∧
    ∀ x ∈ (s.cluster cl).segs, x.size = 0 ∨ x.held &&& cmask = 0 ∨ off + size ≤ x.off ∨ x.off + x.size ≤ off

/-- The words `ws` fit the open segment `x`: no word crosses a fetch block or ends at byte 28, and the size holds them (R69, R240). -/
def SegFits (x : OpenSeg) (ws : List (List Byte)) : Prop :=
  (∀ k < ws.length, badPlace (x.off + x.emitted + (ws.take k).flatten.length) (ws.getD k []).length = false) ∧
  x.emitted + ws.flatten.length ≤ x.size

/-- The open segment with the words `ws` of tag `tag` emitted into it (R240). -/
def segWith (x : OpenSeg) (ws : List (List Byte)) (tag : Nat) : OpenSeg :=
  { x with
    emitted := x.emitted + ws.flatten.length
    starts := x.starts ++ (List.range ws.length).map fun k => x.emitted + (ws.take k).flatten.length
    lastTag := tag }

/-- Core `c` with the word of its code store at `off` patched: the low bits of `v` in field `f` (R48, R242). -/
def patchedCore (s : State) (c off f v : Nat) : Core :=
  { s.core c with code := mputs 0 (s.core c).code off (patchWord (s.storedWord c off) f v) }

/-- From `s` to `t` only the special state of team `k` of a fault changed (R25, R348): the handler registers hold the cause, the
address, the provenance, the old PC, MBASE and the mask set; the mask set in place names `lanes`; the PC is the handler's; no other
register, no predicate and no byte of memory changed. -/
def EnteredHandler (s t : State) (k : Nat) (T : Team) (cause haddr : W64) (lanes : List Nat) : Prop :=
  ∃ T', t = s.setTeam k T' ∧ t.team? k = some T' ∧
    (∀ j < T.maskRegs, T'.hmsave.getD j 0 = T.th.rd (T.mbase.toNat + j)) ∧
    (∀ l < 32 * T.words, T'.maskBit l = lanes.contains l) ∧
    (∀ r, ¬(T.mbase.toNat ≤ r ∧ r < T.mbase.toNat + T.maskRegs) → T'.th.rd r = T.th.rd r) ∧
    (∀ w, w ∈ T'.th.marks ↔ w ∈ T.th.marks ∧ ¬(T.mbase.toNat ≤ w / 2 ∧ w / 2 < T.mbase.toNat + T.maskRegs)) ∧
    T' = { T with
      th := { T.th with
        s := T'.th.s, marks := T'.th.marks, pc := BitVec.ofNat 64 (s.ctx T.ctx).run.hentry
        mon := if T.th.mon = .none then .none else .triggered }
      hcause := cause, haddr := haddr, hprov := BitVec.ofNat 64 (s.tagAt (k / 256) T.th.pc), hpc := T.th.pc
      hmbase := T.mbase.setWidth 64, hmsave := T'.hmsave, status := .ready } ∧
    SameMem s t

/-- From `s` to `t` the halt line of a context rose with a cause (R355), which is the first unless the context is halted or lost already: the
first halts it, is to be told to the servicer of error recovery (R356), and goes into the error record unless that holds one (R413). The
stop record `r` is kept either way (R412). The other contexts and partitions, the blocks, the clusters and every byte of memory are as
before. -/
def HaltRaised (s t : State) (ctx cause loc tag : Nat) (r : StopRec) : Prop :=
  let c := s.ctx ctx
  let P := s.part (ctxPart ctx)
  let first : Prop := c.mode ≠ .halted ∧ c.mode ≠ .lost
  (first → t.ctx ctx = { c with
    mode := .halted, cause := cause, stops := c.stops ++ [r]
    note := some ⟨3, .halt ctx, shortRecord 3 c.run.cid loc 0 0 0 0 cause 0 0, P.er⟩ }) ∧
  (¬first → t.ctx ctx = { c with stops := c.stops ++ [r] }) ∧
  (first → P.err0v = false → t.part (ctxPart ctx) = { P with
    err0v := true, err0lost := false, err0cause := cause, err1loc := loc, err1cid := c.run.cid
    err2 := BitVec.ofNat 64 s.gtime, err3 := tag }) ∧
  (¬first ∨ P.err0v = true → t.part (ctxPart ctx) = P) ∧
  (∀ x, x ≠ ctx → t.ctx x = s.ctx x) ∧ (∀ p, p ≠ ctxPart ctx → t.part p = s.part p) ∧
  t.blocks = s.blocks ∧ t.clusters = s.clusters ∧ t.launches = s.launches ∧ SameMem s t

/-- A stop record of a context is primary before it has halted and secondary after (R355, R412). -/
def State.secondary (s : State) (ctx : Nat) : Nat := if (s.ctx ctx).mode = .halted then 1 else 0

/-- From `s` to `t` thread `g` took a generator fault (R353): with a generator handler it stops before its instruction and its record waits
for the servicer; without one the halt line rises with cause 0x0012, and the stop record holds the fault's own cause. The teams, the
cores and the other threads are as before. -/
def GenStopped (s t : State) (g : Nat) (G : Gen) (cause : Nat) : Prop :=
  let c := s.ctx G.ctx
  let P := s.part (ctxPart G.ctx)
  let r := s.stopRecord (.gen g) cause (s.secondary G.ctx)
  (c.run.gh = true → t = (s.setGen g { G with status := .parked .answer, faulted := some cause }).setPart (ctxPart G.ctx) { P with
    waiting := P.waiting ++ [⟨2, .gen g, shortRecord 2 c.run.cid (coreloc (g / 16) 0) (g % 16) G.th.pc.toNat 0 0 cause G.eseq
      ((G.open?.map (·.cmask)).getD 0), P.er⟩] }) ∧
  (c.run.gh = false → HaltRaised s t G.ctx 0x12 (agentLoc (.gen g)) r.tag r ∧
    t.gen? g = some { G with status := .stopped, th := G.th.discard } ∧ (∀ h, h ≠ g → t.gen? h = s.gen? h) ∧ t.teams = s.teams ∧
    t.cores = s.cores) ∧
  SameMem s t

/-- A message on its way out of router `r` through port `p`: to the neighbour, or through CL to the router's own interface (R312). -/
def outMsg (r p line : Nat) (k : MsgKind) : Msg := if p = 4 then ⟨r, 5, line, k, false, 0⟩ else ⟨neighbour r p, (p + 2) % 4, line, k, false, 0⟩

/-- From `s` to `t` router `r` sent the messages `out` behind those of `before` and has the entry `e` of a line, in the way that the entry
before had if there was one; its other entries, the other routers, the lines of the holders but home slices, the clusters and every byte
of memory are as before. -/
def Routed (s t : State) (r line : Nat) (before out : List Msg) (e : Option TEntry) : Prop :=
  t.msgs = before ++ out ∧
  (∃ w, (∀ x, (s.router r).entry? line = some x → w = x.way) ∧ (t.router r).entry? line = e.map fun e => { e with way := w }) ∧
  (∀ l, l ≠ line → (t.router r).entry? l = (s.router r).entry? l) ∧ (∀ q, q ≠ r → t.router q = s.router q) ∧
  (∀ h < 8256, ∀ l, t.line h l = s.line h l) ∧ t.clusters = s.clusters ∧ SameMem s t

/-- An entry with a link through a port at a distance (R315, R319). -/
def TEntry.linked (e : TEntry) (port dist : Nat) : TEntry := { e with links := mput 0 e.links port (min 7 dist), orphan := false }

/-- What a teardown that has its last answer asks for (R320, R321, R324): what is sent, by port, and the entry that stays. An entry
that a steered read pins stays without links (R316). -/
def tearResult (e : TEntry) (x : Tear) : List (Nat × MsgKind) × Option TEntry :=
  let gone : Option TEntry := if e.pins = 0 then none else some { e with links := [], tear := none, own := false, orphan := true }
  let owned : TEntry := { e with links := [], tear := none, own := true, root := 4 }
  match x.why with
  | .own req path => (match path with
    | (_, p) :: rest => ([(p, .grant req (!x.kept) rest)], some (owned.linked p path.length))
    | [] => ([], some owned))
  | .tile _ => ([], gone)
  | .cinv _ => ([], gone)
  | .parent p _ => ([(p, .ack x.data false x.kept)], gone)
  | .evict =>
    if e.root = 4 then ([], gone)
    else ((if x.data then [(e.root, .prune true false true)] else []) ++ [(e.root, .cut)], gone)

/-- What a router does with an entry and its teardown: the teardown goes on while answers are missing, from links or, for an ownership,
from other packages (R330), and has its result then. -/
def Torn (s t : State) (r : Nat) (before invals : List Msg) (e : TEntry) (x : Tear) : Prop :=
  if x.wait ≠ [] ∨ (x.why.grants && s.tileWaits e.line) = true then Routed s t r e.line before invals (some { e with tear := some x })
  else Routed s t r e.line before (invals ++ (tearResult e x).1.map fun y => outMsg r y.1 e.line y.2) (tearResult e x).2

/-- The writer is PF0 of the port that holds the lease (R371). -/
def HostWriter (s : State) (w : Writer) : Prop := ∃ port, w = .pf0 port ∧ s.pf0Fenced port = false ∧ s.pf0Ok port = true

/-- The writer is the leading service pair (R371, R379). -/
def PairWriter (s : State) (w : Writer) : Prop := ∃ die, w = .pair die ∧ s.leads die = true

/-- An integer condition of R84 on two values of a type. -/
def holds (c : BitVec 3) (signed : Bool) {n : Nat} (x y : BitVec n) : Bool :=
  match c.toNat with
  | 0 => decide (x = y)
  | 1 => decide (x ≠ y)
  | 2 => tyLt signed x y
  | 3 => !tyLt signed y x
  | 4 => tyLt signed y x
  | 5 => !tyLt signed x y
  | _ => false

/-- A two-source vector word without saturation writes `f` of the n low bits of its sources in the active lanes. -/
def VecBinary (i : VBin → Instr) (f : (n : Nat) → Bool → BitVec n → BitVec n → BitVec n) : Prop :=
  ∀ (s : State) (k : Nat) (T : Team) (o : VBin), TeamIssuing s (i o) k T → limVBin o T = true → o.sat = false →
    ∃ t, exec (i o) s = .next t ∧ WroteV s t k T (T.active o.g.toNat) (tyWide o.ty) o.d.toNat
      (fun l => laneOf o.ty (f (tyBits o.ty) (tySigned o.ty) (lowN o.ty (T.vrd (tyWide o.ty) o.a.toNat l)) (lowN o.ty (T.vsrc o.ty l o.src))))
      0 (vsrcLen o.src)

/-- With `.sat` it writes the exact value `f`, clamped to the type (R98, R137). -/
def VecSat (i : VBin → Instr) (f : Int → Int → Int) : Prop :=
  ∀ (s : State) (k : Nat) (T : Team) (o : VBin), TeamIssuing s (i o) k T → limVBin o T = true → o.sat = true →
    ∃ t, exec (i o) s = .next t ∧ WroteV s t k T (T.active o.g.toNat) (tyWide o.ty) o.d.toNat
      (fun l => laneOf o.ty (BitVec.ofInt _
        (max (tyMin o.ty) (min (tyMax o.ty) (f (tyVal o.ty (T.vrd (tyWide o.ty) o.a.toNat l)) (tyVal o.ty (T.vsrc o.ty l o.src)))))))
      0 (vsrcLen o.src)

/-- A vector shift by the unsigned count of the second source. -/
def VecShift (i : VBin → Instr) (f : (n : Nat) → BitVec n → Nat → BitVec n) : Prop :=
  ∀ (s : State) (k : Nat) (T : Team) (o : VBin), TeamIssuing s (i o) k T →
    (T.vOk (tyWide o.ty) o.d && T.vOk (tyWide o.ty) o.a && T.vsrcOk false o.src) = true → o.sat = false →
    ∃ t, exec (i o) s = .next t ∧ WroteV s t k T (T.active o.g.toNat) (tyWide o.ty) o.d.toNat
      (fun l => laneOf o.ty (f (tyBits o.ty) (lowN o.ty (T.vrd (tyWide o.ty) o.a.toNat l)) (T.vcount l o.src))) 0 (vsrcLen o.src)

/-- A vector count word writes a number into the single register v(D). -/
def VecCount (i : VUn → Instr) (f : (n : Nat) → BitVec n → Nat) : Prop :=
  ∀ (s : State) (k : Nat) (T : Team) (o : VUn), TeamIssuing s (i o) k T → (T.vOk false o.d && T.vOk (tyWide o.ty) o.a) = true →
    ∃ t, exec (i o) s = .next t ∧ WroteV s t k T (T.active o.g.toNat) false o.d.toNat
      (fun l => f (tyBits o.ty) (lowN o.ty (T.vrd (tyWide o.ty) o.a.toNat l))) 0 8

/-- A two-source floating vector word writes the result `f` of its lane operands and ORs in the flags of every active lane (R23). -/
def VecFloat2 (i : VF2 → Instr) (f : VF2 → Team → Nat → FRes) : Prop :=
  ∀ (s : State) (k : Nat) (T : Team) (o : VF2), TeamIssuing s (i o) k T → limVF2 o T = true →
    ∃ t, exec (i o) s = .next t ∧ WroteV s t k T (T.active o.g.toNat) (fWide o.ty) o.d.toNat (fun l => (f o T l).1)
      ((T.active o.g.toNat).foldl (fun x l => x ||| (f o T l).2) 0) 8

/-- A one-source variable-latency floating word queues the lane results, flags beside them (R19, R155, R156). -/
def VecFloat1Later (i : VF1 → Instr) (f : VF1 → Nat → FRes) : Prop :=
  ∀ (s : State) (k : Nat) (T : Team) (o : VF1), TeamIssuing s (i o) k T → limVF1 o T = true →
    ∃ t, exec (i o) s = .next t ∧ Queued s t (.team k) T.th 8 [] (.result
      ((T.active o.g.toNat).flatMap fun l => laneWrites (fWide o.ty) o.d.toNat l (f o (T.fbits o.ty o.a.toNat l)).1)
      ((T.active o.g.toNat).foldl (fun x l => x ||| (f o (T.fbits o.ty o.a.toNat l)).2) 0))

/-- The value of a pairwise tree of 2^k leaves from leaf i (R108): at each step neighbours 2^k apart combine. -/
def treeOf {α : Type} (f : α → α → α) (leaf : Nat → α) : Nat → Nat → α
  | 0, i => leaf i
  | k + 1, i => f (treeOf f leaf k i) (treeOf f leaf k (i + 2 ^ k))

/-- One combination of a reduction with the flags of both sides (R108, R145). -/
def redJoin (op ty : BitVec 3) (rm : RMode) (x y : RedElt × Flg) : RedElt × Flg :=
  let r := redPair op ty rm x.1 y.1
  (r.1, x.2 ||| y.2 ||| r.2)

/-- The running result of a scan after the lanes `ls`, none before the first, with its flags (R109). -/
def scanOver (op ty : BitVec 3) (rm : RMode) (val : Nat → Nat) (ls : List Nat) : Option Nat × Flg :=
  ls.foldl (fun x l => match x.1 with
    | none => (some (val l), x.2)
    | some v => (some (redVal op ty rm v (val l)).1, x.2 ||| (redVal op ty rm v (val l)).2)) (none, 0)

/-- The rational number that a finite value is. -/
def FV.rat : FV → Rat
  | .fin n m q => (if n then -1 else 1) * (m : Rat) * (2 : Rat) ^ q
  | _ => 0

/-- The vector registers that a team's word names: the first and how many, for each operand (R9, R10, R59, R245). -/
def Instr.vecRegs (i : Instr) : List (Nat × Nat) :=
  let one (r : BitVec 8) : Nat × Nat := (r.toNat, 1)
  let of (wide : Bool) (r : BitVec 8) : Nat × Nat := (r.toNat, if wide then 2 else 1)
  let src (wide : Bool) : VSrc → List (Nat × Nat)
    | .reg b => [of wide b]
    | .imm _ => []
  let d64 (w : BitVec 2) : Bool := decide (w = 3#2)
  match i with
  | .vadd o | .vsub o | .vmul o | .vmulh o | .vmin o | .vmax o | .vand o | .vor o | .vxor o | .vandn o =>
    [of (tyWide o.ty) o.d, of (tyWide o.ty) o.a] ++ src (tyWide o.ty) o.src
  | .vmad o => [of (tyWide o.ty) o.d, of (tyWide o.ty) o.a, of (tyWide o.ty) o.c] ++ src (tyWide o.ty) o.src
  | .vabs o | .vnot o => [of (tyWide o.ty) o.d, of (tyWide o.ty) o.a]
  | .vshl o | .vshr o | .vsar o => [of (tyWide o.ty) o.d, of (tyWide o.ty) o.a] ++ src false o.src
  | .vrotl o => [of (tyWide o.ty) o.d, of (tyWide o.ty) o.a, one o.b]
  | .vpopc o | .vclz o | .vctz o => [one o.d, of (tyWide o.ty) o.a]
  | .vbrev o => [of (tyWide o.ty) o.d, of (tyWide o.ty) o.a]
  | .vbfx o => [of (tyWide o.ty) o.d, of (tyWide o.ty) o.a]
  | .vbfi o => [of (tyWide o.ty) o.d, of (tyWide o.ty) o.a, of (tyWide o.ty) o.b]
  | .vcmp o => [of (tyWide o.ty) o.a, of (tyWide o.ty) o.b]
  | .vsel o => [of (tyWide o.ty) o.d, of (tyWide o.ty) o.a, of (tyWide o.ty) o.b]
  | .vmov o => of (tyWide o.ty) o.d :: src (tyWide o.ty) o.src
  | .vbcast o => [of (tyWide o.ty) o.d]
  | .vlane o => [of (tyWide o.ty) o.d]
  | .vcvt o => [of (tyWide o.td) o.d, of (tyWide o.ts) o.a]
  | .vsat o => [of (tyWide o.ts) o.d, of (tyWide o.ts) o.a]
  | .vshfl o => [of (tyWide o.ty) o.d, of (tyWide o.ty) o.a, one o.b]
  | .vrot o => [of (tyWide o.ty) o.d, of (tyWide o.ty) o.a]
  | .vred o => [of (redWide o.op o.ty) o.a]
  | .vredx o => [of (redWide o.op o.ty) o.a]
  | .vscan o => [of (redWide o.op o.ty) o.d, of (redWide o.op o.ty) o.a]
  | .vextract o => [of (tyWide o.ty) o.a]
  | .vinsert o => [of (tyWide o.ty) o.d]
  | .vmatch o => [one o.d, of (tyWide o.ty) o.a]
  | .vfadd o | .vfsub o | .vfmul o | .vfdiv o | .vfmin o | .vfmax o => [of (fWide o.ty) o.d, of (fWide o.ty) o.a, of (fWide o.ty) o.b]
  | .vffma o => [of (fWide o.ty) o.d, of (fWide o.ty) o.a, of (fWide o.ty) o.b, of (fWide o.ty) o.c]
  | .vfsqrt o | .vfrcp o | .vfrsq o | .vfex2 o | .vflg2 o | .vfsin o | .vfcos o | .vfrnd o => [of (fWide o.ty) o.d, of (fWide o.ty) o.a]
  | .vfclass o => [one o.d, of (fWide o.ty) o.a]
  | .vfscale o => [of (fWide o.ty) o.d, of (fWide o.ty) o.a, one o.b]
  | .vfcmp o => [of (fWide o.ty) o.a, of (fWide o.ty) o.b]
  | .vfcvt o => [of (fWide o.td) o.d, of (fWide o.ts) o.a]
  | .vfi o => [of (tyWide o.td) o.d, of (fWide o.ts) o.a]
  | .vif o => [of (fWide o.td) o.d, of (tyWide o.ts) o.a]
  | .vdot2 o | .vdot4 o => [one o.d, one o.a, one o.b] ++ if o.sen then [one o.c] else []
  | .vdotds o => [one o.d, one o.a, of (decide (o.af.toNat < 2)) o.b] ++ if o.sen then [one o.c] else []
  | .vcvtds o => [one o.d, of (fWide o.ts) o.a]
  | .vbpl o | .vbpu o => [one o.d, one o.a]
  | .vbpdot o => [one o.d, (o.a.toNat, 2 * planeK o.k)]
  | .vbpsel o => [(o.d.toNat, 2 * planeK o.k), (o.a.toNat, 2 * planeK o.k)]
  | .vld o => [of true o.a, of (d64 o.wid) o.d]
  | .vst o => [of true o.a, of (d64 o.wid) o.b]
  | .vprefetch o => [of true o.a]
  | .vatom o | .vfatom o => [of true o.a, of (d64 o.wid) o.d, of (d64 o.wid) o.b]
  | .vcas o => [of true o.a, of (d64 o.wid) o.d, of (d64 o.wid) o.b, of (d64 o.wid) o.c]
  | .vscadd o => [of true o.a, of (d64 o.wid) o.b]
  | .vbin o => [one o.d, one o.b]
  | .svc o => of true o.d :: if o.n = 0#3 then [] else [(o.a.toNat, 2 * o.n.toNat)]
  | _ => []

/-- A launch limit of a team's word fails: a vector register at or past VREGS, a lane past the team's, a mask set past s159, or a
register count outside its limits (R9, R16, R59, R72 step 7, R254). -/
def Team.limitFails (T : Team) (i : Instr) : Prop :=
  (∃ q ∈ Instr.vecRegs i, T.vregs < q.1 + q.2) ∨ match i with
  | .vextract o | .vinsert o => 32 * T.words ≤ offNat o.lane
  | .setmask o => 160 < o.a.toNat + T.maskRegs
  | .ballot o | .ballotNz o => 160 < o.d.toNat + T.maskRegs
  | .mpop o | .mffs o => 160 < o.a.toNat + T.maskRegs
  | .vgrow o => 256 < T.vregs + 8 * o.n.toNat ∨ 2097152 < 128 * T.words * (T.vregs + 8 * o.n.toNat)
  | .vshrink o => T.vregs < 8 + 8 * o.n.toNat
  | _ => False

/-- A launch limit of the word fails where agent `a` issues it: one of a team, a special register that the place does not read or that
cannot be written, a descriptor or an accumulator beyond the block's allocation. -/
def State.limitFails (s : State) (a : Agent) (i : Instr) : Prop :=
  (∃ k T, a = .team k ∧ s.team? k = some T ∧ T.limitFails i) ∨ match i with
  | .getsr o => s.sr a o.num.toNat = none
  | .setsr o => o.num ≠ 8#11 ∧ o.num ≠ 9#11
  | .tdset o => ∃ B, (s.agentBlk? a).bind s.block? = some B ∧ s.tdOk B o.d.toNat = false
  | .tdsetQueue o => ∃ B, (s.agentBlk? a).bind s.block? = some B ∧ s.tdOk B o.d.toNat = false
  | .mma o | .mmas o | .mmag o => ∃ B, (s.agentBlk? a).bind s.block? = some B ∧
      (s.tdOk B o.a.toNat = false ∨ s.tdOk B o.b.toNat = false ∨ s.accOk B o.d.toNat false = false)
  | .accld o | .accst o => ∃ B, (s.agentBlk? a).bind s.block? = some B ∧ (s.tdOk B o.a.toNat = false ∨ s.accOk B o.d.toNat false = false)
  | .acczero o => ∃ B, (s.agentBlk? a).bind s.block? = some B ∧ s.accOk B o.d.toNat false = false
  | _ => False

/-! ### Rounding (R95 to R97) -/

/-- The real number that a finite value is. -/
noncomputable def FV.real (a : FV) : ℝ := ((FV.rat a : ℚ) : ℝ)

/-- The bits `x` of the format are the finite value `y`. -/
def Fmt.Finite (F : Fmt) (x : Nat) (y : ℝ) : Prop := x < 2 ^ F.bits ∧ ∃ n m q, F.val x = .fin n m q ∧ (FV.fin n m q).real = y

/-- The largest finite value, the step at it, and the smallest normal value (R92). -/
noncomputable def Fmt.largest (F : Fmt) : ℝ := F.maxM * (2 : ℝ) ^ F.maxQ

noncomputable def Fmt.topStep (F : Fmt) : ℝ := (2 : ℝ) ^ F.maxQ

noncomputable def Fmt.leastNormal (F : Fmt) : ℝ := (2 : ℝ) ^ (F.qmin + F.f)

/-- The mode rounds a value of that sign away from zero. -/
def roundsAway (mode : Nat) (v : ℝ) : Prop := (mode = 2 ∧ 0 < v) ∨ (mode = 3 ∧ v < 0)

/-- The value, rounded as though the exponent range were unbounded, exceeds the largest finite value (R96). -/
def Fmt.Overflows (F : Fmt) (mode : Nat) (v : ℝ) : Prop :=
  (mode = 0 ∧ (F.largest + F.topStep / 2 < |v| ∨ (|v| = F.largest + F.topStep / 2 ∧ F.maxM % 2 = 1))) ∨
    (mode ≠ 0 ∧ roundsAway mode v ∧ F.largest < |v|) ∨ (mode ≠ 0 ∧ ¬roundsAway mode v ∧ F.largest + F.topStep ≤ |v|)

/-- The value, rounded so to the format's precision, lies below the smallest normal (R97). -/
def Fmt.Tiny (F : Fmt) (mode : Nat) (v : ℝ) : Prop :=
  (mode = 0 ∧ |v| < F.leastNormal - (2 : ℝ) ^ (F.qmin - 2)) ∨
    (mode ≠ 0 ∧ roundsAway mode v ∧ |v| ≤ F.leastNormal - (2 : ℝ) ^ (F.qmin - 1)) ∨ (mode ≠ 0 ∧ ¬roundsAway mode v ∧ |v| < F.leastNormal)

/-- The result `r` is the exact value `v`, which is not zero, rounded once to the format in the mode, with the flags of R97 (R95 to R97):
to nearest with ties to even, towards zero, up or down; where it overflows, what R96 gives. -/
def Fmt.Rounded (F : Fmt) (mode : Nat) (sat : Bool) (v : ℝ) (r : FRes) : Prop :=
  (F.Overflows mode v → r.2 = fOF ||| fNX ∧
    (sat = true ∨ (mode ≠ 0 ∧ ¬roundsAway mode v) → F.Finite r.1 (if v < 0 then -F.largest else F.largest)) ∧
    (sat = false → mode = 0 ∨ roundsAway mode v → (v < 0 → r.1 = F.infBits true) ∧ (0 < v → r.1 = F.infBits false))) ∧
  (¬F.Overflows mode v → ∃ y, F.Finite r.1 y ∧ (bitAt r.1 (F.e + F.f) = true ↔ v < 0) ∧
    (mode = 0 → ∀ x z, F.Finite x z → |y - v| ≤ |z - v| ∧ (|z - v| = |y - v| → z ≠ y → r.1 % 2 = 0)) ∧
    (mode = 1 → |y| ≤ |v| ∧ ∀ x z, F.Finite x z → |z| ≤ |v| → |z| ≤ |y|) ∧
    (mode = 2 → v ≤ y ∧ ∀ x z, F.Finite x z → v ≤ z → y ≤ z) ∧
    (mode = 3 → y ≤ v ∧ ∀ x z, F.Finite x z → z ≤ v → z ≤ y) ∧
    (y = v → r.2 = 0) ∧ (y ≠ v → ¬F.Tiny mode v → r.2 = fNX) ∧ (y ≠ v → F.Tiny mode v → r.2 = fNX ||| fUF))

/-- The integer `w` is `v` rounded to an integral value in the mode (R95, R99, R159). -/
def IntRounded (mode : Nat) (v : ℝ) (w : ℤ) : Prop :=
  (mode = 0 → |(w : ℝ) - v| ≤ 1 / 2 ∧ (|(w : ℝ) - v| = 1 / 2 → w % 2 = 0)) ∧
  (mode = 1 → (0 ≤ v → w = ⌊v⌋) ∧ (v < 0 → w = ⌈v⌉)) ∧ (mode = 2 → w = ⌈v⌉) ∧ (mode = 3 → w = ⌊v⌋)

/-- One ulp at a value: the step between the format's values there, with the subnormal spacing below the smallest normal (R155). -/
noncomputable def Fmt.ulp (F : Fmt) (y : ℝ) : ℝ := (2 : ℝ) ^ max (Int.log 2 |y| - F.f) F.qmin

/-- The result of a transcendental word lies within 2 ulp of the exact value `y`, but for 2^−30 of an ulp, which the model's own
computation of `y` may add, and raises NX; or `y` is beyond the largest finite value and the result overflows (R156). -/
def Within2Ulp (sat : Bool) (y : ℝ) (r : FRes) : Prop :=
  ((∃ z, fmtF32.Finite r.1 z ∧ |z - y| ≤ (2 + (2 : ℝ) ^ (-30 : ℤ)) * fmtF32.ulp y) ∧ r.2 &&& fNX = fNX) ∨
    (fmtF32.largest < y ∧ r = fmtF32.overflow 0 sat false)

/-- A held basin word queues its operation with its counters, and changes no register and no byte (R198). -/
def HeldWord (i : Instr) (paths : List Path) (o : HeldOp) : Prop :=
  ∀ (s : State) (a : Agent) (th : Thread), Issuing s i a th → CountersFree th paths →
    ∃ t, exec i s = .next t ∧ Queued s t a th 8 paths (.held o)

end Sys2Proof.Machine
end

