-- ==== Sys2Proof/Certificates/Slice0/Obligations.lean ====
section
/-! DEFINITION. The statements for the provers. -/

open Sys2Proof Sys2Proof.Machine

/-- R115, R116: the two-source words of the uniform group. Fourteen write their result at issue; quotient and remainder are queued as
variable-latency results computed from the sources at issue. -/
def Obligations.UniformTwoSource : Prop :=
  UniBinary .add true (fun _ _ x y => x + y) ∧
  UniBinary .sub true (fun _ _ x y => x - y) ∧
  UniBinary .mul true (fun _ _ x y => x * y) ∧
  UniBinary .mulh true (fun n sg x y => if sg then BitVec.ofInt n (x.toInt * y.toInt / 2 ^ n) else BitVec.ofNat n (x.toNat * y.toNat / 2 ^ n)) ∧
  UniBinary .min true (fun _ sg x y => if tyLt sg y x then y else x) ∧
  UniBinary .max true (fun _ sg x y => if tyLt sg x y then y else x) ∧
  UniBinary .and false (fun _ _ x y => x &&& y) ∧
  UniBinary .or false (fun _ _ x y => x ||| y) ∧
  UniBinary .xor false (fun _ _ x y => x ^^^ y) ∧
  UniBinary .andn false (fun _ _ x y => x &&& ~~~y) ∧
  UniBinary .shl false (fun _ _ x y => x <<< y.toNat) ∧
  UniBinary .shr false (fun _ _ x y => x >>> y.toNat) ∧
  UniBinary .sar false (fun _ _ x y => x.sshiftRight y.toNat) ∧
  UniBinary .rotl false (fun _ _ x y => x.rotateLeft y.toNat) ∧
  ∀ (s : State) (a : Agent) (th : Thread) (o : UBin),
    let x := low o.ty (th.rd o.a.toNat)
    let y := low o.ty (th.src true o.src)
    (Issuing s (.div o) a th → ∃ t, exec (.div o) s = .next t ∧ Queued s t a th (srcLen o.src) [] (.result
      [.s o.d.toNat (extend o.ty (if y = 0 then BitVec.allOnes _ else if tySigned o.ty then x.sdiv y else x.udiv y))] 0)) ∧
    (Issuing s (.rem o) a th → ∃ t, exec (.rem o) s = .next t ∧ Queued s t a th (srcLen o.src) [] (.result
      [.s o.d.toNat (extend o.ty (if y = 0 then x else if tySigned o.ty then x.srem y else x.umod y))] 0))

/-- R115, R117, R118: the one-source words, bit fields, comparison and selection, `mov`, `movi` and the two forms of `lea`. -/
def Obligations.UniformOneSource : Prop :=
  UniUnary .popc (fun n x => BitVec.ofNat n ((List.range n).countP fun k => x.getLsbD k)) ∧
  UniUnary .clz (fun n x => BitVec.ofNat n (((List.range n).reverse.takeWhile fun k => !x.getLsbD k).length)) ∧
  UniUnary .ctz (fun n x => BitVec.ofNat n (((List.range n).takeWhile fun k => !x.getLsbD k).length)) ∧
  UniUnary .brev (fun _ x => x.reverse) ∧
  (∀ (s : State) (a : Agent) (th : Thread) (o : UAbs), Issuing s (.abs o) a th → (Instr.abs o).wf = true →
    ∃ t, exec (.abs o) s = .next t ∧ WroteS s t a th o.d.toNat (extend o.ty (low o.ty (th.rd o.a.toNat)).abs) (if o.long then 12 else 8)) ∧
  (∀ (s : State) (a : Agent) (th : Thread) (o : UBfx), Issuing s (.bfx o) a th → (Instr.bfx o).wf = true →
    ∃ t, exec (.bfx o) s = .next t ∧ WroteS s t a th o.d.toNat (extend o.ty
      (let f := (low o.ty (th.rd o.a.toNat)).extractLsb' o.pos.toNat o.width.toNat
       if tySigned o.ty then f.signExtend _ else f.setWidth _)) 8) ∧
  (∀ (s : State) (a : Agent) (th : Thread) (o : UBfi), Issuing s (.bfi o) a th → (Instr.bfi o).wf = true →
    ∃ t, exec (.bfi o) s = .next t ∧ WroteS s t a th o.d.toNat (extend o.ty
      (let m : BitVec (tyBits o.ty) := (BitVec.allOnes o.width.toNat).setWidth _
       (low o.ty (th.rd o.a.toNat) &&& ~~~(m <<< o.pos.toNat)) ||| ((low o.ty (th.rd o.b.toNat) &&& m) <<< o.pos.toNat))) 8) ∧
  (∀ (s : State) (a : Agent) (th : Thread) (o : UCmp), Issuing s (.cmp o) a th → ∃ t, exec (.cmp o) s = .next t ∧
    WroteS s t a th o.d.toNat
      (if holds o.cond (tySigned o.ty) (low o.ty (th.rd o.a.toNat)) (low o.ty (th.src true o.src)) then 1 else 0) (srcLen o.src)) ∧
  (∀ (s : State) (a : Agent) (th : Thread) (o : USel), Issuing s (.sel o) a th → ∃ t, exec (.sel o) s = .next t ∧
    WroteS s t a th o.d.toNat
      (extend o.ty (low o.ty (if th.rd o.c.toNat ≠ 0 then th.rd o.a.toNat else th.src true o.src))) (srcLen o.src)) ∧
  (∀ (s : State) (a : Agent) (th : Thread) (o : UMov), Issuing s (.mov o) a th → ∃ t, exec (.mov o) s = .next t ∧
    WroteS s t a th o.d.toNat (extend o.ty (low o.ty (th.src true o.src))) (srcLen o.src)) ∧
  (∀ (s : State) (a : Agent) (th : Thread) (o : UMovi), Issuing s (.movi o) a th → ∃ t, exec (.movi o) s = .next t ∧
    (∀ x, o.imm = .i11 x → WroteS s t a th o.d.toNat (x.signExtend 64) 8) ∧
    (∀ x, o.imm = .i32 x → WroteS s t a th o.d.toNat (x.signExtend 64) 12) ∧
    (∀ x, o.imm = .i64 x → WroteS s t a th o.d.toNat x 16)) ∧
  (∀ (s : State) (a : Agent) (th : Thread) (o : ULea), Issuing s (.lea o) a th → ∃ t, exec (.lea o) s = .next t ∧
    WroteS s t a th o.d.toNat (th.rd o.a.toNat + BitVec.ofInt 64 (offInt o.off)) (offLen o.off)) ∧
  (∀ (s : State) (a : Agent) (th : Thread) (o : ULeaPc), Issuing s (.leaPc o) a th → ∃ t, exec (.leaPc o) s = .next t ∧
    WroteS s t a th o.d.toNat (th.pc + BitVec.ofInt 64 (offInt o.off)) (offLen o.off))

/-- R119 to R121: the branches and transfers. A taken one goes to PC + 4 · offset, or to s(A), where the target is valid
(R71, R120); one that is not taken moves past its word. A taken one whose
target is not valid raises cause 0x000A at the instruction, with no register changed. -/
def Obligations.Branches : Prop :=
  ∀ (s : State) (a : Agent) (th : Thread),
    let tgt (o : Off) : W64 := th.pc + BitVec.ofInt 64 (4 * offInt o)
    (∀ o : Br, Issuing s (.b o) a th → s.targetOk a (tgt o.off) = true → ∃ t, exec (.b o) s = .next t ∧ Jumped s t a th (tgt o.off)) ∧
    (∀ o : BrR, Issuing s (.bz o) a th →
      (th.rd o.a.toNat = 0 → s.targetOk a (tgt o.off) = true → ∃ t, exec (.bz o) s = .next t ∧ Jumped s t a th (tgt o.off)) ∧
      (th.rd o.a.toNat = 0 → s.targetOk a (tgt o.off) = false → exec (.bz o) s = .next (s.raise a 0xA)) ∧
      (th.rd o.a.toNat ≠ 0 → ∃ t, exec (.bz o) s = .next t ∧ OnlyPc s t a th (offLen o.off))) ∧
    (∀ o : BrR, Issuing s (.bnz o) a th →
      (th.rd o.a.toNat ≠ 0 → s.targetOk a (tgt o.off) = true → ∃ t, exec (.bnz o) s = .next t ∧ Jumped s t a th (tgt o.off)) ∧
      (th.rd o.a.toNat ≠ 0 → s.targetOk a (tgt o.off) = false → exec (.bnz o) s = .next (s.raise a 0xA)) ∧
      (th.rd o.a.toNat = 0 → ∃ t, exec (.bnz o) s = .next t ∧ OnlyPc s t a th (offLen o.off))) ∧
    (∀ o : Bc, Issuing s (.bc o) a th →
      let c := holds o.cond (tySigned o.ty) (low o.ty (th.rd o.a.toNat)) (low o.ty (th.rd o.b.toNat))
      (c = true → s.targetOk a (tgt o.off) = true → ∃ t, exec (.bc o) s = .next t ∧ Jumped s t a th (tgt o.off)) ∧
      (c = true → s.targetOk a (tgt o.off) = false → exec (.bc o) s = .next (s.raise a 0xA)) ∧
      (c = false → ∃ t, exec (.bc o) s = .next t ∧ OnlyPc s t a th (offLen o.off))) ∧
    (∀ o : Call, Issuing s (.call o) a th → s.targetOk a (tgt o.off) = true → ∃ t, exec (.call o) s = .next t ∧
      Jumped s t a (th.wr o.d.toNat (th.pc + BitVec.ofNat 64 (offLen o.off))) (tgt o.off)) ∧
    (∀ o : OneA, Issuing s (.ret o) a th → s.targetOk a (th.rd o.a.toNat) = true → ∃ t, exec (.ret o) s = .next t ∧
      Jumped s t a th (th.rd o.a.toNat)) ∧
    (∀ o : OneA, Issuing s (.jmp o) a th → s.targetOk a (th.rd o.a.toNat) = true → ∃ t, exec (.jmp o) s = .next t ∧
      Jumped s t a th (th.rd o.a.toNat)) ∧
    (∀ o : BrR, Issuing s (.loop o) a th →
      (th.rd o.a.toNat ≠ 1 → s.targetOk a (tgt o.off) = true → ∃ t, exec (.loop o) s = .next t ∧
        Jumped s t a (th.wr o.a.toNat (th.rd o.a.toNat - 1)) (tgt o.off)) ∧
      (th.rd o.a.toNat ≠ 1 → s.targetOk a (tgt o.off) = false → exec (.loop o) s = .next (s.raise a 0xA)) ∧
      (th.rd o.a.toNat = 1 → ∃ t, exec (.loop o) s = .next t ∧ WroteS s t a th o.a.toNat 0 (offLen o.off))) ∧
    (∀ (o : Br) (k : Nat) (T : Team), a = .team k → TeamIssuing s (.skipz o) k T → th = T.th →
      ((∀ l < 32 * T.words, T.maskBit l = false) → s.targetOk a (tgt o.off) = true → ∃ t, exec (.skipz o) s = .next t ∧
        Jumped s t a th (tgt o.off)) ∧
      ((∀ l < 32 * T.words, T.maskBit l = false) → s.targetOk a (tgt o.off) = false → exec (.skipz o) s = .next (s.raise a 0xA)) ∧
      ((∃ l < 32 * T.words, T.maskBit l = true) → ∃ t, exec (.skipz o) s = .next t ∧ OnlyPc s t a th (offLen o.off))) ∧
    (∀ o : Br, Issuing s (.b o) a th → s.targetOk a (tgt o.off) = false →
      exec (.b o) s = .next (s.raise a 0xA)) ∧
    (∀ o : Call, Issuing s (.call o) a th → s.targetOk a (tgt o.off) = false →
      exec (.call o) s = .next (s.raise a 0xA)) ∧
    (∀ o : OneA, Issuing s (.ret o) a th → s.targetOk a (th.rd o.a.toNat) = false → exec (.ret o) s = .next (s.raise a 0xA)) ∧
    (∀ o : OneA, Issuing s (.jmp o) a th → s.targetOk a (th.rd o.a.toNat) = false → exec (.jmp o) s = .next (s.raise a 0xA))

/-- R9, R58, R59, R72, R89, R261: for every word of the instruction set, a marked one whose thread has results outstanding or accesses
unchecked waits until it can issue, with no other effect; as it issues, one that stands in a place not its own raises cause 0x0009, and
one whose launch limit fails (a vector register at or past VREGS, a lane past the team's, a descriptor or an accumulator the block does
not have, and the others of `State.limitFails`) raises cause 0x0008; a word of a generator thread that passes these and reads or writes a
register still to be written waits. -/
def Obligations.WordGate : Prop :=
  ∀ (s : State) (i : Instr) (a : Agent), (encode i).isSome = true → s.cur = some a →
    (∀ th, s.thread? a = some th → i.marked = true → th.busy = true →
      ∃ t, exec i s = .next t ∧ Parked s t a th (agentHold a) 0) ∧
    (∀ th, s.thread? a = some th → (i.marked = true → th.busy = false) → agentPlace a ∉ encPlaces i → exec i s = .next (s.raise a 9)) ∧
    (∀ c, a = .queue c → Place.queue ∉ encPlaces i → exec i s = .next (s.raise a 9)) ∧
    (∀ th, s.thread? a = some th → (i.marked = true → th.busy = false) → agentPlace a ∈ encPlaces i → s.limitFails a i →
      exec i s = .next (s.raise a 8)) ∧
    (∀ c, a = .queue c → Place.queue ∈ encPlaces i → s.limitFails a i → exec i s = .next (s.raise a 8)) ∧
    (∀ g th p r, a = .gen g → s.thread? a = some th → (i.marked = true → th.busy = false) → Place.gen ∈ encPlaces i → ¬s.limitFails a i →
      p ∈ th.pend → p.finished = false → r ∈ p.work.dests → r ∈ Instr.touches i th.rd →
      ∃ t, exec i s = .next t ∧ Parked s t a th .retry 0)

/-- R122 to R124: `setmask` makes s(A) the mask set; `ballot` and `ballot.nz` write the active lanes whose predicate is one or zero
in the layout of R15; `mpop` counts the lanes of a set and `mffs` finds the lowest. A set that reaches past s159 is an illegal field
value, cause 0x0008. -/
def Obligations.Masks : Prop :=
  ∀ (s : State) (k : Nat) (T : Team),
    (∀ o : OneA, TeamIssuing s (.setmask o) k T → o.a.toNat + T.maskRegs ≤ 160 → ∃ t, exec (.setmask o) s = .next t ∧
      t = s.setTeam k { T with
        mbase := o.a, th := { T.th with pc := T.th.pc + 8 }, partialMask := if T.hcause = 0 then none else T.partialMask } ∧
      SameMem s t) ∧
    (∀ o : Ballot, TeamIssuing s (.ballot o) k T → o.d.toNat + T.maskRegs ≤ 160 → ∃ t, exec (.ballot o) s = .next t ∧
      WroteMask s t k T o.d.toNat (fun l => l ∈ T.active o.g.toNat ∧ T.pred o.pa.toNat l = true)) ∧
    (∀ o : Ballot, TeamIssuing s (.ballotNz o) k T → o.d.toNat + T.maskRegs ≤ 160 → ∃ t, exec (.ballotNz o) s = .next t ∧
      WroteMask s t k T o.d.toNat (fun l => l ∈ T.active o.g.toNat ∧ T.pred o.pa.toNat l = false)) ∧
    (∀ o : TwoDA, TeamIssuing s (.mpop o) k T → o.a.toNat + T.maskRegs ≤ 160 → ∃ t, exec (.mpop o) s = .next t ∧
      WroteS (s.replayed k T) t (.team k) T.th o.d.toNat
        (BitVec.ofNat 64 ((List.range (32 * T.words)).countP fun l => (T.th.rd (o.a.toNat + l / 64)).getLsbD (l % 64))) 8) ∧
    (∀ o : TwoDA, TeamIssuing s (.mffs o) k T → o.a.toNat + T.maskRegs ≤ 160 →
      let set : Nat → Bool := fun l => (T.th.rd (o.a.toNat + l / 64)).getLsbD (l % 64)
      ∃ t v, exec (.mffs o) s = .next t ∧
        WroteS (s.replayed k T) t (.team k) T.th o.d.toNat v 8 ∧
        (∀ l < 32 * T.words, set l = true → (∀ j < l, set j = false) → v = BitVec.ofNat 64 l) ∧
        ((∀ l < 32 * T.words, set l = false) → v = BitVec.allOnes 64)) ∧
    (∀ (o : OneA), TeamIssuing s (.setmask o) k T → 160 < o.a.toNat + T.maskRegs → exec (.setmask o) s = .next (s.raise (.team k) 8)) ∧
    (∀ (o : Ballot) (i : Instr), i = .ballot o ∨ i = .ballotNz o → TeamIssuing s i k T → 160 < o.d.toNat + T.maskRegs →
      exec i s = .next (s.raise (.team k) 8)) ∧
    (∀ (o : TwoDA) (i : Instr), i = .mpop o ∨ i = .mffs o → TeamIssuing s i k T → 160 < o.a.toNat + T.maskRegs →
      exec i s = .next (s.raise (.team k) 8))

/-- R73, R127, R129 to R132: the barrier words, `yield` and `exit`, `nop` and hints. An arrival is queued, since it is a release; `bar.wait` without a
token and without an arrival on its way settles the barrier, takes the phase as its token and parks, or raises the barrier count mismatch; where the
arrivals counted before complete the phase at that change, the token is of the phase they complete, which is the model's reading (log
entry 94). With a token or an arrival on its way it parks at once; `bar.sync` queues an arrival and parks; `yield` puts the team behind its class, and a generator thread past its next turn. `exit` parks
(with a segment open it is a generator fault); `nop` and hints change the PC only, in every place. -/
def Obligations.ControlWords : Prop :=
  (∀ (s : State) (k : Nat) (T : Team),
    (∀ o : Bar, TeamIssuing s (.barArrive o) k T → ∃ t, exec (.barArrive o) s = .next t ∧
      Queued s t (.team k) T.th 8 [] (.held (.barArrive o.n.toNat o.e.toNat))) ∧
    (∀ (o : Bar) (B : Block) (v : BarSt), TeamIssuing s (.barWait o) k T → s.block? T.blk = some B → lget T.tokens o.n.toNat = none →
      T.th.arriving o.n.toNat = false → (B.bar o.n.toNat).settle o.e.toNat = some v → ∃ t, exec (.barWait o) s = .next t ∧
      Parked ((s.replayed k { T with tokens := lset T.tokens o.n.toNat v.ph }).setBlock T.blk (B.setBar o.n.toNat
        (if v.exp ≠ 0 ∧ v.exp ≤ v.cnt then ⟨!v.ph, v.cnt - v.exp, 0, v.flips + 1⟩ else v))) t (.team k) T.th (.bar o.n.toNat v.flips) 8) ∧
    (∀ (o : Bar) (B : Block), TeamIssuing s (.barWait o) k T → s.block? T.blk = some B →
      lget T.tokens o.n.toNat ≠ none ∨ T.th.arriving o.n.toNat = true → ∃ t, exec (.barWait o) s = .next t ∧
      Parked (s.replayed k T) t (.team k) T.th (.bar o.n.toNat (B.bar o.n.toNat).flips) 8) ∧
    (∀ (o : Bar) (B : Block), TeamIssuing s (.barWait o) k T → s.block? T.blk = some B → lget T.tokens o.n.toNat = none →
      T.th.arriving o.n.toNat = false → (B.bar o.n.toNat).exp ≠ 0 → (B.bar o.n.toNat).exp ≠ o.e.toNat →
      exec (.barWait o) s = .next (s.raise (.team k) 0xB)) ∧
    (∀ (o : Bar) (B : Block), TeamIssuing s (.barSync o) k T → s.block? T.blk = some B → ∃ t u th, exec (.barSync o) s = .next t ∧
      Queued s u (.team k) T.th 8 [] (.held (.barArrive o.n.toNat o.e.toNat)) ∧ u.thread? (.team k) = some th ∧
      Parked u t (.team k) th (.bar o.n.toNat (B.bar o.n.toNat).flips) 0) ∧
    (∀ o : Plain, TeamIssuing s (.yield o) k T → ∃ t, exec (.yield o) s = .next t ∧
      t = { s.replayed k { T with behind := some s.uid, th := { T.th with pc := T.th.pc + 8 } } with uid := s.uid + 1, cur := none } ∧ SameMem s t) ∧
    (∀ o : Plain, TeamIssuing s (.exit o) k T → ∃ t, exec (.exit o) s = .next t ∧ Parked s t (.team k) T.th .exit 0)) ∧
  (∀ (s : State) (g : Nat) (G : Gen) (o : Plain), GenIssuing s (.exit o) g G →
    (G.open? = none → ∃ t, exec (.exit o) s = .next t ∧ Parked s t (.gen g) G.th .exit 0) ∧
    (G.open? ≠ none → exec (.exit o) s = .next (s.raise (.gen g) 0x13))) ∧
  (∀ (s : State) (g : Nat) (G : Gen) (o : Plain), GenIssuing s (.yield o) g G → ∃ t, exec (.yield o) s = .next t ∧
    t = { s.setGen g { G with skip := true, th := { G.th with pc := G.th.pc + 8 } } with cur := none } ∧ SameMem s t) ∧
  (∀ (s : State) (a : Agent) (th : Thread) (o : Nop), Issuing s (.nop o) a th → ∃ t, exec (.nop o) s = .next t ∧
    OnlyPc s t a th (8 + 4 * o.len.toNat)) ∧
  (∀ (s : State) (a : Agent) (th : Thread) (o : Raw), Issuing s (.hint o) a th → ∃ t, exec (.hint o) s = .next t ∧
    OnlyPc s t a th (8 + 4 * o.len.toNat)) ∧
  (∀ (s : State) (c : Nat) (e : Emitted) (rest : List Emitted) (B : Block) (o : Nop), QueueIssuing s (.nop o) c e rest B →
    ∃ t, exec (.nop o) s = .next t ∧ Popped s t c rest) ∧
  (∀ (s : State) (c : Nat) (e : Emitted) (rest : List Emitted) (B : Block) (o : Raw), QueueIssuing s (.hint o) c e rest B →
    ∃ t, exec (.hint o) s = .next t ∧ Popped s t c rest)

/-- R133 to R137: the ten two-source vector integer words, without saturation and with it (R98). -/
def Obligations.VectorTwoSource : Prop :=
  VecBinary .vadd (fun _ _ x y => x + y) ∧
  VecBinary .vsub (fun _ _ x y => x - y) ∧
  VecBinary .vmul (fun _ _ x y => x * y) ∧
  VecBinary .vmulh (fun n sg x y => if sg then BitVec.ofInt n (x.toInt * y.toInt / 2 ^ n) else BitVec.ofNat n (x.toNat * y.toNat / 2 ^ n)) ∧
  VecBinary .vmin (fun _ sg x y => if tyLt sg y x then y else x) ∧
  VecBinary .vmax (fun _ sg x y => if tyLt sg x y then y else x) ∧
  VecBinary .vand (fun _ _ x y => x &&& y) ∧
  VecBinary .vor (fun _ _ x y => x ||| y) ∧
  VecBinary .vxor (fun _ _ x y => x ^^^ y) ∧
  VecBinary .vandn (fun _ _ x y => x &&& ~~~y) ∧
  VecSat .vadd (· + ·) ∧
  VecSat .vsub (· - ·) ∧
  VecSat .vmul (· * ·)

/-- R137: `vmad`, `vabs` and `vnot`. -/
def Obligations.VectorMadAbsNot : Prop :=
  ∀ (s : State) (k : Nat) (T : Team),
    (∀ o : VMad, TeamIssuing s (.vmad o) k T →
      (T.vOk (tyWide o.ty) o.d && T.vOk (tyWide o.ty) o.a && T.vOk (tyWide o.ty) o.c && T.vsrcOk (tyWide o.ty) o.src) = true →
      ∃ t, exec (.vmad o) s = .next t ∧ WroteV s t k T (T.active o.g.toNat) (tyWide o.ty) o.d.toNat (fun l =>
        let a := T.vrd (tyWide o.ty) o.a.toNat l
        let b := T.vsrc o.ty l o.src
        let c := T.vrd (tyWide o.ty) o.c.toNat l
        laneOf o.ty (if o.sat then BitVec.ofInt _ (max (tyMin o.ty) (min (tyMax o.ty) (tyVal o.ty a * tyVal o.ty b + tyVal o.ty c)))
          else lowN o.ty a * lowN o.ty b + lowN o.ty c)) 0 (vsrcLen o.src)) ∧
    (∀ o : VUnL, TeamIssuing s (.vabs o) k T → (Instr.vabs o).wf = true → (T.vOk (tyWide o.ty) o.d && T.vOk (tyWide o.ty) o.a) = true →
      ∃ t, exec (.vabs o) s = .next t ∧ WroteV s t k T (T.active o.g.toNat) (tyWide o.ty) o.d.toNat (fun l =>
        let x := lowN o.ty (T.vrd (tyWide o.ty) o.a.toNat l)
        laneOf o.ty (if o.sat ∧ x = BitVec.intMin _ then BitVec.intMax _ else x.abs)) 0 (if o.long then 12 else 8)) ∧
    (∀ o : VUnL, TeamIssuing s (.vnot o) k T → (T.vOk (tyWide o.ty) o.d && T.vOk (tyWide o.ty) o.a) = true →
      ∃ t, exec (.vnot o) s = .next t ∧ WroteV s t k T (T.active o.g.toNat) (tyWide o.ty) o.d.toNat
        (fun l => laneOf o.ty (~~~(lowN o.ty (T.vrd (tyWide o.ty) o.a.toNat l)))) 0 (if o.long then 12 else 8))

/-- R134, R137: shifts and rotates by the 32-bit count of each lane, and the count words. -/
def Obligations.VectorShiftsCounts : Prop :=
  VecShift .vshl (fun _ x k => x <<< k) ∧
  VecShift .vshr (fun _ x k => x >>> k) ∧
  VecShift .vsar (fun _ x k => x.sshiftRight k) ∧
  (∀ (s : State) (k : Nat) (T : Team) (o : VBin), TeamIssuing s (.vshl o) k T →
    (T.vOk (tyWide o.ty) o.d && T.vOk (tyWide o.ty) o.a && T.vsrcOk false o.src) = true → o.sat = true →
    ∃ t, exec (.vshl o) s = .next t ∧ WroteV s t k T (T.active o.g.toNat) (tyWide o.ty) o.d.toNat
      (fun l => laneOf o.ty (BitVec.ofInt _ (max (tyMin o.ty) (min (tyMax o.ty)
        (tyVal o.ty (T.vrd (tyWide o.ty) o.a.toNat l) * 2 ^ T.vcount l o.src))))) 0 (vsrcLen o.src)) ∧
  (∀ (s : State) (k : Nat) (T : Team) (o : VRotl), TeamIssuing s (.vrotl o) k T →
    (T.vOk (tyWide o.ty) o.d && T.vOk (tyWide o.ty) o.a && T.vOk false o.b) = true →
    ∃ t, exec (.vrotl o) s = .next t ∧ WroteV s t k T (T.active o.g.toNat) (tyWide o.ty) o.d.toNat
      (fun l => laneOf o.ty ((lowN o.ty (T.vrd (tyWide o.ty) o.a.toNat l)).rotateLeft (T.vr o.b.toNat l).toNat)) 0 8) ∧
  VecCount .vpopc (fun n x => (List.range n).countP fun k => x.getLsbD k) ∧
  VecCount .vclz (fun n x => ((List.range n).reverse.takeWhile fun k => !x.getLsbD k).length) ∧
  VecCount .vctz (fun n x => ((List.range n).takeWhile fun k => !x.getLsbD k).length) ∧
  (∀ (s : State) (k : Nat) (T : Team) (o : VUn), TeamIssuing s (.vbrev o) k T →
    (T.vOk (tyWide o.ty) o.d && T.vOk (tyWide o.ty) o.a) = true →
    ∃ t, exec (.vbrev o) s = .next t ∧ WroteV s t k T (T.active o.g.toNat) (tyWide o.ty) o.d.toNat
      (fun l => laneOf o.ty (lowN o.ty (T.vrd (tyWide o.ty) o.a.toNat l)).reverse) 0 8)

/-- R138, R139: bit fields, selection, moves and lane numbers. -/
def Obligations.VectorFieldsMoves : Prop :=
  ∀ (s : State) (k : Nat) (T : Team),
    (∀ o : VBfx, TeamIssuing s (.vbfx o) k T → (Instr.vbfx o).wf = true → (T.vOk (tyWide o.ty) o.d && T.vOk (tyWide o.ty) o.a) = true →
      ∃ t, exec (.vbfx o) s = .next t ∧ WroteV s t k T (T.active o.g.toNat) (tyWide o.ty) o.d.toNat (fun l => laneOf o.ty
        (let f := (lowN o.ty (T.vrd (tyWide o.ty) o.a.toNat l)).extractLsb' o.pos.toNat o.width.toNat
         if tySigned o.ty then f.signExtend _ else f.setWidth _)) 0 8) ∧
    (∀ o : VBfi, TeamIssuing s (.vbfi o) k T → (Instr.vbfi o).wf = true →
      (T.vOk (tyWide o.ty) o.d && T.vOk (tyWide o.ty) o.a && T.vOk (tyWide o.ty) o.b) = true →
      ∃ t, exec (.vbfi o) s = .next t ∧ WroteV s t k T (T.active o.g.toNat) (tyWide o.ty) o.d.toNat (fun l => laneOf o.ty
        (let m : BitVec (tyBits o.ty) := (BitVec.allOnes o.width.toNat).setWidth _
         (lowN o.ty (T.vrd (tyWide o.ty) o.a.toNat l) &&& ~~~(m <<< o.pos.toNat)) |||
           ((lowN o.ty (T.vrd (tyWide o.ty) o.b.toNat l) &&& m) <<< o.pos.toNat))) 0 8) ∧
    (∀ o : VSel, TeamIssuing s (.vsel o) k T → (T.vOk (tyWide o.ty) o.d && T.vOk (tyWide o.ty) o.a && T.vOk (tyWide o.ty) o.b) = true →
      ∃ t, exec (.vsel o) s = .next t ∧ WroteV s t k T (T.active o.g.toNat) (tyWide o.ty) o.d.toNat (fun l => laneOf o.ty
        (lowN o.ty (T.vrd (tyWide o.ty) (if T.pred o.pc.toNat l then o.a.toNat else o.b.toNat) l))) 0 8) ∧
    (∀ o : VMov, TeamIssuing s (.vmov o) k T → (T.vOk (tyWide o.ty) o.d && T.vsrcOk (tyWide o.ty) o.src) = true →
      ∃ t, exec (.vmov o) s = .next t ∧ WroteV s t k T (T.active o.g.toNat) (tyWide o.ty) o.d.toNat
        (fun l => laneOf o.ty (lowN o.ty (T.vsrc o.ty l o.src))) 0 (vsrcLen o.src)) ∧
    (∀ o : VBcast, TeamIssuing s (.vbcast o) k T → T.vOk (tyWide o.ty) o.d = true →
      ∃ t, exec (.vbcast o) s = .next t ∧ WroteV s t k T (T.active o.g.toNat) (tyWide o.ty) o.d.toNat
        (fun _ => laneOf o.ty (low o.ty (T.th.rd o.a.toNat))) 0 8) ∧
    (∀ o : VLane, TeamIssuing s (.vlane o) k T → T.vOk (tyWide o.ty) o.d = true →
      ∃ t, exec (.vlane o) s = .next t ∧ WroteV s t k T (T.active o.g.toNat) (tyWide o.ty) o.d.toNat
        (fun l => laneOf o.ty (lowN o.ty l)) 0 8)

/-- R13, R139, R140, R154: comparisons write predicates, p7 excepted; conversions narrow or clamp. -/
def Obligations.VectorCompareConvert : Prop :=
  ∀ (s : State) (k : Nat) (T : Team),
    (∀ o : VCmp, TeamIssuing s (.vcmp o) k T → (T.vOk (tyWide o.ty) o.a && T.vOk (tyWide o.ty) o.b) = true →
      ∃ t, exec (.vcmp o) s = .next t ∧ WroteP s t k T (T.active o.g.toNat) o.pd.toNat (fun l =>
        holds o.cond (tySigned o.ty) (lowN o.ty (T.vrd (tyWide o.ty) o.a.toNat l)) (lowN o.ty (T.vrd (tyWide o.ty) o.b.toNat l))) 0) ∧
    (∀ o : VFcmp, TeamIssuing s (.vfcmp o) k T → (T.vOk (fWide o.ty) o.a && T.vOk (fWide o.ty) o.b) = true →
      ∃ t, exec (.vfcmp o) s = .next t ∧ WroteP s t k T (T.active o.g.toNat) o.pd.toNat (fun l =>
        condFloat o.cond (T.fval o.ty o.a.toNat l) (T.fval o.ty o.b.toNat l))
        ((T.active o.g.toNat).foldl (fun x l => x ||| (T.fval o.ty o.a.toNat l).nv ||| (T.fval o.ty o.b.toNat l).nv) 0)) ∧
    (∀ o : VCvt, TeamIssuing s (.vcvt o) k T → (T.vOk (tyWide o.td) o.d && T.vOk (tyWide o.ts) o.a) = true →
      ∃ t, exec (.vcvt o) s = .next t ∧ WroteV s t k T (T.active o.g.toNat) (tyWide o.td) o.d.toNat (fun l =>
        let v := tyVal o.ts (T.vrd (tyWide o.ts) o.a.toNat l)
        laneOf o.td (BitVec.ofInt _ (if o.sat then max (tyMin o.td) (min (tyMax o.td) v) else v))) 0 8) ∧
    (∀ o : VCvt, TeamIssuing s (.vsat o) k T → (T.vOk (tyWide o.ts) o.d && T.vOk (tyWide o.ts) o.a) = true →
      ∃ t, exec (.vsat o) s = .next t ∧ WroteV s t k T (T.active o.g.toNat) (tyWide o.ts) o.d.toNat (fun l =>
        laneOf o.ts (BitVec.ofInt _ (max (tyMin o.td) (min (tyMax o.td) (tyVal o.ts (T.vrd (tyWide o.ts) o.a.toNat l)))))) 0 8)

/-- R142, R143, R147, R148: lane exchanges queue the lane values read as the word issues, from active and inactive lanes alike. -/
def Obligations.CrossLane : Prop :=
  ∀ (s : State) (k : Nat) (T : Team),
    (∀ o : VShfl, TeamIssuing s (.vshfl o) k T → (T.vOk (tyWide o.ty) o.d && T.vOk (tyWide o.ty) o.a && T.vOk false o.b) = true →
      ∃ t, exec (.vshfl o) s = .next t ∧ Queued s t (.team k) T.th (offLen o.off) [] (.result
        ((T.active o.g.toNat).flatMap fun l =>
          let j : Int := (T.vr o.b.toNat l).toNat + offInt o.off
          laneWrites (tyWide o.ty) o.d.toNat l
            (laneOf o.ty (lowN o.ty (if 0 ≤ j ∧ j < 32 * T.words then T.vrd (tyWide o.ty) o.a.toNat j.toNat else 0)))) 0)) ∧
    (∀ o : VRot, TeamIssuing s (.vrot o) k T → (T.vOk (tyWide o.ty) o.d && T.vOk (tyWide o.ty) o.a) = true →
      ∃ t, exec (.vrot o) s = .next t ∧ Queued s t (.team k) T.th (offLen o.off) [] (.result
        ((T.active o.g.toNat).flatMap fun l => laneWrites (tyWide o.ty) o.d.toNat l
          (laneOf o.ty (lowN o.ty (T.vrd (tyWide o.ty) o.a.toNat ((l + offInt o.off) % (32 * T.words : Nat)).toNat)))) 0)) ∧
    (∀ o : VLaneMove, TeamIssuing s (.vextract o) k T → (T.vOk (tyWide o.ty) o.a && decide (offNat o.lane < 32 * T.words)) = true →
      ∃ t, exec (.vextract o) s = .next t ∧ Queued s t (.team k) T.th (offLen o.lane) [] (.result
        [.s o.d.toNat (extend o.ty (lowN o.ty (T.vrd (tyWide o.ty) o.a.toNat (offNat o.lane))))] 0)) ∧
    (∀ o : VLaneMove, TeamIssuing s (.vinsert o) k T → (T.vOk (tyWide o.ty) o.d && decide (offNat o.lane < 32 * T.words)) = true →
      ∃ t, exec (.vinsert o) s = .next t ∧ Queued s t (.team k) T.th (offLen o.lane) [] (.result
        (laneWrites (tyWide o.ty) o.d.toNat (offNat o.lane) (laneOf o.ty (low o.ty (T.th.rd o.a.toNat)))) 0)) ∧
    (∀ o : VMatch, TeamIssuing s (.vmatch o) k T → (T.vOk false o.d && T.vOk (tyWide o.ty) o.a) = true →
      let same (l j : Nat) : Bool := T.vrd (tyWide o.ty) o.a.toNat j == T.vrd (tyWide o.ty) o.a.toNat l
      ∃ (t : State) (low : Nat → Nat), exec (.vmatch o) s = .next t ∧ Queued s t (.team k) T.th (if o.long then 12 else 8) [] (.result
        ((T.active o.g.toNat).map fun l => .v o.d.toNat l (BitVec.ofNat 32 (low l))) 0) ∧
        ∀ l ∈ T.active o.g.toNat, low l ∈ T.active o.g.toNat ∧ same l (low l) = true ∧ ∀ j ∈ T.active o.g.toNat, same l j = true → low l ≤ j)

/-- R108, R109, R144, R145: reductions and scans, for every operation and type. `vred` writes the value of the pairwise tree over the
team's lanes, the identity without an active lane; `vredx` writes the extreme value and its lane, all ones without one; `vscan` writes
each active lane the combination, in ascending order, of the active lanes so far. For the integer types the tree's value is the sum
modulo 2^n, the extreme value (with its lowest lane), or the bitwise combination of the active lanes. -/
def Obligations.Reductions : Prop :=
  ∀ (s : State) (k : Nat) (T : Team) (g : BitVec 3) (op ty : BitVec 3) (a : BitVec 8) (K : Nat), 32 * T.words ≤ 2 ^ K →
    let act := T.active g.toNat
    let val (l : Nat) : Nat := T.vrd (redWide op ty) a.toNat l % 2 ^ redBits op ty
    let tree := treeOf (redJoin op ty T.th.rm.toNat) (fun l => (if l ∈ act then some (val l, l) else none, 0)) K 0
    let out : W64 := redOut op ty ((tree.1.map (·.1)).getD (redIdent op ty))
    let lane : W64 := (tree.1.map fun p => BitVec.ofNat 64 p.2).getD (BitVec.allOnes 64)
    (∀ o : VRed, o.g = g → o.op = op → o.ty = ty → o.a = a → TeamIssuing s (.vred o) k T → T.vOk (redWide op ty) a = true →
      ∃ t, exec (.vred o) s = .next t ∧ Queued s t (.team k) T.th 8 [] (.result [.s o.d.toNat out] tree.2)) ∧
    (∀ o : VRedx, o.g = g → o.op = op → o.ty = ty → o.a = a → TeamIssuing s (.vredx o) k T → T.vOk (redWide op ty) a = true →
      ∃ t, exec (.vredx o) s = .next t ∧ Queued s t (.team k) T.th 8 [] (.result [.s o.d.toNat out, .s o.c.toNat lane] tree.2)) ∧
    (∀ o : VRed, o.g = g → o.op = op → o.ty = ty → o.a = a → TeamIssuing s (.vscan o) k T →
      (T.vOk (redWide op ty) o.d && T.vOk (redWide op ty) a) = true →
      let upTo (ls : List Nat) : Option Nat × Flg := scanOver op ty T.th.rm.toNat val ls
      ∃ t, exec (.vscan o) s = .next t ∧ Queued s t (.team k) T.th 8 [] (.result
        (act.flatMap fun l =>
          let x := ((upTo (act.filter fun j => decide (j ≤ l))).1).getD 0
          laneWrites (redWide op ty) o.d.toNat l (if op.toNat < 5 then (extTo 64 ty x).toNat else x)) (upTo act).2)) ∧
    (act = [] → tree = (none, 0)) ∧
    (op.toNat < 5 → tree.2 = 0) ∧
    (op = 0#3 → out = extend ty (BitVec.ofNat _ (act.map val).sum)) ∧
    (op = 1#3 ∨ op = 2#3 → act ≠ [] → ∃ j ∈ act, lane = BitVec.ofNat 64 j ∧ out = extend ty (lowN ty (val j)) ∧
      (∀ l ∈ act, if op = 1#3 then tyVal ty (val j) ≤ tyVal ty (val l) else tyVal ty (val l) ≤ tyVal ty (val j)) ∧
      ∀ l ∈ act, tyVal ty (val l) = tyVal ty (val j) → j ≤ l) ∧
    (op = 3#3 → out = extend ty ((act.map fun l => lowN ty (val l)).foldl (· ||| ·) 0)) ∧
    (op = 4#3 → out = extend ty ((act.map fun l => lowN ty (val l)).foldl (· &&& ·) (BitVec.allOnes _)))

/-- R150 to R153, R157 to R160: the fixed-latency floating words write the result of these functions of the lane operands and OR
their flags into FPFLAGS; `vfclass` raises none. `FloatRounding` says what the functions compute; the cases of `vfscale` and `vfrnd` that the
spec leaves to a reading are the model's (log entry 19). -/
def Obligations.FloatFixed : Prop :=
  VecFloat2 .vfadd (fun o T l => (fmtOf o.ty).add (rmode T.th.rm o.rnd) o.sat (T.fval o.ty o.a.toNat l) (T.fval o.ty o.b.toNat l)) ∧
  VecFloat2 .vfsub (fun o T l => (fmtOf o.ty).add (rmode T.th.rm o.rnd) o.sat (T.fval o.ty o.a.toNat l) (T.fval o.ty o.b.toNat l).neg) ∧
  VecFloat2 .vfmul (fun o T l => (fmtOf o.ty).mul (rmode T.th.rm o.rnd) o.sat (T.fval o.ty o.a.toNat l) (T.fval o.ty o.b.toNat l)) ∧
  VecFloat2 .vfmin (fun o T l => (fmtOf o.ty).minmax false (T.fbits o.ty o.a.toNat l) (T.fbits o.ty o.b.toNat l)) ∧
  VecFloat2 .vfmax (fun o T l => (fmtOf o.ty).minmax true (T.fbits o.ty o.a.toNat l) (T.fbits o.ty o.b.toNat l)) ∧
  (∀ (s : State) (k : Nat) (T : Team) (o : VF3), TeamIssuing s (.vffma o) k T →
    (T.vOk (fWide o.ty) o.d && T.vOk (fWide o.ty) o.a && T.vOk (fWide o.ty) o.b && T.vOk (fWide o.ty) o.c) = true →
    let r (l : Nat) := (fmtOf o.ty).fma (rmode T.th.rm o.rnd) o.sat (T.fval o.ty o.a.toNat l) (T.fval o.ty o.b.toNat l) (T.fval o.ty o.c.toNat l)
    ∃ t, exec (.vffma o) s = .next t ∧ WroteV s t k T (T.active o.g.toNat) (fWide o.ty) o.d.toNat (fun l => (r l).1)
      ((T.active o.g.toNat).foldl (fun x l => x ||| (r l).2) 0) 8) ∧
  (∀ (s : State) (k : Nat) (T : Team) (o : VF1), TeamIssuing s (.vfclass o) k T → (T.vOk false o.d && T.vOk (fWide o.ty) o.a) = true →
    ∃ t, exec (.vfclass o) s = .next t ∧ WroteV s t k T (T.active o.g.toNat) false o.d.toNat
      (fun l => (fmtOf o.ty).class (T.fbits o.ty o.a.toNat l)) 0 8) ∧
  (∀ (s : State) (k : Nat) (T : Team) (o : VF2), TeamIssuing s (.vfscale o) k T →
    (T.vOk (fWide o.ty) o.d && T.vOk (fWide o.ty) o.a && T.vOk false o.b) = true →
    let r (l : Nat) := (fmtOf o.ty).scale (rmode T.th.rm o.rnd) o.sat (T.fval o.ty o.a.toNat l) (T.vr o.b.toNat l).toInt
    ∃ t, exec (.vfscale o) s = .next t ∧ WroteV s t k T (T.active o.g.toNat) (fWide o.ty) o.d.toNat (fun l => (r l).1)
      ((T.active o.g.toNat).foldl (fun x l => x ||| (r l).2) 0) 8) ∧
  (∀ (s : State) (k : Nat) (T : Team) (o : VF1), TeamIssuing s (.vfrnd o) k T → limVF1 o T = true →
    let r (l : Nat) := (fmtOf o.ty).rnd (rmode T.th.rm o.rnd) (T.fbits o.ty o.a.toNat l)
    ∃ t, exec (.vfrnd o) s = .next t ∧ WroteV s t k T (T.active o.g.toNat) (fWide o.ty) o.d.toNat (fun l => (r l).1)
      ((T.active o.g.toNat).foldl (fun x l => x ||| (r l).2) 0) 8)

/-- R160, R133: the vector conversions of the floating group. -/
def Obligations.FloatConversions : Prop :=
  ∀ (s : State) (k : Nat) (T : Team) (o : VCvt),
    (TeamIssuing s (.vfcvt o) k T → (T.vOk (fWide o.td) o.d && T.vOk (fWide o.ts) o.a) = true →
      let r (l : Nat) := convBits o.td o.ts (rmode T.th.rm o.rnd) o.sat (T.fbits o.ts o.a.toNat l)
      ∃ t, exec (.vfcvt o) s = .next t ∧ WroteV s t k T (T.active o.g.toNat) (fWide o.td) o.d.toNat (fun l => (r l).1)
        ((T.active o.g.toNat).foldl (fun x l => x ||| (r l).2) 0) 8) ∧
    (TeamIssuing s (.vfi o) k T → (T.vOk (tyWide o.td) o.d && T.vOk (fWide o.ts) o.a) = true →
      let r (l : Nat) := toInt o.td (rmode T.th.rm o.rnd) (T.fval o.ts o.a.toNat l)
      ∃ t, exec (.vfi o) s = .next t ∧ WroteV s t k T (T.active o.g.toNat) (tyWide o.td) o.d.toNat
        (fun l => laneOf o.td (BitVec.ofNat _ (r l).1)) ((T.active o.g.toNat).foldl (fun x l => x ||| (r l).2) 0) 8) ∧
    (TeamIssuing s (.vif o) k T → (T.vOk (fWide o.td) o.d && T.vOk (tyWide o.ts) o.a) = true →
      let r (l : Nat) := (fmtOf o.td).ofInt (rmode T.th.rm o.rnd) o.sat (tyVal o.ts (T.vrd (tyWide o.ts) o.a.toNat l))
      ∃ t, exec (.vif o) s = .next t ∧ WroteV s t k T (T.active o.g.toNat) (fWide o.td) o.d.toNat (fun l => (r l).1)
        ((T.active o.g.toNat).foldl (fun x l => x ||| (r l).2) 0) 8)

/-- R152, R155, R156, R162: the variable-latency floating words queue their lane results with the flags. -/
def Obligations.FloatLater : Prop :=
  (∀ (s : State) (k : Nat) (T : Team) (o : VF2), TeamIssuing s (.vfdiv o) k T → limVF2 o T = true →
    let r (l : Nat) := (fmtOf o.ty).div (rmode T.th.rm o.rnd) o.sat (T.fval o.ty o.a.toNat l) (T.fval o.ty o.b.toNat l)
    ∃ t, exec (.vfdiv o) s = .next t ∧ Queued s t (.team k) T.th 8 [] (.result
      ((T.active o.g.toNat).flatMap fun l => laneWrites (fWide o.ty) o.d.toNat l (r l).1)
      ((T.active o.g.toNat).foldl (fun x l => x ||| (r l).2) 0))) ∧
  (∀ (s : State) (k : Nat) (T : Team) (o : VF1), TeamIssuing s (.vfsqrt o) k T → limVF1 o T = true →
    let r (l : Nat) := (fmtOf o.ty).sqrt (rmode T.th.rm o.rnd) (T.fval o.ty o.a.toNat l)
    ∃ t, exec (.vfsqrt o) s = .next t ∧ Queued s t (.team k) T.th 8 [] (.result
      ((T.active o.g.toNat).flatMap fun l => laneWrites (fWide o.ty) o.d.toNat l (r l).1)
      ((T.active o.g.toNat).foldl (fun x l => x ||| (r l).2) 0))) ∧
  VecFloat1Later .vfrcp (fun o => (fmtOf o.ty).rcp o.ty o.sat) ∧
  VecFloat1Later .vfrsq (fun o => (fmtOf o.ty).rsq o.ty) ∧
  VecFloat1Later .vfex2 (fun o => fEx2 o.sat) ∧
  VecFloat1Later .vflg2 (fun _ => fLg2) ∧
  VecFloat1Later .vfsin (fun _ => fTrig false) ∧
  VecFloat1Later .vfcos (fun _ => fTrig true)

/-- R93, R152: a NaN operand of `vfadd`, `vfsub` or `vfmul` gives the canonical NaN of the format, whose bits are
0x7FF8_0000_0000_0000, 0x7FC0_0000, 0x7E00 and 0x7FC0. -/
def Obligations.FloatNan : Prop :=
  let canon (ty : BitVec 3) : Nat := [0x7FF8000000000000, 0x7FC00000, 0x7E00, 0x7FC0].getD ty.toNat 0
  ∀ (s : State) (k : Nat) (T : Team) (o : VF2) (i : Instr), i = .vfadd o ∨ i = .vfsub o ∨ i = .vfmul o → i.wf = true →
    TeamIssuing s i k T → limVF2 o T = true → ∃ t T', exec i s = .next t ∧ t.team? k = some T' ∧
      ∀ l ∈ T.active o.g.toNat, (T.fval o.ty o.a.toNat l).isNan = true ∨ (T.fval o.ty o.b.toNat l).isNan = true →
        T'.vrd (fWide o.ty) o.d.toNat l = canon o.ty

/-- R95 to R97, R152: an exact result is returned in every rounding mode and raises no flag: a finite value times 1 is itself. -/
def Obligations.MultiplyByOne : Prop :=
  let one (ty : BitVec 3) : Nat := [0x3FF0000000000000, 0x3F800000, 0x3C00, 0x3F80].getD ty.toNat 0
  ∀ (s : State) (k : Nat) (T : Team) (o : VF2), TeamIssuing s (.vfmul o) k T → (Instr.vfmul o).wf = true → limVF2 o T = true →
    (∀ l ∈ T.active o.g.toNat, T.fbits o.ty o.b.toNat l = one o.ty ∧ (T.fval o.ty o.a.toNat l).isNan = false ∧
      (T.fval o.ty o.a.toNat l).isInf = false) →
    ∃ t, exec (.vfmul o) s = .next t ∧ WroteV s t k T (T.active o.g.toNat) (fWide o.ty) o.d.toNat (fun l => T.fbits o.ty o.a.toNat l) 0 8

/-- R146, R153: where neither operand is a NaN, `vfmin` and `vfmax` write one of the two operands unchanged and raise no flag. -/
def Obligations.FloatMinMax : Prop :=
  ∀ (s : State) (k : Nat) (T : Team) (o : VF2) (i : Instr), i = .vfmin o ∨ i = .vfmax o → TeamIssuing s i k T → limVF2 o T = true →
    (∀ l ∈ T.active o.g.toNat, (T.fval o.ty o.a.toNat l).isNan = false ∧ (T.fval o.ty o.b.toNat l).isNan = false) →
    ∃ t T', exec i s = .next t ∧ t.team? k = some T' ∧ T'.th.flags = T.th.flags ∧
      ∀ l ∈ T.active o.g.toNat, T'.vrd (fWide o.ty) o.d.toNat l = T.fbits o.ty o.a.toNat l ∨
        T'.vrd (fWide o.ty) o.d.toNat l = T.fbits o.ty o.b.toNat l

/-- R92 to R101, R150 to R160: what the floating functions of the words compute. Every rounded result is the exact real result rounded
once to the format in the mode, with the flags of R97; zeros, infinities and NaNs give what R96, R99 and R152 to R160 list; `vfrcp` and
`vfrsq` give one of the two values that bracket the exact one. That an infinite operand of `vfscale` is kept with `.sat`, and which
overflowing brackets are infinite, are the model's readings (log entries 19 and 17). -/
def Obligations.FloatRounding : Prop :=
  ∀ (code : BitVec 3) (mode : Nat) (sat : Bool), mode < 4 →
    let F := fmtOf code
    let infRes (n : Bool) : FRes := (if sat then F.sign n + F.maxBits else F.infBits n, 0)
    (∀ na ma qa nb mb qb, let a := FV.fin na ma qa
      let b := FV.fin nb mb qb
      (a.real + b.real ≠ 0 → F.Rounded mode sat (a.real + b.real) (F.add mode sat a b)) ∧
      (a.real + b.real = 0 → F.add mode sat a b = (F.sign (if ma = 0 ∧ mb = 0 ∧ na = nb then na else decide (mode = 3)), 0)) ∧
      (a.real * b.real ≠ 0 → F.Rounded mode sat (a.real * b.real) (F.mul mode sat a b)) ∧
      (a.real * b.real = 0 → F.mul mode sat a b = (F.sign (xor na nb), 0)) ∧
      (a.real ≠ 0 → b.real ≠ 0 → F.Rounded mode sat (a.real / b.real) (F.div mode sat a b)) ∧
      (a.real = 0 → b.real ≠ 0 → F.div mode sat a b = (F.sign (xor na nb), 0)) ∧
      (a.real ≠ 0 → b.real = 0 → F.div mode sat a b = (F.infBits (xor na nb), fDZ)) ∧
      (a.real = 0 → b.real = 0 → F.div mode sat a b = (F.nan, fNV)) ∧
      ∀ nc mc qc, let c := FV.fin nc mc qc
        (a.real * b.real + c.real ≠ 0 → F.Rounded mode sat (a.real * b.real + c.real) (F.fma mode sat a b c)) ∧
        (a.real * b.real + c.real = 0 → F.fma mode sat a b c =
          (F.sign (if ma * mb = 0 ∧ mc = 0 ∧ xor na nb = nc then nc else decide (mode = 3)), 0))) ∧
    (∀ n m q, let a := FV.fin n m q
      (m ≠ 0 → n = false → F.Rounded mode false (√a.real) (F.sqrt mode a)) ∧ (m ≠ 0 → n = true → F.sqrt mode a = (F.nan, fNV)) ∧
      (m = 0 → F.sqrt mode a = (F.sign n, 0)) ∧
      (m ≠ 0 → F.Rounded mode sat a.real (F.conv mode sat a)) ∧ (m = 0 → F.conv mode sat a = (F.sign n, 0)) ∧
      (∀ k : ℤ, (m ≠ 0 → F.Rounded mode sat (a.real * (2 : ℝ) ^ k) (F.scale mode sat a k)) ∧ (m = 0 → F.scale mode sat a k = (F.sign n, 0))) ∧
      ∀ ty, ∃ w : ℤ, IntRounded mode a.real w ∧
        (tyMin ty ≤ w → w ≤ tyMax ty → (toInt ty mode a).1 = (BitVec.ofInt (tyBits ty) w).toNat ∧
          ((w : ℝ) = a.real → (toInt ty mode a).2 = 0) ∧ ((w : ℝ) ≠ a.real → (toInt ty mode a).2 = fNX)) ∧
        (w < tyMin ty → toInt ty mode a = ((BitVec.ofInt (tyBits ty) (tyMin ty)).toNat, fNV)) ∧
        (tyMax ty < w → toInt ty mode a = ((BitVec.ofInt (tyBits ty) (tyMax ty)).toNat, fNV))) ∧
    (∀ v : ℤ, (v ≠ 0 → F.Rounded mode sat v (F.ofInt mode sat v)) ∧ (v = 0 → F.ofInt mode sat v = (0, 0))) ∧
    (∀ x n m q, x < 2 ^ F.bits → F.val x = .fin n m q → let a := FV.fin n m q
      (m = 0 → F.rnd mode x = (x, 0)) ∧
      (m ≠ 0 → ∃ w : ℤ, IntRounded mode a.real w ∧ F.Finite (F.rnd mode x).1 w ∧ bitAt (F.rnd mode x).1 (F.e + F.f) = n ∧
        ((w : ℝ) = a.real → (F.rnd mode x).2 = 0) ∧ ((w : ℝ) ≠ a.real → (F.rnd mode x).2 = fNX)) ∧
      (m ≠ 0 → ∀ v, v = a.real⁻¹ → F.Rounded 2 sat v (F.rcp code sat x) ∨ F.Rounded 3 sat v (F.rcp code sat x) ∨
        (F.largest + F.topStep ≤ |v| ∧ F.Rounded 0 sat v (F.rcp code sat x))) ∧
      (m ≠ 0 → n = false → ∀ v, v = (√a.real)⁻¹ → F.Rounded 2 false v (F.rsq code x) ∨ F.Rounded 3 false v (F.rsq code x)) ∧
      (m ≠ 0 → n = true → F.rsq code x = (F.nan, fNV)) ∧
      (m = 0 → F.rcp code sat x = (F.infBits n, fDZ) ∧ F.rsq code x = (F.infBits n, fDZ)) ∧ convBits code code mode sat x = (x, 0)) ∧
    (∀ x n, F.val x = .inf n → F.rnd mode x = (x, 0) ∧ F.rcp code sat x = (F.sign n, 0) ∧
      F.rsq code x = (if n then (F.nan, fNV) else (0, 0)) ∧ convBits code code mode sat x = if sat then infRes n else (x, 0)) ∧
    (∀ x c, F.val x = .nan c → F.rnd mode x = (F.nan, if c then fNV else 0) ∧ F.rcp code sat x = (F.nan, if c then fNV else 0) ∧
      F.rsq code x = (F.nan, if c then fNV else 0) ∧ convBits code code mode sat x = (F.nan, if c then fNV else 0)) ∧
    (∀ na nb m q, let a := FV.inf na
      let b := FV.fin nb m q
      F.add mode sat a (.inf nb) = (if na = nb then infRes na else (F.nan, fNV)) ∧ F.add mode sat a b = infRes na ∧ F.add mode sat b a = infRes na ∧
      F.mul mode sat a (.inf nb) = infRes (xor na nb) ∧ F.mul mode sat a b = (if m = 0 then (F.nan, fNV) else infRes (xor na nb)) ∧
      F.mul mode sat b a = F.mul mode sat a b ∧ F.div mode sat a b = infRes (xor na nb) ∧ F.div mode sat b a = (F.sign (xor na nb), 0) ∧
      F.div mode sat a (.inf nb) = (F.nan, fNV) ∧ F.sqrt mode a = (if na then (F.nan, fNV) else (F.infBits false, 0)) ∧
      F.conv mode sat a = infRes na ∧ (∀ k, F.scale mode sat a k = (F.infBits na, 0)) ∧
      ∀ ty, toInt ty mode a = ((BitVec.ofInt (tyBits ty) (if na then tyMin ty else tyMax ty)).toNat, fNV)) ∧
    (∀ a b c : FV, a.isNan = true ∨ b.isNan = true → F.add mode sat a b = (F.nan, a.nv ||| b.nv) ∧ F.mul mode sat a b = (F.nan, a.nv ||| b.nv) ∧
      F.div mode sat a b = (F.nan, a.nv ||| b.nv) ∧ F.fma mode sat a b c = (F.nan, a.nv ||| b.nv ||| c.nv)) ∧
    (∀ a b c : FV, a.isNan = false → b.isNan = false → F.fma mode sat a b c = match FV.mul a b with
      | none => (F.nan, fNV)
      | some p => F.add mode sat p c) ∧
    ∀ a : FV, a.isNan = true → F.sqrt mode a = (F.nan, a.nv) ∧ F.conv mode sat a = (F.nan, a.nv) ∧ (∀ k, F.scale mode sat a k = (F.nan, a.nv)) ∧
      ∀ ty, toInt ty mode a = (0, fNV)

/-- R156: what the transcendental words compute: the listed values exactly, every other within 2 ulp of the real function, up to 2^−30 of
an ulp for the model's own computation of it (log entry 18), and the special operands as the table gives them. -/
def Obligations.TranscendentalBounds : Prop :=
  ∀ (x : Nat) (sat : Bool), x < 2 ^ 32 → let F := fmtF32
    (∀ n m q, F.val x = .fin n m q → let a := (FV.fin n m q).real
      (∀ k : ℤ, a = k → -149 ≤ k → k ≤ 127 → F.Finite (fEx2 sat x).1 ((2 : ℝ) ^ k) ∧ (fEx2 sat x).2 = 0) ∧
      ((∀ k : ℤ, a = k → k < -149 ∨ 127 < k) → Within2Ulp sat ((2 : ℝ) ^ a) (fEx2 sat x)) ∧
      (∀ k : ℤ, a = (2 : ℝ) ^ k → F.Finite (fLg2 x).1 k ∧ (fLg2 x).2 = 0 ∧ (k = 0 → (fLg2 x).1 = 0)) ∧
      (0 < a → (∀ k : ℤ, a ≠ (2 : ℝ) ^ k) → Within2Ulp false (Real.logb 2 a) (fLg2 x)) ∧
      (a = 0 → fLg2 x = (F.infBits true, fDZ) ∧ fTrig false x = (x, 0) ∧ fTrig true x = (0x3F800000, 0)) ∧
      (a < 0 → fLg2 x = (F.nan, fNV)) ∧
      (a ≠ 0 → Within2Ulp false (Real.sin a) (fTrig false x) ∧ Within2Ulp false (Real.cos a) (fTrig true x))) ∧
    (∀ n, F.val x = .inf n → fEx2 sat x = (if n then (0, 0) else if sat then (F.maxBits, 0) else (F.infBits false, 0)) ∧
      fLg2 x = (if n then (F.nan, fNV) else (F.infBits false, 0)) ∧ ∀ c, fTrig c x = (F.nan, fNV)) ∧
    ∀ c, F.val x = .nan c → let r : FRes := (F.nan, if c then fNV else 0)
      fEx2 sat x = r ∧ fLg2 x = r ∧ ∀ b, fTrig b x = r

/-- R161: the uniform floating words. -/
def Obligations.UniformFloat : Prop :=
  ∀ (s : State) (a : Agent) (th : Thread),
    (∀ o : UF2, Issuing s (.fadd o) a th →
      let r := (fmtOf o.ty).add (rmode th.rm o.rnd) o.sat (th.fval o.ty o.a.toNat) (th.fval o.ty o.b.toNat)
      ∃ t, exec (.fadd o) s = .next t ∧ WroteSF s t a th o.d.toNat (BitVec.ofNat 64 r.1) r.2 8) ∧
    (∀ o : UF2, Issuing s (.fmul o) a th →
      let r := (fmtOf o.ty).mul (rmode th.rm o.rnd) o.sat (th.fval o.ty o.a.toNat) (th.fval o.ty o.b.toNat)
      ∃ t, exec (.fmul o) s = .next t ∧ WroteSF s t a th o.d.toNat (BitVec.ofNat 64 r.1) r.2 8) ∧
    (∀ o : UF3, Issuing s (.ffma o) a th →
      let r := (fmtOf o.ty).fma (rmode th.rm o.rnd) o.sat (th.fval o.ty o.a.toNat) (th.fval o.ty o.b.toNat) (th.fval o.ty o.c.toNat)
      ∃ t, exec (.ffma o) s = .next t ∧ WroteSF s t a th o.d.toNat (BitVec.ofNat 64 r.1) r.2 8) ∧
    (∀ o : UFcvt, Issuing s (.fcvt o) a th →
      (o.kind = 0#2 → let r := convBits o.td o.ts (rmode th.rm o.rnd) o.sat ((th.rd o.a.toNat).toNat % 2 ^ (fmtOf o.ts).bits)
        ∃ t, exec (.fcvt o) s = .next t ∧ WroteSF s t a th o.d.toNat (BitVec.ofNat 64 r.1) r.2 8) ∧
      (o.kind = 1#2 → let r := toInt o.td (rmode th.rm o.rnd) (th.fval o.ts o.a.toNat)
        ∃ t, exec (.fcvt o) s = .next t ∧ WroteSF s t a th o.d.toNat (extend o.td (BitVec.ofNat _ r.1)) r.2 8) ∧
      (o.kind = 2#2 → let r := (fmtOf o.td).ofInt (rmode th.rm o.rnd) o.sat (tyVal o.ts (th.rd o.a.toNat).toNat)
        ∃ t, exec (.fcvt o) s = .next t ∧ WroteSF s t a th o.d.toNat (BitVec.ofNat 64 r.1) r.2 8))

/-- R163 to R168: packed dot products. Each active lane's accumulator takes the result of `dotLane`, and the flags of all of them are
ORed into FPFLAGS: where every product is finite and no scale is 0xFF, that is v(D) plus one exact value, the sum of the products times
the scale, rounded once; a product that is a NaN, infinities of opposite sign, a scale of 0xFF and a NaN in v(D) give the canonical NaN;
otherwise an infinite product is added as that infinity. `vcvtds` converts to DS8 and writes one byte of v(D). -/
def Obligations.DotProducts : Prop :=
  (∀ (s : State) (k : Nat) (T : Team) (o : VDot) (i : Instr), i = .vdot2 o ∨ i = .vdot4 o ∨ i = .vdotds o → TeamIssuing s i k T →
    (T.vOk false o.d && T.vOk false o.a && T.vOk (decide (i = .vdotds o) && decide (o.af.toNat < 2)) o.b && (!o.sen || T.vOk false o.c)) = true →
    ∃ t, exec i s = .next t ∧ WroteV s t k T (T.active o.g.toNat) false o.d.toNat (fun l => (T.dotLane i o l).1)
      ((T.active o.g.toNat).foldl (fun x l => x ||| (T.dotLane i o l).2) 0) 8) ∧
  (∀ (T : Team) (o : VDot) (i : Instr) (l : Nat), i = .vdot2 o ∨ i = .vdot4 o ∨ i = .vdotds o →
    let ps := (T.dotTerms i o l).map (·.p)
    let acc := fmtF32.val (T.vr o.d.toNat l).toNat
    let scale := (T.vr o.c.toNat (32 * (l / 32) + o.j.toNat % 32)).toNat / 2 ^ (8 * (o.bs.toNat + o.j.toNat / 32)) % 256
    (T.dotTerms i o l).length = o.kv.toNat + 1 ∧
    ((∀ p ∈ ps, ∃ n m q, p = some (.fin n m q)) → (o.sen = true → scale ≠ 255) → ∃ n m q,
      (FV.fin n m q).rat = (ps.map fun p => (p.getD (.fin false 0 0)).rat).sum * (if o.sen then (2 : Rat) ^ ((scale : Int) - 127) else 1) ∧
      (m = 0 → n = false) ∧ T.dotLane i o l = fmtF32.add T.th.rm.toNat false acc (.fin n m q)) ∧
    ((∃ p ∈ ps, p = none ∨ p = some (.nan false)) ∨ (some (.inf false) ∈ ps ∧ some (.inf true) ∈ ps) ∨ (o.sen = true ∧ scale = 255) ∨
      acc.isNan = true → (T.dotLane i o l).1 = 0x7FC00000) ∧
    (∀ n, some (.inf n) ∈ ps → (∀ p ∈ ps, p = some (.inf n) ∨ ∃ n' m q, p = some (.fin n' m q)) → (o.sen = true → scale ≠ 255) →
      T.dotLane i o l = fmtF32.add T.th.rm.toNat false acc (.inf n))) ∧
  (∀ (s : State) (k : Nat) (T : Team) (o : VCvtds), TeamIssuing s (.vcvtds o) k T → (T.vOk false o.d && T.vOk (fWide o.ts) o.a) = true →
    let r (l : Nat) := toDs8 (T.fval o.ts o.a.toNat l)
    ∃ t, exec (.vcvtds o) s = .next t ∧ WroteV s t k T (T.active o.g.toNat) false o.d.toNat
      (fun l => ((T.vr o.d.toNat l &&& ~~~(0xFF#32 <<< (8 * o.pos.toNat))) ||| (BitVec.ofNat 32 (r l).1 <<< (8 * o.pos.toNat))).toNat)
      ((T.active o.g.toNat).foldl (fun x l => x ||| (r l).2) 0) 8)

/-- R103, R169 to R173: the bit-plane words. Packing into planes (with the clamp to BPk) and back is queued; `vbpdot` adds the weighted
counts of the planes read, and `vbpsel` takes the elements that s(B) selects. -/
def Obligations.BitPlanes : Prop :=
  ∀ (s : State) (k : Nat) (T : Team),
    let weight (signed : Bool) (n i : Nat) : Int := if signed = true ∧ i + 1 = n then -(2 ^ i) else 2 ^ i
    (∀ o : VBp, TeamIssuing s (.vbpl o) k T → (T.vOk false o.d && T.vOk false o.a) = true →
      ∃ (t : State) (w : Nat → W32), exec (.vbpl o) s = .next t ∧ Queued s t (.team k) T.th 8 [] (.result
          (((T.active o.g.toNat).filter fun l => decide (l < 2 * planeK o.k * T.maskRegs)).map fun l => .v o.d.toNat l (w l)) 0) ∧
        ∀ l ∈ T.active o.g.toNat, l < 2 * planeK o.k * T.maskRegs →
          ∀ e < 32, (w l).getLsbD e = (let x := 64 * (l / (2 * planeK o.k)) + 32 * (l % 2) + e
            let v : Int := if x < 32 * T.words then (if o.signed then (T.vr o.a.toNat x).toInt else (T.vr o.a.toNat x).toNat) else 0
            let lo : Int := if o.signed then -(2 ^ (planeK o.k - 1)) else 0
            let hi : Int := (if o.signed then 2 ^ (planeK o.k - 1) else 2 ^ planeK o.k) - 1
            (BitVec.ofInt 8 (max lo (min hi v))).getLsbD (l % (2 * planeK o.k) / 2))) ∧
    (∀ o : VBp, TeamIssuing s (.vbpu o) k T → (T.vOk false o.d && T.vOk false o.a) = true →
      ∃ t, exec (.vbpu o) s = .next t ∧ Queued s t (.team k) T.th 8 [] (.result
        ((T.active o.g.toNat).map fun l => .v o.d.toNat l (BitVec.ofInt 32 (((List.range (planeK o.k)).map fun i =>
          if (T.vr o.a.toNat (2 * planeK o.k * (l / 64) + 2 * i + l % 64 / 32)).getLsbD (l % 32) then weight o.signed (planeK o.k) i else 0).sum))) 0)) ∧
    (∀ o : VBpdot, TeamIssuing s (.vbpdot o) k T → (T.vOk false o.d && T.groupOk (planeK o.k) o.a) = true →
      let plane (l i : Nat) : W64 := BitVec.ofNat 64 (T.vrd true (o.a.toNat + 2 * i) l)
      ∃ t, exec (.vbpdot o) s = .next t ∧ WroteV s t k T (T.active o.g.toNat) false o.d.toNat
        (fun l => (T.vr o.d.toNat l + BitVec.ofInt 32 ((List.range (planeK o.k)).map fun i =>
          if planeK o.k ≤ i + (o.m.toNat + 1) then
            weight o.signed (planeK o.k) i * (((List.range 64).countP fun e => (plane l i &&& T.th.rd o.b.toNat).getLsbD e : Nat) : Int)
          else 0).sum).toNat) 0 8) ∧
    (∀ o : VBpsel, TeamIssuing s (.vbpsel o) k T → (T.groupOk (planeK o.k) o.d && T.groupOk (planeK o.k) o.a) = true →
      ∃ t T', exec (.vbpsel o) s = .next t ∧ t = s.setTeam k T' ∧ t.team? k = some T' ∧
        (∀ l ∈ T.active o.g.toNat, ∀ i < planeK o.k, ∀ e < 64,
          (BitVec.ofNat 64 (T'.vrd true (o.d.toNat + 2 * i) l)).getLsbD e = if (T.th.rd o.b.toNat).getLsbD e
            then (BitVec.ofNat 64 (T.vrd true (o.a.toNat + 2 * i) l)).getLsbD e
            else (BitVec.ofNat 64 (T.vrd true (o.d.toNat + 2 * i) l)).getLsbD e) ∧
        (∀ r l, r < 256 → l ∉ T.active o.g.toNat ∨ ¬(o.d.toNat ≤ r ∧ r < o.d.toNat + 2 * planeK o.k) →
          T'.vr r l = T.vr r l ∧ (vkey r l ∈ T'.vmarks ↔ vkey r l ∈ T.vmarks)) ∧
        T' = { T with
          v := T'.v, vmarks := T'.vmarks, th := { T.th with pc := T.th.pc + 8 }, partialMask := if T.hcause = 0 then none else T.partialMask } ∧ SameMem s t)

/-- R175 to R178, R181, R183, R189, R190, R192: a uniform memory word becomes one outstanding access, with its kind, width, scope,
order, destination and operands, at s(A) + displacement, in the pieces of R178 and R181, with the poison of the data it stores (R432);
nothing else changes. Where a counter
that a team's word raises stands at 255, it waits to issue and has no other effect. -/
def Obligations.UniformMemory : Prop :=
  ∀ (s : State) (a : Agent) (th : Thread),
    let bad (w : BitVec 2) (r : BitVec 8) : Bool := th.marks.any fun m => decide (2 * r.toNat ≤ m) && decide (m < 2 * r.toNat + if w = 3#2 then 2 else 1)
    let does (i : Instr) (len : Nat) (m : MemOp) : Prop := Issuing s i a th →
      ((∀ k, a = .team k → CountersFree th m.paths) → ∃ t, exec i s = .next t ∧ QueuedMem s t a th len m) ∧
      (∀ k, a = .team k → ¬CountersFree th m.paths → ∃ t, exec i s = .next t ∧ Parked s t a th (.counter m.paths) 0)
    (∀ o : MLd, does (.ld o) (dispLen o.disp) ⟨.ld, false, o.wid.toNat, o.sgn, o.scope.toNat, o.ord.toNat, .s o.d.toNat,
      lanePieces .ld o.ord.toNat o.wid.toNat 0 (th.rd o.a.toNat + dispVal o.disp) 0 0 false, none⟩) ∧
    (∀ o : MSt, does (.st o) (dispLen o.disp) ⟨.st, false, o.wid.toNat, false, o.scope.toNat, o.ord.toNat, .none,
      lanePieces .st o.ord.toNat o.wid.toNat 0 (th.rd o.a.toNat + dispVal o.disp) (th.rd o.b.toNat) 0 (bad o.wid o.b), none⟩) ∧
    (∀ o : MAtom, does (.atom o) (adispLen o.disp) ⟨.atom o.op.toNat, false, o.wid.toNat, o.sgn, o.scope.toNat, o.ord.toNat, .s o.d.toNat,
      [⟨0, th.rd o.a.toNat + adispVal o.disp, 0, 2 ^ o.wid.toNat, th.rd o.b.toNat, 0, .fresh, none, 0, bad o.wid o.b⟩], none⟩) ∧
    (∀ o : MCas, does (.cas o) (adispLen o.disp) ⟨.cas, false, o.wid.toNat, false, o.scope.toNat, o.ord.toNat, .s o.d.toNat,
      [⟨0, th.rd o.a.toNat + adispVal o.disp, 0, 2 ^ o.wid.toNat, th.rd o.b.toNat, th.rd o.c.toNat, .fresh, none, 0, bad o.wid o.b || bad o.wid o.c⟩], none⟩) ∧
    (∀ o : MCache, does (.cinv o) (dispLen o.disp) ⟨.cinv, false, 0, false, o.scope.toNat, 0, .none,
      [⟨0, th.rd o.a.toNat + dispVal o.disp, 0, 1, 0, 0, .fresh, none, 0, false⟩], none⟩) ∧
    (∀ o : MCache, does (.cwb o) (dispLen o.disp) ⟨.cwb, false, 0, false, o.scope.toNat, 0, .none,
      [⟨0, th.rd o.a.toNat + dispVal o.disp, 0, 1, 0, 0, .fresh, none, 0, false⟩], none⟩) ∧
    (∀ o : MLd, does (.marm o) (dispLen o.disp) ⟨.marm, false, o.wid.toNat, o.sgn, o.scope.toNat, o.ord.toNat, .s o.d.toNat,
      [⟨0, th.rd o.a.toNat + dispVal o.disp, 0, 2 ^ o.wid.toNat, 0, 0, .fresh, none, 0, false⟩], none⟩)

/-- R17, R175, R179, R183 to R187: a vector memory word becomes one outstanding item with an access for each active lane, in ascending
order, at the lane's address pair + displacement (the one table at s(A) for `vbin`); without an active lane only the PC moves, as it
does for `vprefetch` (that the hint of R182 does nothing else is the model's choice, log entry 15); where a counter that the word raises stands at 255, it waits to issue and has no other effect (R192). -/
def Obligations.VectorMemory : Prop :=
  ∀ (s : State) (k : Nat) (T : Team),
    let ok (w : BitVec 2) (r : BitVec 8) : Bool := T.vOk (decide (w = 3#2)) r
    let val (w : BitVec 2) (r : BitVec 8) (l : Nat) : W64 := BitVec.ofNat 64 (T.vrd (decide (w = 3#2)) r.toNat l)
    let bad (w : BitVec 2) (r : BitVec 8) (l : Nat) : Bool :=
      T.vmarks.contains (vkey r.toNat l) || (decide (w = 3#2) && T.vmarks.contains (vkey (r.toNat + 1) l))
    let does (i : Instr) (len : Nat) (m : MemOp) : Prop :=
      (m.lanes ≠ [] → CountersFree T.th m.paths → ∃ t, exec i s = .next t ∧ QueuedMem s t (.team k) T.th len m) ∧
      (m.lanes ≠ [] → ¬CountersFree T.th m.paths → ∃ t, exec i s = .next t ∧ Parked s t (.team k) T.th (.counter m.paths) 0) ∧
      (m.lanes = [] → ∃ t, exec i s = .next t ∧ OnlyPc (s.replayed k T) t (.team k) T.th len)
    (∀ o : MVld, TeamIssuing s (.vld o) k T → (T.vOk true o.a && ok o.wid o.d) = true → does (.vld o) (dispLen o.disp)
      ⟨.ld, true, o.wid.toNat, o.sgn, o.scope.toNat, o.ord.toNat, .v o.d.toNat, (T.active o.g.toNat).flatMap fun l =>
        lanePieces .ld o.ord.toNat o.wid.toNat l (T.vaddr o.a.toNat l + dispVal o.disp) 0 0 false, none⟩) ∧
    (∀ o : MVst, TeamIssuing s (.vst o) k T → (T.vOk true o.a && ok o.wid o.b) = true → does (.vst o) (dispLen o.disp)
      ⟨.st, true, o.wid.toNat, false, o.scope.toNat, o.ord.toNat, .none, (T.active o.g.toNat).flatMap fun l =>
        lanePieces .st o.ord.toNat o.wid.toNat l (T.vaddr o.a.toNat l + dispVal o.disp) (val o.wid o.b l) 0 (bad o.wid o.b l), none⟩) ∧
    (∀ o : MVatom, TeamIssuing s (.vatom o) k T → (T.vOk true o.a && ok o.wid o.d && ok o.wid o.b) = true → does (.vatom o) (adispLen o.disp)
      ⟨.atom o.op.toNat, true, o.wid.toNat, o.sgn, o.scope.toNat, o.ord.toNat, .v o.d.toNat, (T.active o.g.toNat).flatMap fun l =>
        lanePieces (.atom o.op.toNat) o.ord.toNat o.wid.toNat l (T.vaddr o.a.toNat l + adispVal o.disp) (val o.wid o.b l) 0 (bad o.wid o.b l), none⟩) ∧
    (∀ o : MVatom, TeamIssuing s (.vfatom o) k T → (T.vOk true o.a && ok o.wid o.d && ok o.wid o.b) = true → does (.vfatom o) (adispLen o.disp)
      ⟨.atom o.op.toNat, true, o.wid.toNat, false, o.scope.toNat, o.ord.toNat, .v o.d.toNat, (T.active o.g.toNat).flatMap fun l =>
        lanePieces (.atom o.op.toNat) o.ord.toNat o.wid.toNat l (T.vaddr o.a.toNat l + adispVal o.disp) (val o.wid o.b l) 0 (bad o.wid o.b l), none⟩) ∧
    (∀ o : MVcas, TeamIssuing s (.vcas o) k T → (T.vOk true o.a && ok o.wid o.d && ok o.wid o.b && ok o.wid o.c) = true →
      does (.vcas o) (adispLen o.disp)
      ⟨.cas, true, o.wid.toNat, false, o.scope.toNat, o.ord.toNat, .v o.d.toNat, (T.active o.g.toNat).flatMap fun l =>
        lanePieces .cas o.ord.toNat o.wid.toNat l (T.vaddr o.a.toNat l + adispVal o.disp) (val o.wid o.b l) (val o.wid o.c l) (bad o.wid o.b l || bad o.wid o.c l), none⟩) ∧
    (∀ o : MVscadd, TeamIssuing s (.vscadd o) k T → (T.vOk true o.a && ok o.wid o.b) = true → does (.vscadd o) (adispLen o.disp)
      ⟨.scadd o.op.toNat, true, o.wid.toNat, false, o.scope.toNat, o.ord.toNat, .none, (T.active o.g.toNat).flatMap fun l =>
        lanePieces (.scadd o.op.toNat) o.ord.toNat o.wid.toNat l (T.vaddr o.a.toNat l + adispVal o.disp) (val o.wid o.b l) 0 (bad o.wid o.b l), none⟩) ∧
    (∀ o : MVbin, TeamIssuing s (.vbin o) k T → (T.vOk false o.d && T.vOk false o.b) = true → does (.vbin o) (adispLen o.disp)
      ⟨.bin, true, 2, false, o.scope.toNat, o.ord.toNat, .v o.d.toNat, (T.active o.g.toNat).map fun l =>
        ⟨l, T.th.rd o.a.toNat + adispVal o.disp, 0, 4, (T.vr o.b.toNat l).setWidth 64, 0, .fresh, none, 0, false⟩, none⟩) ∧
    (∀ o : MPref, TeamIssuing s (.vprefetch o) k T → T.vOk true o.a = true → ∃ t, exec (.vprefetch o) s = .next t ∧
      OnlyPc (s.replayed k T) t (.team k) T.th (dispLen o.disp))

/-- R188, R191, R193, R203, R290: `fence` of `.team` scope moves the PC only; any other stands among the outstanding work, and its agent
parks for it; `mwait`, `waitc` and `take` park with what they wait for. That a fence of every order, `.rel` included, is outstanding work
at which its agent parks is the model's reading (log entry 21). -/
def Obligations.FencesAndWaits : Prop :=
  ∀ (s : State) (a : Agent) (th : Thread),
    (∀ o : MFence, Issuing s (.fence o) a th → (o.scope = 0#3 → ∃ t, exec (.fence o) s = .next t ∧ OnlyPc s t a th 8) ∧
      (o.scope ≠ 0#3 → ∃ t u th', exec (.fence o) s = .next t ∧ Queued s u a th 8 [] (.held (.fence o.scope.toNat o.ord.toNat)) ∧
        u.thread? a = some th' ∧ Parked u t a th' (.fence s.uid) 0)) ∧
    (∀ o : TwoDA, Issuing s (.mwait o) a th → ∃ t, exec (.mwait o) s = .next t ∧
      Parked s t a th (.mwait o.d.toNat (th.rd o.a.toNat)) 8) ∧
    (∀ o : MWaitc, Issuing s (.waitc o) a th → ∃ t, exec (.waitc o) s = .next t ∧
      Parked s t a th (.waitc (pathOf o.path.toNat) (th.rd o.a.toNat)) 8) ∧
    (∀ o : BSlot, Issuing s (.take o) a th → ∃ t, exec (.take o) s = .next t ∧ Parked s t a th (.take o.d.toNat o.slot.toNat) 8)

/-- R198, R209, R211, R246 to R248: the words that are performed after they issue are queued with their operands and change nothing else.
`spawn` of a PC that is not valid and `dlaunch` of an address that is none of the global window or not a multiple of 256 fault; `kick`
with a count of 0 moves the PC only, and waits to issue while its counter is full; the team form of `bwait` parks at its word, or faults
where its address or slot does. -/
def Obligations.HeldWords : Prop :=
  (∀ o : BSlot, HeldWord (.balloc o) [] (.balloc o.d.toNat o.slot.toNat)) ∧
  (∀ o : BSlot, HeldWord (.bfree o) [] (.bfree o.d.toNat o.slot.toNat .idle)) ∧
  (∀ o : BGive, HeldWord (.give o) [] (.give o.d.toNat o.slot.toNat o.core.toNat o.dslot.toNat .idle)) ∧
  (∀ o : BSlot, HeldWord (.takeTest o) [] (.takeTest o.d.toNat o.slot.toNat)) ∧
  (∀ o : BShare, HeldWord (.bshare o) [] (.bshare o.d.toNat o.slot.toNat o.cmask.toNat)) ∧
  (∀ o : BSlot, HeldWord (.bmap o) [] (.bmap o.d.toNat o.slot.toNat)) ∧
  (∀ o : BSlot, HeldWord (.bzero o) [] (.bzero o.d.toNat o.slot.toNat none)) ∧
  (∀ o : Plain, HeldWord (.trig o) [] .trig) ∧
  (∀ (s : State) (a : Agent) (th : Thread) (o : SThree), Issuing s (.spawn o) a th → s.targetOk a (th.rd o.b.toNat) = true →
    ∃ t, exec (.spawn o) s = .next t ∧ Queued s t a th 8 []
      (.held (.spawn o.d.toNat ((List.range 8).map fun k => th.rd (o.a.toNat + k)) (th.rd o.b.toNat)))) ∧
  (∀ (s : State) (a : Agent) (th : Thread) (o : SThree), Issuing s (.spawn o) a th → s.targetOk a (th.rd o.b.toNat) = false →
    exec (.spawn o) s = .next (s.raise a 0xA)) ∧
  (∀ (s : State) (a : Agent) (th : Thread) (o : SThree), Issuing s (.dlaunch o) a th → (th.rd o.a.toNat).toNat < 2 ^ 52 →
    (th.rd o.a.toNat).toNat % 256 = 0 → ∃ t, exec (.dlaunch o) s = .next t ∧ Queued s t a th 8 []
      (.held (.dlaunch o.d.toNat (th.rd o.a.toNat) (th.rd o.b.toNat)))) ∧
  (∀ (s : State) (a : Agent) (th : Thread) (o : SThree), Issuing s (.dlaunch o) a th →
    2 ^ 52 ≤ (th.rd o.a.toNat).toNat ∨ (th.rd o.a.toNat).toNat % 256 ≠ 0 → exec (.dlaunch o) s = .next (s.raise a 2)) ∧
  (∀ (s : State) (a : Agent) (th : Thread) (o : TwoAB), Issuing s (.kick o) a th →
    (th.rd o.b.toNat = 0 → ∃ t, exec (.kick o) s = .next t ∧ OnlyPc s t a th 8) ∧
    (th.rd o.b.toNat ≠ 0 → CountersFree th [.rq] → ∃ t, exec (.kick o) s = .next t ∧ Queued s t a th 8 [.rq]
      (.held (.kick (th.rd o.a.toNat) (th.rd o.b.toNat).toNat))) ∧
    (th.rd o.b.toNat ≠ 0 → ¬CountersFree th [.rq] → ∃ t, exec (.kick o) s = .next t ∧ Parked s t a th (.counter [.rq]) 0)) ∧
  (∀ (s : State) (k : Nat) (T : Team) (o : TwoDA), TeamIssuing s (.bwait o) k T →
    (∀ slot off b, steer (T.th.rd o.a.toNat) = .basin slot off → off % 8 = 0 → s.slotBasin (k / 256) slot T.ctx = .ok b →
      ∃ t, exec (.bwait o) s = .next t ∧ Parked (s.replayed k T) t (.team k) T.th (.bwait o.d.toNat (T.th.rd o.a.toNat)) 0) ∧
    (∀ slot off e, steer (T.th.rd o.a.toNat) = .basin slot off → off % 8 = 0 → s.slotBasin (k / 256) slot T.ctx = .error e →
      exec (.bwait o) s = .next (s.raise (.team k) e)) ∧
    ((∀ slot off, steer (T.th.rd o.a.toNat) = .basin slot off → off % 8 ≠ 0) → exec (.bwait o) s = .next (s.raise (.team k) 2)))

/-- R208, R210 to R212: `copy` turns its list's descriptors into jobs, one by one, until one is illegal or its footprints meet; `binit`
writes COUNT; the queue form of `bwait` passes a count of at most zero; `tdset` loads a descriptor: in a queue at once, in the generator
place once the words before it have issued. Each stops at the head for what R212 and R340 put before it, and each fault is an engine's
with the command's provenance. Which of two faults a list that overflows its basin through an empty slot reports (log entry 80), the order
of the checks of a list (log entry 30), that the queue form of `bwait` does not check the alignment of its offset (log entry 31), and the
source region of a negative stride (log entry 93) are the model's choices. -/
def Obligations.QueueWords : Prop :=
  ∀ (s : State) (c : Nat) (e : Emitted) (rest : List Emitted) (B : Block),
    let fault (x : Nat) : State := s.engineFault c B.ctx e.tag x
    (∀ o : QCopy, QueueIssuing s (.copy o) c e rest B →
      let off := o.addr.toNat % 65536
      let n := o.n1.toNat + 1
      (65536 < off + 64 * n → exec (.copy o) s = .next (fault 2)) ∧
      (∀ x, off + 64 * n ≤ 65536 → s.slotBasin c (o.addr.toNat / 65536) B.ctx = .error x → exec (.copy o) s = .next (fault x)) ∧
      (∀ b, off + 64 * n ≤ 65536 → s.slotBasin c (o.addr.toNat / 65536) B.ctx = .ok b → s.ctxRuns B.ctx = true →
        ((∀ k < n, s.copyLegal c b off k = true ∧ s.copyApart c b off B.ctx k) → ∃ t, exec (.copy o) s = .next t ∧
          Popped (s.copied c b off e B.ctx n) t c rest ∧ SameMem s t) ∧
        (∀ m < n, (∀ k < m, s.copyLegal c b off k = true ∧ s.copyApart c b off B.ctx k) →
          let u := s.copied c b off e B.ctx m
          let j : Job := { s.copyJob c b off B.ctx m with blk := e.blk, prov := e.tag, reads := [], writes := [], slots := [] }
          (s.copyLegal c b off m = false → exec (.copy o) s = .next ((u.jobFault c j 0xC).popQueue c)) ∧
          (s.copyLegal c b off m = true → ¬s.copyApart c b off B.ctx m → exec (.copy o) s = .next ((u.jobFault c j 6).popQueue c))))) ∧
    (∀ o : QBinit, QueueIssuing s (.binit o) c e rest B →
      let off := o.addr.toNat % 65536
      (∀ x, s.slotBasin c (o.addr.toNat / 65536) B.ctx = .error x → exec (.binit o) s = .next (fault x)) ∧
      (∀ b, s.slotBasin c (o.addr.toNat / 65536) B.ctx = .ok b →
        (s.queueFree c [] [⟨some b, (off : Int), 0, 1, 8, false⟩] = false → exec (.binit o) s = .next s) ∧
        (s.queueFree c [] [⟨some b, (off : Int), 0, 1, 8, false⟩] = true → ∃ t, exec (.binit o) s = .next t ∧
          Popped (s.basinWr (c / 8) b off (natLe 4 o.count.toNat)) t c rest ∧ SameMem s t ∧
          (off + 4 ≤ 65536 → (∀ i < 4, t.basin8 (c / 8) b (off + i) = o.count.extractLsb' (8 * i) 8) ∧
            (∀ cl b' x, x < 65536 → ¬(cl = c / 8 ∧ b' = b ∧ off ≤ x ∧ x < off + 4) → t.basin8 cl b' x = s.basin8 cl b' x))))) ∧
    (∀ o : QBwait, QueueIssuing s (.bwaitQueue o) c e rest B →
      (∀ x, s.slotBasin c o.slot.toNat B.ctx = .error x → exec (.bwaitQueue o) s = .next (fault x)) ∧
      (∀ b, s.slotBasin c o.slot.toNat B.ctx = .ok b →
        (s.basinPoisoned (c / 8) b o.off.toNat 4 = true → exec (.bwaitQueue o) s = .next (fault 0xD)) ∧
        (s.basinPoisoned (c / 8) b o.off.toNat 4 = false →
          let free : Prop := s.queueFree c [⟨some b, (o.off.toNat : Int), 0, 1, 8, false⟩] [] = true
          (free → s.countAt (c / 8) b o.off.toNat ≤ 0 → ∃ t, exec (.bwaitQueue o) s = .next t ∧ Popped s t c rest ∧ SameMem s t) ∧
          (¬free ∨ 0 < s.countAt (c / 8) b o.off.toNat → (s.core c).stamp ≠ none → exec (.bwaitQueue o) s = .next s) ∧
          (¬free ∨ 0 < s.countAt (c / 8) b o.off.toNat → (s.core c).stamp = none →
            exec (.bwaitQueue o) s = .next (s.setCore c { s.core c with stamp := some (s.headStamp c B) }))))) ∧
    (∀ o : QTdset, QueueIssuing s (.tdsetQueue o) c e rest B →
      (s.tdOk B o.d.toNat = false → exec (.tdsetQueue o) s = .next (s.raise (.queue c) 8)) ∧
      (s.tdOk B o.d.toNat = true → TdsetAhead s c e → exec (.tdsetQueue o) s = .next s) ∧
      (s.tdOk B o.d.toNat = true → ¬TdsetAhead s c e →
        (∀ x, s.slotBasin c (o.addr.toNat / 65536) B.ctx = .error x → exec (.tdsetQueue o) s = .next (fault x)) ∧
        (∀ b, s.slotBasin c (o.addr.toNat / 65536) B.ctx = .ok b → ∃ t, exec (.tdsetQueue o) s = .next t ∧ SameMem s t ∧
          Popped (s.setBlock e.blk { B with
            td := mput 0 B.td o.d.toNat (BitVec.ofNat 128 (leNat (s.basinRd (c / 8) b (o.addr.toNat % 65536) 16))) }) t c rest))) ∧
    (∀ (o : GTdset) (g : Nat) (G : Gen), GenIssuing s (.tdset o) g G →
      (∀ B', s.block? G.blk = some B' → s.tdOk B' o.d.toNat = false → exec (.tdset o) s = .next (s.raise (.gen g) 8)) ∧
      ((∀ B', s.block? G.blk = some B' → s.tdOk B' o.d.toNat = true) →
        ((∀ va, steer (G.th.rd o.a.toNat + dispVal o.disp) = .global va → va % 16 ≠ 0) → exec (.tdset o) s = .next (s.raise (.gen g) 2)) ∧
        (∀ va, steer (G.th.rd o.a.toNat + dispVal o.disp) = .global va → va % 16 = 0 →
          (∀ bs, s.genRead (.gen g) va 16 = .ok bs → ∃ t, exec (.tdset o) s = .next t ∧
            Queued (s.noteSpan s G.ctx va 16) t (.gen g) G.th (dispLen o.disp) [] (.held (.tdset o.d.toNat (BitVec.ofNat 128 (leNat bs))))) ∧
          (∀ x, s.genRead (.gen g) va 16 = .error (some x) → exec (.tdset o) s = .next (s.raise (.gen g) x)) ∧
          (s.genRead (.gen g) va 16 = .error none → ∃ t, exec (.tdset o) s = .next t ∧ Parked s t (.gen g) G.th .retry 0))))

/-- R212, R217 to R221: a matrix command or accumulator move whose T and K fields are in the block's allocation waits for the `tdset`s
before it, arrives on WBAR and waits there, then faults with a cause that applies to it or becomes a job with the descriptors it
names and the registers it stages, and arrives on ABAR. Which cause is reported where several apply is a free choice (R220); that the
checks come after the wait on WBAR, and what a scale area of an accumulator move counts for, are the model's choices (log entry 93). -/
def Obligations.MatrixWords : Prop :=
  ∀ (s : State) (c : Nat) (e : Emitted) (rest : List Emitted) (B : Block),
    let word (i : Instr) (limits : Bool) (bar : Option Nat) (causes : List Nat) (j : Job) (after : State → State) : Prop :=
      QueueIssuing s i c e rest B →
      (limits = false → exec i s = .next (s.raise (.queue c) 8)) ∧
      (limits = true → TdsetAhead s c e → exec i s = .next s) ∧
      (limits = true → ¬TdsetAhead s c e →
        (∀ n, bar = some n → (s.core c).head = .fresh → ∃ t, exec i s = .next t ∧ HeadWaits s t c e B n) ∧
        (HeadHeld s c B bar → exec i s = .next s) ∧
        (HeadPast s c B bar → causes ≠ [] → ∃ x ∈ causes, ∃ u, exec i s = .next (u.chosen.engineFault c B.ctx e.tag x) ∧
          (u = s ∨ u = s.setCore c { s.core c with head := .ready, stamp := none })) ∧
        (HeadPast s c B bar → causes = [] → ∃ u, exec i s = .next (after u) ∧ JobIssued s u c e rest j))
    (∀ (o : QMma) (i : Instr), i = .mma o ∨ i = .mmas o ∨ i = .mmag o →
      word i (s.tdOk B o.a.toNat && s.tdOk B o.b.toNat && s.accOk B o.d.toNat false) (if o.ext.wen then some o.ext.wbar.toNat else none)
        (s.mmaCauses i o B) (s.matrixJob i o c B) fun u => if o.ext.aen then u.arriveLater (c / 8) e.blk o.ext.abar.toNat else u) ∧
    (∀ o : QAcc,
      let bar : Option Nat := o.ext.bind fun x => if x.wen then some x.wbar.toNat else none
      let limits : Bool := s.tdOk B o.a.toNat && s.accOk B o.d.toNat false
      word (.accld o) limits bar (s.accCauses B (some (o.a.toNat, o.m2.toNat)) o.d.toNat (decide (o.m5 = 0#3)))
        (s.accJob (.accld o) c B (some o.a.toNat) false) id ∧
      word (.accst o) limits bar (s.accCauses B (some (o.a.toNat, o.m5.toNat)) o.d.toNat (decide (o.m2 = 0#3)))
        (s.accJob (.accst o) c B (some o.a.toNat) true) id) ∧
    (∀ o : QAccz, word (.acczero o) (s.accOk B o.d.toNat false) (o.ext.bind fun x => if x.wen then some x.wbar.toNat else none)
      (s.accCauses B none o.d.toNat (decide (o.ta = 0#3))) (s.accJob (.acczero o) c B none false) id)

/-- R224 to R231: with the array leased to its block, a Weir command becomes a job (`wload` and `wlaunch` with WT after an arrival and a
wait on that barrier); without, it takes the array where it is free and no block waits for it, or joins those that wait, in order. That
the lease comes before the arrival (log entry 81), and the command's place in the order after its wait (log entry 93), are the model's
choices. -/
def Obligations.WeirWords : Prop :=
  ∀ (s : State) (c : Nat) (e : Emitted) (rest : List Emitted) (B : Block),
    let C := s.cluster (c / 8)
    let word (i : Instr) (wt : Option Nat) (rd wr : Option (Nat × Nat × Nat)) : Prop := QueueIssuing s i c e rest B →
      (C.weir.lease = some e.blk →
        (HeadPast s c B wt → ∃ t, exec i s = .next t ∧ JobIssued s t c e rest (s.weirJob i c B rd wr)) ∧
        (∀ n, wt = some n → (s.core c).head = .fresh → ∃ t, exec i s = .next t ∧
          HeadWaits (s.setCore c { s.core c with stamp := none }) t c e B n) ∧
        (HeadHeld s c B wt → exec i s = .next s)) ∧
      (C.weir.lease = none → C.weir.waiting = [] → ∃ t, exec i s = .next t ∧
        t = (s.setCluster (c / 8) { C with weir := Weir.leased e.blk [] }).setCore c { s.core c with stamp := none } ∧ SameMem s t) ∧
      (C.weir.lease ≠ some e.blk → (C.weir.lease ≠ none ∨ C.weir.waiting ≠ []) → ∃ t, exec i s = .next t ∧
        (t.core c).stamp = some (s.headStamp c B) ∧ (t.core c).queue = e :: rest ∧ (t.core c).jobs = (s.core c).jobs ∧
        (∀ c', c' ≠ c → t.core c' = s.core c') ∧ t.blocks = s.blocks ∧ t.teams = s.teams ∧ SameMem s t ∧
        t.cluster (c / 8) = { C with weir := { C.weir with
          waiting := if e.blk ∈ C.weir.waiting then C.weir.waiting else C.weir.waiting ++ [e.blk] } })
    (∀ o : QWwin, word (.wwin o) none none none) ∧
    (∀ o : QWcfg, word (.wcfg o) none none none) ∧
    (∀ o : QWload, word (.wload o) (o.wt.map (·.toNat)) (some (match o.rows with
      | some r => (o.slot.toNat, 256 * r.1.toNat, 256 * (r.2.toNat + 1))
      | none => (o.slot.toNat, 0, 65536))) none) ∧
    (∀ o : QWrow, word (.wlaunch o) (o.bar.map (·.toNat)) (some (o.slot.toNat, o.off.toNat, 256)) none) ∧
    (∀ o : QWrow, word (.wcapture o) none none (some (o.slot.toNat, o.off.toNat, 256))) ∧
    word .wreset none none none

/-- R236 to R240, R342: the emitting words. Their bytes, whole words, go in order into the flues of the open segment's cores, or of the
cores named, under one tag. Without an open segment the segment's forms fault, a thread whose release fence is not complete waits, as it
does for the bytes it reads and for a flue without room, and a first word that cannot be emitted, or a poisoned one (R432), faults. That an address that is no
multiple of 4 is an address fault is the model's choice (log entry 82). -/
def Obligations.EmitWords : Prop :=
  ∀ (s : State) (g : Nat) (G : Gen), G.emitting = none →
    let word (i : Instr) (len : Nat) (queue : Option Nat) (src : Except (Option Nat) (List Byte)) (s' : State) : Prop :=
      GenIssuing s i g G →
      let cmask := queue.getD ((G.open?.map (·.cmask)).getD 0)
      (G.th.fenced = true → ∃ t, exec i s = .next t ∧ Parked s t (.gen g) G.th .retry 0) ∧
      (G.th.fenced = false → queue = none → G.open? = none → exec i s = .next (s.raise (.gen g) 0x13)) ∧
      (G.th.fenced = false → (queue = none → G.open? ≠ none) →
        (src = .error none → ∃ t, exec i s = .next t ∧ Parked s t (.gen g) G.th .retry 0) ∧
        (∀ x, src = .error (some x) → exec i s = .next (s.raise (.gen g) x)) ∧
        (∀ bs x, src = .ok bs → FirstBad (if queue.isSome then none else G.open?) bs x →
          exec i s = .next ((s'.setGen g { G with flueWait := [] }).genFault g x)) ∧
        (∀ ws, src = .ok ws.flatten → ws ≠ [] → (∀ w ∈ ws, OneWord w) →
          (∀ x, queue = none → G.open? = some x → SegFits x ws → FlueFree s g cmask ws → ∃ t, exec i s = .next t ∧
            WordsEmitted s t g G ws cmask len (fun k => .code (x.off + x.emitted + k)) (some (segWith x ws (G.nextTag g)))) ∧
          (queue ≠ none → FlueFree s g cmask ws → ∃ t, exec i s = .next t ∧
            WordsEmitted s t g G ws cmask len (fun _ => .queue) G.open?) ∧
          ((∀ x, queue = none → G.open? = some x → SegFits x ws) → FlueQuiet s g →
            (∃ c ∈ maskCores (g / 16) cmask, 64 ≤ (s.core c).flue.length) → ∃ t w, exec i s = .next t ∧
            t.gen? g = some { G with
              emitting := some ⟨ws.flatten, none, cmask, queue.isSome⟩, flueWait := w, status := .parked .flue
              th := { G.th with since := s.gtime, period := (s.part (ctxPart G.ctx)).wdtime } } ∧
            (∀ c ∈ maskCores (g / 16) cmask, mget 0 w (c % 8) = if 64 ≤ (s.core c).flue.length then s.flueNow g else 0) ∧
            (∀ h, h ≠ g → t.gen? h = s.gen? h) ∧ t.cores = s.cores ∧ t.teams = s.teams ∧ t.blocks = s.blocks ∧ t.clusters = s.clusters ∧
            SameMem s t)))
    let at_ (r : BitVec 8) (n : BitVec 32) : State := s.noteSpan s G.ctx (G.th.rd r.toNat).toNat n.toNat
    (∀ o : OneA, word (.emit o) 8 none (regWord G.th o.a.toNat) s) ∧
    (∀ o : GEmitR, word (.emitRegs o) 16 none (regRun G.th o.a.toNat o.n.toNat) s) ∧
    (∀ o : GEmitR, word (.emitm o) 16 none (s.wordsAt (.gen g) (G.th.rd o.a.toNat) o.n.toNat) (at_ o.a o.n)) ∧
    (∀ o : GEmitq, word (.emitq o) 8 (some (2 ^ o.core.toNat)) (regWord G.th o.a.toNat) s) ∧
    (∀ o : GEmitqM, word (.emitqMulti o) 16 (some o.cmask.toNat) (s.wordsAt (.gen g) (G.th.rd o.a.toNat) o.n.toNat) (at_ o.a o.n))

/-- R239, R241 to R244: opening, sealing and patching segments, starting a team, and reading provenance and the Stoker's state. `eseg`
with a segment open, or to a core that does not run the context, faults; otherwise it finds a sealed segment of its launch and TID that
every core of its mask holds, or opens a new one at an offset free on all of them, or waits for one. `eseal` without an open segment, a
patch outside the words of its segment or beyond the word, and a `tgo` of a team, a segment or an entry that is not there fault; a patch of
an open segment waits until its words have left the flues. Which cores a patch of a segment that some have given up changes, and which of
two segments of one handle it means, are the model's choices (log entry 82), as are which offset is free (log entry 73), that a patch of
an open segment waits for its words to leave the flues, and that a segment is sealed core by core (log entry 36). -/
def Obligations.SegmentWords : Prop :=
  (∀ (s : State) (g : Nat) (G : Gen),
    let launch := ((s.block? G.blk).map (·.launch)).getD 0
    let gfault : State := s.raise (.gen g) 0x13
    (∀ o : OneD, GenIssuing s (.eseal o) g G →
      (G.open? = none → exec (.eseal o) s = .next gfault) ∧
      (∀ x, G.open? = some x → ∃ t, exec (.eseal o) s = .next t ∧
        Queued (s.setGen g { G with open? := none }) t (.gen g) G.th 8 [] (.held (.eseal o.d.toNat x)))) ∧
    (∀ o : GEpatch, GenIssuing s (.epatch o) g G → G.th.rd o.a.toNat = 0 →
      (G.open? = none → exec (.epatch o) s = .next gfault) ∧
      (∀ x, G.open? = some x →
        (o.off.toNat ∉ x.starts → exec (.epatch o) s = .next gfault) ∧
        (o.off.toNat ∈ x.starts → s.segInFlue g x.cmask x.off x.size = true → ∃ t, exec (.epatch o) s = .next t ∧
          Parked s t (.gen g) G.th .retry 0) ∧
        (o.off.toNat ∈ x.starts → s.segInFlue g x.cmask x.off x.size = false →
          let short := s.patchShort ((maskCores (g / 16) x.cmask).headD 0) (x.off + o.off.toNat) o.fld.toNat
          (short = true → exec (.epatch o) s = .next gfault) ∧
          (short = false → ∃ t, exec (.epatch o) s = .next t ∧
            (∀ c ∈ maskCores (g / 16) x.cmask, t.core c = patchedCore s c (x.off + o.off.toNat) o.fld.toNat (G.th.rd o.b.toNat).toNat) ∧
            (∀ c, c ∉ maskCores (g / 16) x.cmask → t.core c = s.core c) ∧
            t.gen? g = some { G with patching := none, th := { G.th with pc := G.th.pc + 16 } } ∧
            (∀ h, h ≠ g → t.gen? h = s.gen? h) ∧ t.teams = s.teams ∧ t.blocks = s.blocks ∧ t.clusters = s.clusters ∧ SameMem s t)))) ∧
    (∀ o : GEpatch, GenIssuing s (.epatch o) g G → G.th.rd o.a.toNat ≠ 0 →
      (s.segByHandle (g / 16) launch (G.th.rd o.a.toNat) = none →
        exec (.epatch o) s = .next ((s.setGen g { G with patching := none }).raise (.gen g) 0x13)) ∧
      (∀ x, s.segByHandle (g / 16) launch (G.th.rd o.a.toNat) = some x →
        let cores := match G.patching with
          | some (_, cs) => cs
          | none => maskCores (g / 16) x.held
        let short := s.patchShort (cores.headD 0) (x.off + o.off.toNat) o.fld.toNat
        (o.off.toNat ∉ x.starts ∨ short = true → exec (.epatch o) s = .next gfault) ∧
        (o.off.toNat ∈ x.starts → short = false → cores.Nodup → cores ≠ [] → ∃ t, ∃ c ∈ cores, exec (.epatch o) s = .next t ∧ SameMem s t ∧
          t = { (s.setCore c (patchedCore s c (x.off + o.off.toNat) o.fld.toNat (G.th.rd o.b.toNat).toNat)).setGen g
            (if cores = [c] then { G with patching := none, th := { G.th with pc := G.th.pc + 16 } }
             else { G with patching := some (G.th.rd o.a.toNat, cores.filter fun k => decide (k ≠ c)), status := .parked .retry }) with
            free := s.free + 1 }))) ∧
    (∀ (o : GTgo) (B : Block), GenIssuing s (.tgo o) g G → s.block? G.blk = some B →
      (lget B.teams o.team.toNat = none ∨ s.segByHandle (g / 16) B.launch (G.th.rd o.a.toNat) = none → exec (.tgo o) s = .next gfault) ∧
      (∀ k x, lget B.teams o.team.toNat = some k → s.segByHandle (g / 16) B.launch (G.th.rd o.a.toNat) = some x →
        (bitAt x.held (k / 256 % 8) = false ∨ x.size ≤ o.entry.toNat → exec (.tgo o) s = .next gfault) ∧
        (bitAt x.held (k / 256 % 8) = true → o.entry.toNat < x.size → ∃ t, exec (.tgo o) s = .next t ∧
          Queued s t (.gen g) G.th 16 [] (.held (.tgo o.d.toNat o.team.toNat (G.th.rd o.a.toNat)
            (BitVec.ofNat 64 (x.off + o.entry.toNat)) ((List.range 8).map fun j => G.th.rd (o.b.toNat + j))))))) ∧
    (∀ (a : Agent) (th : Thread) (o : TwoDA), Issuing s (.eprov o) a th → ∃ t, exec (.eprov o) s = .next t ∧
      Queued s t a th 8 [] (.result
        [.s o.d.toNat (s.tagPc (agentCluster a) ((s.agentCtx? a).getD 0) ((th.rd o.a.toNat).toNat % 2 ^ 32))] 0)) ∧
    (∀ o : GEstat, GenIssuing s (.estat o) g G → ∃ t v, exec (.estat o) s = .next t ∧ Queued s t (.gen g) G.th 8 [] (.result [.s o.d.toNat v] 0) ∧
      (o.sel.toNat = 0 → v = match G.open? with
        | some x => BitVec.ofNat 64 x.emitted
        | none => BitVec.allOnes 64) ∧
      (o.sel.toNat = 1 → v = BitVec.ofNat 64 G.eseq) ∧
      (o.sel.toNat = 2 → v = BitVec.ofNat 64
        (((List.range 8).map fun n => (64 - (s.core (8 * (g / 16) + n)).flue.length) * 2 ^ (8 * n)).sum)) ∧
      (3 ≤ o.sel.toNat → v = BitVec.ofNat 64 (s.codeRun (g / 16))))) ∧
  ∀ (s : State) (g : Nat) (G : Gen) (o : GEseg), GenIssuing s (.eseg o) g G →
    let cl := g / 16
    let m := o.cmask.toNat
    let launch := ((s.block? G.blk).map (·.launch)).getD 0
    let runs : Prop := ∀ c ∈ maskCores cl m, s.coreRuns c G.ctx = true
    let hit (x : Seg) : Prop := o.tid ≠ 0#16 ∧ x ∈ (s.cluster cl).segs ∧ x.sealed = true ∧ x.launch = launch ∧ x.tid = o.tid.toNat ∧
      x.held &&& m = m
    (G.open? ≠ none ∨ ¬runs → exec (.eseg o) s = .next (s.raise (.gen g) 0x13)) ∧
    (G.open? = none → runs → (∃ x, hit x) → ∃ t x, exec (.eseg o) s = .next t ∧ hit x ∧ WroteS s t (.gen g) G.th o.d.toNat x.handle 16) ∧
    (G.open? = none → runs → (∀ x, ¬hit x) →
      ((∃ off, OffFree s cl m o.size.toNat off) → ∃ t off, exec (.eseg o) s = .next t ∧ OffFree s cl m o.size.toNat off ∧ SameMem s t ∧
        t = { (s.setCluster cl { s.cluster cl with
            segs := (s.cluster cl).segs ++ [⟨launch, g % 16, m, m, o.tid.toNat, off, o.size.toNat, [], false⟩] }).setGen g { G with
              open? := some ⟨m, o.tid.toNat, off, o.size.toNat, 0, [], 0⟩
              th := { G.th.wr o.d.toNat 0 with pc := G.th.pc + 16 } } with free := s.free + 1 }) ∧
      ((∀ off, ¬OffFree s cl m o.size.toNat off) → ∃ t, exec (.eseg o) s = .next t ∧ Parked s t (.gen g) G.th (.eseg m o.size.toNat) 0))

/-- R249, R254, R255: `svc` without an active lane moves the PC only, and parks the team for the call otherwise; `vgrow` parks it last
among the requests of its core; `vshrink` waits as at a switch marker, gives the top registers up and returns the new count; a register
or a count outside the limits raises cause 0x0008. `brk` is a `nop` without a debugger, and stops the agent behind it with one. -/
def Obligations.SystemWords : Prop :=
  ∀ (s : State) (k : Nat) (T : Team),
    (∀ o : SSvc, TeamIssuing s (.svc o) k T →
      let fits : Prop := o.d.toNat + 1 < T.vregs ∧ (o.n = 0#3 ∨ o.a.toNat + 2 * o.n.toNat - 1 < T.vregs)
      (fits → T.active o.g.toNat = [] → ∃ t, exec (.svc o) s = .next t ∧ OnlyPc (s.replayed k T) t (.team k) T.th 8) ∧
      (fits → T.active o.g.toNat ≠ [] → ∃ t, exec (.svc o) s = .next t ∧
        Parked s t (.team k) T.th (.svc o.num.toNat o.d.toNat o.a.toNat o.n.toNat (T.active o.g.toNat)) 0) ∧
      (¬fits → exec (.svc o) s = .next (s.raise (.team k) 8))) ∧
    (∀ o : SGran, TeamIssuing s (.vgrow o) k T →
      let fits : Prop := T.vregs + 8 * o.n.toNat ≤ 256 ∧ 128 * T.words * (T.vregs + 8 * o.n.toNat) ≤ 2097152
      let C := s.core (k / 256)
      (fits → ∃ t, exec (.vgrow o) s = .next t ∧
        Parked (s.setCore (k / 256) { C with grow := C.grow.filter (fun x => decide (x ≠ k)) ++ [k] }) t (.team k) T.th
          (.vgrow o.d.toNat o.n.toNat) 8) ∧
      (¬fits → exec (.vgrow o) s = .next (s.raise (.team k) 8))) ∧
    (∀ o : SGran, TeamIssuing s (.vshrink o) k T →
      (8 + 8 * o.n.toNat ≤ T.vregs → T.th.busy = false → ∃ t, exec (.vshrink o) s = .next t ∧
        Queued (s.setTeam k (T.shrunk o.n.toNat)) t (.team k) T.th 8 []
          (.result [.s o.d.toNat (BitVec.ofNat 64 (T.vregs - 8 * o.n.toNat))] 0) ∧
        T.shrunk o.n.toNat = { T with vregs := T.vregs - 8 * o.n.toNat, v := (T.shrunk o.n.toNat).v, vmarks := (T.shrunk o.n.toNat).vmarks } ∧
        ∀ r < 256, ∀ l, (T.shrunk o.n.toNat).vr r l = (if r < T.vregs - 8 * o.n.toNat then T.vr r l else 0) ∧
          (vkey r l ∈ (T.shrunk o.n.toNat).vmarks ↔ vkey r l ∈ T.vmarks ∧ r < T.vregs - 8 * o.n.toNat)) ∧
      (8 + 8 * o.n.toNat ≤ T.vregs → T.th.busy = true → ∃ t, exec (.vshrink o) s = .next t ∧ Parked s t (.team k) T.th .marker 0) ∧
      (T.vregs < 8 + 8 * o.n.toNat → exec (.vshrink o) s = .next (s.raise (.team k) 8))) ∧
    (∀ (a : Agent) (th : Thread) (o : SCode), Issuing s (.brk o) a th →
      ((s.ctx ((s.agentCtx? a).getD 0)).debugger = false → ∃ t, exec (.brk o) s = .next t ∧ OnlyPc s t a th 8) ∧
      ((s.ctx ((s.agentCtx? a).getD 0)).debugger = true → ∃ t, exec (.brk o) s = .next t ∧ t.status? a = some .broken ∧ SameMem s t ∧
        t = { (s.setThread a { th with pc := th.pc + 8 }).setStatus a .broken with
          dev := { s.dev with out := s.dev.out ++ [.debug a o.code.toNat th.pc (s.prov a)] } }))

/-- R20, R21, R253, R277: `getsr` writes the value of a special register to s(D); `setsr` writes the two of MODE's writable field or the five of
FPFLAGS from s(A) and ignores its other bits (R22, R23). Both act at once. A number that the place does not read, or that cannot be
written, raises cause 0x0008. The values are those of the table of R20. -/
def Obligations.SpecialRegisters : Prop :=
  ∀ (s : State),
    (∀ (a : Agent) (th : Thread) (o : SGetsr) (v : W64), Issuing s (.getsr o) a th → s.sr a o.num.toNat = some v →
      ∃ t, exec (.getsr o) s = .next t ∧ WroteS s t a th o.d.toNat v 8) ∧
    (∀ (a : Agent) (th : Thread) (o : SGetsr), Issuing s (.getsr o) a th → s.sr a o.num.toNat = none →
      exec (.getsr o) s = .next (s.raise a 8)) ∧
    (∀ (a : Agent) (th : Thread) (o : SSetsr), Issuing s (.setsr o) a th →
      (o.num = 8#11 → ∃ t, exec (.setsr o) s = .next t ∧
        t = s.setThread a { th with rm := (th.rd o.a.toNat).setWidth 2, pc := th.pc + 8 } ∧ SameMem s t) ∧
      (o.num = 9#11 → ∃ t, exec (.setsr o) s = .next t ∧
        t = s.setThread a { th with flags := (th.rd o.a.toNat).setWidth 5, pc := th.pc + 8 } ∧ SameMem s t) ∧
      (o.num ≠ 8#11 → o.num ≠ 9#11 → exec (.setsr o) s = .next (s.raise a 8))) ∧
    (∀ (k : Nat) (T : Team), s.team? k = some T →
      let r (n : Nat) : Option W64 := s.sr (.team k) n
      let nat (x : Nat) : Option W64 := some (BitVec.ofNat 64 x)
      (r 1 = nat (k % 256) ∧ r 2 = nat T.words ∧ r 3 = nat T.idx ∧ r 5 = nat (agentLoc (.team k)) ∧ r 6 = nat T.vregs ∧ r 7 = nat T.mbase.toNat) ∧
      (r 8 = some (T.th.rm.setWidth 64) ∧ r 9 = some (T.th.flags.setWidth 64) ∧ r 0xA = nat T.prio ∧ r 0xB = nat T.stack) ∧
      (r 0x10 = nat (mget 0 s.cycles (k / 256) / 1000) ∧ r 0x11 = nat s.gtime ∧ r 0x20 = some T.hcause ∧ r 0x21 = some T.haddr ∧ r 0x22 = some T.hprov ∧
        r 0x23 = some T.hpc ∧ r 0x24 = some T.hmbase) ∧
      (∀ j < 16, r (0x40 + j) = some (T.hmsave.getD j 0) ∧ r (0x100 + j) = nat ((s.core (k / 256)).slot j).value) ∧
      (∀ n, n = 0 ∨ (0xC ≤ n ∧ n ≤ 0xF) ∨ n = 0x12 ∨ (0x18 ≤ n ∧ n ≤ 0x1F) ∨ (0x25 ≤ n ∧ n < 0x40) ∨ (0x50 ≤ n ∧ n < 0x100) ∨ 0x110 ≤ n → r n = none)) ∧
    (∀ (g : Nat) (G : Gen), s.gen? g = some G →
      let r (n : Nat) : Option W64 := s.sr (.gen g) n
      let nat (x : Nat) : Option W64 := some (BitVec.ofNat 64 x)
      (r 3 = nat 0 ∧ r 5 = nat (agentLoc (.gen g)) ∧ r 8 = some (G.th.rm.setWidth 64) ∧ r 9 = some (G.th.flags.setWidth 64) ∧
        r 0xC = nat (g % 16) ∧ r 0xD = nat G.eseq ∧ r 0x10 = nat (mget 0 s.cycles (4096 + g / 16) / 1000) ∧ r 0x11 = nat s.gtime) ∧
      (∀ n, n ≤ 2 ∨ n = 6 ∨ n = 7 ∨ n = 0xA ∨ n = 0xB ∨ n = 0xE ∨ n = 0xF ∨ n = 0x12 ∨ 0x18 ≤ n → r n = none)) ∧
    (∀ (a : Agent) (blk : Nat) (B : Block) (L : Launch), s.agentBlk? a = some blk → (∀ c, a ≠ .queue c) → s.block? blk = some B →
      s.launch? B.launch = some L →
      s.sr a 4 = some (BitVec.ofNat 64 B.blkidx) ∧
      (∀ l, 3 ≤ l → l ≤ 7 → s.sr a (0x10 + l) = some (BitVec.ofNat 64
        (if L.rcd.nlvl ≤ l then 0 else (L.rcd.fbase + B.blkidx) / ((L.rcd.levels.take (l - 2)).map (·.span)).foldl (· * ·) 1))))

/-- R25, R251, R347, R348, R353: a strap of a team waits until no older access can fault and takes the supervisor handler with cause
0x10000 + code and every lane of the mask; inside a handler it is the nested fault, without a handler it is fatal; a generator thread
stops before it: its record goes to the servicer, and without a generator handler its context halts with cause 0x0012. -/
def Obligations.TrapEntry : Prop :=
  ∀ (s : State) (k : Nat) (T : Team) (o : SCode),
    (TeamIssuing s (.strap o) k T →
      ((∃ p ∈ T.th.pend, p.mayFault = true) → ∃ t, exec (.strap o) s = .next t ∧ Parked s t (.team k) T.th .older 0) ∧
      ((∀ p ∈ T.th.pend, p.mayFault = false) →
        (T.hcause = 0 → (s.ctx T.ctx).run.hentry ≠ 0 → ∃ t, exec (.strap o) s = .next t ∧
          EnteredHandler s t k T (BitVec.ofNat 64 (0x10000 + o.code.toNat)) 0 T.maskLanes) ∧
        (T.hcause ≠ 0 → exec (.strap o) s = .next (s.fatal (.team k) 0x11)) ∧
        (T.hcause = 0 → (s.ctx T.ctx).run.hentry = 0 → exec (.strap o) s = .next (s.fatal (.team k) (0x10000 + o.code.toNat))))) ∧
    (∀ (g : Nat) (G : Gen), GenIssuing s (.strap o) g G →
      let cause := 0x10000 + o.code.toNat
      let P := s.part (ctxPart G.ctx)
      let r : SvcRec := ⟨2, .gen g, shortRecord 2 (s.ctx G.ctx).run.cid (coreloc (g / 16) 0) (g % 16) G.th.pc.toNat 0 0 cause G.eseq
        ((G.open?.map (·.cmask)).getD 0), P.er⟩
      ((s.ctx G.ctx).run.gh = true → ∃ t, exec (.strap o) s = .next t ∧ SameMem s t ∧
        t = (s.setGen g { G with status := .parked .answer, faulted := some cause }).setPart (ctxPart G.ctx) { P with waiting := P.waiting ++ [r] }) ∧
      ((s.ctx G.ctx).run.gh = false → (s.ctx G.ctx).mode = .running → ∃ t, exec (.strap o) s = .next t ∧
        (t.ctx G.ctx).mode = .halted ∧ (t.ctx G.ctx).cause = 0x12 ∧
        (t.ctx G.ctx).stops = (s.ctx G.ctx).stops ++ [s.stopRecord (.gen g) cause 0] ∧ (t.gen? g).map (·.status) = some .stopped ∧
        (∀ h, h ≠ g → t.gen? h = s.gen? h) ∧ t.teams = s.teams ∧ t.cores = s.cores ∧ SameMem s t))

/-- R25, R252, R350: `rfh` waits as at a switch marker and as a device-scope fence, then puts the saved mask set, MBASE and PC back
(past a strap, at the instruction after an access fault), clears the handler registers and makes no other change; outside a handler it
raises cause 0x0010. A strap followed at once by `rfh` leaves every register, MBASE and the mask as they were, one word further on. -/
def Obligations.TrapReturn : Prop :=
  (∀ (s : State) (k : Nat) (T : Team) (o : Plain), TeamIssuing s (.rfh o) k T →
    (T.hcause = 0 → exec (.rfh o) s = .next (s.raise (.team k) 0x10)) ∧
    (T.hcause ≠ 0 → T.th.busy = true ∨ s.releaseOk (.team k) T.th.pend 4 = false → ∃ t, exec (.rfh o) s = .next t ∧
      Parked s t (.team k) T.th .leave 0) ∧
    (T.hcause ≠ 0 → T.th.busy = false → s.releaseOk (.team k) T.th.pend 4 = true → ∃ t T', exec (.rfh o) s = .next t ∧
      t = s.setTeam k T' ∧ t.team? k = some T' ∧
      (∀ j < min T.hmsave.length T.maskRegs, T'.th.rd (T.hmbase.toNat + j) = T.hmsave.getD j 0) ∧
      (∀ r, ¬(T.hmbase.toNat ≤ r ∧ r < T.hmbase.toNat + T.maskRegs) → T'.th.rd r = T.th.rd r) ∧
      T' = { T with
        th := { T.th with s := T'.th.s, marks := T'.th.marks, pc := if 0x10000 ≤ T.hcause.toNat then T.hpc + 8 else T.hpc }
        mbase := T.hmbase.setWidth 8, hcause := 0, haddr := 0, hprov := 0, hpc := 0, hmbase := 0, hmsave := [], status := .ready } ∧
      SameMem s t)) ∧
  ∀ (s : State) (k : Nat) (T : Team) (o : SCode) (o' : Plain), TeamIssuing s (.strap o) k T → T.th.pend = [] → T.hcause = 0 →
    (s.ctx T.ctx).run.hentry ≠ 0 → s.releaseOk (.team k) [] 4 = true → ∃ t u U, exec (.strap o) s = .next t ∧ exec (.rfh o') t = .next u ∧
      u.team? k = some U ∧ (∀ r, U.th.rd r = T.th.rd r) ∧ U.mbase = T.mbase ∧ U.th.pc = T.th.pc + 8 ∧ U.v = T.v ∧ U.p = T.p ∧
      U.hcause = 0 ∧ SameMem s u

/-- R70, R218, R257, R261, R291, R294, R353: who issues next. The Stoker gives a thread its turn, among the threads that can proceed in
turn, and faults one whose word it cannot fetch, while one that waits for a first-touch page to be filled holds up no other; a queue gives its head command its turn; a team parked at a switch marker is
ready once its marker has cleared and issues where a slot now chooses it; a slot chooses the first team in the order of R291 among those
whose words can issue on it; a team that could issue is boosted. Each does nothing where none of this holds. -/
def Obligations.TurnEvents : Prop :=
  ∀ s : State,
    (∀ (g : Nat) (G : Gen), s.gen? g = some G → s.canIssue (.gen g) = true →
      (∀ h H, s.gen? h = some H → h / 16 = g / 16 → s.mayIssue (.gen h) = true → H.skip = false → s.turnsTo g ≤ s.turnsTo h) ∧
      (∀ i, s.fetch (.gen g) = .ok i → exec (.stokerFetchDecode g) s = .next { s with cur := some (.gen g) }) ∧
      (∀ e, s.fetch (.gen g) = .error e → exec (.stokerFetchDecode g) s = .next (s.genFault g e))) ∧
    (∀ g, s.canIssue (.gen g) = false → exec (.stokerFetchDecode g) s = .next s) ∧
    (∀ (g : Nat) (G : Gen), s.gen? g = some G → s.fetch (.gen g) = .error 1 → s.canFill G.ctx = true → s.canIssue (.gen g) = false) ∧
    (∀ c, (∀ e rest B, (s.core c).queue = e :: rest → s.block? e.blk = some B → s.ctxRuns B.ctx = true →
        exec (.engineCommandIssue c) s = .next { s with cur := some (.queue c) }) ∧
      ((s.core c).queue = [] → exec (.engineCommandIssue c) s = .next s) ∧
      (∀ e rest B, (s.core c).queue = e :: rest → s.block? e.blk = some B → s.ctxRuns B.ctx = false →
        exec (.engineCommandIssue c) s = .next s)) ∧
    (∀ (k : Nat) (T : Team), s.team? k = some T →
      let u := s.setTeam k { T with status := .ready }
      let chosen (slot : Nat) : Prop := ∃ T', u.slotChoice (k / 256) slot = some (k, T')
      (T.status = .parked .marker → T.th.busy = false →
        (∀ slot < 4, (∀ j < slot, ¬chosen j) → chosen slot →
          exec (.switchMarkerIssue k) s = .next { u with slot := slot, cur := some (.team k) }) ∧
        ((∀ slot < 4, ¬chosen slot) → exec (.switchMarkerIssue k) s = .next u)) ∧
      (T.status ≠ .parked .marker ∨ T.th.busy = true → exec (.switchMarkerIssue k) s = .next s)) ∧
    (∀ core slot,
      let may (k : Nat) (T : Team) : Prop := s.team? k = some T ∧ k / 256 = core ∧ s.slotReady slot k T = true
      ((∃ k T, may k T) → ∃ k T, may k T ∧ (∀ k' T', may k' T' → T'.before T k' k = false) ∧
        exec (.slotIssueChoice core slot) s = .next { s with slot := slot, cur := some (.team k) }) ∧
      ((∀ k T, ¬may k T) → exec (.slotIssueChoice core slot) s = .next s)) ∧
    (∀ (k : Nat) (T : Team), s.team? k = some T →
      (s.slotReady 0 k T = true → T.boost = none →
        exec (.teamBoost k) s = .next { s.setTeam k { T with boost := some s.uid } with uid := s.uid + 1 }) ∧
      (s.slotReady 0 k T = false ∨ T.boost ≠ none → exec (.teamBoost k) s = .next s))

/-- R126, R127, R131, R191 to R193, R203, R211, R239, R261, R263, R290: an agent that waits becomes ready when its event has occurred,
with the value of its wait in s(D), and waits on until then; nothing else changes. A wait that ends in an acquire (R129, R188, R203, R211,
R335) leaves the stores in its core's store buffer before it: a release of its own waits for them. A `bwait` whose slot or word has gone
bad takes its own fault, and a generator thread that has ended takes the teams that it never started with it. That `mwait` goes on waiting
while a `marm` of its thread is outstanding (R343) is the model's choice (log entry 28). -/
def Obligations.WakeEvents : Prop :=
  ∀ (s : State) (a : Agent) (th : Thread) (ctx : Nat) (w : Wait), s.thread? a = some th → s.agentCtx? a = some ctx →
    s.status? a = some (.parked w) →
    let wakes (th' : Thread) : Prop := exec (.teamWake a) s = .next ((s.setThread a th').setStatus a .ready)
    let waits : Prop := exec (.teamWake a) s = .next s
    let h := agentHolder a
    let behind (t : State) : State :=
      t.setSbuf h ((t.sbuf h).map fun e => if e.owners.contains a then e else { e with owners := a :: e.owners })
    let acquires (th' : Thread) : Prop := exec (.teamWake a) s = .next (behind ((s.setThread a th').setStatus a .ready))
    (s.ctxRuns ctx = false → waits) ∧
    (s.ctxRuns ctx = true →
      (w = .retry ∨ w = .flue → wakes th) ∧
      (w = .marker → (th.busy = false → wakes th) ∧ (th.busy = true → waits)) ∧
      (∀ paths, w = .counter paths → (CountersFree th paths → wakes th) ∧ (¬CountersFree th paths → waits)) ∧
      (w = .older → ((∀ p ∈ th.pend, p.mayFault = false) → wakes th) ∧ ((∃ p ∈ th.pend, p.mayFault = true) → waits)) ∧
      (w = .leave → (th.busy = false → s.releaseOk a th.pend 4 = true → wakes th) ∧
        (th.busy = true ∨ s.releaseOk a th.pend 4 = false → waits)) ∧
      (∀ id, w = .fence id → (s.fencePassed a th id = true → acquires th) ∧ (s.fencePassed a th id = false → waits)) ∧
      (∀ m size, w = .eseg m size → ((∃ off, OffFree s (agentCluster a) m size off) → wakes th) ∧
        ((∀ off, ¬OffFree s (agentCluster a) m size off) → waits)) ∧
      (∀ path n, w = .waitc path n → (th.counter path ≤ n.toNat → wakes th) ∧ (n.toNat < th.counter path → waits)) ∧
      (∀ d deadline, w = .mwait d deadline → (th.marming = true → waits) ∧ (th.marming = false →
        (th.mon = .triggered → acquires { th.wr d 0 with mon := .none }) ∧
        (th.mon = .none → acquires { th.wr d 2 with mon := .none }) ∧
        (∀ line, th.mon = .armed line → deadline ≠ 0 → deadline.toNat ≤ s.gtime → acquires { th.wr d 1 with mon := .none }) ∧
        (∀ line, th.mon = .armed line → (deadline = 0 ∨ s.gtime < deadline.toNat) → waits))) ∧
      (∀ (k n seen : Nat) (T : Team) (B : Block) (ph : Bool), a = .team k → s.team? k = some T →
        w = .bar n seen ∨ w = .saving (.stallBar n seen) → s.block? T.blk = some B → lget T.tokens n = some ph →
        (th.arriving n = false → (B.bar n).ph ≠ ph ∨ (B.bar n).flips ≠ seen →
          exec (.teamWake a) s = .next (behind (s.setTeam k { T with tokens := merase T.tokens n, status := .ready }))) ∧
        (th.arriving n = true ∨ ((B.bar n).ph = ph ∧ (B.bar n).flips = seen) → waits)) ∧
      (∀ (k d slot : Nat) (T : Team), a = .team k → s.team? k = some T → w = .take d slot →
        let v := (s.core (k / 256)).slot slot
        let here : Prop := (v.mode = 1 ∨ v.mode = 2) ∧ v.owner = s.cid T.ctx ∧ ∀ p ∈ th.pend, p.checkedAll = true
        (here → acquires (th.wr d (BitVec.ofNat 64 v.value))) ∧ (¬here → waits)) ∧
      (∀ (k d slot off : Nat) (x : W64) (T : Team), a = .team k → s.team? k = some T → w = .bwait d x → steer x = .basin slot off →
        let clear : Prop := ∀ p ∈ th.pend, p.mayFault = false
        (∀ e, s.slotBasin (k / 256) slot T.ctx = .error e →
          (clear → exec (.teamWake a) s = .next (s.teamFault k e x.toNat [])) ∧ (¬clear → waits)) ∧
        (∀ b, s.slotBasin (k / 256) slot T.ctx = .ok b →
          let count := s.countAt (k / 2048) b off
          (s.olderOk a th.pend true (.basin slot b off 4) = false → waits) ∧
          (s.olderOk a th.pend true (.basin slot b off 4) = true →
            (s.basinPoisoned (k / 2048) b off 4 = true →
              (clear → exec (.teamWake a) s = .next (s.teamFault k 0xD x.toNat [])) ∧ (¬clear → waits)) ∧
            (s.basinPoisoned (k / 2048) b off 4 = false →
              (count ≤ 0 → acquires { th.wr d (BitVec.ofInt 64 count) with pc := th.pc + 8 }) ∧ (0 < count → waits))))) ∧
      (∀ (g : Nat) (G : Gen), a = .gen g → s.gen? g = some G → w = .exit →
        let quiet : Prop := (∀ p ∈ th.pend, p.finished = true) ∧ ∀ n < 8, ∀ e ∈ (s.core (8 * (g / 16) + n)).flue, e.gen ≠ g % 16
        let never (T : Team) : Prop := T.blk = G.blk ∧ T.status = .allocated
        (¬quiet → waits) ∧
        (quiet → (∀ q ∈ s.teams, ¬never q.2) → exec (.teamWake a) s = .next (s.setGen g { G with status := .exited })) ∧
        (quiet → (∀ q ∈ s.teams, s.team? q.1 = some q.2) → ∃ t, exec (.teamWake a) s = .next t ∧
          t.gen? g = some { G with status := .exited } ∧ (∀ k T, s.team? k = some T → never T → t.team? k = none) ∧
          (∀ k T, s.team? k = some T → ¬never T → t.team? k = some T) ∧ (∀ h, h ≠ g → t.gen? h = s.gen? h) ∧ t.cores = s.cores ∧ SameMem s t)))

/-- R14, R19, R23, R142, R178, R260, R261, R303, R306, R309, R400: outstanding work goes on. Results return to their registers, all of
them or those of one lane-word, their flags with the last; the lanes that can be translated are checked; a load takes the newest bytes of
its path, a store enters the store buffer behind those issued before it, an atomic goes to the unit of its home slice's bank, which
performs it in one step, once no other package shares its tile (R330), or stops its agent where the memory is out of reach (R421, R436); the
basin switch serves a lane. Model's choices here: a result waits for an older one of its register (log entry 27), device memory holds the
newest bytes once (log entry 16), what a sum with poison does (log entry 83), when a fault waits for lanes that are done (log entry 22), and the
wait of an access behind `take.test` (log entry 77). -/
def Obligations.AccessEvents : Prop :=
  ∀ (s : State) (a : Agent) (th : Thread) (n : Nat) (p : Pend), s.thread? a = some th → th.pend[n]? = some p → p.finished = false →
    (∀ ws fl (word : Option Nat), p.work = .result ws fl →
      let hit (w : RegWrite) : Prop := ∀ k, word = some k → w.inWord k = true
      (th.shadowed n p.work = true → exec (.variableLatencyResult a n word) s = .next s) ∧
      (th.shadowed n p.work = false →
        (∀ r v v', RegWrite.s r v ∈ ws → RegWrite.s r v' ∈ ws → v = v') →
        (∀ r l v v', RegWrite.v r l v ∈ ws → RegWrite.v r l v' ∈ ws → v = v') →
        ∃ t th', exec (.variableLatencyResult a n word) s = .next t ∧ SameMem s t ∧ (∀ b, b ≠ a → t.thread? b = s.thread? b) ∧
          t.thread? a = some th' ∧ th'.pc = th.pc ∧ th'.rm = th.rm ∧
          ((∀ w ∈ ws, hit w) → th'.flags = th.flags ||| fl) ∧
          ((∃ w ∈ ws, ¬hit w) → th'.flags = th.flags ∧ ∃ left, th'.pend = th.pend.set n { p with work := .result left fl } ∧
            ∀ w, w ∈ left ↔ w ∈ ws ∧ ¬hit w) ∧
          (∀ r v, RegWrite.s r v ∈ ws → hit (.s r v) → th'.rd r = v) ∧
          (∀ r, (∀ v, RegWrite.s r v ∉ ws ∨ ¬hit (.s r v)) → th'.rd r = th.rd r) ∧
          (∀ k T, a = .team k → s.team? k = some T → (∀ r l v, RegWrite.v r l v ∈ ws → r < 256) → ∃ T', t.team? k = some T' ∧ T'.p = T.p ∧
            (∀ r l v, RegWrite.v r l v ∈ ws → hit (.v r l v) → T'.vr r l = v) ∧
            (∀ r l, r < 256 → (∀ v, RegWrite.v r l v ∉ ws ∨ ¬hit (.v r l v)) → T'.vr r l = T.vr r l)))) ∧
    (∀ m : MemOp, p.work = .mem m → m.header = none →
      let ctx := (s.agentCtx? a).getD 0
      let pass (l : LaneReq) : LaneReq := match s.spotNow a m l with
        | .ok x => if l.stage = .fresh then { l with stage := .checked, spot := some x, gen := (s.ctx ctx).genSeq } else l
        | .error _ => l
      ((∃ l ∈ m.lanes, l.stage = .fresh ∧ ∃ x, s.spotNow a m l = .ok x) → ∃ t, exec (.accessFault a n) s = .next t ∧ SameMem s t ∧
        t.thread? a = some (th.setItem n { p with work := .mem { m with lanes := m.lanes.map pass } }) ∧
        ∀ b, b ≠ a → t.thread? b = s.thread? b) ∧
      ((∃ l ∈ m.lanes, l.stage = .fresh) → (∀ l ∈ m.lanes, l.stage = .fresh → ∃ e, s.spotNow a m l = .error e) →
        (∃ q ∈ th.pend.take n, q.checkedAll = false) → exec (.accessFault a n) s = .next s)) ∧
    (∀ (m : MemOp) (l : LaneReq) (pas : List Nat) (home : Nat), p.work = .mem m → m.lanes = [l] → l.stage = .checked → l.off = 0 →
      s.spotOf a m l = .ok (.mem pas home) →
      let h := agentHolder a
      let line := pas.headD 0 / 128
      (s.orderOk a th n m l (.mem pas home) = false → exec (.variableLatencyResult a n none) s = .next s) ∧
      (s.orderOk a th n m l (.mem pas home) = true →
        (∀ bs, m.kind = .ld → s.loadBytes h pas = some (bs, false) → th.shadowed n p.work = false →
          let v := m.ext (leNat bs % 2 ^ 64 % 2 ^ (8 * l.len))
          (∀ d, m.dst = .s d → ∃ t th', exec (.variableLatencyResult a n none) s = .next t ∧ SameMem s t ∧ t.thread? a = some th' ∧
            th'.rd d = v ∧ (∀ r, r ≠ d → th'.rd r = th.rd r) ∧ th'.pc = th.pc ∧ th'.flags = th.flags) ∧
          (∀ d k T, m.dst = .v d → a = .team k → s.team? k = some T → d < 256 → ∃ t T', exec (.variableLatencyResult a n none) s = .next t ∧
            SameMem s t ∧ t.team? k = some T' ∧ T'.vrd (decide (m.wid = 3)) d l.lane = laneBits (decide (m.wid = 3)) v.toNat ∧
            (∀ r x, r < 256 → (x ≠ l.lane ∨ (r ≠ d ∧ ¬(m.wid = 3 ∧ r = d + 1))) → T'.vr r x = T.vr r x) ∧ T'.p = T.p ∧
            T'.th.s = th.s ∧ T'.th.pc = th.pc ∧ T'.th.flags = th.flags)) ∧
        (∀ es, m.kind = .st → m.dst = .none → m.ord < 2 → s.storesBefore h p.id = false → (∀ q ∈ th.pend.take n, q.storing = false) →
          pushStores a home l.bad (s.sbuf h) (pas.zip (natLe 8 l.b.toNat)) = some es → th.shadowed n p.work = false →
          ∃ t, exec (.variableLatencyResult a n none) s = .next t ∧ t.sbuf h = es ∧ (∀ h', h' ≠ h → t.sbuf h' = s.sbuf h') ∧
            (t.thread? a).map (fun x => (x.s, x.pc, x.flags)) = some (th.s, th.pc, th.flags) ∧ SameMem s t) ∧
        (m.kind = .st → s.storesBefore h p.id = true ∨ pushStores a home l.bad (s.sbuf h) (pas.zip (natLe 8 l.b.toNat)) = none →
          exec (.variableLatencyResult a n none) s = .next s) ∧
        ((m.kind = .cas ∨ ∃ op, m.kind = .atom op) → s.lineFlushed a line true = true →
          ∃ t, exec (.variableLatencyResult a n none) s = .next t ∧
            t.atomq = s.atomq ++ [⟨8 * homeOf line home + line % 8, pas.headD 0, a, p.id, l.lane, false⟩] ∧
            t.thread? a = some (th.setItem n { p with work := .mem { m with lanes := [{ l with stage := .sent }] } }) ∧ SameMem s t))) ∧
    (∀ (m : MemOp) (l : LaneReq) (q : AtomReq), (s.atomq.find? fun x => decide (x.unit = q.unit)) = some q → q.who = a → q.n = p.id →
      q.lane = l.lane → (∀ k < n, ∀ p', th.pend[k]? = some p' → p'.id ≠ p.id) → p.work = .mem m → m.lanes = [l] → l.stage = .sent →
      let w := 2 ^ m.wid
      let line := q.pa / 128
      let old := leNat (s.memRd q.pa w)
      (q.asked = false → s.lineGone line = true → exec (.atomicUnitOp q.unit) s = .next (State.fatal { s with atomq := s.atomq.erase q } a 0xF)) ∧
      (q.asked = false → s.lineGone line = false → s.askedPkgs line ≠ 0 →
        ((∃ o ∈ s.tileOps, o.line / 32 = line / 32) → exec (.atomicUnitOp q.unit) s = .next s) ∧
        ((∀ o ∈ s.tileOps, o.line / 32 ≠ line / 32) → ∃ t, exec (.atomicUnitOp q.unit) s = .next t ∧ SameMem s t ∧
          t = { s with
            atomq := s.atomq.map fun r => if r = q then { q with asked := true } else r
            tileOps := s.tileOps ++ [⟨line, s.dev.fpkg, s.askedPkgs line⟩] })) ∧
      (q.asked = true → (∃ o ∈ s.tileOps, o.line = line ∧ o.wait ≠ 0) → exec (.atomicUnitOp q.unit) s = .next s) ∧
      ((q.asked = false ∧ s.lineGone line = false ∧ s.askedPkgs line = 0) ∨ (q.asked = true ∧ ∀ o ∈ s.tileOps, o.line = line → o.wait = 0) →
        ∃ t th', exec (.atomicUnitOp q.unit) s = .next t ∧ t.atomq = s.atomq.erase q ∧
        (∀ k < w, t.mem8 (q.pa + k) = (natLe w (m.newValue l old)).getD k 0) ∧
        (∀ pa, ¬(q.pa ≤ pa ∧ pa < q.pa + w) → t.mem8 pa = s.mem8 pa) ∧
        t.thread? a = some th' ∧ th'.s = th.s ∧ th'.pend = th.pend.set n { p with
          work := .mem { m with lanes := [{ l with stage := .performed (BitVec.ofNat 64 old) (s.poisoned q.pa w) }] } })) ∧
    (∀ unit, (∀ q ∈ s.atomq, q.unit ≠ unit) → exec (.atomicUnitOp unit) s = .next s) ∧
    (∀ (m : MemOp) (l : LaneReq) (slot b o len off : Nat), p.work = .mem m → m.lanes = [l] → l.stage = .checked →
      s.spotOf a m l = .ok (.basin slot b o len) → steer l.addr = .basin slot off → off + 2 ^ m.wid ≤ 65536 →
      let cl := agentCluster a
      let w := 2 ^ m.wid
      let old := leNat (s.basinRd cl b off w)
      let does (v : W64) (bad : Bool) (new : Option Nat) : Prop := ∃ t, exec (.basinAccessServed a n l.lane) s = .next t ∧ SameMem s t ∧
        t.thread? a = some (th.setItem n { p with work := .mem { m with lanes := [{ l with stage := .performed v bad }] } }) ∧
        (∀ k < w, t.basin8 cl b (off + k) = (natLe w (new.getD old)).getD k 0) ∧
        (∀ cl' b' x, x < 65536 → ¬(cl' = cl ∧ b' = b ∧ off ≤ x ∧ x < off + w) → t.basin8 cl' b' x = s.basin8 cl' b' x)
      (s.orderOk a th n m l (.basin slot b o len) = false → exec (.basinAccessServed a n l.lane) s = .next s) ∧
      (s.orderOk a th n m l (.basin slot b o len) = true →
        (m.kind = .ld → does (BitVec.ofNat 64 old) (s.basinPoisoned cl b off w) none) ∧
        (m.kind = .st → does 0 false (some l.b.toNat)) ∧
        ((m.kind = .cas ∨ ∃ op, m.kind = .atom op) → does (BitVec.ofNat 64 old) (s.basinPoisoned cl b off w) (some (m.newValue l old))) ∧
        (∀ op, m.kind = .scadd op → does 0 false (some (atomNew op m.wid false old (l.b.toNat % 2 ^ (8 * w))))) ∧
        (m.kind = .bin → m.header = none → s.basinPoisoned cl b off 8 = false → ∃ t, exec (.basinAccessServed a n l.lane) s = .next t ∧
          t = s.setThread a (th.setItem n { p with
            work := .mem { m with header := some (leNat (s.basinRd cl b off 4), leNat (s.basinRd cl b (off + 4) 4)) } }) ∧ SameMem s t) ∧
        (∀ ncell cap, m.kind = .bin → m.header = some (ncell, cap) →
          let cell := l.b.toNat % 2 ^ 32
          let x := off + 8 + 4 * cell
          let cnt := leNat (s.basinRd cl b x 4)
          let gives (t : State) (v : W64) (bad : Bool) : Prop := exec (.basinAccessServed a n l.lane) s = .next t ∧ SameMem s t ∧
            t.thread? a = some (th.setItem n { p with work := .mem { m with lanes := [{ l with stage := .performed v bad }] } })
          (ncell ≤ cell → ∃ t, gives t 0xFFFFFFFF#64 false ∧ t.clusters = s.clusters) ∧
          (cell < ncell → x + 4 ≤ 65536 → ∃ t,
            gives t (BitVec.ofNat 64 (if cnt < cap then (cell * cap + cnt) % 2 ^ 32 else 0xFFFFFFFF)) (s.basinPoisoned cl b x 4) ∧
            (∀ k < 4, t.basin8 cl b (x + k) = (natLe 4 (cnt + 1)).getD k 0) ∧
            (∀ b' y, y < 65536 → ¬(b' = b ∧ x ≤ y ∧ y < x + 4) → t.basin8 cl b' y = s.basin8 cl b' y)))))

/-- R25, R186, R194, R262, R263, R348, R352, R353, R404, R432: an access whose unchecked lanes all fail, or a `vbin` with a count word beyond
its basin, with every older access checked and no lane under way, is the checkpoint of its team, which goes back to it: what is younger
goes, but for finished work, results, a creation, an arrival and loads that only return; the lanes that are done keep their values, the
others are the team's partial-completion mask. There the fault is taken: a fault inside a handler is the nested fault, a first-touch fault
enters the handler, with the mask of the failing lanes, or switches the team out where the pool is empty or the partition host-assisted,
and any other is fatal. So is poison that a lane returns. A generator thread stops before the word or the access that fails, unless the
Stoker fills its page. A first-touch page that a thread or a copy waits for is claimed, takes the next frame of the pool and is mapped to
it; with an empty pool the claim goes; a fault of these steps stops the context. Model's choices: the cause and address are those of the
lowest failing lane (log entry 22), which of a lane's outcomes count as finished (log entries 22, 83), that a generator thread waits for
the fill of its page (log entry 24), and that HADDR of a stack access holds its generic address (log entry 70). -/
def Obligations.FaultEvents : Prop :=
  ∀ s : State,
    (∀ (k n : Nat) (T : Team) (p : Pend) (m : MemOp) (l : LaneReq) (e : Nat), s.team? k = some T → T.th.pend[n]? = some p → p.work = .mem m →
      let bad := m.lanes.filter fun x => decide (x.stage = .fresh) || m.binBad x
      let lanes := if m.vec then (bad.map (·.lane)).eraseDups else []
      (∀ x ∈ bad, m.binBad x = true ∨ ∃ e, s.spotNow (.team k) m x = .error e) → bad.head? = some l →
      (m.binBad l = true ∧ e = 2) ∨ (m.binBad l = false ∧ s.spotNow (.team k) m l = .error e) → e < 0x10000 →
      (∀ x ∈ m.lanes, x.poisoned = false) → (∀ q ∈ T.th.pend.take n, q.checkedAll = true) →
      m.faultWaits (T.th.shadowed n p.work) = false → ∃ T0 : Team,
        let u := s.setTeam k T0
        let P := s.part (ctxPart T.ctx)
        let hentry := (s.ctx T.ctx).run.hentry
        let gives (t : State) : Prop := exec (.accessFault (.team k) n) s = .next t
        T0 = { T with
          th := { T.th with
            s := T0.th.s, marks := T0.th.marks, pc := p.pc, pend := T.th.pend.take n ++ (T.th.pend.drop (n + 1)).filter Pend.survives }
          v := T0.v, vmarks := T0.vmarks, partialMask := if T.hcause = 0 ∧ m.vec = true then some m.openLanes else T.partialMask } ∧
        (m.doneLanes = [] → T0.th.s = T.th.s ∧ T0.th.marks = T.th.marks ∧ T0.v = T.v ∧ T0.vmarks = T.vmarks) ∧
        (∀ d, m.dst = .v d → d < 256 → T0.th.s = T.th.s ∧
          (∀ x ∈ m.doneLanes, T0.vrd (decide (m.wid = 3)) d x = laneBits (decide (m.wid = 3)) (m.ext (m.laneValue x)).toNat) ∧
          ∀ r x, r < 256 → (x ∉ m.doneLanes ∨ (r ≠ d ∧ ¬(m.wid = 3 ∧ r = d + 1))) → T0.vr r x = T.vr r x) ∧
        (T.hcause ≠ 0 → gives (u.fatal (.team k) 0x11)) ∧
        (T.hcause = 0 → e = 1 → P.ft = true ∨ s.poolHas (ctxPart T.ctx) = false →
          gives (s.setTeam k { T0 with status := .parked (.saving (.fault l.addr P.ft)) })) ∧
        (T.hcause = 0 → e = 1 → P.ft = false → s.poolHas (ctxPart T.ctx) = true →
          (hentry = 0 → gives (u.fatal (.team k) 1)) ∧ (hentry ≠ 0 → ∃ t, gives t ∧ EnteredHandler u t k T0 1 l.addr lanes)) ∧
        (T.hcause = 0 → e ≠ 1 → gives (u.fatal (.team k) e))) ∧
    (∀ (k n : Nat) (T : Team) (p : Pend) (m : MemOp) (l : LaneReq) (v : W64), s.team? k = some T → T.th.pend[n]? = some p → p.work = .mem m →
      p.finished = false → m.lanes = [l] → l.stage = .performed v true → s.spotOf (.team k) m l ≠ .ok .nothing →
      T.th.shadowed n p.work = false → (∀ q ∈ T.th.pend.take n, q.checkedAll = true) →
      exec (.variableLatencyResult (.team k) n none) s = .next ((s.setTeam k { T with
        th := { T.th with pc := p.pc, pend := T.th.pend.take n ++ (T.th.pend.drop (n + 1)).filter Pend.survives }
        partialMask := if T.hcause = 0 ∧ m.vec = true then some [l.lane] else T.partialMask }).fatal (.team k)
          (if T.hcause = 0 then 0xD else 0x11))) ∧
    (∀ (g : Nat) (G : Gen), s.gen? g = some G →
      let fills (e : Nat) : Prop := e = 1 ∧ s.canFill G.ctx = true
      (s.ctxRuns G.ctx = false → exec (.generatorFault g) s = .next s) ∧
      (∀ n p m l e, s.ctxRuns G.ctx = true → G.th.pend.findIdx? Pend.unchecked = some n → G.th.pend[n]? = some p → p.work = .mem m →
        m.header = none → (∀ x ∈ m.lanes, x.poisoned = false ∧ x.lane = l.lane) →
        let fresh := m.lanes.filter fun x => decide (x.stage = .fresh)
        (∀ x ∈ fresh, ∃ e, s.spotNow (.gen g) m x = .error e) → fresh.head? = some l → s.spotNow (.gen g) m l = .error e →
        let ready : Prop := (∀ q ∈ G.th.pend.take n, q.checkedAll = true) ∧ m.faultWaits (G.th.shadowed n p.work) = false
        let G0 : Gen := { G with
          th := { G.th with pc := p.pc, pend := G.th.pend.take n ++ (G.th.pend.drop (n + 1)).filter Pend.survives } }
        (ready → ¬fills e → ∃ t, exec (.generatorFault g) s = .next t ∧ GenStopped (s.setGen g G0) t g G0 e) ∧
        (¬ready ∨ fills e → exec (.generatorFault g) s = .next s)) ∧
      (G.th.pend.any Pend.unchecked = false → s.canIssue (.gen g) = true →
        (∀ e, s.fetch (.gen g) = .error e → ¬fills e ∧ ∃ t, exec (.generatorFault g) s = .next t ∧ GenStopped s t g G e) ∧
        (∀ i, s.fetch (.gen g) = .ok i → exec (.generatorFault g) s = .next s)) ∧
      (G.th.pend.any Pend.unchecked = false → s.canIssue (.gen g) = false → exec (.generatorFault g) s = .next s)) ∧
    (∀ (ctx : Nat) (va : W64),
      let page := va.toNat / 65536
      let R := (s.ctx ctx).run
      let entry := R.ptwin + BitVec.ofNat 64 (8 * page)
      let wanted : Prop := s.ctxRuns ctx = true ∧ s.canFill ctx = true ∧ va.toNat < 2 ^ 52 ∧ s.walk (ctxPart ctx) R.root R.rsplit va.toNat = .error 1
      let byGen (g : Nat) : Prop := s.filler ctx page = some (.inl g)
      let byJob (c : Nat) (j : Job) : Prop := s.filler ctx page = some (.inr (c, j))
      let gives (t : State) : Prop := exec (.firstTouchFill ctx va) s = .next t
      let stops (u : State) (x : Nat) : Prop :=
        (∀ g, wanted → byGen g → gives (u.fatal (.gen g) x)) ∧ ∀ c j, wanted → byJob c j → gives (u.jobFault c j x)
      (¬wanted ∨ s.filler ctx page = none → gives s) ∧
      (s.filler ctx page = none ↔ (∀ q ∈ s.gens, q.2.ctx = ctx → s.genWants q.1 page q.2 = false) ∧
        ∀ q ∈ s.cores, ∀ j ∈ q.2.jobs, j.ctx = ctx → s.jobWants q.1 page j = false) ∧
      (∀ x, s.fillPa ctx entry .read = .error x → stops s x) ∧
      (∀ a, s.fillPa ctx entry .read = .ok a →
        let e := leNat (s.memRd a 8)
        (bitAt e 63 = true ∨ bitAt e 51 = true → gives s) ∧
        (bitAt e 63 = false → bitAt e 51 = false → (∀ x, s.fillPa ctx entry .rmw = .error x → stops s x) ∧
          (∀ b, s.fillPa ctx entry .rmw = .ok b →
            let claimed := s.perform a (natLe 8 (e + 2 ^ 51))
            (∀ x, claimed.fillPa ctx R.ftpva .read = .error x → stops claimed x) ∧
            (∀ ta pa, wanted → s.filler ctx page ≠ none → claimed.fillPa ctx R.ftpva .read = .ok ta →
              claimed.fillPa ctx (R.ftpva + 8) .read = .ok pa →
              let take := leNat (claimed.memRd ta 8)
              let taken := claimed.perform ta (natLe 8 (take + 1))
              (take = leNat (claimed.memRd pa 8) → ∃ t, gives t ∧ SameMem s t) ∧
              let slot := R.ftpva + BitVec.ofNat 64 (64 + 8 * (take % 2 ^ (s.part (ctxPart ctx)).ftplg))
              (take ≠ leNat (claimed.memRd pa 8) → ∀ x, claimed.fillPa ctx R.ftpva .rmw = .error x → stops claimed x) ∧
              (take ≠ leNat (claimed.memRd pa 8) → ∀ c x, claimed.fillPa ctx R.ftpva .rmw = .ok c → taken.fillPa ctx slot .read = .error x →
                stops taken x) ∧
              (take ≠ leNat (claimed.memRd pa 8) → ∀ c ra, claimed.fillPa ctx R.ftpva .rmw = .ok c → taken.fillPa ctx slot .read = .ok ra →
                a + 8 ≤ ta ∨ ta + 8 ≤ a →
                let frame := leNat (taken.memRd ra 8) % 2 ^ 48
                let leaf := natLe 8 (2 ^ 63 + bits e 52 10 * 2 ^ 52 + bits e 48 3 * 2 ^ 48 + frame)
                ∃ t, gives t ∧ (∀ i < 8, t.mem8 (a + i) = leaf.getD i 0) ∧ (∀ i < 8, t.mem8 (ta + i) = (natLe 8 (take + 1)).getD i 0) ∧
                  ∀ q, ¬(a ≤ q ∧ q < a + 8) → ¬(ta ≤ q ∧ q < ta + 8) → t.mem8 q = s.mem8 q))))))

/-- R220, R347, R353, R355, R356, R411 to R413: what a fault does. A word that faults as a whole waits until no older access of its team can
fault first; then a fault inside a handler is the nested fault, a first-touch fault or a strap enters the handler, or the team is switched
out, and any other is fatal, as is one of a queue's command. A fatal fault raises the halt line, leaves the agent's stop record and stops
it, with the accesses alone that have left it or that nothing holds. A command's or a job's fault carries its provenance, and the job goes. A
save that fails loses the context. -/
def Obligations.FaultEffects : Prop :=
  ∀ s : State,
    (∀ k T cause, s.team? k = some T →
      ((∃ p ∈ T.th.pend, p.mayFault = true) → s.raise (.team k) cause = s.setTeam k { T with status := .parked .older }) ∧
      ((∀ p ∈ T.th.pend, p.mayFault = false) → s.raise (.team k) cause = s.teamFault k cause 0 [])) ∧
    (∀ g cause, s.raise (.gen g) cause = s.genFault g cause) ∧ (∀ c cause, s.raise (.queue c) cause = s.fatal (.queue c) cause) ∧
    (∀ k T cause haddr lanes, s.team? k = some T →
      let P := s.part (ctxPart T.ctx)
      let hentry := (s.ctx T.ctx).run.hentry
      let t := s.teamFault k cause haddr lanes
      (T.hcause ≠ 0 → t = s.fatal (.team k) 0x11) ∧
      (T.hcause = 0 → cause = 1 → P.ft = true ∨ s.poolHas (ctxPart T.ctx) = false →
        t = s.setTeam k { T with status := .parked (.saving (.fault (BitVec.ofNat 64 haddr) P.ft)) }) ∧
      (T.hcause = 0 → hentry ≠ 0 → cause = 1 → P.ft = false → s.poolHas (ctxPart T.ctx) = true →
        EnteredHandler s t k T 1 (BitVec.ofNat 64 haddr) lanes) ∧
      (T.hcause = 0 → hentry ≠ 0 → 0x10000 ≤ cause → EnteredHandler s t k T (BitVec.ofNat 64 cause) 0 lanes) ∧
      (T.hcause = 0 → hentry = 0 → cause = 1 → P.ft = false → s.poolHas (ctxPart T.ctx) = true → t = s.fatal (.team k) cause) ∧
      (T.hcause = 0 → hentry = 0 ∨ cause < 0x10000 → cause ≠ 1 → t = s.fatal (.team k) cause)) ∧
    (∀ g G cause, s.gen? g = some G → GenStopped s (s.genFault g cause) g G cause) ∧
    (∀ k T cause, s.team? k = some T → cause ≠ 0 →
      let t := s.fatal (.team k) cause
      let tag := s.tagAt (k / 256) T.th.pc
      HaltRaised s t T.ctx cause (agentLoc (.team k)) tag
        ⟨1, s.secondary T.ctx, cause, agentLoc (.team k), k % 256, T.th.pc, BitVec.ofNat 64 s.gtime, tag, 0, 0, 0⟩ ∧
      t.team? k = some { T with status := .stopped, th := T.th.discard } ∧ (∀ h, h ≠ k → t.team? h = s.team? h) ∧ t.gens = s.gens ∧
      t.cores = s.cores) ∧
    (∀ g G cause, s.gen? g = some G → cause ≠ 0 →
      let t := s.fatal (.gen g) cause
      HaltRaised s t G.ctx cause (agentLoc (.gen g)) G.eseq
        ⟨5, s.secondary G.ctx, cause, agentLoc (.gen g), g % 16, G.th.pc, BitVec.ofNat 64 s.gtime, G.eseq,
          (((List.range 8).map fun c => (((s.core (8 * (g / 16) + c)).flue.filter fun e => decide (e.gen = g % 16)).length)).sum), 0, 0⟩ ∧
      t.gen? g = some { G with status := .stopped, th := G.th.discard } ∧ (∀ h, h ≠ g → t.gen? h = s.gen? h) ∧ t.teams = s.teams ∧
      t.cores = s.cores) ∧
    (∀ th : Thread, th.discard = { th with pend := th.discard.pend } ∧
      ∀ p ∈ th.discard.pend, p ∈ th.pend ∧ ∃ m, p.work = .mem m ∧ (p.sent = true ∨ (p.unchecked = false ∧ m.kind.isLoad = false))) ∧
    (∀ c ctx prov cause, cause ≠ 0 →
      let t := s.engineFault c ctx prov cause
      HaltRaised s t ctx cause (agentLoc (.queue c)) prov
        ⟨(s.headUnit c).1, s.secondary ctx, cause, agentLoc (.queue c), (s.headUnit c).2, 0, BitVec.ofNat 64 s.gtime, prov, 0, 0, 0⟩ ∧
      t.cores = s.cores ∧ t.teams = s.teams ∧ t.gens = s.gens) ∧
    (∀ c j cause, cause ≠ 0 → ∃ r : StopRec,
      let t := s.jobFault c j cause
      HaltRaised s t j.ctx cause (agentLoc (.queue c)) j.prov r ∧
      (r.fl = s.secondary j.ctx ∧ r.cause = cause ∧ r.loc = agentLoc (.queue c) ∧ r.pc = 0 ∧ r.gtime = BitVec.ofNat 64 s.gtime ∧ r.tag = j.prov) ∧
      (∀ d left n, j.kind = .copy d left n → r.kind = 3 ∧ r.id = 0 ∧ r.prog = j.num ∧ r.done = d.rows * d.rowlen - (left.map (·.2)).sum) ∧
      (∀ i, j.kind = .matrix i → (r.kind, r.id) = engineUnit i ∧ r.prog = j.steps) ∧
      (∀ i, j.kind = .accMove i ∨ j.kind = .weir i → (r.kind, r.id) = engineUnit i) ∧
      t.core c = { s.core c with jobs := (s.core c).jobs.filter fun k => decide (k.id ≠ j.id) } ∧ (∀ d, d ≠ c → t.core d = s.core d) ∧
      t.teams = s.teams ∧ t.gens = s.gens) ∧
    (∀ i r, encode i = some r → engineUnit i =
      if 0x18C ≤ r.op.toNat ∧ r.op.toNat ≤ 0x191 then (2, r.d.toNat) else if 0x198 ≤ r.op.toNat ∧ r.op.toNat ≤ 0x19D then (4, 0) else (3, 0)) ∧
    (∀ ctx cause loc tag,
      let t := s.loseContext ctx cause loc tag
      let c := s.ctx ctx
      let P := s.part (ctxPart ctx)
      t.ctx ctx = { c with
        mode := .lost, cause := if c.cause = 0 then cause else c.cause
        note := if c.mode = .halted ∨ c.mode = .lost then c.note
          else some ⟨3, .halt ctx, shortRecord 3 c.run.cid loc 0 0 0 0 cause 0 0, P.er⟩ } ∧
      (P.err0v = true → t.part (ctxPart ctx) = P) ∧
      (P.err0v = false → t.part (ctxPart ctx) = { P with
        err0v := true, err0lost := true, err0cause := cause, err1loc := loc, err1cid := c.run.cid, err2 := BitVec.ofNat 64 s.gtime, err3 := tag }) ∧
      (∀ x, x ≠ ctx → t.ctx x = s.ctx x) ∧ (∀ p, p ≠ ctxPart ctx → t.part p = s.part p) ∧ t.teams = s.teams ∧ t.gens = s.gens ∧
      t.cores = s.cores ∧ t.blocks = s.blocks ∧ t.clusters = s.clusters ∧ SameMem s t)

/-- R127, R188, R198 to R201, R203 to R206, R209, R212, R241, R243, R246 to R248: what a held word does when it is performed. A fence is
complete when what its order names is done; nothing is performed behind a fence of its thread, nor in a stopped context. A basin word tests
its slots and answers its status, and `bfree` and `give` begin to drain theirs; `kick` makes its descriptors jobs; a team arrives at a
barrier, with the token of its phase, is marked as triggered, creates a team, or queues a launch; a generator seals its segment, starts a
team, or loads a tile descriptor. A word with a release waits for what it releases. Model's choices: that words of one team outstanding
together are performed in any order where no rule orders them (log entry 93), the order of the statuses (log entry 32), that `spawn` waits
for no check of an older access (log entry 33), and which words of a basin of its own context `balloc` keeps (log entry 38). -/
def Obligations.HeldPerformed : Prop :=
  ∀ (s : State) (a : Agent) (th : Thread) (n : Nat) (p : Pend) (o : HeldOp) (word : Option Nat), s.thread? a = some th → th.pend[n]? = some p →
    p.finished = false → p.work = .held o →
    let i := Instr.variableLatencyResult a n word
    let older := th.pend.take n
    let checked : Prop := ∀ q ∈ older, q.checkedAll = true
    let released (scope : Nat) : Prop := (∀ q ∈ older, q.performed = true) ∧
      (2 ≤ scope → ∀ e ∈ s.sbuf (agentHolder a), a ∉ e.owners) ∧ (3 ≤ scope → (s.cluster (agentCluster a)).cistern = [])
    let fenced : Prop := ∃ q ∈ older, q.finished = false ∧ ∃ scope ord, q.work = .held (.fence scope ord)
    let others (t : State) : Prop := SameMem s t ∧ ∀ b, b ≠ a → t.thread? b = s.thread? b
    let still (t : State) : Prop := others t ∧ t.cores = s.cores ∧ t.clusters = s.clusters ∧ t.blocks = s.blocks
    let done (t : State) : Prop := t.thread? a = some (th.setItem n { p with finished := true }).sweep
    let gives (t : State) (d : Nat) (v : W64) : Prop := t.thread? a = some (th.setItem n { p with work := .result [.s d v] 0 })
    let answers (d v : Nat) : Prop := ∃ t, exec i s = .next t ∧ gives t d (BitVec.ofNat 64 v) ∧ still t
    (∀ scope ord, o = .fence scope ord →
      let ready : Prop := (acqOrd ord = true → ∀ q ∈ older, q.finished = true ∨ ∀ m, q.work = .mem m → m.dst = .none) ∧
        (relOrd ord = true → released scope)
      (ready → ∃ t, exec i s = .next t ∧ done t ∧ still t) ∧ (¬ready → exec i s = .next s)) ∧
    ((∀ scope ord, o ≠ .fence scope ord) → fenced ∨ s.ctxRuns ((s.agentCtx? a).getD 0) = false → exec i s = .next s) ∧
    (∀ k T, a = .team k → s.team? k = some T → ¬fenced → s.ctxRuns T.ctx = true →
      let c := k / 256
      let cl := k / 2048
      let ok (slot : Nat) (alone : Bool) : Prop :=
        let v := (s.core c).slot slot
        (v.mode = 1 ∨ (alone = false ∧ v.mode = 2)) ∧ v.owner = s.cid T.ctx ∧ v.busy = false
      let empty (c slot : Nat) : Prop := ((s.core c).slot slot).mode = 0 ∧ ((s.core c).slot slot).busy = false
      let runs (c : Nat) : Prop := ∃ b ∈ s.blocks, b.2.ctx = T.ctx ∧ b.2.cluster = c / 8 ∧ c ∈ b.2.cores
      let slots (t : State) (f : Nat → Nat → Option Slot) : Prop := ∀ c' x, (t.core c').slot x = (f c' x).getD ((s.core c').slot x)
      let one (slot : Nat) (v : Slot) (c' x : Nat) : Option Slot := if c' = c ∧ x = slot then some v else none
      let drains (slot : Nat) (o' : HeldOp) : Prop := ∃ t, exec i s = .next t ∧ others t ∧ t.clusters = s.clusters ∧
        slots t (one slot { (s.core c).slot slot with busy := true }) ∧ t.thread? a = some (th.setItem n { p with work := .held o' })
      (¬checked → (∀ b e, o ≠ .barArrive b e) → (∀ d args pc, o ≠ .spawn d args pc) → (∀ x y, o ≠ .fence x y) → exec i s = .next s) ∧
      (∀ b e, o = .barArrive b e →
        let behind : Prop := ∃ q ∈ older, q.finished = false ∧ ∃ e', q.work = .held (.barArrive b e')
        (behind ∨ ¬released 2 → exec i s = .next s) ∧
        (∀ B, ¬behind → released 2 → s.block? T.blk = some B →
          let v := B.bar b
          (v.exp ≠ 0 → v.exp ≠ e → exec i s = .next ((s.setThread a (th.toCheckpoint n p.pc)).teamFault k 0xB 0 [])) ∧
          (v.exp = 0 ∨ v.exp = e → ∃ t T', exec i s = .next t ∧ done t ∧ others t ∧
            t.block? T.blk = some (B.setBar b (({ v with exp := e } : BarSt).arrive s.choice)) ∧ t.team? k = some T' ∧
            T'.tokens = lset T.tokens b v.ph ∧ (∀ seen, T.status = .parked (.bar b seen) → T'.status = .parked (.bar b v.flips)) ∧
            ((∀ seen, T.status ≠ .parked (.bar b seen) ∧ T.status ≠ .parked (.saving (.stallBar b seen))) → T'.status = T.status)))) ∧
      (checked → o = .trig → (¬released 4 → exec i s = .next s) ∧
        (released 4 → ∃ t, exec i s = .next t ∧ done t ∧ still t ∧
          t.team? k = some { T with trig := true, th := (th.setItem n { p with finished := true }).sweep })) ∧
      (∀ d args pc B, o = .spawn d args pc → s.block? T.blk = some B →
        let no : Prop := ∃ t, exec i s = .next t ∧ gives t d (BitVec.allOnes 64) ∧ still t
        let v := (s.launch? B.launch).elim T.vregs fun L => L.rcd.vregs
        (¬released 1 → exec i s = .next s) ∧
        (released 1 → (∀ id < 256, (s.team? (256 * c + id)).isSome = true) ∨ 32 ≤ B.teams.length ∨ s.newFits c 1 v = false → no) ∧
        (∀ id idx, released 1 → id < 256 → (∀ x < id, (s.team? (256 * c + x)).isSome = true) → s.team? (256 * c + id) = none →
          idx < 32 → (∀ x < idx, (lget B.teams x).isSome = true) → lget B.teams idx = none → B.teams.length < 32 → s.newFits c 1 v = true →
          let new := 256 * c + id
          ∃ u U, u.team? new = some U ∧ U.status = .ready ∧ U.th.pc = pc ∧ U.words = 1 ∧ U.vregs = v ∧ U.prio = T.prio ∧ U.idx = idx ∧
            U.blk = T.blk ∧ U.ctx = T.ctx ∧ U.maskLanes = List.range 32 ∧ (args.length = 8 → ∀ x < 8, U.th.rd x = args.getD x 0) ∧
            (u.block? T.blk).map (fun B' => lget B'.teams idx) = some (some new) ∧ SameMem s u ∧ u.clusters = s.clusters ∧ u.cores = s.cores ∧
            (∀ x, x ≠ new → u.team? x = s.team? x) ∧
            (u.placesFit cl T.ctx = false → no) ∧
            (u.placesFit cl T.ctx = true → exec i s = .next (u.setThread a (th.setItem n { p with work := .result [.s d (BitVec.ofNat 64 id)] 0 }))))) ∧
      (∀ x cnt, checked → o = .kick x cnt →
        let fault (cause : Nat) := (s.setTeam k { T with th := { th with pc := p.pc, pend := older } }).teamFault k cause 0 []
        ((∀ slot off, steer x = .basin slot off → off % 64 ≠ 0 ∨ 1024 < cnt ∨ 65536 < off + 64 * cnt) → exec i s = .next (fault 2)) ∧
        (∀ slot off, steer x = .basin slot off → off % 64 = 0 → cnt ≤ 1024 → off + 64 * cnt ≤ 65536 →
          (∀ e, s.slotBasin c slot T.ctx = .error e → exec i s = .next (fault e)) ∧
          (∀ b, s.slotBasin c slot T.ctx = .ok b →
            let wait : Prop := ∃ q ∈ older, q.finished = false ∧ ∃ m, q.work = .mem m ∧ m.kind = .st ∧ ∃ l ∈ m.lanes, l.inBasin = true ∧ l.stage.done = false
            (wait → exec i s = .next s) ∧
            (¬wait → ∃ f, done f ∧ still f ∧ f.uid = s.uid ∧ ∀ e : Emitted, e.blk = T.blk → e.tag = p.prov →
              ((∀ j < cnt, f.copyLegal c b off j = true ∧ f.copyApart c b off T.ctx j) → exec i s = .next (f.copied c b off e T.ctx cnt)) ∧
              (∀ m < cnt, (∀ j < m, f.copyLegal c b off j = true ∧ f.copyApart c b off T.ctx j) →
                let j : Job := { f.copyJob c b off T.ctx m with blk := T.blk, prov := p.prov, reads := [], writes := [], slots := [] }
                (f.copyLegal c b off m = false → exec i s = .next ((f.copied c b off e T.ctx m).jobFault c j 0xC)) ∧
                (f.copyLegal c b off m = true → ¬f.copyApart c b off T.ctx m → exec i s = .next ((f.copied c b off e T.ctx m).jobFault c j 6))))))) ∧
      (checked →
        (∀ d slot, o = .balloc d slot →
          let share (b : Nat) : Prop := b < 32 ∧ ((s.cluster cl).info b).blk = some T.blk ∧ ((s.cluster cl).info b).allocated = false
          (¬empty c slot → answers d 1) ∧ (empty c slot → (∀ b, ¬share b) → answers d 3) ∧
          (empty c slot → (∃ b, share b) → ∃ b t, share b ∧ exec i s = .next t ∧
            (∀ b', b' ≠ b → (t.cluster cl).info b' = (s.cluster cl).info b') ∧ (∀ c', c' ≠ cl → t.cluster c' = s.cluster c') ∧
            (((s.cluster cl).info b).last ≠ some T.ctx → (t.cluster cl).info b = { (s.cluster cl).info b with clearing := true } ∧
              (t.cluster cl).basin = (s.cluster cl).basin ∧ t.cores = s.cores ∧ t.teams = s.teams ∧ SameMem s t) ∧
            (((s.cluster cl).info b).last = some T.ctx → gives t d 0 ∧ others t ∧ slots t (one slot ⟨false, s.cid T.ctx, 1, b⟩) ∧
              (t.cluster cl).info b = { (s.cluster cl).info b with allocated := true } ∧
              (∀ B, s.block? T.blk = some B → t.block? T.blk = some { B with held := B.held + 1 }) ∧
              (∀ b' x, b' ≠ b → t.basin8 cl b' x = s.basin8 cl b' x) ∧
              ∀ w < 16384, (∀ x < 4, t.basin8 cl b (4 * w + x) = s.basin8 cl b (4 * w + x)) ∨ ∀ x < 4, t.basin8 cl b (4 * w + x) = 0))) ∧
        (∀ d slot, o = .bfree d slot .idle → (¬ok slot false → answers d 2) ∧ (ok slot false → drains slot (.bfree d slot .draining))) ∧
        (∀ d slot core' dslot, o = .give d slot core' dslot .idle →
          let dest := 8 * cl + core'
          (¬ok slot true → answers d 2) ∧ (ok slot true → ¬runs dest → answers d 4) ∧
          (ok slot true → runs dest → drains slot (.give d slot core' dslot .draining))) ∧
        (∀ d slot, o = .takeTest d slot →
          let v := (s.core c).slot slot
          answers d ((if v.busy = true then 2 ^ 20 else 0) + v.owner * 256 + v.mode * 32 + v.basin)) ∧
        (∀ d slot cmask, o = .bshare d slot cmask →
          let v := (s.core c).slot slot
          let target (c' : Nat) : Prop := ∃ x < 8, cmask.testBit x = true ∧ c' = 8 * cl + x ∧ c' ≠ c
          (¬released 2 → exec i s = .next s) ∧
          (released 2 → (¬ok slot true → answers d 2) ∧ (ok slot true → (∃ c', target c' ∧ ¬runs c') → answers d 4) ∧
            (ok slot true → (∀ c', target c' → runs c') → (∃ c', target c' ∧ ¬empty c' slot) → answers d 1) ∧
            (ok slot true → (∀ c', target c' → runs c' ∧ empty c' slot) → ∃ t, exec i s = .next t ∧ gives t d 0 ∧ others t ∧ t.clusters = s.clusters ∧
              (∀ c', c' = c ∨ target c' → (t.core c').slot slot = ⟨false, v.owner, 2, v.basin⟩) ∧
              ∀ c' x, ¬((c' = c ∨ target c') ∧ x = slot) → (t.core c').slot x = (s.core c').slot x))) ∧
        (∀ d slot, o = .bmap d slot →
          let v := (s.core c).slot slot
          (v.mode = 0 → answers d 0) ∧
          (v.mode ≠ 0 → ∃ m < 256, answers d ((if v.busy = true then 2 ^ 20 else 0) + v.owner * 256 + v.mode * 32 + v.basin + 2 ^ 24 * m) ∧
            ∀ x < 8, m.testBit x = true ↔ ∃ y < 16, ((s.core (8 * (c / 8) + x)).slot y).mode ≠ 0 ∧ ((s.core (8 * (c / 8) + x)).slot y).basin = v.basin)) ∧
        (∀ d slot (b? : Option Nat), o = .bzero d slot b? →
          let b := b?.getD ((s.core c).slot slot).basin
          let wait : Prop := ∃ q ∈ older, s.touchesSlot k q slot false = true
          (b? = none → ¬ok slot false → answers d 2) ∧
          (b? ≠ none ∨ ok slot false → wait → exec i s = .next s) ∧
          (b? ≠ none ∨ ok slot false → ¬wait →
            (word = none → ∃ t, exec i s = .next t ∧ gives t d 0 ∧ others t ∧ t.cores = s.cores ∧ (∀ x, t.basin8 cl b x = 0) ∧
              (∀ b' x, b' ≠ b → t.basin8 cl b' x = s.basin8 cl b' x) ∧ ∀ c', c' ≠ cl → t.cluster c' = s.cluster c') ∧
            (∀ w, word = some w → ∃ t, exec i s = .next t ∧ others t ∧ t.cores = s.cores ∧
              t.thread? a = some (th.setItem n { p with work := .held (.bzero d slot (some b)) }) ∧
              (∀ x < 4, t.basin8 cl b (4 * (w % 16384) + x) = 0) ∧
              ∀ c' b' x, x < 65536 → ¬(c' = cl ∧ b' = b ∧ x / 4 = w % 16384) → t.basin8 c' b' x = s.basin8 c' b' x))))) ∧
    (∀ d x q ctx, o = .dlaunch d x q → s.agentCtx? a = some ctx → (∀ c, a ≠ .queue c) → ¬fenced → s.ctxRuns ctx = true →
      (¬checked ∨ ¬released 4 → exec i s = .next s) ∧
      (checked → released 4 →
        let read := s.translateAll ctx (s.sup a) .read ((List.range 256).map (x.toNat + ·))
        let back := s.setThread a (th.toCheckpoint n p.pc)
        let fault (cause : Nat) (t : State) : Prop := (∀ k, a = .team k → t = back.teamFault k cause x.toNat []) ∧ ∀ g, a = .gen g → t = back.genFault g cause
        (∀ e, read = .error e →
          let fills : Prop := (∃ g, a = .gen g) ∧ e = 1 ∧ (s.part (ctxPart ctx)).ft = false ∧ s.poolHas (ctxPart ctx) = true
          (fills → exec i s = .next s) ∧ (¬fills → ∃ t, exec i s = .next t ∧ fault e t)) ∧
        (∀ pas, read = .ok pas →
          ((∃ pa ∈ pas, s.poisoned pa.1 1 = true) → ∃ t, exec i s = .next t ∧ fault 0xD t) ∧
          ((∀ pa ∈ pas, s.poisoned pa.1 1 = false) →
            let vi := bits q.toNat 5 6 + 1
            let V := s.vi vi
            let Q := V.queue (bits q.toNat 0 5)
            let bad : Prop := 2048 ≤ q.toNat ∨ V.part ≠ some (ctxPart ctx) ∨ Q.en = false ∨ Q.ctx ≠ ctx % 16
            (bad → answers d 2) ∧ (¬bad → 64 ≤ Q.dev.length → answers d 1) ∧
            (¬bad → Q.dev.length < 64 → ∃ t, exec i s = .next t ∧ gives t d 0 ∧ still t ∧ (∀ v, v ≠ vi → t.vi v = s.vi v) ∧
              t.vi vi = V.setQueue (bits q.toNat 0 5) { Q with dev := Q.dev ++ [pas.map fun pa => s.mem8 pa.1] }))))) ∧
    (∀ g G, a = .gen g → s.gen? g = some G → ¬fenced → s.ctxRuns G.ctx = true →
      let cl := g / 16
      (∀ d x, o = .eseal d x →
        let target (c : Nat) : Prop := ∃ y < 8, x.cmask.testBit y = true ∧ c = 8 * cl + y
        let busy : Prop := ∃ c, target c ∧ ∃ e ∈ (s.core c).flue, e.gen = g % 16 ∧ ∃ y, e.dest = .code y ∧ x.off ≤ y ∧ y < x.off + x.size
        (busy → exec i s = .next s) ∧
        (¬busy → ∃ t, exec i s = .next t ∧ gives t d (segHandle x.cmask x.tid x.off) ∧ others t ∧ (∀ c, ¬target c → t.core c = s.core c) ∧
          (∀ c, target c →
            (∀ f ∈ fillWords x.emitted, ∀ y < f.2, mget 0 (t.core c).code (x.off + f.1 + y) = (nopBytes f.2).getD y 0) ∧
            (∀ y, (∀ f ∈ fillWords x.emitted, ¬(x.off + f.1 ≤ y ∧ y < x.off + f.1 + f.2)) → mget 0 (t.core c).code y = mget 0 (s.core c).code y) ∧
            (t.core c).bmap = (s.core c).bmap ∧ (t.core c).flue = (s.core c).flue ∧ (t.core c).queue = (s.core c).queue) ∧
          ∀ pre y post, (s.cluster cl).segs = pre ++ y :: post → y.sealed = false → y.off = x.off → y.cmask = x.cmask →
            (∀ z ∈ pre, ¬(z.sealed = false ∧ z.off = x.off ∧ z.cmask = x.cmask)) →
            (t.cluster cl).segs = pre ++ post ++ [{ y with
              size := (x.emitted + 31) / 32 * 32, starts := x.starts ++ (fillWords x.emitted).map Prod.fst, sealed := true }])) ∧
      (∀ d team handle pc args, o = .tgo d team handle pc args →
        (¬released 2 → exec i s = .next s) ∧
        (released 2 → ∀ B, s.block? G.blk = some B →
          ((∀ k U, lget B.teams team = some k → s.team? k = some U → U.status ≠ .allocated) → answers d 1) ∧
          (∀ k U, lget B.teams team = some k → s.team? k = some U → U.status = .allocated → U.words ≤ 32 → ∃ t U', exec i s = .next t ∧ gives t d 0 ∧
            SameMem s t ∧ t.cores = s.cores ∧ t.clusters = s.clusters ∧ (∀ b, b ≠ a → b ≠ .team k → t.thread? b = s.thread? b) ∧
            t.team? k = some U' ∧ U'.status = .ready ∧ U'.th.pc = pc ∧ (args.length = 8 → ∀ x < 8, U'.th.rd x = args.getD x 0) ∧
            U'.words = U.words ∧ U'.vregs = U.vregs ∧ U'.maskLanes = List.range (32 * U.words)))) ∧
      (∀ d img, o = .tdset d img →
        let ahead : Prop := (∃ x < 8, (∃ e ∈ (s.core (8 * cl + x)).flue, e.gen = g % 16 ∧ e.dest = .queue ∧ e.run < p.id) ∨
            ∃ e ∈ (s.core (8 * cl + x)).queue, e.gen = g % 16 ∧ e.run < p.id) ∨
          ∃ q ∈ older, q.finished = false ∧ ∃ v, q.work = .held (.tdset d v)
        (ahead → exec i s = .next s) ∧
        (¬ahead → ∀ B, s.block? G.blk = some B → ∃ t, exec i s = .next t ∧ done t ∧ others t ∧ t.cores = s.cores ∧ t.clusters = s.clusters ∧
          t.block? G.blk = some { B with td := mput 0 B.td d img })))

/-- R199 to R201, R303 to R305: stores move from the store buffer to the cistern, into the entry of their line where one stands that does
not drain, with the home that their page gives (R308) and their poison (R432); an entry drains in a case of R304 or after 2,048 cycles, with
the line in M or E at once where no other package has a part in its tile (R330), through an own otherwise; a slot
that has drained gives its basin on or keeps it, or frees it; the zero engine clears a basin. -/
def Obligations.StoreEvents : Prop :=
  ∀ s : State,
    (∀ (h : Nat),
      let C := s.cluster (h / 16)
      (s.sbuf h = [] → exec (.storeBufferToCistern h) s = .next s) ∧
      (∀ (e : SEntry) (rest : List SEntry), s.sbuf h = e :: rest →
        (∀ x ∈ e.bytes, x.1 < 32 ∧ x.2.isSome = true ∧ mget none e.bytes x.1 = x.2) →
        let mine (f : CEntry) : Prop := f.line = e.sector / 4 ∧ f.draining = false
        let over_ (old new : SMap (Option Byte)) : Prop := ∀ k < 128, mget none new k =
          if k / 32 = e.sector % 4 ∧ (mget none e.bytes (k % 32)).isSome = true then mget none e.bytes (k % 32) else mget none old k
        let marked (old new : List Nat) : Prop := ∀ x, x ∈ new ↔
          if x = e.sector % 4 then e.bad = true ∨ (x ∈ old ∧ e.bytes.length < 32) else x ∈ old
        ((∃ f ∈ C.cistern, mine f) → ∃ (t : State) (cs : List CEntry), exec (.storeBufferToCistern h) s = .next t ∧
          t = (s.setSbuf h rest).setCluster (h / 16) { C with cistern := cs } ∧ cs.length = C.cistern.length ∧ SameMem s t ∧
          ∀ (i : Nat) (f : CEntry), C.cistern[i]? = some f →
            (mine f → ∃ b ms, cs[i]? = some { f with bytes := b, holder := h, home := e.home, marks := ms } ∧ over_ f.bytes b ∧ marked f.marks ms) ∧ (¬mine f → cs[i]? = some f)) ∧
        ((∀ f ∈ C.cistern, ¬mine f) → C.cistern.length < 64 → ∃ t b ms, exec (.storeBufferToCistern h) s = .next t ∧ over_ [] b ∧ marked [] ms ∧
          t = (s.setSbuf h rest).setCluster (h / 16) { C with cistern := C.cistern ++ [⟨e.sector / 4, b, h, false, h, s.holderClock h, e.home, ms⟩] } ∧
          SameMem s t) ∧
        ((∀ f ∈ C.cistern, ¬mine f) → 64 ≤ C.cistern.length → exec (.storeBufferToCistern h) s = .next s))) ∧
    (∀ (cl line : Nat) (e : CEntry) (i : Instr), ((s.cluster cl).cistern.find? fun f => decide (f.line = line)) = some e →
      let C := s.cluster cl
      let due : Prop := (i = .cisternDrain cl line ∧ s.drainCause cl line = true) ∨
        (i = .cisternAgeExpiry cl line ∧ e.since + 2048 ≤ s.holderClock e.opener)
      (48 ≤ C.cistern.length → (∀ f ∈ C.cistern, f.draining = false) → C.cistern.head? = some e → s.drainCause cl line = true) ∧
      (i = .cisternDrain cl line ∨ i = .cisternAgeExpiry cl line → ¬due ∨ e.draining = true → exec i s = .next s) ∧
      let own : Prop := (s.line e.holder line = .m ∨ s.line e.holder line = .e) ∧ s.askedPkgs line = 0
      (due → e.draining = false → own → s.victimLine e.holder line = none → ∃ t, exec i s = .next t ∧
        (t.cluster cl).cistern = C.cistern.erase e ∧ t.line e.holder line = .m ∧
        (∀ k < 128, t.mem8 (128 * line + k) = (mget none e.bytes k).getD (s.mem8 (128 * line + k))) ∧
        (∀ pa, pa / 128 ≠ line → t.mem8 pa = s.mem8 pa)) ∧
      (due → e.draining = false → ¬own → ∃ t, exec i s = .next t ∧
        t.msgs = s.msgs ++ [⟨clusterRouter cl, 4, line, .own e.holder (decide (s.line e.holder line ≠ .i)) [] (homeOf line e.home), false, 0⟩] ∧
        (t.cluster cl).cistern = C.cistern.map (fun f => if f = e then { e with draining := true } else f) ∧ t.lines = s.lines ∧ SameMem s t)) ∧
    (∀ (cl line : Nat) (i : Instr), i = .cisternDrain cl line ∨ i = .cisternAgeExpiry cl line → (∀ f ∈ (s.cluster cl).cistern, f.line ≠ line) →
      exec i s = .next s) ∧
    (∀ (k slot : Nat) (T : Team) (p : Pend) (rest : List Pend), s.team? k = some T → (∀ q ∈ s.teams, q.1 / 256 = k / 256 → q = (k, T)) →
      T.th.pend = p :: rest → p.finished = false → s.slotDrained (k / 256) slot k [] = true →
      let c := k / 256
      let v := (s.core c).slot slot
      let answers (t : State) (d x : Nat) : Prop := t.thread? (.team k) = some (T.th.setItem 0 { p with work := .result [.s d (BitVec.ofNat 64 x)] 0 })
      (∀ d core' dslot, p.work = .held (.give d slot core' dslot .draining) → s.releaseOk (.team k) [] 2 = true → core' < 8 →
        let dest := 8 * (k / 2048) + core'
        (¬(dest = c ∧ dslot = slot) → ((s.core dest).slot dslot).isFree = true → ∃ t, exec (.giveDrainDone c slot) s = .next t ∧ SameMem s t ∧
          (t.core c).slot slot = .empty ∧ (t.core dest).slot dslot = ⟨false, v.owner, 1, v.basin⟩ ∧ answers t d 0) ∧
        (((s.core dest).slot dslot).isFree = false → ∃ t, exec (.giveDrainDone c slot) s = .next t ∧ SameMem s t ∧
          (t.core c).slot slot = { v with busy := false } ∧ answers t d 1)) ∧
      (∀ d, p.work = .held (.bfree d slot .draining) → ∃ t, exec (.giveDrainDone c slot) s = .next t ∧ SameMem s t ∧
        (t.core c).slot slot = .empty ∧ answers t d 0 ∧
        ((∀ n < 8, ∀ x < 16, ¬(8 * (k / 2048) + n = c ∧ x = slot) → ((s.core (8 * (k / 2048) + n)).slot x).mode = 0 ∨
            ((s.core (8 * (k / 2048) + n)).slot x).basin ≠ v.basin) →
          (t.cluster (k / 2048)).info v.basin = { (s.cluster (k / 2048)).info v.basin with
            blk := some T.blk, allocated := false, last := some T.ctx }))) ∧
    (∀ (cl b : Nat),
      let i := (s.cluster cl).info b
      (∀ blk, i.blk = some blk → i.clearing = true → i.allocated = false → ∃ t, exec (.zeroEngineClear cl b) s = .next t ∧
        (∀ x, t.basin8 cl b x = 0) ∧ (∀ b' x, b' ≠ b → t.basin8 cl b' x = s.basin8 cl b' x) ∧
        (t.cluster cl).info b = { i with clearing := false, last := (s.block? blk).map (·.ctx) } ∧ SameMem s t) ∧
      (i.blk = none ∨ i.clearing = false ∨ i.allocated = true → exec (.zeroEngineClear cl b) s = .next s))

/-- R126, R127, R208, R217, R219, R221, R224, R226 to R232, R340: the engines. An arrival is counted, a job reads its elements once and
then arrives on RDBAR, a copy moves bytes and counts them down, a job completes with its effect and its arrival, and a free Weir array
goes to the block that waited longest; a job that an earlier one keeps waiting does nothing. An `accst` stores each element converted to the format
of its tile, at its place there; a matrix job stops after a whole K step whose elements are read. What CNT is after an arrival at 255 is the
model's free value (log entry 79); that a result is written whole as its job completes, and after which K step a job stops, are its choices
(log entry 29). -/
def Obligations.EngineEvents : Prop :=
  ∀ s : State,
    (∀ (b : BarSt) (free : Nat),
      let after (cnt : Nat) : BarSt := if b.exp ≠ 0 ∧ b.exp ≤ cnt then ⟨!b.ph, cnt - b.exp, 0, b.flips + 1⟩ else { b with cnt := cnt }
      (b.cnt < 255 → b.arrive free = after (b.cnt + 1)) ∧ (255 ≤ b.cnt → ∃ cnt < 256, b.arrive free = after cnt)) ∧
    (∀ (blk bar : Nat) (B : Block), s.block? blk = some B →
      let C := s.cluster B.cluster
      ((blk, bar) ∈ C.arrivals → ∃ t, exec (.engineArrival blk bar) s = .next t ∧ SameMem s t ∧
        t = (s.setCluster B.cluster { C with arrivals := C.arrivals.erase (blk, bar) }).setBlock blk (B.setBar bar ((B.bar bar).arrive s.choice))) ∧
      ((blk, bar) ∉ C.arrivals → exec (.engineArrival blk bar) s = .next s)) ∧
    (∀ (c k n q : Nat) (part : List Nat) (i : Instr), s.jobFree c k = none →
      i = .engineReadDone c k part ∨ i = .copyBytesCounted c k q n ∨ i = .engineJobComplete c k → exec i s = .next s) ∧
    (∀ (c k : Nat) (j : Job), s.jobFree c k = some j →
      let arrives (t : State) (bar : Option Nat) : Prop :=
        (t.cluster (c / 8)).arrivals = (s.cluster (c / 8)).arrivals ++ (bar.map fun b => (j.blk, b)).toList
      (∀ part, j.readDone = true ∨ s.weirMay c j = false → exec (.engineReadDone c k part) s = .next s) ∧
      (j.readDone = false → s.weirMay c j = true →
        (∀ f : Nat → Nat, j.got = [] → (∀ e ∈ j.elems, s.jobElem c j e = .ok (s, f e)) →
          ∃ t j', exec (.engineReadDone c k []) s = .next t ∧ (t.core c).jobs = (s.core c).jobs.set k j' ∧ j'.readDone = true ∧
            (∀ e ∈ j.elems, mget 0 j'.got e = f e + 1) ∧ { j' with got := j.got, readDone := false } = j ∧ arrives t j.rdBar ∧ SameMem s t) ∧
        (∀ e u v, e ∈ j.elems → mget 0 j.got e = 0 → s.jobElem c j e = .ok (u, v) →
          exec (.engineReadDone c k [e]) s = .next (u.setJob c k { j with got := mput 0 j.got e (v + 1) })) ∧
        (∀ e x, e ∈ j.elems → mget 0 j.got e = 0 → s.jobElem c j e = .error x →
          exec (.engineReadDone c k [e]) s = .next ((s.stopMatrix c j).1.jobFault c (s.stopMatrix c j).2 x)) ∧
        (∀ (o : QAcc) b e, j.kind = .accMove (.accst o) → j.basinOf (TDesc.slot j.da) = .ok b → e < 4096 → mget 0 j.got e = 0 →
          ∀ B, s.block? j.blk = some B → let f64 := decide (o.m2 = 0#3)
          (B.accBad c o.d.toNat f64 (some e) = true → s.jobElem c j e = .error 0xD) ∧
          (B.accBad c o.d.toNat f64 (some e) = false →
            let x := ((fmtOf o.m5).conv 0 false ((accFmt f64).val (accBits B.acc c o.d.toNat (e / 64) (e % 64) f64))).1
            let z := fmtBytes (TDesc.fmt j.da)
            let at_ := TDesc.off j.da + e / 64 * TDesc.pitch j.da + (z * (e % 64) ^^^ 16 * (e / 64 % TDesc.n j.da))
            ∃ t, exec (.engineReadDone c k [e]) s = .next t ∧ SameMem s t ∧
              (∀ i < z, t.basin8 (c / 8) b (at_ + i) = (natLe z x).getD i 0) ∧
              ∀ b' y, y < 65536 → ¬(b' = b ∧ ∃ i < z, y = (at_ + i) % 65536) → t.basin8 (c / 8) b' y = s.basin8 (c / 8) b' y)) ∧
        (∀ (o : QWrow) b e, j.kind = .weir (.wcapture o) → j.basinOf o.slot.toNat = .ok b → o.off.toNat + 256 ≤ 65536 → e < 256 →
          mget 0 j.got e = 0 → ∃ t, exec (.engineReadDone c k [e]) s = .next t ∧
          t.basin8 (c / 8) b (o.off.toNat + e) = mget 255 (s.cluster (c / 8)).weir.out e ∧ SameMem s t ∧
          ∀ b' x, x < 65536 → ¬(b' = b ∧ x = o.off.toNat + e) → t.basin8 (c / 8) b' x = s.basin8 (c / 8) b' x)) ∧
      (∀ (d : CopyDesc) (left left' : List (Nat × Nat)) (unc q n : Nat), j.kind = .copy d left unc → 0 < n → q % d.rowlen + n ≤ d.rowlen →
        let row (base : W64) (stride : W32) (r : Nat) : W64 := base + BitVec.ofInt 64 (stride.toInt * (r : Int))
        let dst := row d.dst d.dstride (q / d.rowlen)
        (takeRun q n left = none → exec (.copyBytesCounted c k q n) s = .next s) ∧
        (∀ (src : Option W64) (j' : Job) (bs : Nat → Byte), takeRun q n left = some left' →
          ((d.kind ≠ 2 ∧ src = some (row d.src d.sstride (q / d.rowlen)) ∧ j' = j) ∨
            (d.kind = 2 ∧ ∃ x, s.copyIndex c j d (q / d.rowlen) = .ok (x, j') ∧
              ((x = 2 ^ (if d.iw then 16 else 32) - 1 ∧ src = none) ∨
                (x ≠ 2 ^ (if d.iw then 16 else 32) - 1 ∧ x < d.glim ∧ src = some (row d.src d.sstride x))))) →
          rowFits dst d.rowlen = true → (∀ g, src = some g → rowFits g d.rowlen = true) →
          (∀ x < n, match src with
            | some g => s.engineRd c j' (g + BitVec.ofNat 64 (q % d.rowlen + x)) = .ok (bs x, false)
            | none => bs x = 0) →
          let goes (t : State) : Prop := exec (.copyBytesCounted c k q n) s = .next t ∧ (t.core c).jobs = (s.core c).jobs.set k { j' with
            kind := .copy d left' (unc + if d.ben then n else 0), readDone := decide (left' = []) }
          (∀ b off, off + n ≤ 65536 → (∀ x < n, s.engineWrAt j' (dst + BitVec.ofNat 64 (q % d.rowlen + x)) = .ok (.inr (b, off + x))) →
            ∃ t, goes t ∧ (∀ x < n, t.basin8 (c / 8) b (off + x) = bs x) ∧ SameMem s t ∧
              (∀ cl b' x, x < 65536 → ¬(cl = c / 8 ∧ b' = b ∧ off ≤ x ∧ x < off + n) → t.basin8 cl b' x = s.basin8 cl b' x)) ∧
          (∀ pa, (∀ x < n, s.engineWrAt j' (dst + BitVec.ofNat 64 (q % d.rowlen + x)) = .ok (.inl (pa + x))) →
            ∃ t, goes t ∧ (∀ x < n, t.mem8 (pa + x) = bs x) ∧ (∀ x, ¬(pa ≤ x ∧ x < pa + n) → t.mem8 x = s.mem8 x)))) ∧
      (∀ (d : CopyDesc) (left : List (Nat × Nat)) (unc q b : Nat), j.kind = .copy d left unc → 0 < q → q ≤ unc →
        j.basinOf (d.bco / 65536) = .ok b → d.bco % 65536 + 4 ≤ 65536 →
        (s.basinPoisoned (c / 8) b (d.bco % 65536) 4 = true → exec (.copyBytesCounted c k q 0) s = .next (s.jobFault c j 0xD)) ∧
        (s.basinPoisoned (c / 8) b (d.bco % 65536) 4 = false → ∃ t, exec (.copyBytesCounted c k q 0) s = .next t ∧
          (q < 2 ^ 31 → -(2 ^ 31) ≤ s.countAt (c / 8) b (d.bco % 65536) - q →
            t.countAt (c / 8) b (d.bco % 65536) = s.countAt (c / 8) b (d.bco % 65536) - q) ∧
          (t.core c).jobs = (s.core c).jobs.set k { j with kind := .copy d left (unc - q) } ∧ SameMem s t)) ∧
      (∀ (d : CopyDesc) (left : List (Nat × Nat)) (unc : Nat), j.kind = .copy d left unc →
        (left = [] → unc = 0 → ∃ t, exec (.engineJobComplete c k) s = .next t ∧
          t = s.setCore c { s.core c with jobs := (s.core c).jobs.eraseIdx k } ∧ SameMem s t) ∧
        (left ≠ [] ∨ unc ≠ 0 → exec (.engineJobComplete c k) s = .next s)) ∧
      ((∃ i, j.kind = .matrix i ∨ j.kind = .accMove i ∨ j.kind = .weir i) → j.readDone = false → exec (.engineJobComplete c k) s = .next s) ∧
      (j.readDone = true → ∀ B, s.block? j.blk = some B →
        let done (t : State) (acc : SMap W32) (marks : List Nat) : Prop :=
          exec (.engineJobComplete c k) s = .next t ∧ t.block? j.blk = some { B with acc := acc, accMarks := marks } ∧
          (t.core c).jobs = (s.core c).jobs.eraseIdx k ∧ arrives t j.endBar ∧ SameMem s t
        let only (acc : SMap W32) (d : Nat) (f64 : Bool) : Prop := ∀ x,
          (∀ m n, m < 64 → n < 64 → x ≠ accKey c d m n ∧ (f64 = true → x ≠ accKey c (d + 1) m n)) → mget 0 acc x = mget 0 B.acc x
        (∀ o : QAccz, j.kind = .accMove (.acczero o) → ∃ t acc, done t acc (B.marksBut c o.d.toNat (decide (o.ta = 0#3))) ∧ only acc o.d.toNat (decide (o.ta = 0#3)) ∧
          ∀ m n, m < 64 → n < 64 → accBits acc c o.d.toNat m n (decide (o.ta = 0#3)) = 0) ∧
        (∀ o : QAcc, j.kind = .accMove (.accld o) → ∃ t acc, done t acc (B.marksBut c o.d.toNat (decide (o.m5 = 0#3))) ∧ only acc o.d.toNat (decide (o.m5 = 0#3)) ∧
          ∀ m n, m < 64 → n < 64 → accBits acc c o.d.toNat m n (decide (o.m5 = 0#3)) =
            ((accFmt (decide (o.m5 = 0#3))).conv 0 false ((fmtOf o.m2).val (mget 0 j.got (64 * m + n) - 1))).1 %
              (if o.m5 = 0#3 then 2 ^ 64 else 2 ^ 32)) ∧
        (∀ o : QAcc, j.kind = .accMove (.accst o) → ∃ t, done t B.acc B.accMarks) ∧
        (∀ (o : QMma) (i : Instr), j.kind = .matrix i → i = .mma o ∨ i = .mmas o ∨ i = .mmag o →
          let f64 := decide (o.ty = 0#3)
          let v (e : Nat) : Nat := mget 0 j.got e - 1
          let sa (m b : Nat) : Nat := if o.ext.vscl ≠ 0#8 then bits (j.scl.getD m 0).toNat (8 * (o.ext.sbs.toNat + b)) 8
            else if TDesc.sen j.da then v (elemSA b m) else 127
          let sb (n b : Nat) : Nat := if TDesc.sen j.db then v (elemSB b n) else 127
          ∃ t acc, done t acc (B.marksBut c o.d.toNat f64) ∧ only acc o.d.toNat f64 ∧ ∀ m n, m < 64 → n < 64 → accBits acc c o.d.toNat m n f64 =
            j.matrixAcc o j.steps (kSteps i o) ((j.rowTerms i (QMma.kv i o) m).map fun x => (x.2, v x.1, v (elemB x.2 n))) (sa m) (sb n)
              (accBits B.acc c o.d.toNat m n f64) % (if f64 = true then 2 ^ 64 else 2 ^ 32))) ∧
      (∀ B, s.block? j.blk = some B → (j.mat? = none → s.stopMatrix c j = (s, j)) ∧
        ∀ i o, j.mat? = some (i, o) → j.steps ≤ j.stepsRead i o → ∃ t acc, j.steps ≤ t ∧ t ≤ j.stepsRead i o ∧
          (s.stopMatrix c j).2 = { j with steps := t } ∧
          (s.stopMatrix c j).1.block? j.blk = some { B with acc := acc, accMarks := B.marksBut c o.d.toNat (decide (o.ty = 0#3)) } ∧
          acc = j.matrixRun i o c t B.acc) ∧
      (∀ i, j.kind = .weir i → j.readDone = true →
        let W := (s.cluster (c / 8)).weir
        (s.weirTurn c j = false → exec (.engineJobComplete c k) s = .next s) ∧
        (s.weirTurn c j = true → ∃ t, exec (.engineJobComplete c k) s = .next t ∧ (t.core c).jobs = (s.core c).jobs.eraseIdx k ∧ SameMem s t ∧
          arrives t j.endBar ∧
          (∀ o, i = .wwin o → (t.cluster (c / 8)).weir = { W with window := o.t.toNat }) ∧
          (∀ o, i = .wcfg o → (t.cluster (c / 8)).weir = { W with max := o.max }) ∧
          (∀ o, i = .wload o → ∃ w, (t.cluster (c / 8)).weir = { W with w := w } ∧
            let lo := match o.rows with
              | some r => 256 * r.1.toNat
              | none => 0
            let n := match o.rows with
              | some r => 256 * (r.2.toNat + 1)
              | none => 65536
            ∀ x, mget 255 w x = if lo ≤ x ∧ x < lo + n then BitVec.ofNat 8 (mget 0 j.got (x - lo) - 1) else mget 255 W.w x) ∧
          (i = .wreset → (t.cluster (c / 8)).weir = { W with rows := [], cols := [], out := [] }) ∧
          (∀ o, i = .wcapture o → (t.cluster (c / 8)).weir = W) ∧
          (∀ o, i = .wlaunch o → (t.cluster (c / 8)).weir = W.pass fun x => mget 0 j.got x - 1)))) ∧
    (∀ cl,
      (∀ b r, (s.cluster cl).weir.lease = none → (s.cluster cl).weir.waiting = b :: r → ∃ t, exec (.weirLeaseAcquire cl) s = .next t ∧
        t = s.setCluster cl { s.cluster cl with weir := { Weir.zero with lease := some b, waiting := r } } ∧ SameMem s t) ∧
      ((s.cluster cl).weir.lease ≠ none ∨ (s.cluster cl).weir.waiting = [] → exec (.weirLeaseAcquire cl) s = .next s))

/-- R68, R71, R238, R241, R349, R367: words leave the flues for the code store and the engine queue, a sealed segment retires from a
core that makes room for a waiting `eseg`, and a core copies its handler image, where that leaves every reserved place (R286); each does
nothing where its condition is not met. That the fault of a copied image counts as a copy's is the model's choice (log entry 61). -/
def Obligations.FlueEvents : Prop :=
  ∀ (s : State) (c : Nat),
    (∀ e : Emitted, ((s.core c).flue.find? fun e => !e.dest.isQueue) = some e →
      (∀ off, e.dest = .code off → s.entryRuns e = true → ∃ t, exec (.flueCodeWrite c) s = .next t ∧ (t.core c).flue = (s.core c).flue.erase e ∧
        (∀ k < e.bytes.length, mget 0 (t.core c).code (off + k) = e.bytes.getD k 0) ∧
        (∀ x, ¬(off ≤ x ∧ x < off + e.bytes.length) → mget 0 (t.core c).code x = mget 0 (s.core c).code x) ∧
        (∀ k < e.bytes.length / 4, mget 0 (t.core c).ctag (off / 4 + k) = e.tag) ∧
        (∀ x, ¬(off / 4 ≤ x ∧ x < off / 4 + e.bytes.length / 4) → mget 0 (t.core c).ctag x = mget 0 (s.core c).ctag x) ∧
        (∀ w, w ∈ (t.core c).codeMarks ↔ if off / 4 ≤ w ∧ w < off / 4 + e.bytes.length / 4 then e.bad = true else w ∈ (s.core c).codeMarks) ∧
        t = s.setCore c { s.core c with
          flue := (t.core c).flue, code := (t.core c).code, ctag := (t.core c).ctag, codeMarks := (t.core c).codeMarks } ∧ SameMem s t) ∧
      (s.entryRuns e = false → exec (.flueCodeWrite c) s = .next s)) ∧
    ((∀ e ∈ (s.core c).flue, e.dest = .queue) → exec (.flueCodeWrite c) s = .next s) ∧
    (∀ (r : Nat) (e : Emitted), s.firstRun c = some r → ((s.core c).flue.find? fun e => e.dest.isQueue && decide (e.run = r)) = some e →
      ((s.core c).queue.length < 32 → s.entryRuns e = true → ∃ t, exec (.flueQueueMove c) s = .next t ∧
        t = s.setCore c { s.core c with flue := (s.core c).flue.erase e, queue := (s.core c).queue ++ [e] } ∧ SameMem s t) ∧
      (32 ≤ (s.core c).queue.length ∨ s.entryRuns e = false → exec (.flueQueueMove c) s = .next s)) ∧
    ((∀ e ∈ (s.core c).flue, e.dest ≠ .queue) → exec (.flueQueueMove c) s = .next s) ∧
    (∀ (n : Nat) (x : Seg), (s.cluster (c / 8)).segs[n]? = some x →
      let wanted : Prop := ∃ q ∈ s.gens, q.1 / 16 = c / 8 ∧ ∃ m size, q.2.status = .parked (.eseg m size) ∧ bitAt m (c % 8) = true
      (x.sealed = true → bitAt x.held (c % 8) = true → s.segBusy c x = false → wanted → x.held < 256 →
        ∃ t, exec (.segmentRetire c n) s = .next t ∧ SameMem s t ∧ t = s.setCluster (c / 8) { s.cluster (c / 8) with segs :=
          (if x.held = 2 ^ (c % 8) then (s.cluster (c / 8)).segs.eraseIdx n
          else (s.cluster (c / 8)).segs.set n { x with held := x.held - 2 ^ (c % 8) }) }) ∧
      (x.sealed = false ∨ bitAt x.held (c % 8) = false ∨ s.segBusy c x = true ∨ ¬wanted → exec (.segmentRetire c n) s = .next s)) ∧
    (∀ ctx : Nat, let m := (s.ctx ctx).mode
      let u := s.firstRunOf ctx
      let r := (u.ctx ctx).run
      let due : Prop := (m = .idle ∨ m = .running) ∧ s.hasWork ctx = true ∧ c / 8 ∈ (s.part (ctxPart ctx)).clusters ∧ (∀ x, (s.core c).himg = some x → x.1 ≠ ctx) ∧
        r.hsize ≠ 0 ∧ u.imageRoom c r.hsize = true
      let stored (bs : List Byte) : State :=
        let v := u.storeWord c (196608 - r.hsize) bs 0xFFFFFFFF
        v.setCore c { v.core c with himg := some (ctx, r.hsize) }
      (∀ bs : List Byte, due → u.readVa ctx 2 r.himage.toNat r.hsize = .ok bs → imageOk (r.hsize / 8) (196608 - r.hsize) bs = true →
        (stored bs).placesFit (c / 8) ctx = false → exec (.handlerImageCopy c ctx) s = .next s) ∧
      (∀ bs : List Byte, due → u.readVa ctx 2 r.himage.toNat r.hsize = .ok bs → imageOk (r.hsize / 8) (196608 - r.hsize) bs = true →
        (stored bs).placesFit (c / 8) ctx = true →
        ∃ t, exec (.handlerImageCopy c ctx) s = .next t ∧ (t.core c).himg = some (ctx, r.hsize) ∧ (t.ctx ctx).mode = .running ∧
          (∀ k < bs.length, mget 0 (t.core c).code (196608 - r.hsize + k) = bs.getD k 0) ∧
          (∀ x, ¬(196608 - r.hsize ≤ x ∧ x < 196608 - r.hsize + bs.length) → mget 0 (t.core c).code x = mget 0 (s.core c).code x) ∧ SameMem s t) ∧
      (∀ bs : List Byte, due → u.readVa ctx 2 r.himage.toNat r.hsize = .ok bs → imageOk (r.hsize / 8) (196608 - r.hsize) bs = false →
        exec (.handlerImageCopy c ctx) s = .next (u.imageFault c ctx 7)) ∧
      (∀ e : Nat, due → u.readVa ctx 2 r.himage.toNat r.hsize = .error e → exec (.handlerImageCopy c ctx) s = .next (u.imageFault c ctx e)) ∧
      (¬due → exec (.handlerImageCopy c ctx) s = .next s))

/-- R280, R282 to R289, R295: units go from a die to a cluster, from sibling to sibling and from die to die; a co-resident launch reserves its
places; a block starts with its thread, its teams and its basins, or not at all; a block retires once its teams are gone, its thread has
exited and nothing of it is left in the engines, the flues, the barriers' arrivals and its cluster's store path; a launch retires with its
last block; the registers a block's thread starts with. -/
def Obligations.DispatchEvents : Prop :=
  (∀ (s : State) (l : Nat) (L : Launch), s.launch? l = some L →
      let du := L.rcd.du
      let die (d : Nat) : List (Nat × Nat) := mget [] L.dies d
      let on (cl : Nat) : List (Nat × Nat) := mget [] L.clusters cl
      let whole (cl : Nat) : List (Nat × Nat) := ivWhole du L.rcd.fbase (on cl)
      let part := ctxPart L.ctx
      (∀ d cl, let may : Prop := s.dispatching L = true ∧ cl ∈ s.dieClusters part d ∧ die d ≠ [] ∧ (L.rcd.cor = true → du ≤ L.spare cl)
        (may → ∃ t, exec (.unitDispatch l d cl) s = .next t ∧ SameMem s t ∧ t = s.setLaunch l { L with
          dies := mput [] L.dies d (ivDrop du (die d)), clusters := mput [] L.clusters cl (on cl ++ ivTake du (die d)) }) ∧
        (¬may → exec (.unitDispatch l d cl) s = .next s)) ∧
      (∀ thief victim, let n := ivCount (whole victim) / du
        let k := if n = 1 then 1 else n / 2
        let may : Prop := s.dispatching L = true ∧ thief / 64 = victim / 64 ∧ thief ∈ s.dieClusters part (thief / 64) ∧ whole thief = [] ∧ 0 < k ∧
          (L.rcd.cor = true → k * du ≤ L.spare thief)
        (may → ∃ t, exec (.unitSteal l thief victim) s = .next t ∧ SameMem s t ∧ t = s.setLaunch l { L with
          clusters := mput [] (mput [] L.clusters victim (ivPart du L.rcd.fbase (on victim) ++ ivTake ((n - k) * du) (whole victim))) thief
            (on thief ++ ivDrop ((n - k) * du) (whole victim)) }) ∧
        (¬may → exec (.unitSteal l thief victim) s = .next s)) ∧
      (∀ src dst, let left := ivCount (die src) - du
        let may : Prop := s.dispatching L = true ∧ src ≠ dst ∧ die src ≠ [] ∧ die dst = [] ∧ s.dieClusters part dst ≠ [] ∧
          (L.rcd.cor = true → du ≤ ((s.dieClusters part dst).map fun cl => L.spare cl).sum) ∧
          ∀ d, d = src ∨ d = dst → (L.rcd.ranges.getD d ⟨0, 0, false, false⟩).en = true ∧ (L.rcd.ranges.getD d ⟨0, 0, false, false⟩).flt = true
        (may → ∃ t, exec (.floatingUnitMove l src dst) s = .next t ∧ SameMem s t ∧ t = s.setLaunch l { L with
          dies := mput [] (mput [] L.dies src (ivTake left (die src))) dst (ivDrop left (die src)) }) ∧
        (¬may → exec (.floatingUnitMove l src dst) s = .next s)) ∧
      (let may : Prop := L.phase = .reserving ∧ s.reserver part = some l ∧ s.ctxRuns L.ctx = true;
        (may → s.placeChoices l L ≠ [] → ∃ t cl L', exec (.coresidentReserve l) s = .next t ∧ cl ∈ s.placeChoices l L ∧ t.launch? l = some L' ∧
          L'.reserved = mput 0 L.reserved cl (mget 0 L.reserved cl + 1) ∧ { L' with reserved := L.reserved, phase := L.phase } = L ∧
          L'.phase = (if (List.range 8).all fun d => decide (s.placesLeft L' d = 0) then .running else .reserving) ∧
          (t.part part).reserving = (if (List.range 8).all fun d => decide (s.placesLeft L' d = 0) then none else some l) ∧ SameMem s t) ∧
        (may → s.placeChoices l L = [] → (∃ d < 8, s.placesLeft L d ≠ 0) →
          exec (.coresidentReserve l) s = .next (s.setPart part { s.part part with reserving := some l })) ∧
        (¬may → exec (.coresidentReserve l) s = .next s)) ∧
      (∀ blk cl cores, let u := s.firstRunOf L.ctx
        let may : Prop := s.dispatching L = true ∧ ivMem blk (on cl) = true ∧ (s.ctx L.ctx).saved = [] ∧ (s.ctx L.ctx).savedSegs = [] ∧
          cl / 64 ∉ s.dev.off ∧ u.coresMeet l cl L cores = true ∧ u.freeThreads cl ≠ [] ∧ L.rcd.basins ≤ (u.cluster cl).pool.length ∧
          u.idsLeft cl L cores = true ∧ u.rangesKept l blk (cl / 64) L = true ∧ (u.started l blk cl L cores).placesFit cl L.ctx = true
        (¬may → exec (.blockStart l blk cl cores) s = .next s) ∧
        (may → ∃ t g B, exec (.blockStart l blk cl cores) s = .next t ∧ g ∈ s.freeThreads cl ∧ SameMem s t ∧ (t.ctx L.ctx).mode = .running ∧
          t.gen? (16 * cl + g) = some (Gen.fresh L.rcd blk s.uid L.ctx (cores.map (8 * cl + ·))) ∧ t.block? s.uid = some B ∧
          (B.launch, B.ctx, B.cluster, B.gthread, B.cores, B.blkidx) = (l, L.ctx, cl, g, cores.map (8 * cl + ·), blk) ∧
          B.bars = [] ∧ B.acc = [] ∧ B.td = [] ∧
          t.launch? l = some { L with
            clusters := mput [] L.clusters cl (ivErase blk (on cl)), reserved := mput 0 L.reserved cl (mget 0 L.reserved cl - 1) } ∧
          (∀ k, s.team? k ≠ none → t.team? k = s.team? k) ∧
          (L.rcd.nteam = L.rcd.shape.length → (∀ x ∈ L.rcd.shape, x.1 < cores.length) → ∀ i (x : Nat × Nat), L.rcd.shape[i]? = some x →
            ∃ id T, let c := 8 * cl + cores.getD x.1 0
              id < 256 ∧ lget B.teams i = some (256 * c + id) ∧ s.team? (256 * c + id) = none ∧ t.team? (256 * c + id) = some T ∧
              (∀ low < id, t.team? (256 * c + low) ≠ none) ∧ T.status = .allocated ∧
              (T.words, T.vregs, T.prio, T.stack, T.idx, T.blk, T.ctx) = (x.2, L.rcd.vregs, L.rcd.prio, L.rcd.stack, i, s.uid, L.ctx)) ∧
          ((∀ b < 32, ((s.cluster cl).info b).blk ≠ some s.uid) →
            ((List.range 32).filter fun b => decide (((t.cluster cl).info b).blk = some s.uid)).length = L.rcd.basins))) ∧
      (∀ (b : Nat) (B : Block), s.block? b = some B → B.launch = l →
        let may : Prop := B.teams = [] ∧ (∃ G, s.gen? (16 * B.cluster + B.gthread) = some G ∧ G.status = .exited) ∧
          (∀ n < 8, let C := s.core (8 * B.cluster + n)
            (∀ j ∈ C.jobs, j.blk ≠ b) ∧ (∀ e ∈ C.queue, e.blk ≠ b) ∧ ∀ e ∈ C.flue, e.blk ≠ b) ∧
          (∀ x ∈ (s.cluster B.cluster).arrivals, x.1 ≠ b) ∧ (∀ n < 9, s.sbuf (16 * B.cluster + n) = []) ∧
          (s.cluster B.cluster).cistern = [] ∧ s.ctxRuns B.ctx = true
        (may → ∃ t, exec (.blockRetire b) s = .next t ∧ t.block? b = none ∧ t.gen? (16 * B.cluster + B.gthread) = none ∧
          t.launch? l = some { L with retired := L.retired ++ [(B.blkidx, B.cluster / 64)] } ∧
          (∀ k < 32, ((t.cluster B.cluster).info k).blk ≠ some b) ∧ (t.cluster B.cluster).weir.lease ≠ some b ∧
          (t.cluster B.cluster).segs = (s.cluster B.cluster).segs ∧
          (∀ k < 32, ((s.cluster B.cluster).info k).blk = some b → ∀ n < 8, ∀ x, ((t.core (8 * B.cluster + n)).slot x).mode ≠ 0 →
            ((t.core (8 * B.cluster + n)).slot x).basin ≠ k) ∧ SameMem s t) ∧
        (¬may → exec (.blockRetire b) s = .next s)) ∧
      (let ends : Launch := { L with phase := .ended 0 };
        let o := L.from?
        let u := (((s.setLaunch l ends).dropSegs l).setLaunch l { ends with recorded := true }).onQueue o.vi o.q fun R => { R with
          launches := R.launches.filter fun x => decide (x ≠ l) }
        (L.phase = .running → L.retired.length = L.rcd.nblk →
          (∃ t, exec (.launchRetire l) s = .next t ∧ t.launch? l = some { ends with recorded := true } ∧
            (∀ cl, ∀ g ∈ (t.cluster cl).segs, g.launch ≠ l) ∧ l ∉ ((t.vi o.vi).queue o.q).launches) ∧
          (L.crec = 0 → exec (.launchRetire l) s = .next (u.irqIf o.irq o.vi o.q)) ∧
          (∀ v : State, L.crec ≠ 0 → 128 ≤ L.crsize → u.writeVa L.ctx 3 L.crec.toNat (ends.completion 0 s.gtime) = .ok v →
            exec (.launchRetire l) s = .next (v.irqIf o.irq o.vi o.q))) ∧
        (L.phase ≠ .running ∨ L.retired.length ≠ L.rcd.nblk → exec (.launchRetire l) s = .next s))) ∧
  (∀ (r : Record) (blkidx blk ctx : Nat) (cores : List Nat),
      let th := (Gen.fresh r blkidx blk ctx cores).th
      th.pc = BitVec.ofNat 64 r.entry ∧ th.rd 0 = BitVec.ofNat 64 r.params ∧ th.rd 1 = BitVec.ofNat 64 blkidx ∧
      (∀ k < 8, (th.rd 2).extractLsb' (8 * k) 8 = match cores[k]? with | some c => BitVec.ofNat 8 (c % 8) | none => 255#8) ∧
      (∀ n < 64, (th.rd 3).getLsbD n = cores.any fun c => decide (c % 8 = n)) ∧ th.rd 4 = BitVec.ofNat 64 (r.fbase + blkidx) ∧
      (∀ k, 5 ≤ k → th.rd k = 0) ∧ th.rm = 0 ∧ th.flags = 0 ∧ th.pend = [] ∧
      (∀ x ∈ r.ranges, x.en = true → x.last + 1 ≤ r.nblk) ∧ ((∀ x ∈ r.ranges, x.en = false) → r.nblk = 0))

/-- R131, R249, R250, R254, R289, R292, R293, R352, R366, R407 to R409, R411: a service call raises its record, which says what R249
lists, and leaves its core; a team leaves its core with its state in a slot and comes back with it, to the lane-words it left after a
service call; a save that faults loses the context, with the writes made before it; register requests are granted in their order; the
youngest team of a stalled core is to be switched out; a team that has exited retires. That a service call's saved PC is that of the
next word (log entry 33), that a team allocated and not started keeps its core from being stalled (log entry 34) and which free lane-words
another switch-out comes back to (log entry 84) are the model's choices. -/
def Obligations.SwitchEvents : Prop :=
  ∀ (s : State) (k : Nat) (T : Team), s.team? k = some T →
    let c := k / 256
    let p := ctxPart T.ctx
    let still : Prop := T.th.pend.all (·.finished) = true ∧ (s.ctx T.ctx).mode ≠ .lost
    let tag := s.tagAt c T.th.pc
    let head (T : Team) (reason grow : Nat) (mask : List Nat) : List Byte := T.header k reason tag grow T.th.pc mask (List.replicate 5 0)
    (∀ slot, (¬still ∨ (∀ w, T.status = .parked w → (∀ why, w ≠ .saving why) ∧ (∀ num d a n lanes, w ≠ .svc num d a n lanes) ∧
        ∀ x d lanes r, w ≠ .called x d lanes r)) → exec (.teamSwitchOutSave k slot) s = .next s) ∧
    (∀ slot num d a n lanes, T.status = .parked (.svc num d a n lanes) → still →
      let reply := (s.ctx T.ctx).run.area slot + 0x800
      let b := T.callRecord k num a n lanes (s.ctx T.ctx).run.cid tag reply
      (s.slotFree T.ctx slot = true → s.drained (.team k) 5 = true → ∃ t, exec (.teamSwitchOutSave k slot) s = .next t ∧ SameMem s t ∧
        t = ((s.takeSlot T.ctx slot).setTeam k { T with status := .parked (.called slot d lanes false) }).setPart p { s.part p with
          waiting := (s.part p).waiting ++ [⟨0, .team k, b, (s.part p).svc⟩] }) ∧
      (s.slotFree T.ctx slot = false ∨ s.drained (.team k) 5 = false → exec (.teamSwitchOutSave k slot) s = .next s) ∧
      (lanes.length ≤ 1024 → b.length = 64 * ((192 + 32 * lanes.length + 63) / 64) ∧ leAt b 0 2 = num % 2 ^ 16 ∧ leAt b 2 1 = n % 256 ∧
        leAt b 3 1 = T.words % 256 ∧ leAt b 4 4 = b.length ∧ leAt b 8 2 = lanes.length ∧ leAt b 10 2 = (s.ctx T.ctx).run.cid % 2 ^ 16 ∧
        leAt b 12 2 = agentLoc (.team k) % 2 ^ 16 ∧ leAt b 14 1 = k % 256 ∧ leAt b 15 1 = 0 ∧ leAt b 16 8 = T.th.pc.toNat ∧
        leAt b 24 4 = tag % 2 ^ 32 ∧ leAt b 28 4 = 0 ∧ leAt b 32 8 = reply % 2 ^ 64 ∧ (∀ x, 40 ≤ x → x < 64 → b.getD x 0 = 0) ∧
        (∀ l < 1024, byteBit (b.drop 64) l = lanes.contains l) ∧ (∀ x, 192 + 32 * lanes.length ≤ x → b.getD x 0 = 0) ∧
        ∀ (j l x : Nat), lanes[j]? = some l → x < 4 → leAt b (192 + 32 * j + 8 * x) 8 = if x < n then T.vrd true (a + 2 * x) l else 0)) ∧
    (∀ slot, (s.ctx T.ctx).mode ≠ .lost → T.th.pend.all (·.finished) = true →
      (∀ x d lanes replied, T.status = .parked (.called x d lanes replied) →
        (∀ v : State, s.saveTeam (T.adv 8) x (head (T.adv 8) 1 0 []) = (v, none) → ∃ t, exec (.teamSwitchOutSave k slot) s = .next t ∧
          t.status? (.team k) = some (.switchedOut x (.svc d lanes) replied) ∧ (t.core c).returning = (v.core c).returning ++ [k] ∧ SameMem v t) ∧
        (∀ (v : State) (e : Nat), s.saveTeam (T.adv 8) x (head (T.adv 8) 1 0 []) = (v, some e) →
          exec (.teamSwitchOutSave k slot) s = .next (v.loseContext T.ctx e (agentLoc (.team k)) tag))) ∧
      (∀ why reason grow mask, T.status = .parked (.saving why) →
        ((∃ d, why = .stallGrow d grow ∧ reason = 2 ∧ mask = []) ∨ (∃ n seen, why = .stallBar n seen ∧ grow = 0 ∧ reason = 2 ∧ mask = []) ∨
          (∃ addr host, why = .fault addr host ∧ grow = 0 ∧ reason = 3 ∧ mask = T.partialMask.getD [])) →
        (s.slotFree T.ctx slot = false → exec (.teamSwitchOutSave k slot) s = .next s) ∧
        (∀ v : State, s.slotFree T.ctx slot = true → s.saveTeam T slot (head T reason grow mask) = (v, none) →
          ∃ t, exec (.teamSwitchOutSave k slot) s = .next t ∧ t.status? (.team k) = some (.switchedOut slot why false) ∧
            (t.core c).returning = (v.core c).returning ++ [k] ∧ SameMem v t ∧
            (∀ addr host, why = .fault addr host → (t.part p).waiting = (v.part p).waiting ++ [⟨1, .team k,
              shortRecord 1 (v.cid T.ctx) (agentLoc (.team k)) (k % 256) T.th.pc.toNat tag addr.toNat 1 0 0, host⟩]) ∧
            (reason = 2 → t.parts = v.parts)) ∧
        (∀ (v : State) (e : Nat), s.slotFree T.ctx slot = true → s.saveTeam T slot (head T reason grow mask) = (v, some e) →
          exec (.teamSwitchOutSave k slot) s = .next (v.loseContext T.ctx e (agentLoc (.team k)) tag)))) ∧
    (∀ slot why replied, T.status = .switchedOut slot why replied →
      (s.returns k T why = false → exec (.switchedOutReturn k) s = .next s ∧ exec (.svcResume k) s = .next s) ∧
      (∀ d lanes, why = .svc d lanes → exec (.switchedOutReturn k) s = .next s ∧
        (replied = false ∨ (∃ w ∈ T.place, w ∈ s.wordsHeld c) → exec (.svcResume k) s = .next s)) ∧
      (∀ addr host, why = .fault addr host → replied = false → exec (.switchedOutReturn k) s = .next s) ∧
      (∀ e : Nat, s.returns k T why = true → s.loadTeam T slot = .error e →
        ((∀ d lanes, why ≠ .svc d lanes) → why ≠ .inspect → exec (.switchedOutReturn k) s = .next (s.fatal (.team k) e)) ∧
        (∀ d lanes, why = .svc d lanes → exec (.svcResume k) s = .next (s.fatal (.team k) e))) ∧
      (∀ (v : State) (T' : Team) (h : List Byte) (place : List Nat), s.returns k T why = true → s.placeBack k T why = some place →
        s.loadTeam T slot = .ok (v, T', h) →
        let back (i : Instr) (U : Team) : Prop := ∃ t, exec i s = .next t ∧ t.team? k = some U ∧ k ∉ (t.core c).returning ∧ SameMem s t
        (∀ d g, why = .stallGrow d g → back (.switchedOutReturn k) { T' with
          place := place, vregs := T'.vregs + 8 * g, th := T'.th.wr d (BitVec.ofNat 64 (T'.vregs + 8 * g)), status := .ready }) ∧
        (∀ n seen B ph, why = .stallBar n seen → s.block? T.blk = some B → lget T.tokens n = some ph →
          ((B.bar n).ph ≠ ph ∨ (B.bar n).flips ≠ seen →
            back (.switchedOutReturn k) { T' with place := place, tokens := merase T'.tokens n, status := .ready }) ∧
          ((B.bar n).ph = ph → (B.bar n).flips = seen →
            back (.switchedOutReturn k) { T' with place := place, status := .parked (.bar n seen) })) ∧
        (∀ addr host, why = .fault addr host → back (.switchedOutReturn k) { T' with place := place, status := .ready }) ∧
        (∀ d lanes, why = .svc d lanes → place = T.place ∧ (lanes.Nodup → d + 1 < 256 → ∃ U, back (.svcResume k) U ∧
          (∀ (j l : Nat), lanes[j]? = some l → U.vrd true d l = leAt h (0x800 + 8 * j) 8) ∧
          (∀ r l, r < 256 → (l ∉ lanes ∨ (r ≠ d ∧ r ≠ d + 1)) → U.vr r l = T'.vr r l) ∧
          U = { T' with v := U.v, vmarks := U.vmarks, place := place, status := .ready })))) ∧
    ((∀ slot why replied, T.status ≠ .switchedOut slot why replied) →
      exec (.switchedOutReturn k) s = .next s ∧ exec (.svcResume k) s = .next s) ∧
    (∀ rest d n, (s.core c).grow = k :: rest → T.status = .parked (.vgrow d n) ∨ T.status = .parked (.saving (.stallGrow d n)) →
      let U : Team := { T with vregs := T.vregs + 8 * n, th := T.th.wr d (BitVec.ofNat 64 (T.vregs + 8 * n)), status := .ready }
      let v := (s.setCore c { s.core c with grow := rest }).setTeam k U
      let may : Prop := (∀ x ∈ (s.core c).returning, s.mayReturn x = false) ∧ s.ctxRuns T.ctx = true ∧
        (s.coreUse c).2 + 128 * T.words * (8 * n) ≤ 2097152 ∧ v.placesFit (c / 8) T.ctx = true
      (may → ∃ t, exec (.vgrowGrant c) s = .next t ∧ t = v ∧ SameMem s t) ∧ (¬may → exec (.vgrowGrant c) s = .next s)) ∧
    ((s.core c).grow = [] → exec (.vgrowGrant c) s = .next s) ∧
    (∀ why, T.status.stall = some why → (∀ q ∈ s.teams, q.1 = k → q.2 = T) →
      let here (q : Nat × Team) : Prop := q ∈ s.teams ∧ q.1 / 256 = c ∧ q.2.status.resident = true
      let stalled : Prop := (∀ q, here q → q.2.status.stall ≠ none) ∧ ∃ q d n, here q ∧ q.2.status.stall = some (.stallGrow d n)
      let oldest (j : Nat) : Prop := (s.core c).grow.head? = some j
      (stalled → ((¬oldest k ∧ ∀ q, here q → q.1 ≠ k → ¬oldest q.1 → q.2.age < T.age) ∨ (oldest k ∧ ∀ q, here q → q.1 = k)) →
        ∃ t, exec (.registerStall c) s = .next t ∧ t = s.setTeam k { T with status := .parked (.saving why) } ∧ SameMem s t) ∧
      (¬stalled → exec (.registerStall c) s = .next s)) ∧
    (∀ B, s.block? T.blk = some B →
      (T.status = .parked .exit → T.th.pend.all (·.finished) = true →
        ∃ t, exec (.teamRetire k) s = .next t ∧ t.team? k = none ∧ (∀ j, j ≠ k → t.team? j = s.team? j) ∧
          t = ({ s with teams := merase s.teams k } : State).setBlock T.blk { B with
            teams := merase B.teams T.idx, gone := T.idx :: B.gone } ∧ SameMem s t) ∧
      (T.status ≠ .parked .exit ∨ (∃ q ∈ T.th.pend, q.finished = false) → exec (.teamRetire k) s = .next s))

/-- R255, R296, R354 to R360, R366, R372, R406, R410 to R414: pre-emption and its deadline, the watchdog, the halt line, the stop of an
agent at its resumption point and the notice of a halt, debugger halts, the inspection save, a lost save, a forced reset, and the return
of a saved context. The model's choices here are the offsets of the sections (log entry 47), the record that a lost save finds standing
(43), a write beyond SAVESIZE that loses the context (48), a debugger's halt without a cause (54), the causes of the halt line's event
(55), the links that a context's traffic crosses (86) and the priority by which contexts share their time (90); that blocks with nothing
left but service calls are saved is its reading (85). -/
def Obligations.HaltEvents : Prop :=
  ∀ (s : State) (ctx : Nat),
    let c := s.ctx ctx
    let p := ctxPart ctx
    let P := s.part p
    let late : State := s.setCtx ctx { c with mode := .halted, late := true, cause := 0 }
    let overdue : Prop := c.since + 1000 * c.limit ≤ s.gtime
    let leaves : Prop := c.mode = .preempting ∨ (c.mode = .debugHalted ∧ c.leaving = true)
    let ends : State → Launch → Nat → Prop := fun t L l => (∀ x, L.phase ≠ .ended x) →
      (t.launch? l).map (·.phase) = some (.ended (if c.late then 3 else 2))
    (∀ (host : Bool) (i : Instr), (host = false ∧ i = .preemption ctx) ∨ (host = true ∧ i = .preemptionCommand ctx) →
      (c.mode = .idle ∨ c.mode = .running → s.mayPreempt ctx host = true → ∃ t, exec i s = .next t ∧
        t.ctx ctx = { c with run := c.tables, mode := .preempting, since := s.gtime, limit := P.pdeadline } ∧ SameMem s t ∧
        ∀ b B G, (b, B) ∈ s.blocks → B.ctx = ctx → s.gen? (16 * B.cluster + B.gthread) = some G →
          (∀ q ∈ s.blocks, q.2.ctx = ctx → 16 * q.2.cluster + q.2.gthread = 16 * B.cluster + B.gthread → q = (b, B)) →
          t.gen? (16 * B.cluster + B.gthread) = some { G with frozen := !s.blockBegun b B }) ∧
      (c.mode = .idle ∨ c.mode = .running → s.mayPreempt ctx host = false → exec i s = .next s) ∧
      (c.mode = .preempting → overdue → exec i s = .next late) ∧
      (c.mode = .preempting → ¬overdue → let u := s.freeze ctx
        ((∃ q ∈ u.blocks, q.2.ctx = ctx ∧ u.blockStill q = false) → exec i s = .next u) ∧
        (∀ v : State, (∀ q ∈ u.blocks, q.2.ctx = ctx → u.blockStill q = true) → u.writeSections ctx 0 4096 (u.saveParts ctx).2.2 = (v, none) →
          ∃ t, exec i s = .next t ∧ (t.ctx ctx).mode = .saved ∧ (t.ctx ctx).saved = (u.saveParts ctx).1 ∧
            (t.ctx ctx).savedSegs = (u.saveParts ctx).2.1 ∧ (∀ q ∈ t.gens, q.2.ctx ≠ ctx) ∧ (∀ q ∈ t.blocks, q.2.ctx ≠ ctx) ∧
            (∀ q ∈ t.teams, q.2.ctx = ctx → (u.team? q.1).any (fun T => T.status.away) = true) ∧ SameMem v t) ∧
        (∀ (v : State) (e : Nat), (∀ q ∈ u.blocks, q.2.ctx = ctx → u.blockStill q = true) →
          u.writeSections ctx 0 4096 (u.saveParts ctx).2.2 = (v, some e) → exec i s = .next (v.loseContext ctx e 0 0)) ∧
        (∀ q, u.blockStill q = true → u.genStill q.2 = true ∧ ∀ x ∈ (u.cluster q.2.cluster).arrivals, x.1 ≠ q.1)) ∧
      (c.mode = .saved ∨ c.mode = .halted ∨ c.mode = .debugHalted ∨ c.mode = .lost → exec i s = .next s)) ∧
    (leaves → overdue → exec (.preemptionDeadline ctx) s = .next late ∧ SameMem s late) ∧
    (¬leaves ∨ ¬overdue → exec (.preemptionDeadline ctx) s = .next s) ∧
    (∀ (a : Agent) (n since period : Nat), s.agentCtx? a = some ctx → s.watched a = some (n, since, period) →
      (s.ctxRuns ctx = true → since + 1000 * period < s.gtime → ∃ t, exec (.watchdog a) s = .next t ∧
        (t.ctx ctx).mode = .halted ∧ (t.ctx ctx).cause = 0xE ∧ ((s.status? a).any Status.active = true → t.status? a = some .stopped) ∧
        ((t.ctx ctx).stops.getLast?.map fun r => (r.kind, r.cause, r.wait, r.loc)) = some (6, 0xE, n, agentLoc a) ∧ SameMem s t) ∧
      (s.ctxRuns ctx = false ∨ s.gtime ≤ since + 1000 * period → exec (.watchdog a) s = .next s)) ∧
    (∀ a : Agent, s.watched a = none → exec (.watchdog a) s = .next s) ∧
    (let met : Prop := (c.mode = .running ∨ c.mode = .preempting ∨ c.mode = .debugHalted) ∧ s.lossMeets ctx = true;
      let told : Ctx := { c with
        mode := .halted, cause := 0xF, note := some ⟨3, .halt ctx, shortRecord 3 c.run.cid 0 0 0 0 0 0xF 0 0, P.er⟩ }
      (met → P.err0v = false → ∃ t, exec (.haltLine ctx 0xF) s = .next t ∧ SameMem s t ∧ t = (s.setCtx ctx told).setPart p { P with
        err0v := true, err0lost := false, err0cause := 0xF, err1loc := 0, err1cid := c.run.cid, err2 := BitVec.ofNat 64 s.gtime, err3 := 0 }) ∧
      (met → P.err0v = true → exec (.haltLine ctx 0xF) s = .next (s.setCtx ctx told)) ∧
      (∀ cause, ¬met ∨ cause ≠ 0xF → exec (.haltLine ctx cause) s = .next s) ∧
      (∀ d b B, d ∈ s.dev.off → (b, B) ∈ s.blocks → B.ctx = ctx → B.cluster / 64 = d → s.lossMeets ctx = true)) ∧
    (∀ (a : Agent) (u v : State), s.stopCtxs a = [ctx] → c.mode = .halted ∨ c.mode = .lost →
      (∃ n, a = .queue n ∧ u = s.settleJobs n ctx) ∨ ((∀ n, a ≠ .queue n) ∧ u = s) →
      (u.active a ctx = false ∧ v = u) ∨
        (∃ n, a = .queue n ∧ u.active a ctx = true ∧ v = (u.addStops ctx ((u.ctxJobs n ctx).map fun j => u.jobRecord n j 0)).stopEngine n ctx) ∨
        ((∀ n, a ≠ .queue n) ∧ u.thread? a ≠ none ∧ u.active a ctx = true ∧
          v = (u.addStops ctx [{ u.stopRecord a 0 0 with pc := (u.stopPoint a).1, tag := (u.stopPoint a).2 }]).stopHere a) →
      (∀ w : State, c.mode = .halted → v.writeSection ctx 2 4096 (v.stopEntries ctx) = (w, none) →
        exec (.agentStop a) s = .next ((w.setCtx ctx { w.ctx ctx with written := (w.ctx ctx).stops.length }).tellHalts p)) ∧
      (∀ (w : State) (e : Nat), c.mode = .halted → v.writeSection ctx 2 4096 (v.stopEntries ctx) = (w, some e) →
        exec (.agentStop a) s = .next ((w.loseContext ctx e 0 0).tellHalts p)) ∧
      (c.mode = .lost → exec (.agentStop a) s = .next (v.tellHalts p))) ∧
    (∀ (a : Agent) (th : Thread), s.thread? a = some th →
      (∀ q, th.pend.find? Pend.unchecked = some q → (s.stopPoint a).1 = q.pc) ∧
      (s.stopHere a).thread? a = some { th.discard with pc := (s.stopPoint a).1 } ∧ (s.stopHere a).status? a = some .stopped ∧
      (∀ k T, a = .team k → s.team? k = some T → ((s.stopHere a).team? k).map (·.pvgrow) = some T.status.growing)) ∧
    (∀ (a : Agent) (th : Thread), s.stopCtxs a = [ctx] → c.mode = .debugHalted → (∀ n, a ≠ .queue n) → s.thread? a = some th → c.stops = [] →
      s.active a ctx = true →
      let halted (h : State) : Prop := ∀ w : State,
        let u := h.addStops ctx [{ s.stopRecord a 0 2 with pc := (s.stopPoint a).1, tag := (s.stopPoint a).2 }]
        u.writeSection ctx 2 4096 (u.stopEntries ctx) = (w, none) →
          exec (.agentStop a) s = .next (w.setCtx ctx { w.ctx ctx with written := (w.ctx ctx).stops.length })
      (th.pend.find? Pend.unchecked = none → halted s) ∧
      (∀ n q m, th.pend.findIdx? Pend.unchecked = some n → th.pend[n]? = some q → q.work = .mem m →
        (m.faultWaits (th.shadowed n q.work) = false → halted ((s.backTo a n q m).setStatus a .ready)) ∧
        (m.faultWaits (th.shadowed n q.work) = true → exec (.agentStop a) s = .next s))) ∧
    (∀ a : Agent, s.stopCtxs a = [ctx] → s.ctxRuns ctx = true → exec (.agentStop a) s = .next s) ∧
    ((∀ r, c.note = some r → s.haltDone ctx = true → s.tellHalt ctx = (s.setCtx ctx { c with note := none }).setPart p { P with
        waiting := P.waiting ++ [r] }) ∧
      (c.note = none ∨ s.haltDone ctx = false → s.tellHalt ctx = s)) ∧
    (s.haltDone ctx = true → (∀ q ∈ s.teams, q.2.ctx = ctx → q.2.status.active = false) ∧ (∀ q ∈ s.gens, q.2.ctx = ctx → q.2.status.active = false) ∧
      (c.mode ≠ .lost → c.written = c.stops.length)) ∧
    (c.debugger = true → c.mode = .running ∨ c.mode = .preempting → ∃ t, exec (.debuggerHalt ctx) s = .next t ∧
      t = s.setCtx ctx { c with mode := .debugHalted, leaving := decide (c.mode = .preempting) } ∧ SameMem s t) ∧
    (c.debugger = false ∨ (c.mode ≠ .running ∧ c.mode ≠ .preempting) → exec (.debuggerHalt ctx) s = .next s) ∧
    (c.mode = .debugHalted → ∃ t, exec (.debuggerRelease ctx none) s = .next t ∧ SameMem s t ∧
      t.ctx ctx = { c with
        mode := if c.leaving then .preempting else .running, leaving := false, run := s.readCtxRec ctx
        stops := c.stops.filter fun r => decide (r.fl ≠ 2), written := 0 } ∧
      ((s.ctxThreads ctx).Nodup → ∀ a ∈ s.ctxThreads ctx, ∀ th, s.thread? a = some th →
        (s.recordPc ctx a = none → t.thread? a = some th) ∧
        ∀ pc, s.recordPc ctx a = some pc → t.thread? a = some { th with pc := pc + (th.pc - (s.stopPoint a).1) })) ∧
    (c.mode ≠ .debugHalted → exec (.debuggerRelease ctx none) s = .next s) ∧
    (∀ a, (s.agentCtx? a = some ctx → s.status? a = some .broken → ∃ t, exec (.debuggerRelease ctx (some a)) s = .next t ∧
        t = s.setStatus a .ready ∧ t.status? a = some .ready ∧ t.thread? a = s.thread? a ∧ SameMem s t) ∧
      (s.agentCtx? a ≠ some ctx ∨ s.status? a ≠ some .broken → exec (.debuggerRelease ctx (some a)) s = .next s)) ∧
    (∀ on, ∃ t, exec (.debuggerAttach ctx on) s = .next t ∧ t = s.setCtx ctx { c with debugger := on } ∧ SameMem s t) ∧
    (c.mode ≠ .halted ∨ s.haltDone ctx = false → exec (.inspectionSave ctx) s = .next s) ∧
    (c.mode = .halted → s.haltDone ctx = true → c.run.savesize = 0 → exec (.inspectionSave ctx) s = .next (s.loseContext ctx 2 0 0)) ∧
    (c.mode = .halted → s.haltDone ctx = true → 128 ≤ c.run.savesize → c.stops = [] → s.ctxBlocks ctx = [] → s.ctxSegs ctx = [] →
      s.ctxBasins ctx = [] → (∀ q ∈ s.teams, q.2.ctx ≠ ctx) → (∀ x < 128, P.pages.contains ((c.run.savebase + x) / 2 ^ 30) = true) →
      ∃ t, exec (.inspectionSave ctx) s = .next t ∧ t.ctx ctx = c ∧
        (∀ k < 8, t.memRd (c.run.savebase + 16 * k) 16 = natLe 8 4096 ++ natLe 8 0) ∧
        (∀ pa, ¬(c.run.savebase ≤ pa ∧ pa < c.run.savebase + 128) → t.mem8 pa = s.mem8 pa)) ∧
    (∀ k T, s.savingTeam ctx = some (k, T) → ∃ t, exec (.saveLost ctx 0xD) s = .next t ∧
      t = s.loseContext ctx 0xD (agentLoc (.team k)) (s.tagAt (k / 256) T.th.pc) ∧ (t.ctx ctx).mode = .lost ∧ SameMem s t) ∧
    (s.savingTeam ctx = none → s.savingCtx ctx = true → ∃ t, exec (.saveLost ctx 0xD) s = .next t ∧ t = s.loseContext ctx 0xD 0 0 ∧
      (t.ctx ctx).mode = .lost ∧ SameMem s t) ∧
    (∀ cause, cause ≠ 0xD ∨ (s.savingTeam ctx = none ∧ s.savingCtx ctx = false) → exec (.saveLost ctx cause) s = .next s) ∧
    (c.mode = .halted ∨ c.mode = .lost → s.haltDone ctx = true → ∃ t, exec (.forcedReset ctx) s = .next t ∧
      (t.ctx ctx).mode = .idle ∧ (t.ctx ctx).gen = (c.gen + 1) % 2 ^ 32 ∧ (t.ctx ctx).slots = [] ∧ (t.ctx ctx).stops = [] ∧
      (t.ctx ctx).saved = [] ∧ (t.ctx ctx).savedSegs = [] ∧ (∀ q ∈ t.teams, q.2.ctx ≠ ctx) ∧ (∀ q ∈ t.gens, q.2.ctx ≠ ctx) ∧
      (∀ q ∈ t.blocks, q.2.ctx ≠ ctx) ∧ (∀ cl b, (t.cluster cl).weir.lease = some b → (s.block? b).map (·.ctx) ≠ some ctx) ∧
      (∀ l L, s.launch? l = some L → L.ctx = ctx → ends t L l) ∧
      (∀ cl b, b < 32 → ((t.cluster cl).info b).last ≠ some ctx) ∧
      ((s.clusters.map (·.1)).Nodup → ∀ cl b, b < 32 → ((s.cluster cl).info b).last = some ctx ∧ ((s.cluster cl).info b).blk = none →
        ∀ o < 65536, t.basin8 cl b o = 0) ∧
      (∀ r, c.note = some r → (t.ctx ctx).note = none) ∧ SameMem s t) ∧
    ((c.mode ≠ .halted ∧ c.mode ≠ .lost) ∨ s.haltDone ctx = false → exec (.forcedReset ctx) s = .next s) ∧
    (c.mode = .saved → s.mayResume ctx = true → ∃ t, exec (.contextRestore ctx) s = .next t ∧ SameMem s t ∧
      t = s.setCtx ctx { c with mode := .running, run := s.readCtxRec ctx }) ∧
    (c.mode = .saved → s.mayResume ctx = false → exec (.contextRestore ctx) s = .next s) ∧
    (∀ x rest, c.mode = .running → c.savedSegs = x :: rest →
      (s.offFree x.cluster x.seg.held x.seg.size x.seg.off = true → ∃ t, exec (.contextRestore ctx) s = .next t ∧
        (∀ n ∈ maskCores x.cluster x.seg.held, ∀ k < x.seg.size,
          mget 0 (t.core n).code (x.seg.off + k) = s.mem8 (c.run.savebase + x.entry + 16 + k)) ∧
        (t.cluster x.cluster).segs = (s.cluster x.cluster).segs ++ [x.seg] ∧ t.ctx ctx = { c with savedSegs := rest } ∧ SameMem s t) ∧
      (s.offFree x.cluster x.seg.held x.seg.size x.seg.off = false → exec (.contextRestore ctx) s = .next s)) ∧
    (∀ x rest L, c.mode = .running → c.savedSegs = [] → c.saved = x :: rest → s.launch? x.blk.launch = some L →
      let fits : Prop := s.blockFits x = true ∧ (s.resumed ctx x rest L).placesFit x.blk.cluster ctx = true
      (fits → ∃ t, exec (.contextRestore ctx) s = .next t ∧ t.ctx ctx = { c with saved := rest } ∧ SameMem s t ∧
        t.gen? (16 * x.blk.cluster + x.blk.gthread) = some (reloadGen x.gen (s.memRd (c.run.savebase + x.entry) 16384)
          (s.badWords (c.run.savebase + x.entry + 8) 320)) ∧
        (t.block? x.key).map (fun B => (B.launch, B.ctx, B.cluster, B.gthread, B.cores, B.blkidx, B.bars, B.acc)) =
          some (x.blk.launch, x.blk.ctx, x.blk.cluster, x.blk.gthread, x.blk.cores, x.blk.blkidx, x.blk.bars, x.blk.acc)) ∧
      (¬fits → exec (.contextRestore ctx) s = .next s)) ∧
    ((c.mode ≠ .saved ∧ c.mode ≠ .running) ∨ (c.mode = .running ∧ c.saved = [] ∧ c.savedSegs = []) →
      exec (.contextRestore ctx) s = .next s)

/-- R307, R310, R312 to R330, R360, R362, R363, R421, R429, R430, R436: the coherence messages. A miss of a load is served in its cluster
or leaves as a read, which follows links or goes on to the home; replies and grants install states and record links; owns go to the root;
invals, acks, prunes and cuts take branches away; evictions tell the tree; a message that must wait is held; the limiter's geometry, the
tile vectors and the gating of routers change as they are written. Where a copy that a lost die held changed was the last one, the home
slice's bytes are the line's again. The model's choices: the branch of a read released from a teardown starts afresh (log entry 41), a second inval
is answered at once (62), held messages let others pass (68), a root without a way holds the message (69), the sets of an L1 and of a home
slice and sectors filled under a held state (87), when E is granted (88), the messages held back while overfull (91), a request checked as it
arrives and contexts that an own out of reach halts (96), and the link of a dead interface (97). -/
def Obligations.CoherenceEvents : Prop :=
  (∀ (s : State) (h line : Nat), let r := holderRouter h
    let want := s.wanted h line
    let may : Prop := h < 8192 ∧ h % 16 < 9 ∧ s.asking h line = false ∧ want ≠ []
    (may → s.line h line ≠ .i → exec (.clusterMiss h line) s =
      .next ((s.fillSectors h line (s.wantedSectors h line) (s.newMarks line)).loadsTake h line)) ∧
    (∀ k rest, may → s.line h line = .i → s.clHolders r line = k :: rest → exec (.clusterMiss h line) s = .next
      (((s.setLine k line (s.line k line).supplied).takeLine h line .s (s.wantedSectors h line) (s.suppliedMarks k line)).loadsTake h line)) ∧
    (may → s.line h line = .i → s.clHolders r line = [] → ∃ t, exec (.clusterMiss h line) s = .next t ∧ SameMem s t ∧
      t = { s with msgs := s.msgs ++ [⟨r, 4, line, .read h 0 0 [] (homeOf line ((want.map (·.2)).headD 0)), false, 0⟩] }) ∧
    (¬may → exec (.clusterMiss h line) s = .next s)) ∧
  (∀ (s : State) (h line : Nat) (st : Moes) (ks marks : List Nat), h < 16384 → let t := s.takeLine h line st ks marks
    (t.line h line = st ∧ ∀ pa, (∀ b ∈ s.under, b.1 ≠ pa) → t.mem8 pa = s.mem8 pa) ∧
    (s.line h line = .i → st ≠ .i → ∀ k < 4, t.filled h line k = ks.contains k) ∧
    (s.victimLine h line = none → t.msgs = s.msgs ∧ SameMem s t ∧ ∀ h' l', h' < 16384 → ¬(h' = h ∧ l' = line) → t.line h' l' = s.line h' l') ∧
    (∀ v, s.victimLine h line = some v → v ≠ line ∧ t.line h v = .i ∧ t.msgs = (s.evictLine h v).msgs)) ∧
  (∀ (s : State) (h line : Nat),
    let wanted (m : Msg) : Prop := lineSet h m.line = lineSet h line ∧ s.line h m.line = .i ∧ s.wantsLine h m.line = true
    let due : Prop := h < 8256 ∧ (8192 ≤ h ∨ (s.victimLine h line = none ∧ (s.setLines h line).length + 1 = holderWays h ∧
      ((mget [] s.recent h).filter fun l => decide (lineSet h l = lineSet h line)).getLast? = some line ∧ ∃ m ∈ s.msgs, wanted m))
    (due → s.line h line ≠ .i → ∃ t, exec (.holderEviction h line) s = .next t ∧ t.line h line = .i ∧
      (∀ h' l', h' < 16384 → ¬(h' = h ∧ l' = line) → t.line h' l' = s.line h' l') ∧
      (∀ pa, (∀ b ∈ s.under, b.1 ≠ pa) → t.mem8 pa = s.mem8 pa) ∧
      t.msgs = s.msgs ++ (if t.clHolders (holderRouter h) line = [] then
          [⟨holderRouter h, 4, line, .prune (s.line h line).dirty (decide (s.line h line = .e)) true, false, 0⟩]
        else if (s.line h line).dirty = true then [⟨holderRouter h, 4, line, .prune true false false, false, 0⟩] else [])) ∧
    (¬due ∨ s.line h line = .i → exec (.holderEviction h line) s = .next s)) ∧
  (∀ (s : State) (line : Nat),
    let held : Prop := (∃ q ∈ s.lines, q.1 / 16384 = line ∧ q.1 % 16384 < 8256) ∨ (∃ m ∈ s.msgs, m.line = line ∧ m.kind.carries = true) ∨
      ∃ R ∈ s.routers, ∃ e ∈ R.2.tree, e.line = line ∧ ∃ x, e.tear = some x ∧ x.data = true
    (held → s.settle line = s) ∧
    (¬held → mwf none s.under = true → ∀ pa, (s.settle line).mem8 pa = if pa / 128 = line then (mget none s.under pa).getD (s.mem8 pa) else s.mem8 pa)) ∧
  (∀ (s : State) (n : Nat) (m : Msg),
    (s.deliverable n = some m → s.msgs[n]? = some m ∧
      (m.held = false → ∀ q ∈ s.msgs.take n, q.dest = m.dest → q.port = m.port → q.held = true ∧ (q.kind.gives = true → q.line ≠ m.line))) ∧
    (s.msgs[n]? = some m → m.held = false → let k : Msg := { m with held := true, turn := s.nextTurn }
      s.holdMsg n = { s with msgs := if m.kind.gives then s.msgs.set n k else s.msgs.eraseIdx n ++ [k] } ∧ ∀ q ∈ s.msgs, q.turn < s.nextTurn)) ∧
  (∀ (s : State) (n : Nat), s.deliverable n = none →
    ∀ i, i ∈ [Instr.routerRead n, .reply n, .own n, .grant n, .inval n, .ack n, .prune n, .cut n] → exec i s = .next s) ∧
  (∀ (s : State) (n : Nat) (m : Msg), s.deliverable n = some m →
    let r := m.dest
    let R := s.router r
    let left := s.msgs.eraseIdx n
    let entry := R.entry? m.line
    let free : Prop := ∀ q ∈ s.msgs, q.held = true → q.dest = r → q.line = m.line → ∀ a b c d e, q.kind ≠ .read a b c d e
    let sends (i : Instr) (out : List (Nat × MsgKind)) (e : Option TEntry) : Prop :=
      ∃ t, exec i s = .next t ∧ Routed s t r m.line left (out.map fun x => outMsg r x.1 m.line x.2) e
    let tears (i : Instr) (out : List (Nat × MsgKind)) (e : TEntry) (x : Tear) : Prop := free →
      ∃ t, exec i s = .next t ∧ Torn s t r left (out.map fun x => outMsg r x.1 m.line x.2) e x
    let records (i : Instr) (e : TEntry) (p dist : Nat) (k : MsgKind) : Prop :=
      (e.tear = none → sends i [(p, k)] (some (e.linked p dist))) ∧
      ∀ x, e.tear = some x → sends i [(p, k), (p, .inval x.why.keep)] (some { e.linked p dist with tear := some { x with wait := x.wait ++ [p] } })
    let holds_ (i : Instr) : Prop := exec i s = .next (s.holdMsg n)
    let goes (i : Instr) (t : State) : Prop := exec i s = .next t ∧ SameMem s t
    (∀ req mode cnt path home, m.kind = .read req mode cnt path home →
      let ev := Instr.routerRead n
      let back : Prop := mode = 2 ∨ (mode = 0 ∧ comesBack r path = true)
      let taken : Prop := m.port ≠ 5 ∧ ¬back ∧ R.overfull = false ∧ ¬(home = r ∧ s.isAway m.line = true)
      let steers (e : TEntry) (out : Nat) : Prop := sends ev
        [(out, .read req 1 (if cnt = 0 then path.length + 1 else cnt) ((r, m.port + 8) :: path) home)] (some { e with pins := e.pins + 1 })
      let passes (out : Nat) (e : Option TEntry) : Prop := if out = m.port ∧ steeredIn path = true
        then sends ev [(m.port, .read req 2 cnt path home)] e else sends ev [(out, .read req 0 cnt ((r, m.port) :: path) home)] e
      let rdc := rdcOnPath r req ((r, m.port) :: path)
      let lost : Prop := exec ev s = .next (({ s with msgs := left } : State).lostRead m.line req ((r, m.port) :: path))
      (m.port = 5 → s.clHolders r m.line = [] → goes ev { s with msgs := left ++ [⟨r, 4, m.line, .read req 2 cnt path home, false, 0⟩] }) ∧
      (∀ k rest, m.port = 5 → s.clHolders r m.line = k :: rest → ∃ t, goes ev t ∧ t.line k m.line = (s.line k m.line).supplied ∧
        t.msgs = left ++ [⟨r, 4, m.line, .reply req .s path cnt (rdcOnPath home req path) (s.suppliedMarks k m.line), false, 0⟩] ∧
        t.routers = s.routers) ∧
      (m.port ≠ 5 → back → path = [] → goes ev { s with msgs := left }) ∧
      (∀ x, m.port ≠ 5 → back → (loopOf r path).1.getLast? = some x → let rest := (loopOf r path).2
        ∃ t, goes ev t ∧ t.msgs[n]? = some
          ⟨r, x.2 % 8, m.line, .read req (b2n (steeredIn rest)) (if rest.length < cnt then 0 else cnt) rest home, false, 0⟩) ∧
      (∀ q rest, path = (r, q) :: rest → 8 ≤ q → loopOf r path = ([(r, q)], rest) ∧
        (m.port ≠ 5 → back → ∀ e, entry = some e → e.links ≠ [] ∨ e.tear ≠ none ∨ 2 ≤ e.pins → ∃ t, goes ev t ∧
          (t.router r).entry? m.line = some { e with pins := e.pins - 1 })) ∧
      (m.port ≠ 5 → ¬back → R.overfull = true ∨ (home = r ∧ s.isAway m.line = true) → holds_ ev) ∧
      (taken → entry = none →
        (mode = 1 → sends ev [(m.port, .read req 2 cnt path home)] none) ∧
        (mode ≠ 1 → home ≠ r → passes (xyPort r home) none) ∧
        (mode ≠ 1 → home = r → s.canPut n r m.line = false → holds_ ev) ∧
        (mode ≠ 1 → home = r → s.canPut n r m.line = true → s.lineGone m.line = true → lost) ∧
        (mode ≠ 1 → home = r → s.canPut n r m.line = true → s.lineGone m.line = false →
          let st : Moes := if rdc = true ∨ paRemote (128 * m.line) = true ∨ s.sharers m.line ≠ 0 ∨ m.line ∈ s.hostLines then .s else .e
          records ev { TEntry.new m.line 4 with own := decide (st = .e) } m.port (path.length + 1)
            (.reply req st path (path.length + 1) rdc (s.newMarks m.line)))) ∧
      (∀ e, taken → entry = some e →
        (e.tear ≠ none ∨ (e.root = 4 ∧ e.own = true ∧ e.links = []) → holds_ ev) ∧
        (e.tear = none → e.root = 4 → e.own = false → s.lineGone m.line = true → lost) ∧
        (e.tear = none → e.root = 4 → e.own = false → s.lineGone m.line = false →
          (cnt = 0 → records ev e m.port (path.length + 1) (.reply req .s path (path.length + 1) rdc (s.newMarks m.line))) ∧
          (cnt ≠ 0 → sends ev [(m.port, .reply req .s path cnt rdc (s.newMarks m.line))] (some e))) ∧
        (e.tear = none → e.root = 4 → e.own = true → e.links ≠ [] → steers e ((e.best m.port).getD m.port)) ∧
        (e.tear = none → e.root ≠ 4 → (∀ out, e.best m.port = some out → steers e out) ∧ (e.best m.port = none → passes e.root (some e))))) ∧
    (∀ req st path cnt rdc marks, m.kind = .reply req st path cnt rdc marks →
      let ev := Instr.reply n
      let waits : Prop := path.length < cnt ∧ (s.canPut n r m.line = false ∨ s.evicting r m.line = true)
      (m.port = 5 → s.deadHolder req = false → exec ev s = .next
        ((({ s with msgs := left } : State).takeLine req m.line st (s.wantedSectors req m.line) marks).loadsTake req m.line)) ∧
      (m.port = 5 → s.deadHolder req = true → exec ev s = .next (({ s with msgs := left } : State).deadCopy req m.line (decide (st = .e)))) ∧
      (m.port ≠ 5 → waits → holds_ ev) ∧
      (m.port ≠ 5 → ¬waits → path = [] → goes ev { s with msgs := left }) ∧
      (∀ x q rest, m.port ≠ 5 → ¬waits → path = (x, q) :: rest →
        let e : TEntry := match entry with
          | some e => if 8 ≤ q then { e with pins := e.pins - 1 } else e
          | none => TEntry.new m.line m.port
        let branch : TEntry := if cnt = path.length then e else { e with root := if e.root = 4 then 4 else m.port }
        let here := rdc && onHearth r
        (here = false → cnt ≤ path.length → entry = none → cnt ≠ path.length → sends ev [(q % 8, .reply req st rest cnt rdc marks)] none) ∧
        (here = false → cnt < path.length → entry ≠ none → e.links ≠ [] ∨ e.tear ≠ none ∨ e.pins ≠ 0 →
          sends ev [(q % 8, .reply req st rest cnt rdc marks)] (some e)) ∧
        (here = false → path.length ≤ cnt → records ev branch (q % 8) path.length (.reply req st rest cnt rdc marks)) ∧
        (here = true → path.length ≤ cnt → e.tear = none → s.line (rdcHolder r) m.line = .i →
          s.victimLine (rdcHolder r) m.line = none → ∃ t w, goes ev t ∧ t.line (rdcHolder r) m.line = .s ∧
          t.msgs = left ++ [outMsg r (q % 8) m.line (.reply req st rest cnt false marks)] ∧
          (t.router r).entry? m.line = some { (branch.linked (q % 8) path.length).linked 4 1 with way := w }) ∧
        ∃ t, exec ev s = .next t)) ∧
    (∀ req held path home, m.kind = .own req held path home →
      let ev := Instr.own n
      let owns (q : Msg) : Prop := q.held = true ∧ q.dest = r ∧ q.line = m.line ∧ ∃ a b c d, q.kind = .own a b c d
      let first : Prop := (∀ q ∈ s.msgs.take n, ¬owns q) ∧ (m.held = true ∨ ∀ q ∈ s.msgs, ¬owns q)
      let blocked : Prop := ¬first ∨ (∃ e, entry = some e ∧ e.tear ≠ none) ∨ (entry = none ∧ s.canPut n r m.line = false)
      let tear (e : TEntry) : Tear := ⟨.own req ((r, m.port) :: path), e.ports, false, false, false⟩
      let begins (e : TEntry) : Prop := tears ev (e.ports.map fun p => (p, .inval (some req))) e (tear e)
      (R.overfull = true → holds_ ev) ∧
      (R.overfull = false → home ≠ r → sends ev [(xyPort r home, .own req held ((r, m.port) :: path) home)] entry) ∧
      (R.overfull = false → home = r → blocked → holds_ ev) ∧
      (R.overfull = false → home = r → ¬blocked → s.lineGone m.line = false → s.askedPkgs m.line = 0 → s.tileWaits m.line = false →
        (entry = none → begins (TEntry.new m.line 4)) ∧ ∀ e, entry = some e → begins e) ∧
      (∀ e, R.overfull = false → home = r → ¬blocked → s.lineGone m.line = false → s.askedPkgs m.line ≠ 0 →
        (entry = none ∧ e = TEntry.new m.line 4) ∨ entry = some e →
        ∃ t w, goes ev t ∧ t.tileOps = s.tileOps ++ [⟨m.line, s.dev.fpkg, s.askedPkgs m.line⟩] ∧
          t.msgs = left ++ e.ports.map (fun p => outMsg r p m.line (.inval (some req))) ∧
          (t.router r).entry? m.line = some { e with tear := some (tear e), way := w }) ∧
      (R.overfull = false → home = r → ¬blocked → s.lineGone m.line = true →
        ∃ t, goes ev t ∧ t.tileOps.length ≤ s.tileOps.length ∧ ∀ x ∈ s.ctxsAt req, (t.ctx x).mode = .halted ∨ (t.ctx x).mode = .lost)) ∧
    (∀ req data path, m.kind = .grant req data path →
      let ev := Instr.grant n
      let waits : Prop := s.canPut n r m.line = false ∨ s.evicting r m.line = true
      (∀ e rest, m.port = 5 → s.deadHolder req = false → (s.cluster (req / 16)).cistern = e :: rest → e.line = m.line → e.holder = req →
        req < 8192 → ∃ t, exec ev s = .next t ∧ t.line req m.line = .m ∧ (t.cluster (req / 16)).cistern = rest ∧
        (∀ k < 128, t.mem8 (128 * m.line + k) = (mget none e.bytes k).getD (s.mem8 (128 * m.line + k))) ∧
        ∀ pa, pa / 128 ≠ m.line → (∀ b ∈ s.under, b.1 ≠ pa) → t.mem8 pa = s.mem8 pa) ∧
      (m.port = 5 → s.deadHolder req = false → (∀ e ∈ (s.cluster (req / 16)).cistern, e.line ≠ m.line) →
        exec ev s = .next (({ s with msgs := left } : State).takeLine req m.line .m [] [])) ∧
      (m.port = 5 → s.deadHolder req = true → exec ev s = .next (({ s with msgs := left } : State).deadCopy req m.line true)) ∧
      (m.port ≠ 5 → waits → holds_ ev) ∧
      (m.port ≠ 5 → ¬waits → path = [] → goes ev { s with msgs := left }) ∧
      (∀ x p rest, m.port ≠ 5 → ¬waits → path = (x, p) :: rest →
        records ev { entry.getD (TEntry.new m.line m.port) with root := m.port } p path.length (.grant req data rest))) ∧
    (∀ keep, m.kind = .inval keep →
      let ev := Instr.inval n
      (m.port = 5 → let hs := s.clHolders r m.line
        ∃ t, exec ev s = .next t ∧ (∀ h ∈ hs, t.line h m.line = if keep = some h then s.line h m.line else .i) ∧
          (∀ h l, h < 16384 → l ≠ m.line → t.line h l = s.line h l) ∧ (∀ pa, (∀ b ∈ s.under, b.1 ≠ pa) → t.mem8 pa = s.mem8 pa) ∧
          t.msgs = left ++ [⟨r, 4, m.line, .ack (hs.any fun h => decide (keep ≠ some h) && (s.line h m.line).dirty) (decide (hs = []))
            (hs.any fun h => decide (keep = some h)), false, 0⟩]) ∧
      (m.port ≠ 5 → entry = none → sends ev [(m.port, .ack false true false)] none) ∧
      (∀ e, m.port ≠ 5 → entry = some e → e.tear = none → let ls := e.ports.filter fun p => decide (some p ≠ some m.port)
        tears ev (ls.map fun p => (p, .inval keep)) e ⟨.parent m.port keep, ls, false, false, false⟩) ∧
      (∀ e x, m.port ≠ 5 → entry = some e → e.tear = some x →
        (∀ p k, x.why = .parent p k → sends ev [(m.port, .ack false false false)] (some e)) ∧
        ((∀ p k, x.why ≠ .parent p k) → sends ev [] (some { e with tear := some { x with why := .parent m.port keep } })))) ∧
    (∀ data nocopy kept, m.kind = .ack data nocopy kept →
      let ev := Instr.ack n
      let owed : Prop := nocopy = true ∧ (m.line, m.port) ∈ R.owed
      (owed → ∃ t, goes ev t ∧ t = ({ s with msgs := left } : State).setRouter r { R with owed := R.owed.erase (m.line, m.port) }) ∧
      (∀ e x, ¬owed → entry = some e → e.tear = some x → m.port ∈ x.wait → let wait := x.wait.erase m.port
        tears ev [] { e with links := if m.port ∈ wait then e.links else merase e.links m.port }
          { x with wait := wait, data := x.data || data, kept := x.kept || kept }) ∧
      (¬owed → (∀ e x, entry = some e → e.tear = some x → m.port ∉ x.wait) → goes ev { s with msgs := left })) ∧
    (∀ dirty reportsE clears, m.kind = .prune dirty reportsE clears →
      let ev := Instr.prune n
      let home := s.homeRouter m.line
      let up (e : TEntry) : List (Nat × MsgKind) :=
        if e.root = 4 then [] else if dirty then [(e.root, .prune true false false)] else if reportsE then [(e.root, .prune false true false)] else []
      let ownless (e : TEntry) : TEntry := if e.root = 4 ∧ (dirty = true ∨ reportsE = true) then { e with own := false } else e
      let cleared (e : TEntry) : TEntry := { e with links := merase e.links m.port }
      (entry = none → home ≠ r → dirty = true → sends ev [(xyPort r home, .prune true false false)] none) ∧
      (entry = none → home = r ∨ dirty = false → sends ev [] none) ∧
      (∀ e, entry = some e → e.tear = none →
        (clears = false → sends ev (up e) (some (ownless e))) ∧
        (clears = true → (cleared e).links ≠ [] ∨ e.pins ≠ 0 → sends ev (up e) (some (ownless (cleared e)))) ∧
        (clears = true → (cleared e).links = [] → e.pins = 0 →
          sends ev (if e.root = 4 then [] else [(e.root, .prune dirty reportsE true)]) none)) ∧
      (∀ e x, entry = some e → e.tear = some x →
        (clears = false ∨ m.port ∉ x.wait →
          sends ev [] (some (if e.root = 4 then ownless e else { e with tear := some { x with data := x.data || dirty } }))) ∧
        (clears = true → m.port ∈ x.wait → let wait := x.wait.erase m.port
          tears ev [] { ownless e with links := if m.port ∈ wait then e.links else merase e.links m.port }
            { x with wait := wait, data := x.data || dirty, kept := x.kept })) ∧
      (dirty = true → paRemote (128 * m.line) = false → (entry = none ∧ home = r) ∨ (∃ e, entry = some e ∧ e.root = 4 ∧ e.tear = none) →
        ∃ t, exec ev s = .next t ∧ t.line (s.sliceOf m.line) m.line = .m ∧ ∀ b ∈ t.under, b.1 / 128 ≠ m.line)) ∧
    (m.kind = .cut → let ev := Instr.cut n
      (entry = none → sends ev [] none) ∧
      (∀ e, entry = some e → e.tear ≠ none → sends ev [] (some e)) ∧
      (∀ e, entry = some e → e.tear = none → let left := merase e.links m.port
        (left ≠ [] ∨ e.pins ≠ 0 → sends ev [] (some { e with links := left })) ∧
        (left = [] → e.pins = 0 → sends ev (if e.root = 4 then [] else [(e.root, .prune false false true)]) none)))) ∧
  (∀ (s : State) (h line : Nat) (only : Bool), let t := s.deadCopy h line only
    t.msgs = s.msgs ++ (if s.clHolders (holderRouter h) line = [] then [⟨holderRouter h, 4, line, .prune false only true, false, 0⟩] else []) ∧
    t.lines = s.lines ∧ ∀ pa, (∀ b ∈ s.under, b.1 ≠ pa) → t.mem8 pa = s.mem8 pa) ∧
  (∀ (s : State) (r set : Nat),
    let R := s.router r
    let full : Prop := R.ways < (R.inSet set).length + (s.msgs.filter (s.wants r set)).length - R.freeing set
    (∀ e, R.leaver = some e ∨ (R.leaver = none ∧ full ∧ R.victim set = some e) → R.entry? e.line = some e →
      (∀ q ∈ s.msgs, q.held = true → q.dest = r → q.line = e.line → ∀ a b c d f, q.kind ≠ .read a b c d f) →
      let ls := e.ports.filter fun p => decide (some p ≠ if e.root = 4 then none else some e.root)
      ∃ t, exec (.treeEntryEviction r set) s = .next t ∧
        Torn s t r s.msgs (ls.map fun p => outMsg r p e.line (.inval none)) e ⟨.evict, ls, false, false, true⟩) ∧
    (R.leaver = none → ¬full ∨ R.victim set = none → exec (.treeEntryEviction r set) s = .next s)) ∧
  (∀ (s : State) (line who : Nat),
    let r := s.homeRouter line
    let tile := line / 32
    let pkg := who % 8
    let v := mget 0 s.tiles tile
    let foreign : Prop := pkg ≠ s.dev.fpkg ∧ s.cutOff pkg = false
    let held (l : Nat) : Prop := ∃ q ∈ s.msgs, q.held = true ∧ q.dest = s.homeRouter l ∧ q.line = l ∧ ∃ a b c d e, q.kind = .read a b c d e
    let remote := paRemote (128 * line)
    let busy : Prop := s.tileBusy tile = true ∨ (∃ e, (s.router r).entry? line = some e ∧ e.tear ≠ none) ∨ s.canPut s.msgs.length r line = false
    (¬foreign → ∀ off bytes, ∀ i ∈ [Instr.tileReadFabric line who, .tileWriteFabric line who, .tileAnswerFabric line who off bytes], exec i s = .next s) ∧
    (remote = true ∨ s.admits who (128 * line) false = false ∨ s.tileBusy tile = true → exec (.tileReadFabric line who) s = .next s) ∧
    (foreign → remote = false → s.admits who (128 * line) false = true → s.tileBusy tile = false → (s.lines.map (·.1)).Nodup → ∃ t,
      exec (.tileReadFabric line who) s = .next t ∧
      mget 0 t.tiles tile = (if bitAt v pkg = true then v else v + 2 ^ pkg) ∧ (∀ x, x ≠ tile → mget 0 t.tiles x = mget 0 s.tiles x) ∧
      (∀ h < 8256, t.line h line = (s.line h line).supplied) ∧ (∀ h < 16384, ∀ l, l ≠ line ∨ 8256 ≤ h → t.line h l = s.line h l) ∧ SameMem s t) ∧
    (remote = false → s.admits who (128 * line) true = false ∨ busy → exec (.tileWriteFabric line who) s = .next s) ∧
    (∀ e, foreign → remote = false → s.admits who (128 * line) true = true → ¬busy →
        ((s.router r).entry? line = none ∧ e = TEntry.new line 4) ∨ (s.router r).entry? line = some e →
      let op : TileOp := ⟨line, pkg, if bitAt v pkg = true then v - 2 ^ pkg else v⟩
      (e.ports ≠ [] ∨ op.wait ≠ 0 → ∃ t w, exec (.tileWriteFabric line who) s = .next t ∧ t.tileOps = s.tileOps ++ [op] ∧ SameMem s t ∧
        t.msgs = s.msgs ++ e.ports.map (fun p => outMsg r p line (.inval none)) ∧ t.tiles = s.tiles ∧
        (t.router r).entry? line = some { e with tear := some ⟨.tile pkg, e.ports, false, false, false⟩, way := w }) ∧
      (e.ports = [] → op.wait = 0 → ∃ t, exec (.tileWriteFabric line who) s = .next t ∧ SameMem s t ∧
        mget 0 t.tiles tile = 2 ^ pkg ∧ mget 0 t.away line = pkg + 1 ∧ (e.pins = 0 → (t.router r).entry? line = none))) ∧
    (foreign → remote = true → ((∃ l ∈ tileLines tile, s.tearing l = true) → exec (.tileWriteFabric line who) s = .next s) ∧
      ((∀ l ∈ tileLines tile, s.tearing l = false) →
        exec (.tileWriteFabric line who) s = .next ((tileLines tile).foldl (fun s l => s.tearLine l) s))) ∧
    (∀ e, (s.router r).entry? line = some e → e.tear = none → ¬held line →
      Torn s (s.tearLine line) r s.msgs (e.ports.map fun p => outMsg r p line (.inval none)) e ⟨.evict, e.ports, false, false, true⟩) ∧
    (∀ off bytes, foreign → let asked : Prop := ∃ o ∈ s.tileOps, o.line / 32 = tile ∧ bitAt o.wait pkg = true
      let owner : Prop := remote = true ∧ 128 * line / 2 ^ 44 % 8 = pkg
      (bitAt v pkg = false → ¬asked → ¬owner → exec (.tileAnswerFabric line who off bytes) s = .next s) ∧
      (bitAt v pkg = true → s.tileOps = [] → off + bytes.length ≤ 4096 →
        ∃ t, exec (.tileAnswerFabric line who off bytes) s = .next t ∧ mget 0 t.tiles tile = v - 2 ^ pkg ∧
          (¬owner → ∀ l, l / 32 = tile → mget 0 t.away l = 0) ∧
          (∀ k < bytes.length, t.mem8 (4096 * tile + off + k) = bytes.getD k 0) ∧
          ∀ pa, ¬(4096 * tile + off ≤ pa ∧ pa < 4096 * tile + off + bytes.length) → t.mem8 pa = s.mem8 pa) ∧
      (∀ (o : TileOp) (e : TEntry) (x : Tear), s.tileOps = [o] → o.line / 32 = tile → bitAt o.wait pkg = true → ¬held o.line →
        (s.router (s.homeRouter o.line)).entry? o.line = some e → e.tear = some x →
        (o.wait ≠ 2 ^ pkg → x.why.grants = true → ∃ t, exec (.tileAnswerFabric line who off bytes) s = .next t ∧ t.msgs = s.msgs ∧
          t.tileOps = [{ o with wait := o.wait - 2 ^ pkg }]) ∧
        (∀ req y q rest, o.wait = 2 ^ pkg → x.why = .own req ((y, q) :: rest) → x.wait = [] → ∃ t, exec (.tileAnswerFabric line who off bytes) s = .next t ∧
          t.tileOps = [] ∧ t.msgs = s.msgs ++ [outMsg (s.homeRouter o.line) q o.line (.grant req (!x.kept) rest)]))) ∧
    ∀ off bytes, ∀ i ∈ [Instr.tileReadFabric line who, .tileWriteFabric line who, .tileAnswerFabric line who off bytes],
      ∃ t, exec i s = .next t) ∧
  (∀ (s : State) (who pa : Nat) (write : Bool), s.admits who pa write = true →
    (s.route (chimneyOf pa) (who % 8)).v = true ∧ s.aperture (chimneyOf pa) (who / 8) s.dev.fpkg (pa / 2 ^ 30 % 2 ^ 11) write = true) ∧
  (∀ (s : State) (r : Nat) (v : W64), let lg := v.toNat / 16 % 16
    let w := v.toNat % 16
    let R := s.router r
    let ok := s.pf0Ok s.dev.holder
    (ok = true → lg ≤ 9 → 2 ≤ w → w ≤ 8 → ∃ t, exec (.tclimWrite r v) s = .next t ∧ SameMem s t ∧ t = s.setRouter r { R with
      setlg := lg, ways := w, tree := (t.router r).tree } ∧ (t.router r).tree.length = R.tree.length ∧
      ∀ (k : Nat) (e : TEntry), R.tree[k]? = some e → ∃ out, (t.router r).tree[k]? = some { e with outside := out } ∧
        (out = true ↔ e.outside = true ∨ 2 ^ lg ≤ e.line % 2 ^ R.setlg ∨ w ≤ e.way ∨ e.line % 2 ^ lg ≠ e.line % 2 ^ R.setlg)) ∧
    (ok = false ∨ 9 < lg ∨ w < 2 ∨ 8 < w → exec (.tclimWrite r v) s = .next s)) ∧
  (∀ (s : State) (r : Nat), let R := s.router r
    let may : Prop := s.dev.rgateEn = true ∧ (∀ e ∈ R.tree, e.tear = none) ∧ ∀ m ∈ s.msgs, m.dest ≠ r
    let busy : Prop := (∃ m ∈ s.msgs, m.dest = r) ∨ s.dev.rgateEn = false
    (may → ∃ t, exec (.routerGate r) s = .next t ∧ t = s.setRouter r { R with gated := true } ∧ SameMem s t) ∧
    (¬may → exec (.routerGate r) s = .next s) ∧
    (busy → ∃ t, exec (.routerWake r) s = .next t ∧ t = s.setRouter r { R with gated := false } ∧ SameMem s t) ∧
    (¬busy → exec (.routerWake r) s = .next s))

/-- R368, R373 to R375, R378, R436: ports train, the lease is renewed, taken, held and expires, the heartbeat is written, leadership is taken
over, the succession moves on with time, and a pair that disagrees with itself stops. A request to PF0 does not arrive on a port that is
down and completes with Unsupported Request on one fenced off; one whose conditions do not hold changes nothing. -/
def Obligations.PortEvents : Prop :=
  ∀ s : State,
    let d := s.dev
    let port (p : Nat) (x : Port) : State := { s with dev := { d with ports := mput ⟨false, 0, 0, 0⟩ d.ports p x } }
    (∀ p width rate cxl,
      (p < 2 → 8 ∉ d.off → (width = 8 ∨ width = 16) → 4 ≤ rate → rate ≤ 6 →
        exec (.portTraining p width rate cxl) s = .next (port p ⟨true, width, rate, if cxl = 31 ∨ cxl = 20 then cxl else 0⟩)) ∧
      (p < 2 → 8 ∈ d.off ∨ (width ≠ 8 ∧ width ≠ 16) ∨ rate < 4 ∨ 6 < rate →
        exec (.portTraining p width rate cxl) s = .next (port p ⟨false, 0, 0, 0⟩)) ∧
      (2 ≤ p → exec (.portTraining p width rate cxl) s = .next s)) ∧
    (∀ (p : Nat) (v : W64),
      let per := v.toNat / 2 ^ 16 % 2 ^ 16
      let counts : Prop := v.toNat / 2 ^ 32 = d.epoch ∧ v.getLsbD 0 ≠ v.getLsbD 1
      let renews : Prop := counts ∧ v.getLsbD 0 = true ∧ d.leaseState = 1 ∧ d.holder = p ∧ per ≠ 0
      let takes : Prop := counts ∧ v.getLsbD 1 = true ∧ p < 2 ∧
        (d.leaseState = 0 ∨ d.leaseState = 2 ∨ (d.leaseState = 1 ∧ d.holder ≠ p ∧ per = 0))
      (s.portUp p = false → exec (.leaseRenew p v) s = .next s ∧ exec (.leaseTake p v) s = .next s) ∧
      (s.portUp p = true → s.pf0Fenced p = true →
        exec (.leaseRenew p v) s = .next (s.emitOut (.unsupported p)) ∧ exec (.leaseTake p v) s = .next (s.emitOut (.unsupported p))) ∧
      (s.portUp p = true → s.pf0Fenced p = false →
        (renews → exec (.leaseRenew p v) s = .next { s with dev := { d with renewed := s.gtime, period := per } }) ∧
        (¬renews → exec (.leaseRenew p v) s = .next s) ∧
        (takes → exec (.leaseTake p v) s = .next { s with dev := { d with
          leaseState := 3, taker := some p, period := if per = 0 then d.period else per } }) ∧
        (¬takes → exec (.leaseTake p v) s = .next s))) ∧
    (∀ q, d.leaseState = 3 → d.taker = some q → exec .leaseTakeoverComplete s = .next { s with dev := { d with
      irqs := d.irqs.map fun i => { i with port := q }, epoch := (d.epoch + 1) % 2 ^ 32, holder := q, leaseState := 1, taker := none
      moved := some q, renewed := s.gtime } }) ∧
    (d.leaseState ≠ 3 ∨ d.taker = none → exec .leaseTakeoverComplete s = .next s) ∧
    (d.leaseState = 1 → d.renewed + d.period * 1000000 ≤ s.gtime → exec .leaseExpiry s = .next { s with dev := { d with
      leaseState := 2, irqs := d.irqs ++ [⟨0, 0, 0⟩, ⟨0, 0, 1⟩] } }) ∧
    (d.leaseState ≠ 1 ∨ s.gtime < d.renewed + d.period * 1000000 → exec .leaseExpiry s = .next s) ∧
    (∀ (die : Nat) (v : W64),
      let beats : Prop := s.leads die = true ∧ v.toNat / 2 ^ 32 = d.hbTerm ∧ v.toNat % 8 = die
      (beats → exec (.heartbeat die v) s = .next { s with dev := { d with
        hbCount := v.toNat / 2 ^ 8 % 2 ^ 24, hbStage := 0, hbNext := 0, hbSince := s.gtime } }) ∧
      (¬beats → exec (.heartbeat die v) s = .next s)) ∧
    (∀ (die : Nat) (v : W64),
      let e := d.beatClock s.gtime
      let leads : Prop := e.successor? = some die ∧ v.toNat / 2 ^ 32 = (d.hbTerm + 1) % 2 ^ 32 ∧ v.toNat % 8 = die
      (leads → ∃ t, exec (.leaderTakeover die v) s = .next t ∧ t = { s with dev := { d with
        hbTerm := (d.hbTerm + 1) % 2 ^ 32, hbCount := v.toNat / 2 ^ 8 % 2 ^ 24, hbDie := die, hbStage := 0, hbNext := 0, hbSince := s.gtime } }) ∧
      (¬leads → exec (.leaderTakeover die v) s = .next s)) ∧
    (let ring := ((List.range 7).map fun k => (d.hbDie + k + 1) % 8).filter fun x => bitAt d.sphealth x
     ∃ t, exec .heartbeatTimeout s = .next t ∧ t.dev = d.beatClock s.gtime ∧
      t = { s with dev := { d with hbStage := t.dev.hbStage, hbNext := t.dev.hbNext } } ∧
      ∀ n, d.hbStage = 0 → n * 10000000 ≤ s.gtime - d.hbSince → s.gtime - d.hbSince < (n + 1) * 10000000 →
        t.dev.hbStage = n ∧ t.dev.successor? = if n = 0 then none else ring[(n - 1) % ring.length]?) ∧
    (∀ die,
      (die < 8 → bitAt d.sphealth die = true → ∃ t, exec (.lockstepMismatch die) s = .next t ∧ t = { s with dev := t.dev } ∧
        t.dev = { d.beatClock s.gtime with sphealth := d.sphealth - 2 ^ die, errUe := t.dev.errUe } ∧ bitAt t.dev.sphealth die = false ∧
        (∀ e, e ≠ die → mget 0 t.dev.errUe e = mget 0 d.errUe e) ∧
        mget 0 t.dev.errUe die = (if mget 0 d.errUe die < 2 ^ 16 - 1 then mget 0 d.errUe die + 1 else mget 0 d.errUe die)) ∧
      (8 ≤ die ∨ bitAt d.sphealth die = false → exec (.lockstepMismatch die) s = .next s))

/-- R329, R368, R370 to R375, R377 to R379, R381 to R383, R385, R401, R403, R422, R423, R425, R429, R432, R434, R435, R437, R438: reads and
writes of registers, what PF0 does to ports, partitions and virtual interfaces, images staged for the next reset, the rings of endpoints,
the posts that answer records, and the accesses of service pairs and hosts. A write that its writer may not make changes nothing, a request
to a function fenced off or not enabled completes with Unsupported Request, and none arrives on a port that is down. The shape of binds and
posts (log entry 4), which port and function may write or read while no lease is held or a takeover runs (60), how
far a generator goes past an illegal word (64), the forms of an access and the CXL copies (89) and who drives the rings of an endpoint (98) are the model's choices. -/
def Obligations.RegisterEvents : Prop :=
  ∀ (s : State) (v : W64),
    let d := s.dev
    let x := v.toNat
    let wr (w : Writer) (off : Nat) := exec (.registerWrite w off v) s
    let dev (e : Dev) : Host.Outcome State Fault Refusal := .next { s with dev := e }
    let same : Host.Outcome State Fault Refusal := .next s
    (∀ w, HostWriter s w →
      (wr w 0x40000 = if 2500 ≤ x % 2 ^ 16 ∧ x % 2 ^ 16 ≤ 6200 ∧ 1 ≤ x / 2 ^ 16 % 2 ^ 8 ∧ x / 2 ^ 16 % 2 ^ 8 ≤ 100 then
        dev { d with pwrLimit := x % 2 ^ 16, pwrWindow := x / 2 ^ 16 % 2 ^ 8 } else same) ∧
      (wr w 0x40010 = if 256 ≤ x % 2 ^ 16 then dev { d with rgateIdle := x % 2 ^ 16, rgateEn := v.getLsbD 16 } else same) ∧
      (wr w 0x40100 = if 1 ≤ x % 2 ^ 16 ∧ x % 2 ^ 16 ≤ 720 then dev { d with scrubHours := x % 2 ^ 16, scrubEn := v.getLsbD 16 } else same) ∧
      (∀ die < 9, ∃ t, wr w (0x40108 + 8 * die) = .next t ∧ t = { s with dev := { d with errUe := t.dev.errUe, errCe := t.dev.errCe } } ∧
        (∀ e, e ≠ die → mget 0 t.dev.errUe e = mget 0 d.errUe e ∧ mget 0 t.dev.errCe e = mget 0 d.errCe e) ∧
        mget 0 t.dev.errUe die = 0 ∧ mget 0 t.dev.errCe die = 0) ∧
      wr w 0x40160 = dev { d with diagsel := x / 2 ^ 20 % 2 ^ 12 * 2 ^ 20 + x / 2 ^ 5 % 2 ^ 10 * 2 ^ 5 + x % 2 ^ 5 } ∧
      (d.diagsel % 2 ^ 5 = 1 → exec (.diagdata w (some v)) s = exec (.tclimWrite d.diagRouter v) s) ∧
      (d.diagsel % 2 ^ 5 ≠ 1 → exec (.diagdata w (some v)) s = .next s) ∧
      (∀ p < 64, let P := s.part p
        wr w (0x1000 * p) = .next (s.setPart p { P with
          ft := v.getLsbD 0, svc := v.getLsbD 1, lo := v.getLsbD 2, ps := v.getLsbD 3, er := v.getLsbD 4 }) ∧
        (1000 ≤ x % 2 ^ 32 → wr w (0x1000 * p + 8) = .next (s.setPart p { P with wdtime := x % 2 ^ 32 })) ∧
        (100 ≤ x % 2 ^ 32 → x % 2 ^ 32 ≤ 1000000 → wr w (0x1000 * p + 0x10) = .next (s.setPart p { P with pdeadline := x % 2 ^ 32 })) ∧
        (x % 2 ^ 32 < 1000 → ∃ t, wr w (0x1000 * p + 8) = .next t ∧ t.part p = P ∧ SameMem s t) ∧
        (x % 2 ^ 32 < 100 ∨ 1000000 < x % 2 ^ 32 → ∃ t, wr w (0x1000 * p + 0x10) = .next t ∧ t.part p = P ∧ SameMem s t) ∧
        ∀ o, 0x18 ≤ o → o ≤ 0x38 → wr w (0x1000 * p + o) = .next s)) ∧
    (∀ port off,
      (s.portUp port = false → wr (.pf0 port) off = .next s ∧ exec (.registerAccess (.pf0 port) (.read off)) s = .next s) ∧
      (s.portUp port = true → s.pf0Fenced port = true → wr (.pf0 port) off = .next (s.emitOut (.unsupported port)) ∧
        exec (.registerAccess (.pf0 port) (.read off)) s = .next (s.emitOut (.unsupported port))) ∧
      (s.portUp port = true → s.pf0Fenced port = false →
        (off ≠ 0x40180 → s.pf0Ok port = false → wr (.pf0 port) off = .next s) ∧
        exec (.registerAccess (.pf0 port) (.read off)) s = .next (s.emitOut (.reg off (s.readBar2 off))) ∧
        ∀ n < 2, exec (.registerAccess (.pf0 port) (.readPort n)) s =
          .next (s.emitOut (.port n (s.port n).up (s.port n).width (s.port n).rate (s.port n).cxl d.verified))) ∧
      (v.getLsbD 1 = true → wr (.pf0 port) 0x40180 = exec (.leaseTake port v) s) ∧
      (v.getLsbD 1 = false → wr (.pf0 port) 0x40180 = exec (.leaseRenew port v) s)) ∧
    (∀ die,
      (s.pairRuns die = true → (x / 2 ^ 32 = d.hbTerm → wr (.pair die) 0x40188 = exec (.heartbeat die v) s) ∧
        (x / 2 ^ 32 ≠ d.hbTerm → wr (.pair die) 0x40188 = exec (.leaderTakeover die v) s) ∧
        (∀ off, exec (.registerAccess (.pair die) (.read off)) s = .next (s.emitOut (.reg off (s.readBar2 off)))) ∧
        exec (.diagdata (.pair die) none) s = .next (s.emitOut (.reg 0x40168 s.diagRead))) ∧
      (s.pairRuns die = false → (∀ off, wr (.pair die) off = .next s ∧ exec (.registerAccess (.pair die) (.read off)) s = .next s) ∧
        exec (.diagdata (.pair die) none) s = .next s) ∧
      (∀ off, off ≠ 0x40188 → s.leads die = false ∨ 0x40000 ≤ off → wr (.pair die) off = .next s) ∧
      (s.leads die = true → ∀ p < 64, let P := s.part p
        (∀ o < 0x18, wr (.pair die) (0x1000 * p + o) = .next s) ∧
        wr (.pair die) (0x1000 * p + 0x18) = .next (s.setPart p { P with ring := { P.ring with base := v } }) ∧
        (x % 32 = 0 ∨ (6 ≤ x % 32 ∧ x % 32 ≤ 24) → wr (.pair die) (0x1000 * p + 0x20) =
          .next (s.setPart p { P with ring := { P.ring with lg := x % 32, ctx := x / 2 ^ 8 % 16 } })) ∧
        (0 < x % 32 → x % 32 < 6 ∨ 24 < x % 32 → ∃ t, wr (.pair die) (0x1000 * p + 0x20) = .next t ∧ t.part p = P ∧ SameMem s t) ∧
        wr (.pair die) (0x1000 * p + 0x30) = .next (s.setPart p { P with ring := { P.ring with ci := x % 2 ^ 32 } }) ∧
        wr (.pair die) (0x1000 * p + 0x200) = .next s)) ∧
    (∀ w p, HostWriter s w ∨ PairWriter s w → p < 64 →
      wr w (0x1000 * p + 0x40) = .next (s.setPart p { s.part p with ftpbase := x % 2 ^ 48 }) ∧
      (x % 32 = 0 ∨ (4 ≤ x % 32 ∧ x % 32 ≤ 20) → wr w (0x1000 * p + 0x48) = .next (s.setPart p { s.part p with ftplg := x % 32 }))) ∧
    (∀ w p c die, (∀ port k, w ≠ .vi port k) →
      exec (.rpost w p v) s = wr w (0x1000 * (p % 64) + 0x38) ∧ exec (.ftppush w p v) s = wr w (0x1000 * (p % 64) + 0x50) ∧
      exec (.ctxgenWrite w p c v) s = wr w (0x1000 * (p % 64) + 0x80 + 8 * (c % 16)) ∧
      exec (.ctxrecWrite w p c v) s = wr w (0x1000 * (p % 64) + 0x180 + 8 * (c % 16)) ∧
      exec (.err0Clear w p v) s = wr w (0x1000 * (p % 64) + 0x200) ∧ exec (.isolate w v) s = wr w 0x40150 ∧
      exec (.diagdata w (some v)) s = wr w 0x40168 ∧ exec (.diagdata w none) s = exec (.registerAccess w (.read 0x40168)) s ∧
      exec (.errcntWrite w die) s = exec (.registerWrite w (0x40108 + 8 * (die % 9)) 0) s) ∧
    (∀ port k p c die, let w := Writer.vi port k
      exec (.rpost w p v) s = .next s ∧ exec (.ftppush w p v) s = .next s ∧ exec (.ctxgenWrite w p c v) s = .next s ∧
      exec (.ctxrecWrite w p c v) s = .next s ∧ exec (.err0Clear w p v) s = .next s ∧ exec (.isolate w v) s = .next s ∧
      exec (.diagdata w (some v)) s = .next s ∧ exec (.errcntWrite w die) s = .next s ∧
      exec (.diagdata w none) s = .next (if s.portUp port then s.emitOut (.unsupported port) else s)) ∧
    (∀ port p clusters pages, s.portUp port = true → s.pf0Fenced port = false →
      let may : Prop := s.pf0Ok port = true ∧ p < 64 ∧ s.partRuns p = false
      (may → clusters = [] → pages = [] → exec (.registerAccess (.pf0 port) (.shape p clusters pages)) s =
        .next (s.setPart p { s.part p with exists_ := false, clusters := [], pages := [] })) ∧
      (may → clusters.Nodup → pages.Nodup → clusters ≠ [] → (∀ c ∈ clusters, c < 512 ∧ c / 64 ∉ d.off) → (∀ g ∈ pages, g < 1536) →
        (∀ q ∈ s.parts, q.1 ≠ p → (∀ c ∈ clusters, c ∉ q.2.clusters) ∧ ∀ g ∈ pages, g ∉ q.2.pages) →
        exec (.registerAccess (.pf0 port) (.shape p clusters pages)) s =
          .next (s.setPart p { s.part p with exists_ := true, clusters := clusters, pages := pages })) ∧
      (¬may → exec (.registerAccess (.pf0 port) (.shape p clusters pages)) s = .next s) ∧
      (∀ q ∈ s.parts, q.1 ≠ p → (∃ c ∈ clusters, c ∈ q.2.clusters) ∨ (∃ g ∈ pages, g ∈ q.2.pages) →
        exec (.registerAccess (.pf0 port) (.shape p clusters pages)) s = .next s)) ∧
    (∀ port k (p : Option Nat) e0 e1, s.portUp port = true → s.pf0Fenced port = false →
      let may : Prop := s.pf0Ok port = true ∧ 1 ≤ k ∧ k ≤ 64 ∧ (∀ y, (s.vi k).part = some y → s.partRuns y = false) ∧
        ∀ y, p = some y → s.partRuns y = false ∧ (s.part y).exists_ = true
      (may → exec (.registerAccess (.pf0 port) (.bind k p e0 e1)) s = .next (s.setVi k { s.vi k with part := p, port0 := e0, port1 := e1 })) ∧
      (¬may → exec (.registerAccess (.pf0 port) (.bind k p e0 e1)) s = .next s)) ∧
    (∀ port k,
      (s.portUp port = false → ∀ off q, wr (.vi port k) off = .next s ∧ exec (.registerAccess (.vi port k) (.read off)) s = .next s ∧
        exec (.qpiDoorbell port k q v) s = .next s ∧ exec (.qctlWrite port k q v) s = .next s ∧ exec (.hrpost port k v) s = .next s) ∧
      (s.portUp port = true → s.viServes port k = false → let no : Host.Outcome State Fault Refusal := .next (s.emitOut (.unsupported port))
        ∀ off q, wr (.vi port k) off = no ∧ exec (.registerAccess (.vi port k) (.read off)) s = no ∧
          exec (.qpiDoorbell port k q v) s = no ∧ exec (.qctlWrite port k q v) s = no ∧ exec (.hrpost port k v) s = no) ∧
      (s.viServes port k = true →
        (∀ off, exec (.registerAccess (.vi port k) (.read off)) s = .next (s.emitOut (.reg off (s.readBar0 k off)))) ∧
        (∀ p off, (s.vi k).part = some p → off < 0x18 →
          exec (.registerAccess (.vi port k) (.view off)) s = .next (s.emitOut (.reg off (BitVec.ofNat 64 (s.readPart p off))))) ∧
        exec (.hrpost port k v) s = wr (.vi port k) 0x820 ∧
        (let R := (s.vi k).ring
         let ring (r : Ring) : Host.Outcome State Fault Refusal := .next (s.setVi k { s.vi k with ring := r })
         wr (.vi port k) 0x800 = ring { R with base := v } ∧ wr (.vi port k) 0x818 = ring { R with ci := x % 2 ^ 32 } ∧
         (x % 32 = 0 ∨ (6 ≤ x % 32 ∧ x % 32 ≤ 24) → wr (.vi port k) 0x808 = ring { R with lg := x % 32, ctx := x / 2 ^ 8 % 16 })) ∧
        ∀ q < 32,
          let Q := (s.vi k).queue q
          let as (e : Queue) : Host.Outcome State Fault Refusal := .next (s.onQueue k q fun _ => e)
          let lg := x / 4 % 32
          exec (.qpiDoorbell port k q v) s = as { Q with pi := x % 2 ^ 32 } ∧
          exec (.qpiDoorbell port k q v) s = wr (.vi port k) (0x40 * q + 0x10) ∧ exec (.qctlWrite port k q v) s = wr (.vi port k) (0x40 * q + 8) ∧
          wr (.vi port k) (0x40 * q) = as (if Q.en = true then Q else { Q with base := v }) ∧
          exec (.qctlWrite port k q v) s =
            (if lg < 4 ∨ 16 < lg ∨ (Q.en = true ∧ v.getLsbD 0 = true) then as Q
             else if Q.en = true then as { Q with en := false, err := 0, ci := 0, pi := 0 }
             else as { Q with ctx := x / 2 ^ 8 % 16, lg := lg, fmt := v.getLsbD 1, en := v.getLsbD 0 }) ∧
          ∀ e, let t := s.onQueue k q fun _ => e
            (t.vi k).queue q = e ∧ (∀ q', q' ≠ q → (t.vi k).queue q' = (s.vi k).queue q') ∧ (t.vi k).ring = (s.vi k).ring ∧
            (t.vi k).part = (s.vi k).part ∧ ∀ k', k' ≠ k → t.vi k' = s.vi k')) ∧
    (∀ port k, let V := s.vi k
      let enabled := if port = 0 then V.port0 else decide (port = 1) && V.port1
      (s.viServes port k = true ↔ 1 ≤ k ∧ k ≤ 64 ∧ V.part ≠ none ∧ s.portUp port = true ∧ s.portServes port k = true ∧ d.verified = true) ∧
      (d.leaseState = 0 → s.portServes port k = enabled) ∧
      (d.leaseState = 3 → s.portServes port k = (decide (d.taker = some port) && (match d.moved with
        | some q => decide (q = port)
        | none => enabled))) ∧
      (d.leaseState ≠ 0 → d.leaseState ≠ 3 → s.portServes port k = decide (d.holder = port))) ∧
    (∀ port k version digest asks, s.portUp port = true → s.pf0Fenced port = false →
      let stage := exec (.registerAccess (.pf0 port) (.stage k version digest asks)) s
      (s.pf0Ok port = true → 1 ≤ k → k ≤ 3 → stage = dev { d with staged := mput .zero d.staged k ⟨version, digest, asks⟩ }) ∧
      (s.pf0Ok port = false ∨ k < 1 ∨ 3 < k → stage = same)) ∧
    (∀ (w : Writer) (e : Nat), let op (o : RegOp) := exec (.registerAccess w o) s
      let drives : Prop := (∃ die, w = .pair die ∧ s.leads die = true ∧ e < 1024) ∨
        ∃ port k, w = .vi port k ∧ s.viServes port k = true ∧ (s.vi k).part = some (e / 16)
      (drives → (∀ ctx ring, op (.endpoint e ctx ring 0) = dev { d with eps := merase d.eps e }) ∧
        (∀ ctx ring lg, lg ≠ 0 → op (.endpoint e ctx ring lg) = dev { d with eps := lset d.eps e ⟨e / 16, ctx % 16, [], [], [], ring, lg, 0⟩ }) ∧
        (∀ E va size, lget d.eps e = some E →
          op (.postBuffer e va size) = dev { d with eps := lset d.eps e { E with bufs := E.bufs ++ [(va, size % 2 ^ 32)] } }) ∧
        (∀ E desc, lget d.eps e = some E → desc.length = 64 → op (.postSend e desc) = dev { d with eps := lset d.eps e { E with send := E.send ++ [desc] } }) ∧
        (∀ desc, desc.length ≠ 64 → op (.postSend e desc) = same)) ∧
      (¬drives → (∀ port k, w = .vi port k → s.viServes port k = true) → (∀ ctx ring lg, op (.endpoint e ctx ring lg) = same) ∧ (∀ va size, op (.postBuffer e va size) = same) ∧
        ∀ desc, op (.postSend e desc) = same)) ∧
    (∀ p (k : Nat) (ex : Host.Outcome State Fault Refusal),
      ((∃ w, PairWriter s w ∧ ex = exec (.rpost w p v) s) ∧ p < 64 ∧ k = 0) ∨
        (∃ port, s.viServes port k = true ∧ (s.vi k).part = some p ∧ ex = exec (.hrpost port k v) s) →
      let hit := (s.part p).posted.find? fun y => decide (y.vi = k) && decide (y.unit = x % 2 ^ 32)
      let act := x / 2 ^ 32 % 2 ^ 8
      (hit = none → ex = .next s) ∧
      ∀ y, hit = some y →
        let done (u : State) : Host.Outcome State Fault Refusal := .next (u.setPart p { u.part p with posted := (u.part p).posted.erase y })
        (∀ team T, y.rcd.who = .team team → s.team? team = some T →
          (act = 0 → y.rcd.kind < 2 → ∀ n z r, T.status = .switchedOut n z r → ex = done (s.setTeam team { T with status := .switchedOut n z true })) ∧
          (act = 0 → y.rcd.kind < 2 → ∀ n e ls r, T.status = .parked (.called n e ls r) →
            ex = done (s.setTeam team { T with status := .parked (.called n e ls true) })) ∧
          (act = 0 → y.rcd.kind < 2 → (∀ n z r, T.status ≠ .switchedOut n z r) → (∀ n e ls r, T.status ≠ .parked (.called n e ls r)) →
            ex = done s) ∧
          (act = 1 → y.rcd.kind = 1 → ex = done (s.fatal (.team team) 4)) ∧
          (1 < act ∨ 1 < y.rcd.kind ∨ (act = 1 ∧ y.rcd.kind = 0) → ex = .next s)) ∧
        (∀ g G, y.rcd.who = .gen g → s.gen? g = some G →
          (act < 2 ∨ 4 < act → ex = .next s) ∧
          (2 ≤ act → act ≤ 4 → G.status ≠ .parked .answer → ex = done s) ∧
          (G.status = .parked .answer →
            (act = 2 → ex = done (s.setGen g { G with status := .ready, faulted := none })) ∧
            (act = 3 → ex = done (s.setGen g { G with
              status := .ready, faulted := none, emitting := none
              th := { G.th with pc := G.th.pc + BitVec.ofNat 64 (s.genWordLen G.ctx G.th.pc) } })) ∧
            (act = 4 → ex = done (s.fatal (.gen g) (G.faulted.getD 0))))) ∧
        ∀ c, y.rcd.who = .halt c → ex = if act = 0 then done s else .next s) ∧
    (∀ p, let u := s.tellHalts p
      (∀ k, (s.ringOf p true).map (·.1) ≠ some k → exec (.ringRecordPost p (some k)) s = .next s) ∧
      ∀ (vi : Option Nat), vi = none ∨ (s.ringOf p true).map (·.1) = vi →
        let first := (u.part p).waiting.find? fun r => decide (r.host = vi.isSome)
        (first = none ∨ u.ringOf p vi.isSome = none → exec (.ringRecordPost p vi) s = .next u) ∧
        ∀ rcd i r, first = some rcd → u.ringOf p vi.isSome = some (i, r) →
          let n := (rcd.bytes.length + 63) / 64
          (2 ^ r.lg < (2 ^ 32 + r.pi - r.ci) % 2 ^ 32 + n → exec (.ringRecordPost p vi) s = .next u) ∧
          ((2 ^ 32 + r.pi - r.ci) % 2 ^ 32 + n ≤ 2 ^ r.lg →
            (∀ e, u.writeUnits (16 * p + r.ctx) r (n + 1) r.pi rcd.bytes = .error e → exec (.ringRecordPost p vi) s = .next u) ∧
            ∀ u', u.writeUnits (16 * p + r.ctx) r (n + 1) r.pi rcd.bytes = .ok u' →
              ∃ t, exec (.ringRecordPost p vi) s = .next t ∧ SameMem u' t ∧ (t.part p).waiting = (u'.part p).waiting.erase rcd ∧
                (t.part p).posted = (u'.part p).posted ++ [⟨i, r.pi, rcd⟩] ∧
                (vi = none → (t.part p).ring = { r with pi := (r.pi + n) % 2 ^ 32 } ∧ t.dev = u'.dev) ∧
                (vi ≠ none → (t.vi i).ring = { r with pi := (r.pi + n) % 2 ^ 32 } ∧ t.dev.irqs = u'.dev.irqs ++ [⟨i, 1, u'.irqPort i⟩]))) ∧
    (∀ die,
      (∀ acc, s.pairRuns die = false → exec (.servicePairAccess die acc) s = .next s) ∧
      (s.pairRuns die = true →
        let run (acc : PairAccess) := exec (.servicePairAccess die acc) s
        let fault (pa : Nat) : Host.Outcome State Fault Refusal := .next (s.emitOut (.hartFault die pa))
        (∀ pa n, (∀ off, pairWindow pa = some off → run (.load pa n) = exec (.registerAccess (.pair die) (.read off)) s) ∧
          (pairWindow pa = none → run (.load pa n) = if s.pairMem pa n = true ∧ s.poisoned pa n = false
            then .next (s.emitOut (.mem pa (s.memRd pa n) [])) else fault pa)) ∧
        (∀ pa bs, (∀ off, pairWindow pa = some off →
            run (.store pa bs) = exec (.registerWrite (.pair die) off (BitVec.ofNat 64 (leNat bs))) s) ∧
          (pairWindow pa = none → s.pairMem pa bs.length = false → run (.store pa bs) = fault pa) ∧
          (pairWindow pa = none → s.pairMem pa bs.length = true → ∃ t, run (.store pa bs) = .next t ∧ t = s.perform pa bs ∧
            (∀ k < bs.length, t.mem8 (pa + k) = bs.getD k 0) ∧ ∀ y, ¬(pa ≤ y ∧ y < pa + bs.length) → t.mem8 y = s.mem8 y)) ∧
        (∀ (wide : Bool) pa, let n := if wide then 8 else 4
          let u := s.emitOut (.mem pa (s.memRd pa n) [])
          (s.pairMem pa n = false ∨ pa % n ≠ 0 → run (.storeConditional wide pa v) = fault pa) ∧
          (s.pairMem pa n = false ∨ pa % n ≠ 0 ∨ s.poisoned pa n = true →
            (∀ op, run (.amo op wide pa v) = fault pa) ∧ run (.loadReserved wide pa) = fault pa) ∧
          (s.pairMem pa n = true → pa % n = 0 → s.poisoned pa n = false →
            (let a : BitVec (8 * n) := BitVec.ofNat (8 * n) (leNat (s.memRd pa n))
             let b : BitVec (8 * n) := v.setWidth (8 * n)
             ∀ (op : Nat) (y : BitVec (8 * n)), [b, a + b, a ^^^ b, a &&& b, a ||| b, if a.slt b then a else b, if b.slt a then a else b,
                 if a.ult b then a else b, if b.ult a then a else b][op]? = some y →
               run (.amo op wide pa v) = .next (u.perform pa (natLe n y.toNat))) ∧
            run (.loadReserved wide pa) = .next { u with resv := mput 0 s.resv die (pa / 128 + 1) }) ∧
          (s.pairMem pa n = true → pa % n = 0 →
            (mget 0 s.resv die = pa / 128 + 1 → run (.storeConditional wide pa v) =
              .next ({ s.emitOut (.conditional die true) with resv := merase s.resv die }.perform pa (natLe n v.toNat))) ∧
            (mget 0 s.resv die ≠ pa / 128 + 1 → run (.storeConditional wide pa v) =
              .next { s.emitOut (.conditional die false) with resv := merase s.resv die }))) ∧
        run .fence = .next s)) ∧
    (∀ port pa bs, let cxl := (s.port port).cxl
      let run (write : Bool) := exec (.hostMemoryAccess port pa bs write) s
      let lo := if cxl = 20 then pa / 65536 * 512 else pa / 128
      let hi := if cxl = 20 then (pa + bs.length - 1) / 65536 * 512 + 512 else (pa + bs.length + 127) / 128
      let held := s.heldLines lo hi
      (s.portUp port = false → ∀ b, run b = .next s) ∧
      (s.portUp port = true → cxl = 0 ∨ s.hostReaches port pa bs.length = false → ∀ b, run b = .next (s.emitOut (.unsupported port))) ∧
      (s.portUp port = true → cxl ≠ 0 → s.hostReaches port pa bs.length = true →
        (∀ b : Bool, cxl = 20 ∨ b = true → held ≠ [] → run b = .next (held.foldl (fun s l => s.tearLine l) s)) ∧
        (held = [] → ∃ t, run true = .next t ∧ t = s.perform pa bs ∧ (∀ k < bs.length, t.mem8 (pa + k) = bs.getD k 0) ∧
          ∀ y, ¬(pa ≤ y ∧ y < pa + bs.length) → t.mem8 y = s.mem8 y) ∧
        (cxl = 20 → held = [] → run false = .next (s.emitOut (.mem pa (s.memRd pa bs.length) (s.badSectors pa bs.length)))) ∧
        (cxl ≠ 20 → ∃ t, run false = .next t ∧ t = { s.emitOut (.mem pa (s.memRd pa bs.length) (s.badSectors pa bs.length)) with
          hostLines := t.hostLines, lines := t.lines } ∧ SameMem s t ∧ (∀ l, lo ≤ l → l < hi → l ∈ t.hostLines) ∧ ∀ l ∈ s.hostLines, l ∈ t.hostLines)))

/-- R385 to R395: the head command of the queue in turn is taken; a LAUNCH takes the next SER and is accepted with its waits, or refused
with its record written at once; a WAIT holds the queue until its word is high enough; a SIGNAL is written once the launches before it have
written their records; an accepted launch whose waits have ended is dispatched, and one that has ended writes its record. An event that is
not the queue's next changes nothing. Reserved bytes and bits that are ignored (log entry 37), an entry with ERR 1 that CI counts and a
completion record whose write faults (51), when every team of a producer has triggered (52) and what becomes of the oldest of 64 readers (53)
are the model's choices. -/
def Obligations.QueueEvents : Prop :=
  (∀ (s : State) (i q ctx : Nat), s.queueCtx i q = some ctx →
    let Q := (s.vi i).queue q
    let same : Host.Outcome State Fault Refusal := .next s
    let served (w : State) : State := w.setCtx ctx { s.ctx ctx with lastQ := 32 * (i - 1) + q }
    let ringed : Queue := { Q with ci := (Q.ci + 1) % 2 ^ 32, turn := decide (Q.dev ≠ []) }
    let u := served (s.onQueue i q fun _ => ringed)
    let irqs (on : Bool) (w : State) : List Irq := w.dev.irqs ++ (if on then [⟨i, 2 + q, w.irqPort i⟩] else [])
    let free := Q.signals.find? s.signalReady = none
    (s.inTurn i q = false → exec (.queueNop i q) s = same ∧ exec (.launch i q) s = same ∧ (Q.wait = none → exec (.queueWait i q) s = same) ∧
      (free → exec (.signal i q) s = same)) ∧
    (∀ e, s.inTurn i q = true → s.head i q = .bad e →
      let bad : Host.Outcome State Fault Refusal := .next (s.onQueue i q fun _ => { Q with err := e, ci := if e = 1 then (Q.ci + 1) % 2 ^ 32 else Q.ci })
      exec (.queueNop i q) s = bad ∧ exec (.launch i q) s = bad ∧ (Q.wait = none → exec (.queueWait i q) s = bad) ∧
        (free → exec (.signal i q) s = bad)) ∧
    (∀ k b, s.inTurn i q = true → s.head i q = .cmd k b →
      (k ≠ 0 → exec (.queueNop i q) s = same) ∧ (k ≠ 1 → exec (.launch i q) s = same) ∧
      (k ≠ 2 → Q.wait = none → exec (.queueWait i q) s = same) ∧ (k ≠ 3 → free → exec (.signal i q) s = same) ∧
      (k = 0 → ∃ t, exec (.queueNop i q) s = .next t ∧ t = { u with dev := { s.dev with irqs := irqs (wantsIrq b) s } } ∧ SameMem s t)) ∧
    (∀ r, s.inTurn i q = true → s.head i q = .dev r →
      exec (.queueNop i q) s = same ∧ (Q.wait = none → exec (.queueWait i q) s = same) ∧ (free → exec (.signal i q) s = same)) ∧
    (∀ (w : State) (q' : Queue) (irq : Bool) (crec : W64),
      (∃ b, s.inTurn i q = true ∧ s.head i q = .cmd 1 b ∧ w = u ∧ q' = ringed ∧ irq = wantsIrq b ∧ crec = BitVec.ofNat 64 (leAt b 16 8)) ∨
        (∃ r, s.inTurn i q = true ∧ s.head i q = .dev r ∧ q' = { Q with dev := Q.dev.tail, turn := false } ∧
          w = served (s.onQueue i q fun _ => q') ∧ irq = false ∧ crec = 0) →
      ∃ v L, v.launch? s.uid = some L ∧ v.uid = s.uid + 1 ∧ SameMem s v ∧
        (L.reason = 0 → exec (.launch i q) s = .next v) ∧ (L.reason ≠ 0 → exec (.launch i q) s = .next (v.writeCompletion s.uid L 1)) ∧
        L.phase = (if L.reason = 0 then .waiting else .ended 1) ∧ L.ctx = ctx ∧ L.from? = ⟨i, q, Q.fmt, irq⟩ ∧ L.crec = crec ∧
        L.ser = (s.ctx ctx).ser ∧ (v.ctx ctx).ser = ((s.ctx ctx).ser + 1) % 2 ^ 64 ∧ (v.ctx ctx).lastQ = 32 * (i - 1) + q ∧
        L.recorded = false ∧ L.retired = [] ∧ L.dies = [] ∧
        (v.vi i).queue q = { q' with launches := Q.launches ++ [s.uid], lastV1 := if Q.fmt then some s.uid else Q.lastV1 } ∧
        (Q.fmt = true → L.reason = 0 → (L.waits, L.waitTrig) = match Q.lastV1 with
          | none => ([], none)
          | some k => if (s.launch? k).map (fun K => K.rcd.trig) = some 1 then ([], some k) else ([k], none)) ∧
        (∀ raw, (s.head i q = .dev raw ∨ ∃ b, s.head i q = .cmd 1 b ∧ leAt b 8 8 % 256 = 0 ∧ leAt b 16 8 % 64 = 0 ∧
            (Q.fmt = false → leAt b 24 8 % 8 = 0 ∧ leAt b 32 4 % 64 = 0 ∧ leAt b 4 4 = 0) ∧ u.readVa ctx 2 (leAt b 8 8) 256 = .ok raw) →
          L.rcd = Record.parse raw ∧ L.reason = w.refusal ctx (some raw) [] false Q.fmt ∧
          (L.reason = 0 → Q.fmt = false → (s.part (ctxPart ctx)).lo = false → ∀ h m, (h, m) ∈ declares L.rcd.bufs [] →
            (v.ctx ctx).handle h = ((s.ctx ctx).handle h).note m s.uid ∧ ∀ x ∈ ((s.ctx ctx).handle h).waits m, x ∈ L.waits)) ∧
        (∀ b, s.head i q = .cmd 1 b → leAt b 8 8 % 256 ≠ 0 → L.reason = 11)) ∧
    (∀ (w : State) (c : Nat) (b : List Byte),
      (w = s ∧ Q.wait = some (c, b) ∧ s.ctxRuns c = true) ∨ (w = u ∧ c = ctx ∧ Q.wait = none ∧ s.inTurn i q = true ∧ s.head i q = .cmd 2 b) →
      ∃ t, exec (.queueWait i q) s = .next t ∧ SameMem s t ∧ t.ctx ctx = w.ctx ctx ∧
        let R := (w.vi i).queue q
        (leAt b 8 8 % 8 ≠ 0 ∨ (∃ e, w.readVa c 2 (leAt b 8 8) 8 = .error e) →
          (t.vi i).queue q = { R with wait := none, err := 3 } ∧ t.dev = s.dev) ∧
        (leAt b 8 8 % 8 = 0 → ∀ x, w.readVa c 2 (leAt b 8 8) 8 = .ok x →
          (leNat x < leAt b 16 8 → (t.vi i).queue q = { R with wait := some (c, b) } ∧ t.dev = s.dev) ∧
          (leAt b 16 8 ≤ leNat x → (t.vi i).queue q = { R with wait := none } ∧ t.dev.irqs = irqs (wantsIrq b) s))) ∧
    (∀ c b, Q.wait = some (c, b) → s.ctxRuns c = false → exec (.queueWait i q) s = same) ∧
    (∀ b, s.inTurn i q = true → s.head i q = .cmd 3 b → free → ∃ t, exec (.signal i q) s = .next t ∧ SameMem s t ∧ t.ctx ctx = u.ctx ctx ∧
      t.dev = s.dev ∧ (t.vi i).queue q = { ringed with signals := Q.signals ++
        [⟨BitVec.ofNat 64 (leAt b 8 8), BitVec.ofNat 64 (leAt b 16 8), ctx, s.unrecorded Q, wantsIrq b⟩] }) ∧
    (∀ x, Q.signals.find? s.signalReady = some x →
      let less : Queue := { Q with signals := Q.signals.erase x }
      let w := s.onQueue i q fun _ => less
      (x.addr.toNat % 8 ≠ 0 ∨ (∃ e, w.writeVa x.ctx 2 x.addr.toNat (natLe 8 x.value.toNat) = .error e) → ∃ t, exec (.signal i q) s = .next t ∧
        (t.vi i).queue q = { less with err := 3 } ∧ t.dev = s.dev ∧ SameMem s t) ∧
      (x.addr.toNat % 8 = 0 → ∀ s' : State, w.writeVa x.ctx 2 x.addr.toNat (natLe 8 x.value.toNat) = .ok s' →
        ∃ t, exec (.signal i q) s = .next t ∧ t = { s' with dev := { s'.dev with irqs := irqs x.irq s' } }))) ∧
  (∀ (s : State) (l : Nat),
    (s.launch? l = none → exec (.launchHandleDispatch l) s = .next s ∧ exec (.completionRecord l) s = .next s) ∧
    ∀ L, s.launch? l = some L → let c := s.ctx L.ctx
      let ready : Prop := L.phase = .waiting ∧ s.ctxRuns L.ctx = true ∧ (∀ k ∈ L.waits, s.retiredL k = true) ∧
        ∀ k, L.waitTrig = some k → s.allTriggered k = true
      (ready → exec (.launchHandleDispatch l) s =
        .next (s.setLaunch l { L with phase := if L.rcd.cor then .reserving else .running, dies := L.rcd.byDie })) ∧
      (¬ready → exec (.launchHandleDispatch l) s = .next s) ∧
      (∀ k, L.phase = .ended k → L.recorded = true → exec (.completionRecord l) s = .next s) ∧
      (∀ k, L.phase = .ended k → L.recorded = false → exec (.completionRecord l) s = .next (s.writeCompletion l L k)) ∧
      ((∀ k, L.phase ≠ .ended k) → c.mode ≠ .halted ∨ s.haltDone L.ctx = false → exec (.completionRecord l) s = .next s) ∧
      ((∀ k, L.phase ≠ .ended k) → c.mode = .halted → s.haltDone L.ctx = true → let k := if c.late then 3 else 2
        exec (.completionRecord l) s = .next ((s.endLaunches L.ctx k).writeCompletion l { L with phase := .ended k, reserved := [], cause := c.cause } k))) ∧
  (∀ (s : State) (l k : Nat) (L : Launch),
    let o := L.from?
    let t := s.writeCompletion l L k
    let s1 := (s.setLaunch l { L with recorded := true }).onQueue o.vi o.q fun R => { R with launches := R.launches.filter fun x => decide (x ≠ l) }
    let irqs (w : State) : List Irq := w.dev.irqs ++ (if o.irq then [⟨o.vi, 2 + o.q, w.irqPort o.vi⟩] else [])
    s1.launch? l = some { L with recorded := true } ∧ l ∉ ((s1.vi o.vi).queue o.q).launches ∧
    (L.crec = 0 → t = { s1 with dev := { s1.dev with irqs := irqs s1 } }) ∧
    (L.crec ≠ 0 → L.crsize < 128 → ((t.vi o.vi).queue o.q).err = 3 ∧ t.dev.irqs = irqs s1 ∧ SameMem s t) ∧
    (L.crec ≠ 0 → 128 ≤ L.crsize → ∀ s' : State, s1.writeVa L.ctx 3 L.crec.toNat (L.completion k s.gtime) = .ok s' →
      t = { s' with dev := { s'.dev with irqs := irqs s' } }) ∧
    (L.crec ≠ 0 → 128 ≤ L.crsize → ∀ e, s1.writeVa L.ctx 3 L.crec.toNat (L.completion k s.gtime) = .error e →
      t = { s1 with dev := { s1.dev with irqs := irqs s1 } })) ∧
  (∀ (L : Launch) (k g : Nat), let b := L.completion k g
    let runs := (List.range 8).flatMap fun d => (runsOf (L.retiredOn d)).map fun r => (d, r)
    let kept := runs.take ((L.crsize - 128) / 8)
    b.length = 128 + 8 * kept.length ∧ (L.reason ≤ 12 → k ≤ 3 → leAt b 0 4 = 2 ^ 31 + 256 * L.reason + k) ∧
    leAt b 4 4 = (if k = 2 then L.cause % 2 ^ 32 else 0) ∧ leAt b 8 8 = L.ser % 2 ^ 64 ∧ leAt b 16 8 = g % 2 ^ 64 ∧
    leAt b 24 4 = b.length % 2 ^ 32 ∧
    (∀ d < 8, leAt b (64 + 8 * d) 4 = (L.retiredOn d).length % 2 ^ 32 ∧
      leAt b (68 + 8 * d) 2 = (kept.filter fun r => decide (r.1 = d)).length % 2 ^ 16 ∧
      leAt b (70 + 8 * d) 2 = if (runs.drop ((L.crsize - 128) / 8)).any (fun r => decide (r.1 = d)) then 1 else 0) ∧
    ∀ j x, kept[j]? = some x → leAt b (128 + 8 * j) 4 = x.2.1 % 2 ^ 32 ∧ leAt b (132 + 8 * j) 4 = x.2.2 % 2 ^ 32)

/-- R401 to R406, R413: the context generation changes and is completed once the accesses and stores of earlier ones are performed, a frame
enters the pool zeroed behind every cache, the context record is bound and read, and the error record is cleared. A write that its
conditions do not admit changes nothing. When a record written after the context has run is read (log entry 50), the frame that is zeroed in one
step (65) and the accesses and stores that a generation waits for (66) are the model's choices. -/
def Obligations.ContextEvents : Prop :=
  ∀ (s : State) (w : Writer) (p c : Nat) (v : W64), p < 64 → c < 16 →
    let ctx := 16 * p + c
    let P := s.part p
    let C := s.ctx ctx
    let writes : Prop := HostWriter s w ∨ PairWriter s w
    (writes → C.gen = v.toNat % 2 ^ 32 → exec (.ctxgenWrite w p c v) s = .next s) ∧
    (writes → C.gen ≠ v.toNat % 2 ^ 32 → ∃ t, exec (.ctxgenWrite w p c v) s = .next t ∧ t = { s with ctxs := t.ctxs } ∧ t.ctx ctx = { C with
      gen := v.toNat % 2 ^ 32, genSeq := C.genSeq + 1, tlb := C.tlb.filter fun e => decide (e.gen = v.toNat % 2 ^ 32)
      genWait := s.storesLeft p } ∧ ∀ x, x ≠ ctx → t.ctx x = s.ctx x) ∧
    (let old (th : Thread) : Prop := ∃ q ∈ th.pend, ∃ m, q.work = .mem m ∧ ∃ l ∈ m.lanes, l.spot.isSome = true ∧ l.gen ≠ C.genSeq ∧
       (l.stage = .checked ∨ l.stage = .sent)
     let done : Prop := (∀ q ∈ s.teams, q.2.ctx = ctx → q.1 / 131072 ∉ s.dev.off → ¬old q.2.th) ∧
       (∀ q ∈ s.gens, q.2.ctx = ctx → q.1 / 1024 ∉ s.dev.off → ¬old q.2.th) ∧
       ∀ x ∈ C.genWait, x.1 / 1024 ∈ s.dev.off ∨
         ((∀ e ∈ s.sbuf x.1, e.sector / 4 ≠ x.2) ∧ ∀ e ∈ (s.cluster (x.1 / 16)).cistern, e.line ≠ x.2)
     (done → exec (.generationDone p c) s = .next (s.setCtx ctx { C with gendone := C.gen, genWait := [] })) ∧
     (¬done → exec (.generationDone p c) s = .next s)) ∧
    (writes →
      let put := leNat (s.memRd (P.ftpbase + 8) 8)
      let slot := P.ftpbase + 64 + 8 * (put % 2 ^ P.ftplg)
      let inFrame (pa : Nat) : Prop := v.toNat ≤ pa ∧ pa < v.toNat + 65536
      let room : Prop := (2 ^ 64 + put - leNat (s.memRd P.ftpbase 8)) % 2 ^ 64 < 2 ^ P.ftplg
      let takes : Prop := P.ftplg ≠ 0 ∧ v.toNat % 65536 = 0 ∧ v.toNat < 2 ^ 48 ∧ room
      (takes → ∃ t, exec (.ftppush w p v) s = .next t ∧
        (∀ k < 8, t.mem8 (slot + k) = (natLe 8 v.toNat).getD k 0 ∧ t.mem8 (P.ftpbase + 8 + k) = (natLe 8 (put + 1)).getD k 0) ∧
        (∀ pa, ¬(slot ≤ pa ∧ pa < slot + 8) → ¬(P.ftpbase + 8 ≤ pa ∧ pa < P.ftpbase + 16) → inFrame pa → t.mem8 pa = 0) ∧
        (∀ pa, ¬(slot ≤ pa ∧ pa < slot + 8) → ¬(P.ftpbase + 8 ≤ pa ∧ pa < P.ftpbase + 16) → ¬inFrame pa → t.mem8 pa = s.mem8 pa) ∧
        (∀ h l, h < 8256 → inFrame (128 * l) → t.line h l = .i) ∧ ∀ n ∈ t.poison, ¬inFrame (32 * n)) ∧
      (¬takes → exec (.ftppush w p v) s = .next s)) ∧
    (writes →
      let live : Prop := (∃ q ∈ s.teams, q.2.ctx = ctx ∧ q.2.status.active = true) ∨ (∃ q ∈ s.gens, q.2.ctx = ctx ∧ q.2.status.active = true) ∨
        ∃ q ∈ s.cores, (∃ j ∈ (s.core q.1).jobs, j.ctx = ctx) ∨ ∃ e ∈ (s.core q.1).queue, (s.block? e.blk).map (·.ctx) = some ctx
      (live → exec (.ctxrecWrite w p c v) s = .next s) ∧
      (¬live → ∃ t, exec (.ctxrecWrite w p c v) s = .next t ∧ t = { s with ctxs := t.ctxs, cores := t.cores } ∧ (∀ x, x ≠ ctx → t.ctx x = s.ctx x) ∧
        ((s.cores.map (·.1)).Nodup → ∀ n, t.core n = { s.core n with himg := (s.core n).himg.filter fun x => decide (x.1 ≠ ctx) }) ∧
        t.ctx ctx = { C with
          ctxrec := v &&& 0x8000FFFFFFFFFFC0, mode := if C.mode = .running then .idle else C.mode
          acc := if v.getLsbD 63 then CtxRec.parse (s.memRd (v.toNat / 64 % 2 ^ 42 * 64) 128) else C.acc })) ∧
    (HostWriter s w → v.getLsbD 63 = true → exec (.err0Clear w p v) s = .next (s.setPart p { P with
      err0v := false, err0lost := false, err0cause := 0, err1loc := 0, err1cid := 0, err2 := 0, err3 := 0 })) ∧
    (HostWriter s w → v.getLsbD 63 = false → exec (.err0Clear w p v) s = .next s) ∧
    (PairWriter s w → exec (.err0Clear w p v) s = .next s)

/-- R360, R375, R376, R417 to R419, R421 to R423, R425 to R427, R431 to R436, R438, R439: the fabric's tables and messages, power, errors,
the loss and isolation of a die, the loss of a link, scrubbing, attestation, and the device reset. The model's choices: the numbers of the
tables (log entry 8), what other packages do (42), the die that a corrected error of a sector counts at (57), what a reset leaves of memory
(59), where an error strikes (67), the numbers of the links and which of them a context's traffic crosses (86), the check of an incoming
request (96), the link of a dead interface and the contexts that use a chimney die (97), and a completion whose write faults (98). -/
def Obligations.DeviceEvents : Prop :=
  ∀ s : State,
    let d := s.dev
    let dev (e : Dev) : State := { s with dev := e }
    let more (x w : Nat) : Nat := if x < 2 ^ w - 1 then x + 1 else x
    let counted (t : State) (die : Nat) : Prop := ∀ e, mget 0 t.dev.errUe e = if e = die then more (mget 0 d.errUe e) 16 else mget 0 d.errUe e
    let cut (i : Instr) (u : State) : Prop := ∃ t, exec i s = .next t ∧ t.dev.froute = u.dev.froute ∧ t.dev.failedPairs = u.dev.failedPairs ∧
      ((∀ g < 8, u.cutOff g = true → s.cutOff g = true) → t = u) ∧
      ∀ g < 8, u.cutOff g = true → s.cutOff g = false →
        (∀ y ∈ s.waitsOn g, s.inUse y = true → (t.ctx y).mode = .halted ∧ (t.ctx y).cause = 0xF) ∧
        (∀ q ∈ t.dev.eps, ∀ x ∈ q.2.flying, leAt x 1 1 ≠ g) ∧
        (s.tileOps = [] → (s.tiles.map (·.1)).Nodup → SameMem s t ∧ ∀ k, bitAt (mget 0 t.tiles k) g = false)
    let halted (t : State) (ctx : Nat) : Prop := (t.ctx ctx).mode = .halted ∨ (t.ctx ctx).mode = .lost
    (∀ reg (v : W64), let c := reg / 512
      let k := reg % 512
      let i := Instr.fabricTableWrite reg v
      (c < 4 → k < 8 → cut i (dev { d with froute := mput .zero d.froute (8 * c + k) ⟨v.getLsbD 63, v.toNat % 2 ^ 32⟩ })) ∧
      (c < 4 → 8 ≤ k → k < 264 →
        let a : Aper := ⟨v.getLsbD 63, v.getLsbD 62, v.getLsbD 61, v.toNat / 2 ^ 58 % 8, v.toNat / 2 ^ 52 % 64, v.toNat / 2 ^ 30 % 2048,
          v.toNat / 2 ^ 19 % 2048⟩
        exec i s = .next (dev { d with faper := mput .zero d.faper (256 * c + (k - 8)) a })) ∧
      (c < 4 → k = 264 → exec i s = .next (dev { d with fpkg := v.toNat % 8 })) ∧ (4 ≤ c ∨ 264 < k → exec i s = .next s)) ∧
    (∀ pair,
      (32 ≤ pair ∨ pair ∈ d.failedPairs → exec (.fibrePairFailure pair) s = .next s) ∧
      (pair < 32 → pair ∉ d.failedPairs → (d.froute.map (·.1)).Nodup → ∃ m,
        (∀ k, mget .zero m k = let r := mget .zero d.froute k
          if bitAt r.mask pair then { r with mask := r.mask - 2 ^ pair } else r) ∧
        cut (.fibrePairFailure pair) (dev { d with failedPairs := pair :: d.failedPairs, froute := m }))) ∧
    (∀ (ctx va : Nat) (acc : Access) (asker : Option Nat) (n : Nat),
      let admitted (pa : Nat) : Prop := ∀ b, asker = some b → paRemote pa = true ∨ s.admits b pa (decide (acc = .write)) = true
      (2 ^ 52 ≤ va → s.spanPa ctx va acc asker = .error 2) ∧
      (∀ p, va < 2 ^ 52 → s.translate ctx va acc false = .ok p →
        (admitted p.1 → s.spanPa ctx va acc asker = .ok p.1) ∧ (¬admitted p.1 → s.spanPa ctx va acc asker = .error 4)) ∧
      (∀ e, va < 2 ^ 52 → s.translate ctx va acc false = .error e →
        s.spanPa ctx va acc asker = .error (if e = 0xF then 15 else if s.aperRefused ctx va acc = true then 4 else 2)) ∧
      ∀ f : Nat → Nat, (∀ i < n, s.spanPa ctx (va + i) acc asker = .ok (f i)) → s.span ctx va n acc asker = .ok ((List.range n).map f)) ∧
    (∀ st len placed tag, let b := completion st len placed tag
      b.length = 32 ∧ leAt b 0 1 = st % 256 ∧ leAt b 8 8 = len % 2 ^ 64 ∧ leAt b 16 8 = placed % 2 ^ 64 ∧ leAt b 24 8 = tag % 2 ^ 64) ∧
    (∀ (e : Nat) (E : Endpoint) (st len placed tag : Nat), s.ep? e = some E → let t := s.tellEp e st len placed tag
      let told (u : State) : State := { u with dev := { u.dev with eps := lset u.dev.eps e { E with cpi := E.cpi + 1 } } }
      let w := s.writeVa E.key 2 (E.cring.toNat + 32 * (E.cpi % 2 ^ E.clg)) (completion st len placed tag)
      (∀ v, st ≠ 15 → w = .ok v → t = told v) ∧ (∀ x, st ≠ 15 → w = .error x → t = told s) ∧
      (st = 15 → s.inUse E.key = true → t = s.haltLine E.key 0xF 0 0 ∧ (t.ctx E.key).mode = .halted ∧ (t.ctx E.key).cause = 0xF)) ∧
    (∀ part pkg (write : Bool), s.aperOpens part pkg write = true ↔
      ∃ e ∈ d.faper, (e.2.v = true ∧ e.2.pkg = pkg ∧ e.2.part = part ∧ (if write then e.2.w else e.2.r) = true) ∧ (s.route (e.1 / 256) pkg).v = true) ∧
    (∀ (pas : List Nat) (bs : List (Byte × Bool)), pas.length = bs.length → let t := s.spanWr pas bs
      (∀ (k pa : Nat) (y : Byte × Bool), pas[k]? = some pa → bs[k]? = some y → (∀ j, k < j → pas[j]? ≠ some pa) → t.mem8 pa = y.1) ∧
      (∀ pa, pa ∉ pas → t.mem8 pa = s.mem8 pa) ∧ t.dev.eps = d.eps ∧ (∀ pa ∈ pas, (s.spanRd pas).length = pas.length ∧ (s.mem8 pa, s.poisoned pa 1) ∈ s.spanRd pas)) ∧
    (∀ ep dst,
      (s.ep? ep = none → exec (.put ep dst) s = .next s ∧ exec (.get ep) s = .next s) ∧
      ∀ E, s.ep? ep = some E →
        (E.send = [] → exec (.put ep dst) s = .next s ∧ exec (.get ep) s = .next s) ∧
        ∀ x rest, E.send = x :: rest →
          let pkg := leAt x 1 1
          let peer := 16 * leAt x 2 1 + leAt x 3 1 % 16
          let len := leAt x 16 8
          let tag := leAt x 32 8
          let pop := dev { d with eps := lset d.eps ep { E with send := rest } }
          let ends (i : Instr) (u : State) (st got : Nat) : Prop := exec i s = .next (u.tellEp ep st len got tag)
          (leAt x 0 1 ≠ 1 ∨ peer ≠ dst → exec (.put ep dst) s = .next s) ∧ (leAt x 0 1 ≠ 2 → exec (.get ep) s = .next s) ∧
          (pkg ≠ d.fpkg → ∀ i, (i = Instr.put ep dst ∧ leAt x 0 1 = 1 ∧ peer = dst) ∨ (i = Instr.get ep ∧ leAt x 0 1 = 2) →
            let opens := s.aperOpens E.part pkg (decide (leAt x 0 1 = 1))
            (opens = false → ends i pop 4 0) ∧ (opens = true → s.cutOff pkg = true → exec i s = .next (pop.tellEp ep 15 0 0 0)) ∧
            (opens = true → s.cutOff pkg = false →
              exec i s = .next (dev { d with eps := lset d.eps ep { E with send := rest, flying := E.flying ++ [x] } }))) ∧
          (pkg = d.fpkg → leAt x 0 1 = 1 → peer = dst → let i := Instr.put ep dst
            (pop.ep? dst = none → ends i pop 3 0) ∧
            ∀ D, pop.ep? dst = some D → (D.bufs = [] → ends i pop 3 0) ∧
              ∀ a size bufs, D.bufs = (a, size) :: bufs →
                let n := min len size
                let st := if size < len then 1 else 0
                (∀ e, pop.span D.key a.toNat n .write none = .error e → ends i pop e 0) ∧
                (∀ pas e, pop.span D.key a.toNat n .write none = .ok pas → pop.span E.key (leAt x 8 8) n .read none = .error e → ends i pop e 0) ∧
                ∀ pas src, pop.span D.key a.toNat n .write none = .ok pas → pop.span E.key (leAt x 8 8) n .read none = .ok src →
                  ends i (((pop.spanWr pas (pop.spanRd src)).onEp dst fun D => { D with bufs := bufs }).tellEp dst st len n tag) st n) ∧
          (pkg = d.fpkg → leAt x 0 1 = 2 → let i := Instr.get ep
            (pop.ep? peer = none → ends i pop 3 0) ∧
            ∀ D, pop.ep? peer = some D →
              let here := pop.span E.key (leAt x 8 8) len .write none
              let there := pop.span D.key (leAt x 24 8) len .read none
              (∀ e, here = .error e → ends i pop e 0) ∧ (∀ pas e, here = .ok pas → there = .error e → ends i pop e 0) ∧
              ∀ pas src, here = .ok pas → there = .ok src → ends i (pop.spanWr pas (pop.spanRd src)) 0 len)) ∧
    (∀ who dst tag (bytes : List (Byte × Bool)) va len,
      let back (u : State) (st got : Nat) (bs : List (Byte × Bool)) : Host.Outcome State Fault Refusal :=
        .next (u.emitOut (.fabric (who % 8) tag st got bs))
      let put := exec (.putFabric who dst tag bytes) s
      let get := exec (.getFabric who dst tag va len) s
      (s.foreign (who % 8) = false → put = .next s ∧ get = .next s) ∧
      (s.foreign (who % 8) = true → (s.ep? dst = none → put = back s 3 0 [] ∧ get = back s 3 0 []) ∧
        ∀ D, s.ep? dst = some D →
          (∀ e, s.span D.key va len .read (some who) = .error e → get = back s e 0 []) ∧
          (∀ pas, s.span D.key va len .read (some who) = .ok pas → get = back s 0 len (s.spanRd pas)) ∧
          (D.bufs = [] → put = back s 3 0 []) ∧
          ∀ a size bufs, D.bufs = (a, size) :: bufs →
            let n := min bytes.length size
            let st := if size < bytes.length then 1 else 0
            (∀ e, s.span D.key a.toNat n .write (some who) = .error e → put = back s e 0 []) ∧
            ∀ pas, s.span D.key a.toNat n .write (some who) = .ok pas →
              put = back (((s.spanWr pas (bytes.take n)).onEp dst fun D => { D with bufs := bufs }).tellEp dst st bytes.length n tag) st n [])) ∧
    (∀ ep n status placed (bytes : List (Byte × Bool)), let put := exec (.putAnswerFabric ep n status placed) s
      let get := exec (.getAnswerFabric ep n status bytes) s
      (s.flying? ep n = none → put = .next s ∧ get = .next s) ∧
      ∀ E x, s.flying? ep n = some (E, x) →
        let len := leAt x 16 8
        let landed := dev { d with eps := lset d.eps ep { E with flying := E.flying.eraseIdx n } }
        let ends (u : State) (st got : Nat) : Host.Outcome State Fault Refusal := .next (u.tellEp ep st len got (leAt x 32 8))
        (leAt x 0 1 ≠ 1 ∨ 4 < status → put = .next s) ∧
        (leAt x 0 1 ≠ 2 ∨ 4 < status ∨ (status = 0 ∧ bytes.length ≠ len) → get = .next s) ∧
        (leAt x 0 1 = 1 → status ≤ 4 → put = ends landed status (if status ≤ 1 then placed else 0)) ∧
        (leAt x 0 1 = 2 → status ≤ 4 → status ≠ 0 → get = ends landed status 0) ∧
        (leAt x 0 1 = 2 → status = 0 → bytes.length = len →
          (∀ e, s.span E.key (leAt x 8 8) len .write none = .error e → get = ends landed e 0) ∧
          ∀ pas, s.span E.key (leAt x 8 8) len .write none = .ok pas → get = ends (landed.spanWr pas bytes) 0 len)) ∧
    (∀ avg, let a := avg % 65536
      (d.pwrAt + 1000000 ≤ s.gtime → ∃ t, exec (.powerEvaluation avg) s = .next t ∧
        t = dev { d with pwrAvg := a, pwrAt := s.gtime, pwrStep := t.dev.pwrStep, pwrCap := t.dev.pwrCap, pwrFloor := t.dev.pwrFloor } ∧
        (d.pwrLimit < a → t.dev.pwrStep = d.pwrStep - 1) ∧
        (a ≤ d.pwrLimit → 100 * a < 97 * d.pwrLimit → d.pwrStep < 22 → t.dev.pwrStep = d.pwrStep + 1) ∧
        (a ≤ d.pwrLimit → 97 * d.pwrLimit ≤ 100 * a ∨ 22 ≤ d.pwrStep → t.dev.pwrStep = d.pwrStep) ∧
        t.dev.pwrCap = decide (t.dev.pwrStep < 22) ∧ t.dev.pwrFloor = (decide (t.dev.pwrStep = 0) && decide (d.pwrLimit < a))) ∧
      (s.gtime < d.pwrAt + 1000000 → exec (.powerEvaluation avg) s = .next s)) ∧
    (∀ die,
      (13 ≤ die ∨ die ∈ d.off → exec (.thermalVoltageTrip (some die)) s = .next s) ∧
      (die < 8 → die ∉ d.off →
        let last (line : Nat) : Prop := (∃ q ∈ s.lines, q.1 / 16384 = line ∧ holderOnDie (q.1 % 16384) die = true) ∧
          (∀ q ∈ s.lines, q.1 / 16384 = line → q.1 % 16384 < 8256 → holderOnDie (q.1 % 16384) die = true) ∧
          (∀ m ∈ s.msgs, m.line = line → m.kind.carries = false) ∧ ∀ R ∈ s.routers, ∀ e ∈ R.2.tree, e.line = line → ∀ x, e.tear = some x → x.data = false
        ∃ t, exec (.thermalVoltageTrip (some die)) s = .next t ∧ t.dev.off = die :: d.off ∧ bitAt t.dev.sphealth die = false ∧
          (∀ p, ∀ cl ∈ (t.part p).clusters, cl / 64 ≠ die) ∧ (∀ h line, h < 8192 → h / 1024 = die → t.line h line = .i) ∧
          (∀ h, h / 1024 = die → t.sbuf h = []) ∧ (∀ cl, cl / 64 = die → (t.cluster cl).cistern = []) ∧
          (∀ q ∈ s.blocks, q.2.cluster / 64 = die → q.2.ctx ∈ s.ctxs.map (·.1) → halted t q.2.ctx) ∧
          (∀ pa, (∀ b ∈ s.under, b.1 ≠ pa) → t.mem8 pa = s.mem8 pa) ∧
          (mwf none s.under = true → ∀ pa b, mget none s.under pa = some b → last (pa / 128) → t.mem8 pa = b)) ∧
      (9 ≤ die → die < 13 → die ∉ d.off → let c := die - 9
        ∃ t, exec (.thermalVoltageTrip (some die)) s = .next t ∧ die ∈ t.dev.off ∧ (∀ i < 8, 8 * c + i ∈ t.dev.failedPairs) ∧
          ∀ x ∈ s.ctxs.map (·.1), s.inUse x = true → (∃ e ∈ d.faper, e.1 / 256 = c ∧ e.2.v = true ∧ e.2.part = ctxPart x) → halted t x)) ∧
    (∀ i, i ∈ [Instr.thermalVoltageTrip none, .thermalVoltageTrip (some 8), .uncorrectableError .hearth, .uncorrectableError (.router 0)] →
      (8 ∈ d.off → exec i s = .next s) ∧
      (8 ∉ d.off → ∃ t, exec i s = .next t ∧ (∀ die < 13, die ∈ t.dev.off) ∧ t.dev.ports = [] ∧
        (∀ h line, 8192 ≤ h → h < 8256 → t.line h line = .i) ∧ ∀ x ∈ s.ctxs.map (·.1), s.inUse x = true → halted t x)) ∧
    (∀ r, (r < 576 → exec (.uncorrectableError (.router r)) s = exec (.uncorrectableError .hearth) s) ∧
      (576 ≤ r → exec (.uncorrectableError (.router r)) s = .next s)) ∧
    (∀ w (v : W64), HostWriter s w →
      ((∀ die < 8, v.getLsbD die = true → bitAt d.isolate die = true) → exec (.isolate w v) s = .next (dev { d with isolate := v.toNat % 256 })) ∧
      ∃ t, exec (.isolate w v) s = .next t ∧ t.dev.isolate = v.toNat % 256 ∧
        (∀ die < 8, v.getLsbD die = true → bitAt d.isolate die = false → die ∈ t.dev.off) ∧
        ∀ die ∈ t.dev.off, die ∈ d.off ∨ (die < 8 ∧ v.getLsbD die = true ∧ bitAt d.isolate die = false)) ∧
    (∀ n, let line := n / 4
      let hbm : State := { s with hpoison := n :: s.hpoison.erase n }
      let struck (i : Instr) (u : State) : Prop := ∃ t, exec i s = .next t ∧ t = { u with dev := { d with errUe := t.dev.errUe } } ∧ counted t (s.lineDie line)
      let own : Prop := ∃ x ∈ s.lines, x.1 / 16384 = line ∧ x.1 % 16384 < 8256 ∧ x.2.dirty = true
      let sliceLost (u : State) : Prop := (s.covered n = true → s.markBehind n = { s with umarks := n :: s.umarks.erase n }) ∧
        (s.covered n = false → ¬own → s.markBehind n = { s with poison := n :: s.poison.erase n }) ∧
        (s.covered n = false → own → n ∈ (s.markBehind n).umarks ∧ (s.markBehind n).poison = s.poison) ∧ SameMem s u
      (3 * 2 ^ 39 ≤ 32 * n → exec (.uncorrectableError (.sector n)) s = .next s) ∧
      (32 * n < 3 * 2 ^ 39 → s.line (s.sliceOf line) line ≠ .i → struck (.uncorrectableError (.sector n)) hbm) ∧
      (32 * n < 3 * 2 ^ 39 → s.line (s.sliceOf line) line = .i → struck (.uncorrectableError (.sector n)) (hbm.markBehind n)) ∧
      (s.line (s.sliceOf line) line = .i → exec (.uncorrectableError (.slice n)) s = .next s) ∧
      (s.line (s.sliceOf line) line ≠ .i → struck (.uncorrectableError (.slice n)) (s.markBehind n)) ∧ sliceLost (s.markBehind n) ∧
      (d.scrubEn = true → 32 * n < 3 * 2 ^ 39 → exec (.scrub n true) s = exec (.uncorrectableError (.sector n)) s)) ∧
    (let struck (i : ErrLoc) (u : State) (die : Nat) : Prop := ∃ t, exec (.uncorrectableError i) s = .next t ∧
        t = { u with dev := { d with errUe := t.dev.errUe } } ∧ counted t die
     let spared (i : ErrLoc) : Prop := exec (.uncorrectableError i) s = .next s
     (∀ h n, let die := if h < 8192 then h / 1024 else 8
       (h < 8256 → s.filled h (n / 4) (n % 4) = true → ((s.line h (n / 4)).dirty = true → struck (.copy h n) { s with poison := n :: s.poison.erase n } die) ∧
         ((s.line h (n / 4)).dirty = false →
           struck (.copy h n) { s with cmarks := copyKey h (n / 4) (n % 4) :: s.cmarks.erase (copyKey h (n / 4) (n % 4)) } die)) ∧
       (8256 ≤ h ∨ s.filled h (n / 4) (n % 4) = false → spared (.copy h n))) ∧
     (∀ cl line k, let hit (f : CEntry) : Prop := f.line = line
       (k < 4 → (∃ f ∈ (s.cluster cl).cistern, hit f) → struck (.cistern cl line k) (s.markCistern cl line k) (cl / 64) ∧
         ∀ f rest, (s.cluster cl).cistern = f :: rest → hit f → f ∉ rest → ((s.markCistern cl line k).cluster cl).cistern = { f with marks := k :: f.marks.erase k } :: rest) ∧
       (4 ≤ k ∨ (∀ f ∈ (s.cluster cl).cistern, ¬hit f) → spared (.cistern cl line k))) ∧
     (∀ cl n, (cl < 512 → n < 524288 → struck (.basinWord cl n) { s with bpoison := (cl * 524288 + n) :: s.bpoison.erase (cl * 524288 + n) } (cl / 64)) ∧
       (512 ≤ cl ∨ 524288 ≤ n → spared (.basinWord cl n))) ∧
     (∀ (a : Agent) (th : Thread) (w : Nat), s.thread? a = some th →
       (w < 320 → struck (.uniform a w) (s.setThread a { th with marks := w :: th.marks.erase w }) (agentCluster a / 64)) ∧
       (320 ≤ w → spared (.uniform a w))) ∧
     (∀ (k r l : Nat) (T : Team), s.team? k = some T →
       (r < T.vregs → l < 32 * T.words →
         struck (.vector k r l) (s.setTeam k { T with vmarks := vkey r l :: T.vmarks.erase (vkey r l) }) (k / 131072)) ∧
       (T.vregs ≤ r ∨ 32 * T.words ≤ l → spared (.vector k r l))) ∧
     (∀ (b c x e : Nat) (B : Block), s.block? b = some B →
       (c ∈ B.cores → x < 8 → e < 4096 → struck (.acc b c x e) (s.setBlock b { B with
         accMarks := accKey c x (e / 64) (e % 64) :: B.accMarks.erase (accKey c x (e / 64) (e % 64)) }) (c / 512)) ∧
       (c ∉ B.cores ∨ 8 ≤ x ∨ 4096 ≤ e → spared (.acc b c x e))) ∧
     (∀ c w, let C := s.core c
       (c < 4096 → w < 49152 → struck (.codeWord c w) (s.setCore c { C with codeMarks := w :: C.codeMarks.erase w }) (c / 512)) ∧
       (4096 ≤ c ∨ 49152 ≤ w → spared (.codeWord c w)) ∧
       (w < C.flue.length → struck (.flueWord c w) (s.setCore c { C with flue := badAt C.flue w }) (c / 512)) ∧
       (C.flue.length ≤ w → spared (.flueWord c w)) ∧
       (w < C.queue.length → struck (.queueWord c w) (s.setCore c { C with queue := badAt C.queue w }) (c / 512)) ∧
       (C.queue.length ≤ w → spared (.queueWord c w)) ∧
       ∀ (l : List Emitted) (i : Nat), (badAt l w)[i]? = (l[i]?).map fun e => if i = w then { e with bad := true } else e) ∧
     (∀ a, s.thread? a = none → ∀ w, spared (.uniform a w)) ∧ (∀ k, s.team? k = none → ∀ r l, spared (.vector k r l)) ∧
     ∀ b, s.block? b = none → ∀ c x e, spared (.acc b c x e)) ∧
    (∀ die,
      (die < 9 → ∃ u, u = dev { d with errUe := u.dev.errUe } ∧ counted u die ∧
        exec (.uncorrectableError (.control die)) s = exec (.thermalVoltageTrip (some die)) u) ∧
      (9 ≤ die → exec (.uncorrectableError (.control die)) s = .next s) ∧
      (die < 9 → ∃ t, exec (.correctableError die) s = .next t ∧ t = dev { d with errCe := t.dev.errCe } ∧
        ∀ e, mget 0 t.dev.errCe e = if e = die then more (mget 0 d.errCe e) 32 else mget 0 d.errCe e) ∧
      (9 ≤ die → exec (.correctableError die) s = .next s)) ∧
    (∀ link,
      (96 ≤ link ∨ (link ∈ d.spared ∧ link ∈ d.lostLinks) → exec (.linkSpare link) s = .next s) ∧
      (link < 96 → link ∉ d.spared → exec (.linkSpare link) s = .next (dev { d with spared := link :: d.spared })) ∧
      (link < 96 → link ∈ d.spared → link ∉ d.lostLinks → ∃ t, exec (.linkSpare link) s = .next t ∧
        t.dev = { d with lostLinks := link :: d.lostLinks } ∧ SameMem s t ∧
        (∀ x, s.inUse x = true → s.crosses x link = true → (t.ctx x).mode = .halted ∧ (t.ctx x).cause = 0xF) ∧
        ∀ x, s.lossMeets x = false → s.crosses x link = false → t.ctx x = s.ctx x) ∧
      ∀ q ∈ s.blocks, ∀ k < 64, ∀ die ∈ (s.ctx q.2.ctx).homeDies,
        routeUses (clusterRouter q.2.cluster) (clusterRouter (64 * die + k)) link = true → s.crosses q.2.ctx link = true) ∧
    (∀ n, (d.scrubEn = false ∨ 3 * 2 ^ 39 ≤ 32 * n → ∀ bad, exec (.scrub n bad) s = .next s) ∧
      (3 * 2 ^ 39 ≤ 32 * n → exec (.correctableSector n) s = .next s) ∧
      (32 * n < 3 * 2 ^ 39 →
        let over_ : Prop := d.scrubSince + d.scrubHours * hourNs ≤ s.gtime
        let page := 32 * n / 2 ^ 30
        ∀ i, i = Instr.correctableSector n ∨ (d.scrubEn = true ∧ i = .scrub n false) → ∃ t, exec i s = .next t ∧ t = { s with dev := t.dev } ∧
          (over_ → t.dev.scrubSince = s.gtime) ∧ (¬over_ → t.dev.scrubSince = d.scrubSince) ∧
          (∀ e, mget 0 t.dev.errCe e = if e = s.lineDie (n / 4) then more (mget 0 d.errCe e) 32 else mget 0 d.errCe e) ∧
          (over_ → mget 0 t.dev.pageCe page = 1 ∧ t.dev.rasps = d.rasps) ∧
          (¬over_ → mget 0 t.dev.pageCe page = mget 0 d.pageCe page + 1 ∧ t.dev.rasps = if mget 0 d.pageCe page = 4096 then page else d.rasps))) ∧
    (∀ port index,
      (1 ≤ index → index ≤ 6 → port < 2 → s.portUp port = true → s.pf0Fenced port = false → exec (.spdmRequest port index) s =
        .next (s.emitOut (.measurement port index (Config.measure index (s.measured index)) d.certs))) ∧
      (1 ≤ index → index ≤ 6 → port < 2 → s.portUp port = true → s.pf0Fenced port = true → exec (.spdmRequest port index) s =
        .next (s.emitOut (.unsupported port))) ∧
      (index = 0 ∨ 6 < index ∨ 2 ≤ port ∨ s.portUp port = false → exec (.spdmRequest port index) s = .next s)) ∧
    (∀ (healthy : BitVec 8) verified, let ims := d.booted
      let ok := verified && ims.all fun q => decide (d.secver ≤ q.2.version)
      (∃ t, exec (.deviceReset healthy verified) s = .next t ∧
        t = { State.reset with
          agenda := s.agenda, free := s.free, dev := { Dev.reset with
            sphealth := healthy.toNat, errUe := t.dev.errUe, hbDie := lowestDie healthy.toNat, images := ims, fuses := d.fuses
            secver := if ok then raised ims d.secver else d.secver, verified := ok, identity := d.identity, certs := d.certs } } ∧
        ∀ e, mget 0 t.dev.errUe e = if e < 8 ∧ healthy.getLsbD e = false then 1 else 0) ∧
      d.secver ≤ raised ims d.secver ∧ (∀ q ∈ ims, q.2.asks ≤ raised ims d.secver) ∧
      ((d.staged.map (·.1)).Nodup → ∀ k, mget .zero ims k = match lget d.staged k with
        | some x => x
        | none => mget .zero d.images k))

/-- R55 to R67, R72, R73, R75 to R88: words that the spec writes out from its encoding tables decode to the instructions they stand for,
and words it names as faults are refused by name. -/
def Obligations.DecodesSpecWords : Prop :=
  decodeTableWord 64 0x0003000181022404 = some (.vadd ⟨true, 2, 6, false, 4, 2, .reg 3⟩) ∧
  decodeTableWord 64 0x0000000000C6F250 = some (.ballot ⟨false, 7, 141, 1⟩) ∧
  decodeTableWord 64 0x0007058002057518 = some (.vredx ⟨false, 7, 1, 6, 10, 4, 11⟩) ∧
  decodeTableWord 96 0x000005000051000384007A09 = some (.st ⟨false, 4, 2, 2, 8, 7, .d32 0x500⟩) ∧
  decodeTableWord 64 0x1040000487002A50 = some (.vscadd ⟨false, 2, 0, 0, 0x10, 2, 14, 9, .none⟩) ∧
  decodeTableWord 128 0x030005000000008000000000000A7E06 = some (.eseg ⟨true, 20, 3, 5, 0x80⟩) ∧
  decodeTableWord 128 0x3A561040004400000003000282017C72 =
    some (.mmag ⟨6, 2, 4, 5, ⟨3, true, 4, true, 5, true, 1, 0, 16, 0, 17, 0, 0⟩⟩) ∧
  decodeTableWord 64 0x0C000000000A70D0 = some (.movi ⟨false, 20, .i11 96⟩) ∧
  decodeTableWord 64 0x02000001050A7E88 = some (.svc ⟨false, 7, 16, 20, 10, 2⟩) ∧
  decodeBytes .team 0 (natLe 16 0x70E0) = .error .illegalEncoding ∧
  decodeBytes .team 0 (natLe 16 0x7C60) = .error .placeViolation ∧
  decodeBytes .team 0 (natLe 16 0x01027668) = .error .illegalField ∧
  (decodeBytes .queue 0 (natLe 16 0x7FE4)).toOption.map encode = some (some (Raw.ofBits 0x7FE4))

/-- R55 to R69, R72, R75, R89: for every well-formed instruction, every operand at every value its encoding admits, the word the encoder
writes decodes to it in each of its places (no switch marker in an engine queue, hints apart), from its bytes at every address where a word of its
length may lie, whatever bytes follow. -/
def Obligations.RoundTrip : Prop :=
  ∀ (i : Instr) (r : Raw) (pl : Place), encode i = some r → i.wf = true → pl ∈ encPlaces i → (pl = .queue → r.s = 0#1 ∨ 0x1F8 ≤ r.op.toNat) →
    decodeRaw pl r = .ok i ∧
    ∀ (pc : Nat) (more : List Byte), placedOk pc r.bytes = true → decodeBytes pl pc (bitsBytes r.bytes r.toBits ++ more) = .ok i

/-- R21, R57, R70, R72, R89, R425, R426, R428: a step whose agenda holds no event runs the word the agent in turn stands at: the team's in its code store,
the generator thread's in the global window, the head command of an engine queue; its turn is used up first, which leaves its thread and
memory as they are. With an event at the head of the agenda it runs that. Around it only GTIME, the CYCLE of the cores and Stokers that hold
a block (in thousandths of a cycle, at the clock of the STEP in force, a new one 20 µs after its evaluation at the latest) and the counter of
free values move (the agenda is the model's own field, log entry 1). -/
def Obligations.StepRunsDecoded : Prop :=
  ∀ s : State,
    let u : State := { s.tick with agenda := s.agenda.tail }
    let run := u.dev.pwrRun
    let clocked (k : Nat) : Prop := ∃ q ∈ s.blocks, k = 4096 + q.2.cluster ∨ k ∈ q.2.cores
    { u with agenda := s.agenda, gtime := s.gtime, cycles := s.cycles, free := s.free, dev := s.dev } = s ∧ s.gtime ≤ u.gtime ∧
    (∀ k, (clocked k → mget 0 u.cycles k = mget 0 s.cycles k + (u.gtime - s.gtime) * (800 + 50 * run)) ∧
      (¬clocked k → mget 0 u.cycles k = mget 0 s.cycles k)) ∧
    u.dev = { s.dev with pwrRun := run } ∧ (run = s.dev.pwrRun ∨ run = s.dev.pwrStep) ∧ (s.dev.pwrAt + 20000 ≤ u.gtime → run = s.dev.pwrStep) ∧
    (∀ (i : Instr) (r : List Turn), s.agenda = .event i :: r → isEvent i = true → step s = exec i u) ∧
    (∀ (i : Instr) (r : List Turn), s.agenda = .event i :: r → isEvent i = false → step s = .next u) ∧
    ((s.agenda = [] ∨ ∃ r, s.agenda = .issue :: r) → s.cur = none → step s = .next u) ∧
    (∀ (a : Agent) (ctx : Nat) (i : Instr), (s.agenda = [] ∨ ∃ r, s.agenda = .issue :: r) → s.cur = some a → s.agentCtx? a = some ctx →
      u.ctxRuns ctx = true → u.canIssue a = true →
      (∀ k T, a = .team k → s.team? k = some T → u.inSealed (k / 256) T.ctx T.th.pc.toNat = true →
        decodeBytes .team T.th.pc.toNat (mgets 0 (s.core (k / 256)).code T.th.pc.toNat 16) = .ok i → step s = exec i (u.turnUsed a)) ∧
      (∀ g G bs, a = .gen g → s.gen? g = some G → u.fetchGen G.ctx G.th.pc = .ok bs → decodeBytes .gen G.th.pc.toNat bs = .ok i →
        step s = exec i (u.turnUsed a)) ∧
      (∀ c e r, a = .queue c → (s.core c).queue = e :: r → decodeBytes .queue 0 e.bytes = .ok i → step s = exec i u) ∧
      ((s.gens.map (·.1)).Nodup → (u.turnUsed a).thread? a = s.thread? a ∧ (u.turnUsed a).status? a = s.status? a ∧
        (u.turnUsed a).cur = some a ∧ SameMem s (u.turnUsed a)))

/-- From every state whose device memory stands in its canonical form (addresses strictly rising, no entry equal to what an unlisted
address reads as), a step leads to such a state. -/
def Obligations.StepKeepsMemory : Prop := ∀ s t : State, s.Inv → step s = .next t → t.Inv

/-- The state after reset: R329, R371, R373, R376, R385, R425, R435, R437 as their registers read, no interface may be written before a
TAKE, and memory in canonical form. SPHEALTH is the result of the self-test, which the model takes as passed by every pair (log entry
6). -/
def Obligations.ResetState : Prop :=
  State.reset.Inv ∧ State.reset.cur = none ∧ State.reset.teams = [] ∧ State.reset.gens = [] ∧ State.reset.launches = [] ∧
  (∀ r, (State.reset.router r).setlg = 9 ∧ (State.reset.router r).ways = 8 ∧ (State.reset.router r).tree = []) ∧
  (∀ p < 64, State.reset.readBar2 (0x1000 * p) = 0 ∧ State.reset.readBar2 (0x1000 * p + 8) = 1000000 ∧
    State.reset.readBar2 (0x1000 * p + 0x10) = 4000 ∧ State.reset.readBar2 (0x1000 * p + 0x18) = 0) ∧
  State.reset.readBar2 0x40000 = 0xA1838 ∧ State.reset.readBar2 0x40008 = 0x160000 ∧ State.reset.readBar2 0x40010 = 0x11000 ∧
  State.reset.readBar2 0x40100 = 0x10018 ∧ (∀ d < 9, State.reset.readBar2 (0x40108 + 8 * d) = 0) ∧ State.reset.readBar2 0x40150 = 0 ∧
  State.reset.readBar2 0x40158 = 0x7FF ∧ State.reset.readBar2 0x40160 = 0 ∧ State.reset.readBar2 0x40180 = 0x640000 ∧
  State.reset.readBar2 0x40188 = 0x100000000 ∧ State.reset.readBar2 0x40190 = 0xFF ∧
  (∀ port, State.reset.pf0Ok port = false) ∧ ∀ i q, ((State.reset.vi i).queue q).en = false
end

