-- ==== Sys2Proof/Laws/Dispatch.lean ====
section
/-! SUPPORT. The meaning that each arm of the dispatch calls. -/

namespace Sys2Proof.Machine

theorem exec_add (o : UBin) (s : State) : exec (.add o) s = execAdd o s := rfl
theorem exec_sub (o : UBin) (s : State) : exec (.sub o) s = execSub o s := rfl
theorem exec_mul (o : UBin) (s : State) : exec (.mul o) s = execMul o s := rfl
theorem exec_mulh (o : UBin) (s : State) : exec (.mulh o) s = execMulh o s := rfl
theorem exec_div (o : UBin) (s : State) : exec (.div o) s = execDiv o s := rfl
theorem exec_rem (o : UBin) (s : State) : exec (.rem o) s = execRem o s := rfl
theorem exec_abs (o : UAbs) (s : State) : exec (.abs o) s = execAbs o s := rfl
theorem exec_min (o : UBin) (s : State) : exec (.min o) s = execMin o s := rfl
theorem exec_max (o : UBin) (s : State) : exec (.max o) s = execMax o s := rfl
theorem exec_and (o : UBin) (s : State) : exec (.and o) s = execAnd o s := rfl
theorem exec_or (o : UBin) (s : State) : exec (.or o) s = execOr o s := rfl
theorem exec_xor (o : UBin) (s : State) : exec (.xor o) s = execXor o s := rfl
theorem exec_andn (o : UBin) (s : State) : exec (.andn o) s = execAndn o s := rfl
theorem exec_shl (o : UBin) (s : State) : exec (.shl o) s = execShl o s := rfl
theorem exec_shr (o : UBin) (s : State) : exec (.shr o) s = execShr o s := rfl
theorem exec_sar (o : UBin) (s : State) : exec (.sar o) s = execSar o s := rfl
theorem exec_rotl (o : UBin) (s : State) : exec (.rotl o) s = execRotl o s := rfl
theorem exec_popc (o : UUn) (s : State) : exec (.popc o) s = execPopc o s := rfl
theorem exec_clz (o : UUn) (s : State) : exec (.clz o) s = execClz o s := rfl
theorem exec_ctz (o : UUn) (s : State) : exec (.ctz o) s = execCtz o s := rfl
theorem exec_brev (o : UUn) (s : State) : exec (.brev o) s = execBrev o s := rfl
theorem exec_bfx (o : UBfx) (s : State) : exec (.bfx o) s = execBfx o s := rfl
theorem exec_bfi (o : UBfi) (s : State) : exec (.bfi o) s = execBfi o s := rfl
theorem exec_cmp (o : UCmp) (s : State) : exec (.cmp o) s = execCmp o s := rfl
theorem exec_sel (o : USel) (s : State) : exec (.sel o) s = execSel o s := rfl
theorem exec_mov (o : UMov) (s : State) : exec (.mov o) s = execMov o s := rfl
theorem exec_movi (o : UMovi) (s : State) : exec (.movi o) s = execMovi o s := rfl
theorem exec_lea (o : ULea) (s : State) : exec (.lea o) s = execLea o s := rfl
theorem exec_leaPc (o : ULeaPc) (s : State) : exec (.leaPc o) s = execLeaPc o s := rfl
theorem exec_b (o : Br) (s : State) : exec (.b o) s = execB o s := rfl
theorem exec_bz (o : BrR) (s : State) : exec (.bz o) s = execBz o s := rfl
theorem exec_bnz (o : BrR) (s : State) : exec (.bnz o) s = execBnz o s := rfl
theorem exec_bc (o : Bc) (s : State) : exec (.bc o) s = execBc o s := rfl
theorem exec_call (o : Call) (s : State) : exec (.call o) s = execCall o s := rfl
theorem exec_ret (o : OneA) (s : State) : exec (.ret o) s = execRet o s := rfl
theorem exec_jmp (o : OneA) (s : State) : exec (.jmp o) s = execJmp o s := rfl
theorem exec_loop (o : BrR) (s : State) : exec (.loop o) s = execLoop o s := rfl
theorem exec_skipz (o : Br) (s : State) : exec (.skipz o) s = execSkipz o s := rfl
theorem exec_setmask (o : OneA) (s : State) : exec (.setmask o) s = execSetmask o s := rfl
theorem exec_ballot (o : Ballot) (s : State) : exec (.ballot o) s = execBallot o s := rfl
theorem exec_ballotNz (o : Ballot) (s : State) : exec (.ballotNz o) s = execBallotNz o s := rfl
theorem exec_mpop (o : TwoDA) (s : State) : exec (.mpop o) s = execMpop o s := rfl
theorem exec_mffs (o : TwoDA) (s : State) : exec (.mffs o) s = execMffs o s := rfl
theorem exec_barArrive (o : Bar) (s : State) : exec (.barArrive o) s = execBarArrive o s := rfl
theorem exec_barWait (o : Bar) (s : State) : exec (.barWait o) s = execBarWait o s := rfl
theorem exec_barSync (o : Bar) (s : State) : exec (.barSync o) s = execBarSync o s := rfl
theorem exec_yield (o : Plain) (s : State) : exec (.yield o) s = execYield o s := rfl
theorem exec_exit (o : Plain) (s : State) : exec (.exit o) s = execExit o s := rfl
theorem exec_nop (o : Nop) (s : State) : exec (.nop o) s = execNop o s := rfl
theorem exec_hint (o : Raw) (s : State) : exec (.hint o) s = execHint o s := rfl
theorem exec_vadd (o : VBin) (s : State) : exec (.vadd o) s = execVadd o s := rfl
theorem exec_vsub (o : VBin) (s : State) : exec (.vsub o) s = execVsub o s := rfl
theorem exec_vmul (o : VBin) (s : State) : exec (.vmul o) s = execVmul o s := rfl
theorem exec_vmulh (o : VBin) (s : State) : exec (.vmulh o) s = execVmulh o s := rfl
theorem exec_vmad (o : VMad) (s : State) : exec (.vmad o) s = execVmad o s := rfl
theorem exec_vabs (o : VUnL) (s : State) : exec (.vabs o) s = execVabs o s := rfl
theorem exec_vmin (o : VBin) (s : State) : exec (.vmin o) s = execVmin o s := rfl
theorem exec_vmax (o : VBin) (s : State) : exec (.vmax o) s = execVmax o s := rfl
theorem exec_vand (o : VBin) (s : State) : exec (.vand o) s = execVand o s := rfl
theorem exec_vor (o : VBin) (s : State) : exec (.vor o) s = execVor o s := rfl
theorem exec_vxor (o : VBin) (s : State) : exec (.vxor o) s = execVxor o s := rfl
theorem exec_vandn (o : VBin) (s : State) : exec (.vandn o) s = execVandn o s := rfl
theorem exec_vnot (o : VUnL) (s : State) : exec (.vnot o) s = execVnot o s := rfl
theorem exec_vshl (o : VBin) (s : State) : exec (.vshl o) s = execVshl o s := rfl
theorem exec_vshr (o : VBin) (s : State) : exec (.vshr o) s = execVshr o s := rfl
theorem exec_vsar (o : VBin) (s : State) : exec (.vsar o) s = execVsar o s := rfl
theorem exec_vrotl (o : VRotl) (s : State) : exec (.vrotl o) s = execVrotl o s := rfl
theorem exec_vpopc (o : VUn) (s : State) : exec (.vpopc o) s = execVpopc o s := rfl
theorem exec_vclz (o : VUn) (s : State) : exec (.vclz o) s = execVclz o s := rfl
theorem exec_vctz (o : VUn) (s : State) : exec (.vctz o) s = execVctz o s := rfl
theorem exec_vbrev (o : VUn) (s : State) : exec (.vbrev o) s = execVbrev o s := rfl
theorem exec_vbfx (o : VBfx) (s : State) : exec (.vbfx o) s = execVbfx o s := rfl
theorem exec_vbfi (o : VBfi) (s : State) : exec (.vbfi o) s = execVbfi o s := rfl
theorem exec_vcmp (o : VCmp) (s : State) : exec (.vcmp o) s = execVcmp o s := rfl
theorem exec_vsel (o : VSel) (s : State) : exec (.vsel o) s = execVsel o s := rfl
theorem exec_vmov (o : VMov) (s : State) : exec (.vmov o) s = execVmov o s := rfl
theorem exec_vbcast (o : VBcast) (s : State) : exec (.vbcast o) s = execVbcast o s := rfl
theorem exec_vlane (o : VLane) (s : State) : exec (.vlane o) s = execVlane o s := rfl
theorem exec_vcvt (o : VCvt) (s : State) : exec (.vcvt o) s = execVcvt o s := rfl
theorem exec_vsat (o : VCvt) (s : State) : exec (.vsat o) s = execVsat o s := rfl
theorem exec_vshfl (o : VShfl) (s : State) : exec (.vshfl o) s = execVshfl o s := rfl
theorem exec_vrot (o : VRot) (s : State) : exec (.vrot o) s = execVrot o s := rfl
theorem exec_vred (o : VRed) (s : State) : exec (.vred o) s = execVred o s := rfl
theorem exec_vredx (o : VRedx) (s : State) : exec (.vredx o) s = execVredx o s := rfl
theorem exec_vscan (o : VRed) (s : State) : exec (.vscan o) s = execVscan o s := rfl
theorem exec_vextract (o : VLaneMove) (s : State) : exec (.vextract o) s = execVextract o s := rfl
theorem exec_vinsert (o : VLaneMove) (s : State) : exec (.vinsert o) s = execVinsert o s := rfl
theorem exec_vmatch (o : VMatch) (s : State) : exec (.vmatch o) s = execVmatch o s := rfl
theorem exec_vfadd (o : VF2) (s : State) : exec (.vfadd o) s = execVfadd o s := rfl
theorem exec_vfsub (o : VF2) (s : State) : exec (.vfsub o) s = execVfsub o s := rfl
theorem exec_vfmul (o : VF2) (s : State) : exec (.vfmul o) s = execVfmul o s := rfl
theorem exec_vffma (o : VF3) (s : State) : exec (.vffma o) s = execVffma o s := rfl
theorem exec_vfdiv (o : VF2) (s : State) : exec (.vfdiv o) s = execVfdiv o s := rfl
theorem exec_vfsqrt (o : VF1) (s : State) : exec (.vfsqrt o) s = execVfsqrt o s := rfl
theorem exec_vfmin (o : VF2) (s : State) : exec (.vfmin o) s = execVfmin o s := rfl
theorem exec_vfmax (o : VF2) (s : State) : exec (.vfmax o) s = execVfmax o s := rfl
theorem exec_vfcmp (o : VFcmp) (s : State) : exec (.vfcmp o) s = execVfcmp o s := rfl
theorem exec_vfrcp (o : VF1) (s : State) : exec (.vfrcp o) s = execVfrcp o s := rfl
theorem exec_vfrsq (o : VF1) (s : State) : exec (.vfrsq o) s = execVfrsq o s := rfl
theorem exec_vfex2 (o : VF1) (s : State) : exec (.vfex2 o) s = execVfex2 o s := rfl
theorem exec_vflg2 (o : VF1) (s : State) : exec (.vflg2 o) s = execVflg2 o s := rfl
theorem exec_vfsin (o : VF1) (s : State) : exec (.vfsin o) s = execVfsin o s := rfl
theorem exec_vfcos (o : VF1) (s : State) : exec (.vfcos o) s = execVfcos o s := rfl
theorem exec_vfclass (o : VF1) (s : State) : exec (.vfclass o) s = execVfclass o s := rfl
theorem exec_vfscale (o : VF2) (s : State) : exec (.vfscale o) s = execVfscale o s := rfl
theorem exec_vfrnd (o : VF1) (s : State) : exec (.vfrnd o) s = execVfrnd o s := rfl
theorem exec_vfcvt (o : VCvt) (s : State) : exec (.vfcvt o) s = execVfcvt o s := rfl
theorem exec_vfi (o : VCvt) (s : State) : exec (.vfi o) s = execVfi o s := rfl
theorem exec_vif (o : VCvt) (s : State) : exec (.vif o) s = execVif o s := rfl
theorem exec_fadd (o : UF2) (s : State) : exec (.fadd o) s = execFadd o s := rfl
theorem exec_fmul (o : UF2) (s : State) : exec (.fmul o) s = execFmul o s := rfl
theorem exec_ffma (o : UF3) (s : State) : exec (.ffma o) s = execFfma o s := rfl
theorem exec_fcvt (o : UFcvt) (s : State) : exec (.fcvt o) s = execFcvt o s := rfl
theorem exec_vdot2 (o : VDot) (s : State) : exec (.vdot2 o) s = execVdot2 o s := rfl
theorem exec_vdot4 (o : VDot) (s : State) : exec (.vdot4 o) s = execVdot4 o s := rfl
theorem exec_vdotds (o : VDot) (s : State) : exec (.vdotds o) s = execVdotds o s := rfl
theorem exec_vcvtds (o : VCvtds) (s : State) : exec (.vcvtds o) s = execVcvtds o s := rfl
theorem exec_vbpl (o : VBp) (s : State) : exec (.vbpl o) s = execVbpl o s := rfl
theorem exec_vbpu (o : VBp) (s : State) : exec (.vbpu o) s = execVbpu o s := rfl
theorem exec_vbpdot (o : VBpdot) (s : State) : exec (.vbpdot o) s = execVbpdot o s := rfl
theorem exec_vbpsel (o : VBpsel) (s : State) : exec (.vbpsel o) s = execVbpsel o s := rfl
theorem exec_ld (o : MLd) (s : State) : exec (.ld o) s = execLd o s := rfl
theorem exec_st (o : MSt) (s : State) : exec (.st o) s = execSt o s := rfl
theorem exec_vld (o : MVld) (s : State) : exec (.vld o) s = execVld o s := rfl
theorem exec_vst (o : MVst) (s : State) : exec (.vst o) s = execVst o s := rfl
theorem exec_vprefetch (o : MPref) (s : State) : exec (.vprefetch o) s = execVprefetch o s := rfl
theorem exec_atom (o : MAtom) (s : State) : exec (.atom o) s = execAtom o s := rfl
theorem exec_cas (o : MCas) (s : State) : exec (.cas o) s = execCas o s := rfl
theorem exec_vatom (o : MVatom) (s : State) : exec (.vatom o) s = execVatom o s := rfl
theorem exec_vcas (o : MVcas) (s : State) : exec (.vcas o) s = execVcas o s := rfl
theorem exec_vfatom (o : MVatom) (s : State) : exec (.vfatom o) s = execVfatom o s := rfl
theorem exec_vscadd (o : MVscadd) (s : State) : exec (.vscadd o) s = execVscadd o s := rfl
theorem exec_vbin (o : MVbin) (s : State) : exec (.vbin o) s = execVbin o s := rfl
theorem exec_fence (o : MFence) (s : State) : exec (.fence o) s = execFence o s := rfl
theorem exec_cinv (o : MCache) (s : State) : exec (.cinv o) s = execCinv o s := rfl
theorem exec_cwb (o : MCache) (s : State) : exec (.cwb o) s = execCwb o s := rfl
theorem exec_marm (o : MLd) (s : State) : exec (.marm o) s = execMarm o s := rfl
theorem exec_mwait (o : TwoDA) (s : State) : exec (.mwait o) s = execMwait o s := rfl
theorem exec_waitc (o : MWaitc) (s : State) : exec (.waitc o) s = execWaitc o s := rfl
theorem exec_balloc (o : BSlot) (s : State) : exec (.balloc o) s = execBalloc o s := rfl
theorem exec_bfree (o : BSlot) (s : State) : exec (.bfree o) s = execBfree o s := rfl
theorem exec_give (o : BGive) (s : State) : exec (.give o) s = execGive o s := rfl
theorem exec_take (o : BSlot) (s : State) : exec (.take o) s = execTake o s := rfl
theorem exec_takeTest (o : BSlot) (s : State) : exec (.takeTest o) s = execTakeTest o s := rfl
theorem exec_bshare (o : BShare) (s : State) : exec (.bshare o) s = execBshare o s := rfl
theorem exec_bmap (o : BSlot) (s : State) : exec (.bmap o) s = execBmap o s := rfl
theorem exec_bzero (o : BSlot) (s : State) : exec (.bzero o) s = execBzero o s := rfl
theorem exec_kick (o : TwoAB) (s : State) : exec (.kick o) s = execKick o s := rfl
theorem exec_copy (o : QCopy) (s : State) : exec (.copy o) s = execCopy o s := rfl
theorem exec_binit (o : QBinit) (s : State) : exec (.binit o) s = execBinit o s := rfl
theorem exec_bwait (o : TwoDA) (s : State) : exec (.bwait o) s = execBwait o s := rfl
theorem exec_bwaitQueue (o : QBwait) (s : State) : exec (.bwaitQueue o) s = execBwaitQueue o s := rfl
theorem exec_tdset (o : GTdset) (s : State) : exec (.tdset o) s = execTdset o s := rfl
theorem exec_tdsetQueue (o : QTdset) (s : State) : exec (.tdsetQueue o) s = execTdsetQueue o s := rfl
theorem exec_mma (o : QMma) (s : State) : exec (.mma o) s = execMma o s := rfl
theorem exec_mmas (o : QMma) (s : State) : exec (.mmas o) s = execMmas o s := rfl
theorem exec_mmag (o : QMma) (s : State) : exec (.mmag o) s = execMmag o s := rfl
theorem exec_accld (o : QAcc) (s : State) : exec (.accld o) s = execAccld o s := rfl
theorem exec_accst (o : QAcc) (s : State) : exec (.accst o) s = execAccst o s := rfl
theorem exec_acczero (o : QAccz) (s : State) : exec (.acczero o) s = execAcczero o s := rfl
theorem exec_wwin (o : QWwin) (s : State) : exec (.wwin o) s = execWwin o s := rfl
theorem exec_wcfg (o : QWcfg) (s : State) : exec (.wcfg o) s = execWcfg o s := rfl
theorem exec_wload (o : QWload) (s : State) : exec (.wload o) s = execWload o s := rfl
theorem exec_wlaunch (o : QWrow) (s : State) : exec (.wlaunch o) s = execWlaunch o s := rfl
theorem exec_wcapture (o : QWrow) (s : State) : exec (.wcapture o) s = execWcapture o s := rfl
theorem exec_wreset (s : State) : exec (.wreset) s = execWreset s := rfl
theorem exec_eseg (o : GEseg) (s : State) : exec (.eseg o) s = execEseg o s := rfl
theorem exec_emit (o : OneA) (s : State) : exec (.emit o) s = execEmit o s := rfl
theorem exec_emitRegs (o : GEmitR) (s : State) : exec (.emitRegs o) s = execEmitRegs o s := rfl
theorem exec_emitm (o : GEmitR) (s : State) : exec (.emitm o) s = execEmitm o s := rfl
theorem exec_emitq (o : GEmitq) (s : State) : exec (.emitq o) s = execEmitq o s := rfl
theorem exec_emitqMulti (o : GEmitqM) (s : State) : exec (.emitqMulti o) s = execEmitqMulti o s := rfl
theorem exec_epatch (o : GEpatch) (s : State) : exec (.epatch o) s = execEpatch o s := rfl
theorem exec_eseal (o : OneD) (s : State) : exec (.eseal o) s = execEseal o s := rfl
theorem exec_tgo (o : GTgo) (s : State) : exec (.tgo o) s = execTgo o s := rfl
theorem exec_eprov (o : TwoDA) (s : State) : exec (.eprov o) s = execEprov o s := rfl
theorem exec_estat (o : GEstat) (s : State) : exec (.estat o) s = execEstat o s := rfl
theorem exec_spawn (o : SThree) (s : State) : exec (.spawn o) s = execSpawn o s := rfl
theorem exec_svc (o : SSvc) (s : State) : exec (.svc o) s = execSvc o s := rfl
theorem exec_strap (o : SCode) (s : State) : exec (.strap o) s = execStrap o s := rfl
theorem exec_rfh (o : Plain) (s : State) : exec (.rfh o) s = execRfh o s := rfl
theorem exec_getsr (o : SGetsr) (s : State) : exec (.getsr o) s = execGetsr o s := rfl
theorem exec_setsr (o : SSetsr) (s : State) : exec (.setsr o) s = execSetsr o s := rfl
theorem exec_vgrow (o : SGran) (s : State) : exec (.vgrow o) s = execVgrow o s := rfl
theorem exec_vshrink (o : SGran) (s : State) : exec (.vshrink o) s = execVshrink o s := rfl
theorem exec_trig (o : Plain) (s : State) : exec (.trig o) s = execTrig o s := rfl
theorem exec_dlaunch (o : SThree) (s : State) : exec (.dlaunch o) s = execDlaunch o s := rfl
theorem exec_brk (o : SCode) (s : State) : exec (.brk o) s = execBrk o s := rfl
theorem exec_stokerFetchDecode (g : Nat) (s : State) : exec (.stokerFetchDecode g) s = execStokerFetchDecode g s := rfl
theorem exec_variableLatencyResult (a : Agent) (n : Nat) (word : Option Nat) (s : State) : exec (.variableLatencyResult a n word) s = execVariableLatencyResult a n word s := rfl
theorem exec_switchMarkerIssue (t : Nat) (s : State) : exec (.switchMarkerIssue t) s = execSwitchMarkerIssue t s := rfl
theorem exec_teamWake (a : Agent) (s : State) : exec (.teamWake a) s = execTeamWake a s := rfl
theorem exec_slotIssueChoice (core slot : Nat) (s : State) : exec (.slotIssueChoice core slot) s = execSlotIssueChoice core slot s := rfl
theorem exec_teamBoost (t : Nat) (s : State) : exec (.teamBoost t) s = execTeamBoost t s := rfl
theorem exec_accessFault (a : Agent) (n : Nat) (s : State) : exec (.accessFault a n) s = execAccessFault a n s := rfl
theorem exec_firstTouchFill (ctx : Nat) (va : W64) (s : State) : exec (.firstTouchFill ctx va) s = execFirstTouchFill ctx va s := rfl
theorem exec_generatorFault (g : Nat) (s : State) : exec (.generatorFault g) s = execGeneratorFault g s := rfl
theorem exec_storeBufferToCistern (h : Nat) (s : State) : exec (.storeBufferToCistern h) s = execStoreBufferToCistern h s := rfl
theorem exec_cisternDrain (cl line : Nat) (s : State) : exec (.cisternDrain cl line) s = execCisternDrain cl line s := rfl
theorem exec_cisternAgeExpiry (cl line : Nat) (s : State) : exec (.cisternAgeExpiry cl line) s = execCisternAgeExpiry cl line s := rfl
theorem exec_basinAccessServed (a : Agent) (n lane : Nat) (s : State) : exec (.basinAccessServed a n lane) s = execBasinAccessServed a n lane s := rfl
theorem exec_giveDrainDone (core slot : Nat) (s : State) : exec (.giveDrainDone core slot) s = execGiveDrainDone core slot s := rfl
theorem exec_zeroEngineClear (cl basin : Nat) (s : State) : exec (.zeroEngineClear cl basin) s = execZeroEngineClear cl basin s := rfl
theorem exec_engineArrival (blk bar : Nat) (s : State) : exec (.engineArrival blk bar) s = execEngineArrival blk bar s := rfl
theorem exec_engineCommandIssue (core : Nat) (s : State) : exec (.engineCommandIssue core) s = execEngineCommandIssue core s := rfl
theorem exec_engineReadDone (core job : Nat) (part : List Nat) (s : State) : exec (.engineReadDone core job part) s = execEngineReadDone core job part s := rfl
theorem exec_engineJobComplete (core job : Nat) (s : State) : exec (.engineJobComplete core job) s = execEngineJobComplete core job s := rfl
theorem exec_copyBytesCounted (core job row n : Nat) (s : State) : exec (.copyBytesCounted core job row n) s = execCopyBytesCounted core job row n s := rfl
theorem exec_weirLeaseAcquire (cl : Nat) (s : State) : exec (.weirLeaseAcquire cl) s = execWeirLeaseAcquire cl s := rfl
theorem exec_flueCodeWrite (core : Nat) (s : State) : exec (.flueCodeWrite core) s = execFlueCodeWrite core s := rfl
theorem exec_flueQueueMove (core : Nat) (s : State) : exec (.flueQueueMove core) s = execFlueQueueMove core s := rfl
theorem exec_segmentRetire (core seg : Nat) (s : State) : exec (.segmentRetire core seg) s = execSegmentRetire core seg s := rfl
theorem exec_handlerImageCopy (core ctx : Nat) (s : State) : exec (.handlerImageCopy core ctx) s = execHandlerImageCopy core ctx s := rfl
theorem exec_unitDispatch (l die cl : Nat) (s : State) : exec (.unitDispatch l die cl) s = execUnitDispatch l die cl s := rfl
theorem exec_unitSteal (l thief victim : Nat) (s : State) : exec (.unitSteal l thief victim) s = execUnitSteal l thief victim s := rfl
theorem exec_floatingUnitMove (l src dst : Nat) (s : State) : exec (.floatingUnitMove l src dst) s = execFloatingUnitMove l src dst s := rfl
theorem exec_coresidentReserve (l : Nat) (s : State) : exec (.coresidentReserve l) s = execCoresidentReserve l s := rfl
theorem exec_blockStart (l blk cl : Nat) (cores : List Nat) (s : State) : exec (.blockStart l blk cl cores) s = execBlockStart l blk cl cores s := rfl
theorem exec_teamRetire (t : Nat) (s : State) : exec (.teamRetire t) s = execTeamRetire t s := rfl
theorem exec_blockRetire (b : Nat) (s : State) : exec (.blockRetire b) s = execBlockRetire b s := rfl
theorem exec_launchRetire (l : Nat) (s : State) : exec (.launchRetire l) s = execLaunchRetire l s := rfl
theorem exec_vgrowGrant (core : Nat) (s : State) : exec (.vgrowGrant core) s = execVgrowGrant core s := rfl
theorem exec_registerStall (core : Nat) (s : State) : exec (.registerStall core) s = execRegisterStall core s := rfl
theorem exec_switchedOutReturn (t : Nat) (s : State) : exec (.switchedOutReturn t) s = execSwitchedOutReturn t s := rfl
theorem exec_teamSwitchOutSave (t slot : Nat) (s : State) : exec (.teamSwitchOutSave t slot) s = execTeamSwitchOutSave t slot s := rfl
theorem exec_svcResume (t : Nat) (s : State) : exec (.svcResume t) s = execSvcResume t s := rfl
theorem exec_preemption (ctx : Nat) (s : State) : exec (.preemption ctx) s = execPreemption ctx s := rfl
theorem exec_preemptionCommand (ctx : Nat) (s : State) : exec (.preemptionCommand ctx) s = execPreemptionCommand ctx s := rfl
theorem exec_preemptionDeadline (ctx : Nat) (s : State) : exec (.preemptionDeadline ctx) s = execPreemptionDeadline ctx s := rfl
theorem exec_watchdog (a : Agent) (s : State) : exec (.watchdog a) s = execWatchdog a s := rfl
theorem exec_haltLine (ctx cause : Nat) (s : State) : exec (.haltLine ctx cause) s = execHaltLine ctx cause s := rfl
theorem exec_agentStop (a : Agent) (s : State) : exec (.agentStop a) s = execAgentStop a s := rfl
theorem exec_debuggerHalt (ctx : Nat) (s : State) : exec (.debuggerHalt ctx) s = execDebuggerHalt ctx s := rfl
theorem exec_debuggerRelease (ctx : Nat) (a : Option Agent) (s : State) : exec (.debuggerRelease ctx a) s = execDebuggerRelease ctx a s := rfl
theorem exec_inspectionSave (ctx : Nat) (s : State) : exec (.inspectionSave ctx) s = execInspectionSave ctx s := rfl
theorem exec_saveLost (ctx cause : Nat) (s : State) : exec (.saveLost ctx cause) s = execSaveLost ctx cause s := rfl
theorem exec_forcedReset (ctx : Nat) (s : State) : exec (.forcedReset ctx) s = execForcedReset ctx s := rfl
theorem exec_routerRead (n : Nat) (s : State) : exec (.routerRead n) s = execRouterRead n s := rfl
theorem exec_clusterMiss (h line : Nat) (s : State) : exec (.clusterMiss h line) s = execClusterMiss h line s := rfl
theorem exec_reply (n : Nat) (s : State) : exec (.reply n) s = execReply n s := rfl
theorem exec_own (n : Nat) (s : State) : exec (.own n) s = execOwn n s := rfl
theorem exec_grant (n : Nat) (s : State) : exec (.grant n) s = execGrant n s := rfl
theorem exec_inval (n : Nat) (s : State) : exec (.inval n) s = execInval n s := rfl
theorem exec_ack (n : Nat) (s : State) : exec (.ack n) s = execAck n s := rfl
theorem exec_prune (n : Nat) (s : State) : exec (.prune n) s = execPrune n s := rfl
theorem exec_holderEviction (h line : Nat) (s : State) : exec (.holderEviction h line) s = execHolderEviction h line s := rfl
theorem exec_cut (n : Nat) (s : State) : exec (.cut n) s = execCut n s := rfl
theorem exec_treeEntryEviction (r set : Nat) (s : State) : exec (.treeEntryEviction r set) s = execTreeEntryEviction r set s := rfl
theorem exec_atomicUnitOp (unit : Nat) (s : State) : exec (.atomicUnitOp unit) s = execAtomicUnitOp unit s := rfl
theorem exec_tileWriteFabric (line pkg : Nat) (s : State) : exec (.tileWriteFabric line pkg) s = execTileWriteFabric line pkg s := rfl
theorem exec_tileReadFabric (line pkg : Nat) (s : State) : exec (.tileReadFabric line pkg) s = execTileReadFabric line pkg s := rfl
theorem exec_tileAnswerFabric (line pkg off : Nat) (bytes : List Byte) (s : State) : exec (.tileAnswerFabric line pkg off bytes) s = execTileAnswerFabric line pkg off bytes s := rfl
theorem exec_tclimWrite (r : Nat) (v : W64) (s : State) : exec (.tclimWrite r v) s = execTclimWrite r v s := rfl
theorem exec_portTraining (port width rate cxl : Nat) (s : State) : exec (.portTraining port width rate cxl) s = execPortTraining port width rate cxl s := rfl
theorem exec_leaseRenew (port : Nat) (v : W64) (s : State) : exec (.leaseRenew port v) s = execLeaseRenew port v s := rfl
theorem exec_leaseTake (port : Nat) (v : W64) (s : State) : exec (.leaseTake port v) s = execLeaseTake port v s := rfl
theorem exec_leaseTakeoverComplete (s : State) : exec (.leaseTakeoverComplete) s = execLeaseTakeoverComplete s := rfl
theorem exec_leaseExpiry (s : State) : exec (.leaseExpiry) s = execLeaseExpiry s := rfl
theorem exec_registerWrite (w : Writer) (off : Nat) (v : W64) (s : State) : exec (.registerWrite w off v) s = execRegisterWrite w off v s := rfl
theorem exec_registerAccess (w : Writer) (op : RegOp) (s : State) : exec (.registerAccess w op) s = execRegisterAccess w op s := rfl
theorem exec_heartbeat (die : Nat) (v : W64) (s : State) : exec (.heartbeat die v) s = execHeartbeat die v s := rfl
theorem exec_leaderTakeover (die : Nat) (v : W64) (s : State) : exec (.leaderTakeover die v) s = execLeaderTakeover die v s := rfl
theorem exec_heartbeatTimeout (s : State) : exec (.heartbeatTimeout) s = execHeartbeatTimeout s := rfl
theorem exec_lockstepMismatch (die : Nat) (s : State) : exec (.lockstepMismatch die) s = execLockstepMismatch die s := rfl
theorem exec_ringRecordPost (p : Nat) (vi : Option Nat) (s : State) : exec (.ringRecordPost p vi) s = execRingRecordPost p vi s := rfl
theorem exec_rpost (w : Writer) (p : Nat) (v : W64) (s : State) : exec (.rpost w p v) s = execRpost w p v s := rfl
theorem exec_hrpost (port vi : Nat) (v : W64) (s : State) : exec (.hrpost port vi v) s = execHrpost port vi v s := rfl
theorem exec_qctlWrite (port vi q : Nat) (v : W64) (s : State) : exec (.qctlWrite port vi q v) s = execQctlWrite port vi q v s := rfl
theorem exec_qpiDoorbell (port vi q : Nat) (v : W64) (s : State) : exec (.qpiDoorbell port vi q v) s = execQpiDoorbell port vi q v s := rfl
theorem exec_queueNop (vi q : Nat) (s : State) : exec (.queueNop vi q) s = execQueueNop vi q s := rfl
theorem exec_launch (vi q : Nat) (s : State) : exec (.launch vi q) s = execLaunch vi q s := rfl
theorem exec_queueWait (vi q : Nat) (s : State) : exec (.queueWait vi q) s = execQueueWait vi q s := rfl
theorem exec_signal (vi q : Nat) (s : State) : exec (.signal vi q) s = execSignal vi q s := rfl
theorem exec_launchHandleDispatch (l : Nat) (s : State) : exec (.launchHandleDispatch l) s = execLaunchHandleDispatch l s := rfl
theorem exec_completionRecord (l : Nat) (s : State) : exec (.completionRecord l) s = execCompletionRecord l s := rfl
theorem exec_ctxgenWrite (w : Writer) (p c : Nat) (v : W64) (s : State) : exec (.ctxgenWrite w p c v) s = execCtxgenWrite w p c v s := rfl
theorem exec_generationDone (p c : Nat) (s : State) : exec (.generationDone p c) s = execGenerationDone p c s := rfl
theorem exec_ftppush (w : Writer) (p : Nat) (v : W64) (s : State) : exec (.ftppush w p v) s = execFtppush w p v s := rfl
theorem exec_ctxrecWrite (w : Writer) (p c : Nat) (v : W64) (s : State) : exec (.ctxrecWrite w p c v) s = execCtxrecWrite w p c v s := rfl
theorem exec_err0Clear (w : Writer) (p : Nat) (v : W64) (s : State) : exec (.err0Clear w p v) s = execErr0Clear w p v s := rfl
theorem exec_fabricTableWrite (reg : Nat) (v : W64) (s : State) : exec (.fabricTableWrite reg v) s = execFabricTableWrite reg v s := rfl
theorem exec_fibrePairFailure (pair : Nat) (s : State) : exec (.fibrePairFailure pair) s = execFibrePairFailure pair s := rfl
theorem exec_put (ep dst : Nat) (s : State) : exec (.put ep dst) s = execPut ep dst s := rfl
theorem exec_get (ep : Nat) (s : State) : exec (.get ep) s = execGet ep s := rfl
theorem exec_putFabric (pkg dst tag : Nat) (bytes : List (Byte × Bool)) (s : State) : exec (.putFabric pkg dst tag bytes) s = execPutFabric pkg dst tag bytes s := rfl
theorem exec_putAnswerFabric (ep n status placed : Nat) (s : State) : exec (.putAnswerFabric ep n status placed) s = execPutAnswerFabric ep n status placed s := rfl
theorem exec_getFabric (pkg dst tag va len : Nat) (s : State) : exec (.getFabric pkg dst tag va len) s = execGetFabric pkg dst tag va len s := rfl
theorem exec_getAnswerFabric (ep n status : Nat) (bytes : List (Byte × Bool)) (s : State) : exec (.getAnswerFabric ep n status bytes) s = execGetAnswerFabric ep n status bytes s := rfl
theorem exec_powerEvaluation (avg : Nat) (s : State) : exec (.powerEvaluation avg) s = execPowerEvaluation avg s := rfl
theorem exec_thermalVoltageTrip (die : Option Nat) (s : State) : exec (.thermalVoltageTrip die) s = execThermalVoltageTrip die s := rfl
theorem exec_routerGate (r : Nat) (s : State) : exec (.routerGate r) s = execRouterGate r s := rfl
theorem exec_routerWake (r : Nat) (s : State) : exec (.routerWake r) s = execRouterWake r s := rfl
theorem exec_uncorrectableError (loc : ErrLoc) (s : State) : exec (.uncorrectableError loc) s = execUncorrectableError loc s := rfl
theorem exec_correctableError (die : Nat) (s : State) : exec (.correctableError die) s = execCorrectableError die s := rfl
theorem exec_correctableSector (n : Nat) (s : State) : exec (.correctableSector n) s = execCorrectableSector n s := rfl
theorem exec_linkSpare (link : Nat) (s : State) : exec (.linkSpare link) s = execLinkSpare link s := rfl
theorem exec_scrub (sector : Nat) (bad : Bool) (s : State) : exec (.scrub sector bad) s = execScrub sector bad s := rfl
theorem exec_errcntWrite (w : Writer) (d : Nat) (s : State) : exec (.errcntWrite w d) s = execErrcntWrite w d s := rfl
theorem exec_isolate (w : Writer) (v : W64) (s : State) : exec (.isolate w v) s = execIsolate w v s := rfl
theorem exec_diagdata (w : Writer) (v : Option W64) (s : State) : exec (.diagdata w v) s = execDiagdata w v s := rfl
theorem exec_spdmRequest (port index : Nat) (s : State) : exec (.spdmRequest port index) s = execSpdmRequest port index s := rfl
theorem exec_deviceReset (healthy : BitVec 8) (verified : Bool) (s : State) : exec (.deviceReset healthy verified) s = execDeviceReset healthy verified s := rfl
theorem exec_contextRestore (ctx : Nat) (s : State) : exec (.contextRestore ctx) s = execContextRestore ctx s := rfl
theorem exec_hostMemoryAccess (port pa : Nat) (bytes : List Byte) (write : Bool) (s : State) : exec (.hostMemoryAccess port pa bytes write) s = execHostMemoryAccess port pa bytes write s := rfl
theorem exec_servicePairAccess (die : Nat) (acc : PairAccess) (s : State) : exec (.servicePairAccess die acc) s = execServicePairAccess die acc s := rfl
theorem exec_debuggerAttach (ctx : Nat) (on : Bool) (s : State) : exec (.debuggerAttach ctx on) s = execDebuggerAttach ctx on s := rfl

end Sys2Proof.Machine
end

