-- ==== Sys2Proof/Laws/Flags.lean ====
section
/-! SUPPORT. The typed operations agree with arithmetic on bit vectors of the type's width. -/

namespace Sys2Proof.Machine

theorem tyBits_pos (ty : BitVec 3) : 0 < tyBits ty := by revert ty; decide

theorem tyBits_le (ty : BitVec 3) : tyBits ty ≤ 64 := by revert ty; decide

theorem wrapN_eq (n : Nat) (v : Int) : wrapN n v = (BitVec.ofInt n v).toNat := by
  simp [wrapN, BitVec.toNat_ofInt]

/-- The value of the low bits under a type is the signed or unsigned value of the n-bit vector. -/
theorem tyVal_eq (ty : BitVec 3) (x : Nat) :
    tyVal ty x = if tySigned ty then (BitVec.ofNat (tyBits ty) x).toInt else ((BitVec.ofNat (tyBits ty) x).toNat : Int) := by
  obtain ⟨n, hn⟩ : ∃ n, tyBits ty = n + 1 := ⟨tyBits ty - 1, by have := tyBits_pos ty; omega⟩
  simp only [tyVal, hn, BitVec.toNat_ofNat, Nat.add_sub_cancel]
  cases tySigned ty with
  | false => simp
  | true =>
    simp only [true_and, if_true, BitVec.toInt_eq_toNat_cond, BitVec.toNat_ofNat]
    have h2 : 2 ^ (n + 1) = 2 * 2 ^ n := by rw [Nat.pow_succ]; omega
    by_cases h : 2 ^ n ≤ x % 2 ^ (n + 1)
    · have : ¬ 2 * (x % 2 ^ (n + 1)) < 2 ^ (n + 1) := by omega
      simp [h, hn, this]
    · have : 2 * (x % 2 ^ (n + 1)) < 2 ^ (n + 1) := by omega
      simp [h, hn, this]

theorem ofInt_tyVal (ty : BitVec 3) (x : Nat) : BitVec.ofInt (tyBits ty) (tyVal ty x) = BitVec.ofNat (tyBits ty) x := by
  rw [tyVal_eq]
  split
  · exact BitVec.ofInt_toInt
  · rw [BitVec.ofInt_natCast, BitVec.ofNat_toNat, BitVec.setWidth_eq]

/-- Extension of a result is sign or zero extension by the type (R12, R133). -/
theorem extTo_eq (w : Nat) (ty : BitVec 3) (x : Nat) :
    extTo w ty x = if tySigned ty then (BitVec.ofNat (tyBits ty) x).signExtend w else (BitVec.ofNat (tyBits ty) x).setWidth w := by
  rw [extTo, tyVal_eq]
  split
  · rw [BitVec.signExtend]
  · rw [BitVec.ofInt_natCast, BitVec.ofNat_toNat]

theorem run_add (ty : BitVec 3) (x y : Nat) :
    IOp.run .add ty x y = (BitVec.ofNat (tyBits ty) x + BitVec.ofNat (tyBits ty) y).toNat := by
  simp only [IOp.run, IOp.exact, wrapN_eq, BitVec.ofInt_add, ofInt_tyVal]

theorem run_sub (ty : BitVec 3) (x y : Nat) :
    IOp.run .sub ty x y = (BitVec.ofNat (tyBits ty) x - BitVec.ofNat (tyBits ty) y).toNat := by
  simp only [IOp.run, IOp.exact, wrapN_eq, Int.sub_eq_add_neg, BitVec.ofInt_add, BitVec.ofInt_neg, ofInt_tyVal, BitVec.sub_eq_add_neg]

theorem run_mul (ty : BitVec 3) (x y : Nat) :
    IOp.run .mul ty x y = (BitVec.ofNat (tyBits ty) x * BitVec.ofNat (tyBits ty) y).toNat := by
  simp only [IOp.run, IOp.exact, wrapN_eq, BitVec.ofInt_mul, ofInt_tyVal]

theorem ofInt_nat_mod (n v : Nat) : BitVec.ofInt n ((v : Nat) : Int) = BitVec.ofNat n v := by simp [BitVec.ofInt_natCast]

theorem run_and (ty : BitVec 3) (x y : Nat) :
    IOp.run .and ty x y = (BitVec.ofNat (tyBits ty) x &&& BitVec.ofNat (tyBits ty) y).toNat := by
  simp only [IOp.run, IOp.exact, wrapN_eq, ofInt_nat_mod]
  simp

theorem run_or (ty : BitVec 3) (x y : Nat) :
    IOp.run .or ty x y = (BitVec.ofNat (tyBits ty) x ||| BitVec.ofNat (tyBits ty) y).toNat := by
  simp only [IOp.run, IOp.exact, wrapN_eq, ofInt_nat_mod]
  simp

theorem run_xor (ty : BitVec 3) (x y : Nat) :
    IOp.run .xor ty x y = (BitVec.ofNat (tyBits ty) x ^^^ BitVec.ofNat (tyBits ty) y).toNat := by
  simp only [IOp.run, IOp.exact, wrapN_eq, ofInt_nat_mod]
  simp

theorem run_andn (ty : BitVec 3) (x y : Nat) :
    IOp.run .andn ty x y = (BitVec.ofNat (tyBits ty) x &&& ~~~(BitVec.ofNat (tyBits ty) y)).toNat := by
  simp only [IOp.run, IOp.exact, wrapN_eq, ofInt_nat_mod]
  have h : 2 ^ tyBits ty - 1 - y % 2 ^ tyBits ty < 2 ^ tyBits ty := by have := Nat.two_pow_pos (tyBits ty); omega
  simp [Nat.mod_eq_of_lt h]

theorem run_min (ty : BitVec 3) (x y : Nat) :
    IOp.run .min ty x y = (if tyVal ty y < tyVal ty x then BitVec.ofNat (tyBits ty) y else BitVec.ofNat (tyBits ty) x).toNat := by
  simp only [IOp.run, IOp.exact, wrapN_eq]
  split <;> simp [ofInt_tyVal]

theorem run_max (ty : BitVec 3) (x y : Nat) :
    IOp.run .max ty x y = (if tyVal ty x < tyVal ty y then BitVec.ofNat (tyBits ty) y else BitVec.ofNat (tyBits ty) x).toNat := by
  simp only [IOp.run, IOp.exact, wrapN_eq]
  split <;> simp [ofInt_tyVal]

theorem shift_shl (ty : BitVec 3) (x k : Nat) : wrapN (tyBits ty) (IOp.shift .shl ty x k) = (BitVec.ofNat (tyBits ty) x <<< k).toNat := by
  simp only [IOp.shift, wrapN_eq]
  split
  · next h =>
    have : (BitVec.ofNat (tyBits ty) x <<< k) = 0#_ := BitVec.shiftLeft_eq_zero h
    simp [this]
  · rw [ofInt_nat_mod]
    simp [Nat.shiftLeft_eq]

theorem shift_shr (ty : BitVec 3) (x k : Nat) : wrapN (tyBits ty) (IOp.shift .shr ty x k) = (BitVec.ofNat (tyBits ty) x >>> k).toNat := by
  simp only [IOp.shift, wrapN_eq]
  split
  · next h =>
    have : x % 2 ^ tyBits ty < 2 ^ k := lt_of_lt_of_le (Nat.mod_lt _ (Nat.two_pow_pos _)) (Nat.pow_le_pow_right (by omega) h)
    simp [Nat.shiftRight_eq_div_pow, Nat.div_eq_of_lt this]
  · rw [ofInt_nat_mod]
    have : x % 2 ^ tyBits ty / 2 ^ k < 2 ^ tyBits ty := lt_of_le_of_lt (Nat.div_le_self _ _) (Nat.mod_lt _ (Nat.two_pow_pos _))
    simp [Nat.shiftRight_eq_div_pow, Nat.mod_eq_of_lt this]

end Sys2Proof.Machine
end

