-- ==== Sys2Proof/Laws/Float.lean ====
section
/-! SUPPORT. The integer square root that the floating roots are rounded from. -/

namespace Sys2Proof.Machine

theorem isqrtFrom_spec (n k r : Nat) (h : r * r ≤ n) (h' : n < (r + 2 ^ k) * (r + 2 ^ k)) :
    isqrtFrom n k r * isqrtFrom n k r ≤ n ∧ n < (isqrtFrom n k r + 1) * (isqrtFrom n k r + 1) := by
  induction k generalizing r with
  | zero => exact ⟨h, h'⟩
  | succ k ih =>
    rw [isqrtFrom]
    split
    · rename_i hle
      exact ih _ hle (by rw [show r + 2 ^ k + 2 ^ k = r + 2 ^ (k + 1) by rw [Nat.pow_succ]; omega]; exact h')
    · rename_i hgt
      exact ih _ h (Nat.lt_of_not_le hgt)

/-- `isqrt n` is the integer part of √n. -/
theorem isqrt_spec (n : Nat) : isqrt n * isqrt n ≤ n ∧ n < (isqrt n + 1) * (isqrt n + 1) := by
  apply isqrtFrom_spec n _ 0 (by omega)
  have h := Nat.lt_log2_self (n := n)
  rw [Nat.zero_add, ← Nat.pow_add]
  exact Nat.lt_of_lt_of_le h (Nat.pow_le_pow_right (by decide) (by omega))

end Sys2Proof.Machine
end

