-- ==== Sys2Proof/Laws/Map.lean ====
section
/-! SUPPORT. Laws of the sparse maps: what a read gives after a write, and that every operation keeps the canonical form. -/

namespace Sys2Proof.Machine

variable {α : Type}

theorem mget_merase (d : α) (m : SMap α) (k k' : Nat) : mget d (merase m k) k' = if k' = k then d else mget d m k' := by
  induction m with
  | nil => simp [merase, mget]
  | cons e r ih =>
    obtain ⟨a, v⟩ := e
    by_cases h : a = k
    · by_cases h' : k' = k
      · subst h'; simp [merase, h, ih]
      · simp [merase, mget, h, ih, h', Ne.symm h']
    · by_cases h' : a = k'
      · simp [merase, mget, h, ← h']
      · simp [merase, mget, h, h', ih]

theorem mget_mins_self (d : α) (m : SMap α) (k : Nat) (v : α) (h : ∀ e ∈ m, e.1 ≠ k) : mget d (mins k v m) k = v := by
  induction m with
  | nil => simp [mins, mget]
  | cons e r ih =>
    obtain ⟨a, w⟩ := e
    have ha : a ≠ k := h (a, w) (by simp)
    by_cases hk : k < a
    · simp [mins, hk, mget]
    · simp [mins, hk, mget, ha, ih fun e he => h e (by simp [he])]

theorem mget_mins_other (d : α) (m : SMap α) (k k' : Nat) (v : α) (h : k' ≠ k) : mget d (mins k v m) k' = mget d m k' := by
  induction m with
  | nil => simp [mins, mget, Ne.symm h]
  | cons e r ih =>
    obtain ⟨a, w⟩ := e
    by_cases hk : k < a
    · simp [mins, hk, mget, Ne.symm h]
    · simp [mins, hk, mget, ih]

theorem merase_no_key (m : SMap α) (k : Nat) : ∀ e ∈ merase m k, e.1 ≠ k := by
  induction m with
  | nil => simp [merase]
  | cons e r ih =>
    obtain ⟨a, w⟩ := e
    by_cases h : a = k
    · simpa [merase, h] using ih
    · intro x hx
      simp only [merase, h, if_false, List.mem_cons] at hx
      rcases hx with rfl | hx
      · exact h
      · exact ih x hx

/-- A read after a write. -/
theorem mget_mput [DecidableEq α] (d : α) (m : SMap α) (k k' : Nat) (v : α) :
    mget d (mput d m k v) k' = if k' = k then v else mget d m k' := by
  unfold mput
  by_cases hv : v = d
  · simp [hv, mget_merase]
  · simp only [hv, if_false]
    by_cases h : k' = k
    · subst h; simp [mget_mins_self d _ _ v (merase_no_key m k')]
    · simp [h, mget_mins_other d _ _ _ v h, mget_merase]

@[simp] theorem mget_mput_self [DecidableEq α] (d : α) (m : SMap α) (k : Nat) (v : α) : mget d (mput d m k v) k = v := by
  simp [mget_mput]

theorem mget_mput_other [DecidableEq α] (d : α) (m : SMap α) {k k' : Nat} (v : α) (h : k' ≠ k) :
    mget d (mput d m k v) k' = mget d m k' := by
  simp [mget_mput, h]

@[simp] theorem mget_nil (d : α) (k : Nat) : mget d ([] : SMap α) k = d := rfl

/-- Read after a write of consecutive keys. -/
theorem mget_mputs [DecidableEq α] (d : α) (vs : List α) (m : SMap α) (k k' : Nat) :
    mget d (mputs d m k vs) k' = if k ≤ k' ∧ k' < k + vs.length then vs.getD (k' - k) d else mget d m k' := by
  induction vs generalizing m k with
  | nil => simp [mputs]
  | cons v r ih =>
    simp only [mputs, ih, mget_mput]
    by_cases h : k' = k
    · subst h; simp
    · by_cases h2 : k + 1 ≤ k' ∧ k' < k + 1 + r.length
      · have h3 : k ≤ k' ∧ k' < k + (v :: r).length := by simp; omega
        simp only [h2, h3, and_self, if_true]
        obtain ⟨n, hn⟩ : ∃ n, k' - k = n + 1 := ⟨k' - k - 1, by omega⟩
        have : k' - (k + 1) = n := by omega
        rw [hn, this]; simp
      · have h3 : ¬(k ≤ k' ∧ k' < k + (v :: r).length) := by simp; omega
        simp only [h2, h3, if_false, h]

theorem mget_mkeep (d : α) (f : Nat → Bool) (m : SMap α) (k : Nat) : mget d (mkeep f m) k = if f k then mget d m k else d := by
  induction m with
  | nil => simp [mkeep]
  | cons e r ih =>
    obtain ⟨a, w⟩ := e
    by_cases h : f a
    · by_cases h' : a = k
      · subst h'; simp [mkeep, h, mget]
      · simp [mkeep, h, mget, h', ih]
    · by_cases h' : a = k
      · subst h'; simp [mkeep, h, ih]
      · simp [mkeep, h, mget, h', ih]

/-! ### Plain lists of entries -/

theorem lget_merase (m : SMap α) (k k' : Nat) : lget (merase m k) k' = if k' = k then none else lget m k' := by
  induction m with
  | nil => simp [merase, lget]
  | cons e r ih =>
    obtain ⟨a, v⟩ := e
    by_cases h : a = k
    · by_cases h' : k' = k
      · subst h'; simp [merase, h, ih]
      · simp [merase, lget, h, ih, h', Ne.symm h']
    · by_cases h' : a = k'
      · simp [merase, lget, h, ← h']
      · simp [merase, lget, h, h', ih]

theorem lget_mins_self (m : SMap α) (k : Nat) (v : α) (h : ∀ e ∈ m, e.1 ≠ k) : lget (mins k v m) k = some v := by
  induction m with
  | nil => simp [mins, lget]
  | cons e r ih =>
    obtain ⟨a, w⟩ := e
    have ha : a ≠ k := h (a, w) (by simp)
    by_cases hk : k < a
    · simp [mins, hk, lget]
    · simp [mins, hk, lget, ha, ih fun e he => h e (by simp [he])]

theorem lget_mins_other (m : SMap α) (k k' : Nat) (v : α) (h : k' ≠ k) : lget (mins k v m) k' = lget m k' := by
  induction m with
  | nil => simp [mins, lget, Ne.symm h]
  | cons e r ih =>
    obtain ⟨a, w⟩ := e
    by_cases hk : k < a
    · simp [mins, hk, lget, Ne.symm h]
    · simp [mins, hk, lget, ih]

theorem lget_lset (m : SMap α) (k k' : Nat) (v : α) : lget (lset m k v) k' = if k' = k then some v else lget m k' := by
  unfold lset
  by_cases h : k' = k
  · subst h; simp [lget_mins_self _ _ v (merase_no_key m k')]
  · simp [h, lget_mins_other _ _ _ v h, lget_merase]

theorem merase_of_no_key (m : SMap α) (k : Nat) (h : ∀ e ∈ m, e.1 ≠ k) : merase m k = m := by
  induction m with
  | nil => rfl
  | cons e r ih =>
    have he : e.1 ≠ k := h e (by simp)
    simp [merase, he, ih fun x hx => h x (by simp [hx])]

theorem merase_mins (m : SMap α) (k : Nat) (v : α) (h : ∀ e ∈ m, e.1 ≠ k) : merase (mins k v m) k = m := by
  induction m with
  | nil => simp [mins, merase]
  | cons e r ih =>
    obtain ⟨a, w⟩ := e
    have ha : a ≠ k := h (a, w) (by simp)
    have hr : ∀ e ∈ r, e.1 ≠ k := fun e he => h e (by simp [he])
    by_cases hk : k < a
    · simp [mins, hk, merase, ha, merase_of_no_key r k hr]
    · simp [mins, hk, merase, ha, ih hr]

/-- The second of two writes of one entry stands. -/
theorem lset_lset (m : SMap α) (k : Nat) (v w : α) : lset (lset m k v) k w = lset m k w := by
  simp [lset, merase_mins _ _ _ (merase_no_key m k)]

@[simp] theorem lget_lset_self (m : SMap α) (k : Nat) (v : α) : lget (lset m k v) k = some v := by simp [lget_lset]

theorem lget_lset_other (m : SMap α) {k k' : Nat} (v : α) (h : k' ≠ k) : lget (lset m k v) k' = lget m k' := by
  simp [lget_lset, h]

/-! ### The canonical form -/

/-- The canonical form says: keys rise strictly, and no entry is the default. -/
theorem mwf_cons [DecidableEq α] (d : α) (k : Nat) (v : α) (r : SMap α) :
    mwf d ((k, v) :: r) = true ↔ v ≠ d ∧ mwf d r = true ∧ ∀ e ∈ r, k < e.1 := by
  induction r generalizing k v with
  | nil => simp [mwf]
  | cons e r ih =>
    obtain ⟨a, w⟩ := e
    have h := ih a w
    simp only [mwf, Bool.and_eq_true, decide_eq_true_eq, List.mem_cons]
    constructor
    · rintro ⟨⟨hk, hv⟩, hr⟩
      refine ⟨hv, hr, ?_⟩
      rintro x (rfl | hx)
      · exact hk
      · exact lt_trans hk ((h.1 hr).2.2 x hx)
    · rintro ⟨hv, hr, hx⟩
      exact ⟨⟨hx _ (.inl rfl), hv⟩, hr⟩

theorem mem_merase (m : SMap α) (k : Nat) {e : Nat × α} (h : e ∈ merase m k) : e ∈ m := by
  induction m with
  | nil => simp [merase] at h
  | cons x r ih =>
    obtain ⟨a, w⟩ := x
    by_cases hk : a = k
    · simp only [merase, hk, if_true] at h; exact List.mem_cons_of_mem _ (ih h)
    · simp only [merase, hk, if_false, List.mem_cons] at h
      rcases h with rfl | h
      · simp
      · exact List.mem_cons_of_mem _ (ih h)

theorem mwf_merase [DecidableEq α] (d : α) (m : SMap α) (k : Nat) (h : mwf d m = true) : mwf d (merase m k) = true := by
  induction m with
  | nil => simpa [merase] using h
  | cons e r ih =>
    obtain ⟨a, w⟩ := e
    rw [mwf_cons] at h
    by_cases hk : a = k
    · simpa [merase, hk] using ih h.2.1
    · simp only [merase, hk, if_false, mwf_cons]
      exact ⟨h.1, ih h.2.1, fun e he => h.2.2 e (mem_merase r k he)⟩

theorem mem_mins (m : SMap α) (k : Nat) (v : α) {e : Nat × α} (h : e ∈ mins k v m) : e = (k, v) ∨ e ∈ m := by
  induction m with
  | nil => simpa [mins] using h
  | cons x r ih =>
    obtain ⟨a, w⟩ := x
    by_cases hk : k < a
    · simpa [mins, hk] using h
    · simp only [mins, hk, if_false, List.mem_cons] at h
      rcases h with rfl | h
      · simp
      · rcases ih h with h | h <;> simp [h]

theorem mwf_mins [DecidableEq α] (d : α) (m : SMap α) (k : Nat) (v : α) (hv : v ≠ d) (hk : ∀ e ∈ m, e.1 ≠ k) (h : mwf d m = true) :
    mwf d (mins k v m) = true := by
  induction m with
  | nil => simpa [mins, mwf] using hv
  | cons e r ih =>
    obtain ⟨a, w⟩ := e
    have ha : a ≠ k := hk (a, w) (by simp)
    have h' := h
    rw [mwf_cons] at h
    by_cases hlt : k < a
    · simp only [mins, hlt, if_true, mwf_cons]
      refine ⟨hv, ⟨h.1, h.2.1, h.2.2⟩, ?_⟩
      intro e he
      rcases List.mem_cons.1 he with rfl | he
      · exact hlt
      · exact lt_trans hlt (h.2.2 e he)
    · simp only [mins, hlt, if_false, mwf_cons]
      refine ⟨h.1, ih (fun e he => hk e (by simp [he])) h.2.1, ?_⟩
      intro e he
      rcases mem_mins r k v he with rfl | he
      · simp only; omega
      · exact h.2.2 e he

theorem mwf_mput [DecidableEq α] (d : α) (m : SMap α) (k : Nat) (v : α) (h : mwf d m = true) : mwf d (mput d m k v) = true := by
  unfold mput
  by_cases hv : v = d
  · simpa [hv] using mwf_merase d m k h
  · simpa [hv] using mwf_mins d _ k v hv (merase_no_key m k) (mwf_merase d m k h)

theorem mwf_mputs [DecidableEq α] (d : α) (vs : List α) (m : SMap α) (k : Nat) (h : mwf d m = true) : mwf d (mputs d m k vs) = true := by
  induction vs generalizing m k with
  | nil => exact h
  | cons v r ih => exact ih _ _ (mwf_mput d m k v h)

theorem mwf_mkeep [DecidableEq α] (d : α) (f : Nat → Bool) (m : SMap α) (h : mwf d m = true) : mwf d (mkeep f m) = true := by
  have sub : ∀ (l : SMap α), ∀ e ∈ mkeep f l, e ∈ l := by
    intro l
    induction l with
    | nil => simp [mkeep]
    | cons x r ih =>
      obtain ⟨a, w⟩ := x
      intro e he
      by_cases hf : f a
      · simp only [mkeep, hf, if_true, List.mem_cons] at he
        rcases he with rfl | he
        · simp
        · exact List.mem_cons_of_mem _ (ih e he)
      · simp only [mkeep, hf] at he
        exact List.mem_cons_of_mem _ (ih e he)
  induction m with
  | nil => simpa [mkeep] using h
  | cons e r ih =>
    obtain ⟨a, w⟩ := e
    rw [mwf_cons] at h
    by_cases hf : f a
    · simp only [mkeep, hf, if_true, mwf_cons]
      exact ⟨h.1, ih h.2.1, fun e he => h.2.2 e (sub r e he)⟩
    · simpa [mkeep, hf] using ih h.2.1

/-- Two maps in canonical form that read alike are equal data. -/
theorem mwf_ext [DecidableEq α] (d : α) (m m' : SMap α) (h : mwf d m = true) (h' : mwf d m' = true)
    (hx : ∀ k, mget d m k = mget d m' k) : m = m' := by
  have low : ∀ (l : SMap α) (k : Nat), mwf d l = true → (∀ e ∈ l, k < e.1) → mget d l k = d := by
    intro l k
    induction l with
    | nil => simp
    | cons e r ih =>
      obtain ⟨a, w⟩ := e
      intro hl hk
      have : a ≠ k := by have := hk (a, w) (by simp); simp only at this; omega
      simp [mget, this, ih ((mwf_cons d a w r).1 hl).2.1 fun e he => hk e (by simp [he])]
  induction m generalizing m' with
  | nil =>
    cases m' with
    | nil => rfl
    | cons e r =>
      obtain ⟨a, w⟩ := e
      have := hx a
      simp [mget] at this
      exact absurd this.symm ((mwf_cons d a w r).1 h').1
  | cons e r ih =>
    obtain ⟨a, w⟩ := e
    obtain ⟨hw, hr, hl⟩ := (mwf_cons d a w r).1 h
    cases m' with
    | nil =>
      have := hx a
      simp [mget] at this
      exact absurd this hw
    | cons e' r' =>
      obtain ⟨b, u⟩ := e'
      obtain ⟨hu, hr', hl'⟩ := (mwf_cons d b u r').1 h'
      have hab : a = b := by
        rcases Nat.lt_trichotomy a b with hlt | heq | hgt
        · have e1 := hx a
          rw [low ((b, u) :: r') a h' (by
            intro e he
            rcases List.mem_cons.1 he with rfl | he
            · exact hlt
            · exact lt_trans hlt (hl' e he))] at e1
          simp [mget] at e1
          exact absurd e1 hw
        · exact heq
        · have e1 := hx b
          rw [low ((a, w) :: r) b h (by
            intro e he
            rcases List.mem_cons.1 he with rfl | he
            · exact hgt
            · exact lt_trans hgt (hl e he))] at e1
          simp [mget] at e1
          exact absurd e1.symm hu
      subst hab
      have hwu : w = u := by simpa [mget] using hx a
      subst hwu
      rw [ih r' hr hr']
      intro k
      have hk := hx k
      by_cases e : a = k
      · subst e; rw [low r a hr hl, low r' a hr' hl']
      · simpa [mget, e] using hk

end Sys2Proof.Machine
end

