-- ==== Sys2Proof/Laws/State.lean ====
section
/-! SUPPORT. One lemma for each field and each plain update of the state, and what a read gives after a write of the tables. -/

namespace Sys2Proof.Machine

/-! ### setTeam -/

@[simp] theorem State.setTeam_agenda (s : State) (t : Nat) (T : Team) : (s.setTeam t T).agenda = s.agenda := rfl
@[simp] theorem State.setTeam_cur (s : State) (t : Nat) (T : Team) : (s.setTeam t T).cur = s.cur := rfl
@[simp] theorem State.setTeam_slot (s : State) (t : Nat) (T : Team) : (s.setTeam t T).slot = s.slot := rfl
@[simp] theorem State.setTeam_free (s : State) (t : Nat) (T : Team) : (s.setTeam t T).free = s.free := rfl
@[simp] theorem State.setTeam_uid (s : State) (t : Nat) (T : Team) : (s.setTeam t T).uid = s.uid := rfl
@[simp] theorem State.setTeam_gtime (s : State) (t : Nat) (T : Team) : (s.setTeam t T).gtime = s.gtime := rfl
@[simp] theorem State.setTeam_cycles (s : State) (t : Nat) (T : Team) : (s.setTeam t T).cycles = s.cycles := rfl
@[simp] theorem State.setTeam_mem (s : State) (t : Nat) (T : Team) : (s.setTeam t T).mem = s.mem := rfl
@[simp] theorem State.setTeam_gens (s : State) (t : Nat) (T : Team) : (s.setTeam t T).gens = s.gens := rfl
@[simp] theorem State.setTeam_cores (s : State) (t : Nat) (T : Team) : (s.setTeam t T).cores = s.cores := rfl
@[simp] theorem State.setTeam_clusters (s : State) (t : Nat) (T : Team) : (s.setTeam t T).clusters = s.clusters := rfl
@[simp] theorem State.setTeam_sbufs (s : State) (t : Nat) (T : Team) : (s.setTeam t T).sbufs = s.sbufs := rfl
@[simp] theorem State.setTeam_blocks (s : State) (t : Nat) (T : Team) : (s.setTeam t T).blocks = s.blocks := rfl
@[simp] theorem State.setTeam_launches (s : State) (t : Nat) (T : Team) : (s.setTeam t T).launches = s.launches := rfl
@[simp] theorem State.setTeam_ctxs (s : State) (t : Nat) (T : Team) : (s.setTeam t T).ctxs = s.ctxs := rfl
@[simp] theorem State.setTeam_parts (s : State) (t : Nat) (T : Team) : (s.setTeam t T).parts = s.parts := rfl
@[simp] theorem State.setTeam_vis (s : State) (t : Nat) (T : Team) : (s.setTeam t T).vis = s.vis := rfl
@[simp] theorem State.setTeam_routers (s : State) (t : Nat) (T : Team) : (s.setTeam t T).routers = s.routers := rfl
@[simp] theorem State.setTeam_lines (s : State) (t : Nat) (T : Team) : (s.setTeam t T).lines = s.lines := rfl
@[simp] theorem State.setTeam_recent (s : State) (t : Nat) (T : Team) : (s.setTeam t T).recent = s.recent := rfl
@[simp] theorem State.setTeam_homes (s : State) (t : Nat) (T : Team) : (s.setTeam t T).homes = s.homes := rfl
@[simp] theorem State.setTeam_under (s : State) (t : Nat) (T : Team) : (s.setTeam t T).under = s.under := rfl
@[simp] theorem State.setTeam_hostLines (s : State) (t : Nat) (T : Team) : (s.setTeam t T).hostLines = s.hostLines := rfl
@[simp] theorem State.setTeam_resv (s : State) (t : Nat) (T : Team) : (s.setTeam t T).resv = s.resv := rfl
@[simp] theorem State.setTeam_msgs (s : State) (t : Nat) (T : Team) : (s.setTeam t T).msgs = s.msgs := rfl
@[simp] theorem State.setTeam_atomq (s : State) (t : Nat) (T : Team) : (s.setTeam t T).atomq = s.atomq := rfl
@[simp] theorem State.setTeam_tiles (s : State) (t : Nat) (T : Team) : (s.setTeam t T).tiles = s.tiles := rfl
@[simp] theorem State.setTeam_tileOps (s : State) (t : Nat) (T : Team) : (s.setTeam t T).tileOps = s.tileOps := rfl
@[simp] theorem State.setTeam_away (s : State) (t : Nat) (T : Team) : (s.setTeam t T).away = s.away := rfl
@[simp] theorem State.setTeam_poison (s : State) (t : Nat) (T : Team) : (s.setTeam t T).poison = s.poison := rfl
@[simp] theorem State.setTeam_bpoison (s : State) (t : Nat) (T : Team) : (s.setTeam t T).bpoison = s.bpoison := rfl
@[simp] theorem State.setTeam_hpoison (s : State) (t : Nat) (T : Team) : (s.setTeam t T).hpoison = s.hpoison := rfl
@[simp] theorem State.setTeam_umarks (s : State) (t : Nat) (T : Team) : (s.setTeam t T).umarks = s.umarks := rfl
@[simp] theorem State.setTeam_cmarks (s : State) (t : Nat) (T : Team) : (s.setTeam t T).cmarks = s.cmarks := rfl
@[simp] theorem State.setTeam_unfilled (s : State) (t : Nat) (T : Team) : (s.setTeam t T).unfilled = s.unfilled := rfl
@[simp] theorem State.setTeam_dev (s : State) (t : Nat) (T : Team) : (s.setTeam t T).dev = s.dev := rfl

/-! ### setGen -/

@[simp] theorem State.setGen_agenda (s : State) (g : Nat) (G : Gen) : (s.setGen g G).agenda = s.agenda := rfl
@[simp] theorem State.setGen_cur (s : State) (g : Nat) (G : Gen) : (s.setGen g G).cur = s.cur := rfl
@[simp] theorem State.setGen_slot (s : State) (g : Nat) (G : Gen) : (s.setGen g G).slot = s.slot := rfl
@[simp] theorem State.setGen_free (s : State) (g : Nat) (G : Gen) : (s.setGen g G).free = s.free := rfl
@[simp] theorem State.setGen_uid (s : State) (g : Nat) (G : Gen) : (s.setGen g G).uid = s.uid := rfl
@[simp] theorem State.setGen_gtime (s : State) (g : Nat) (G : Gen) : (s.setGen g G).gtime = s.gtime := rfl
@[simp] theorem State.setGen_cycles (s : State) (g : Nat) (G : Gen) : (s.setGen g G).cycles = s.cycles := rfl
@[simp] theorem State.setGen_mem (s : State) (g : Nat) (G : Gen) : (s.setGen g G).mem = s.mem := rfl
@[simp] theorem State.setGen_teams (s : State) (g : Nat) (G : Gen) : (s.setGen g G).teams = s.teams := rfl
@[simp] theorem State.setGen_cores (s : State) (g : Nat) (G : Gen) : (s.setGen g G).cores = s.cores := rfl
@[simp] theorem State.setGen_clusters (s : State) (g : Nat) (G : Gen) : (s.setGen g G).clusters = s.clusters := rfl
@[simp] theorem State.setGen_sbufs (s : State) (g : Nat) (G : Gen) : (s.setGen g G).sbufs = s.sbufs := rfl
@[simp] theorem State.setGen_blocks (s : State) (g : Nat) (G : Gen) : (s.setGen g G).blocks = s.blocks := rfl
@[simp] theorem State.setGen_launches (s : State) (g : Nat) (G : Gen) : (s.setGen g G).launches = s.launches := rfl
@[simp] theorem State.setGen_ctxs (s : State) (g : Nat) (G : Gen) : (s.setGen g G).ctxs = s.ctxs := rfl
@[simp] theorem State.setGen_parts (s : State) (g : Nat) (G : Gen) : (s.setGen g G).parts = s.parts := rfl
@[simp] theorem State.setGen_vis (s : State) (g : Nat) (G : Gen) : (s.setGen g G).vis = s.vis := rfl
@[simp] theorem State.setGen_routers (s : State) (g : Nat) (G : Gen) : (s.setGen g G).routers = s.routers := rfl
@[simp] theorem State.setGen_lines (s : State) (g : Nat) (G : Gen) : (s.setGen g G).lines = s.lines := rfl
@[simp] theorem State.setGen_recent (s : State) (g : Nat) (G : Gen) : (s.setGen g G).recent = s.recent := rfl
@[simp] theorem State.setGen_homes (s : State) (g : Nat) (G : Gen) : (s.setGen g G).homes = s.homes := rfl
@[simp] theorem State.setGen_under (s : State) (g : Nat) (G : Gen) : (s.setGen g G).under = s.under := rfl
@[simp] theorem State.setGen_hostLines (s : State) (g : Nat) (G : Gen) : (s.setGen g G).hostLines = s.hostLines := rfl
@[simp] theorem State.setGen_resv (s : State) (g : Nat) (G : Gen) : (s.setGen g G).resv = s.resv := rfl
@[simp] theorem State.setGen_msgs (s : State) (g : Nat) (G : Gen) : (s.setGen g G).msgs = s.msgs := rfl
@[simp] theorem State.setGen_atomq (s : State) (g : Nat) (G : Gen) : (s.setGen g G).atomq = s.atomq := rfl
@[simp] theorem State.setGen_tiles (s : State) (g : Nat) (G : Gen) : (s.setGen g G).tiles = s.tiles := rfl
@[simp] theorem State.setGen_tileOps (s : State) (g : Nat) (G : Gen) : (s.setGen g G).tileOps = s.tileOps := rfl
@[simp] theorem State.setGen_away (s : State) (g : Nat) (G : Gen) : (s.setGen g G).away = s.away := rfl
@[simp] theorem State.setGen_poison (s : State) (g : Nat) (G : Gen) : (s.setGen g G).poison = s.poison := rfl
@[simp] theorem State.setGen_bpoison (s : State) (g : Nat) (G : Gen) : (s.setGen g G).bpoison = s.bpoison := rfl
@[simp] theorem State.setGen_hpoison (s : State) (g : Nat) (G : Gen) : (s.setGen g G).hpoison = s.hpoison := rfl
@[simp] theorem State.setGen_umarks (s : State) (g : Nat) (G : Gen) : (s.setGen g G).umarks = s.umarks := rfl
@[simp] theorem State.setGen_cmarks (s : State) (g : Nat) (G : Gen) : (s.setGen g G).cmarks = s.cmarks := rfl
@[simp] theorem State.setGen_unfilled (s : State) (g : Nat) (G : Gen) : (s.setGen g G).unfilled = s.unfilled := rfl
@[simp] theorem State.setGen_dev (s : State) (g : Nat) (G : Gen) : (s.setGen g G).dev = s.dev := rfl

/-! ### setCore -/

@[simp] theorem State.setCore_agenda (s : State) (c : Nat) (C : Core) : (s.setCore c C).agenda = s.agenda := rfl
@[simp] theorem State.setCore_cur (s : State) (c : Nat) (C : Core) : (s.setCore c C).cur = s.cur := rfl
@[simp] theorem State.setCore_slot (s : State) (c : Nat) (C : Core) : (s.setCore c C).slot = s.slot := rfl
@[simp] theorem State.setCore_free (s : State) (c : Nat) (C : Core) : (s.setCore c C).free = s.free := rfl
@[simp] theorem State.setCore_uid (s : State) (c : Nat) (C : Core) : (s.setCore c C).uid = s.uid := rfl
@[simp] theorem State.setCore_gtime (s : State) (c : Nat) (C : Core) : (s.setCore c C).gtime = s.gtime := rfl
@[simp] theorem State.setCore_cycles (s : State) (c : Nat) (C : Core) : (s.setCore c C).cycles = s.cycles := rfl
@[simp] theorem State.setCore_mem (s : State) (c : Nat) (C : Core) : (s.setCore c C).mem = s.mem := rfl
@[simp] theorem State.setCore_teams (s : State) (c : Nat) (C : Core) : (s.setCore c C).teams = s.teams := rfl
@[simp] theorem State.setCore_gens (s : State) (c : Nat) (C : Core) : (s.setCore c C).gens = s.gens := rfl
@[simp] theorem State.setCore_clusters (s : State) (c : Nat) (C : Core) : (s.setCore c C).clusters = s.clusters := rfl
@[simp] theorem State.setCore_sbufs (s : State) (c : Nat) (C : Core) : (s.setCore c C).sbufs = s.sbufs := rfl
@[simp] theorem State.setCore_blocks (s : State) (c : Nat) (C : Core) : (s.setCore c C).blocks = s.blocks := rfl
@[simp] theorem State.setCore_launches (s : State) (c : Nat) (C : Core) : (s.setCore c C).launches = s.launches := rfl
@[simp] theorem State.setCore_ctxs (s : State) (c : Nat) (C : Core) : (s.setCore c C).ctxs = s.ctxs := rfl
@[simp] theorem State.setCore_parts (s : State) (c : Nat) (C : Core) : (s.setCore c C).parts = s.parts := rfl
@[simp] theorem State.setCore_vis (s : State) (c : Nat) (C : Core) : (s.setCore c C).vis = s.vis := rfl
@[simp] theorem State.setCore_routers (s : State) (c : Nat) (C : Core) : (s.setCore c C).routers = s.routers := rfl
@[simp] theorem State.setCore_lines (s : State) (c : Nat) (C : Core) : (s.setCore c C).lines = s.lines := rfl
@[simp] theorem State.setCore_recent (s : State) (c : Nat) (C : Core) : (s.setCore c C).recent = s.recent := rfl
@[simp] theorem State.setCore_homes (s : State) (c : Nat) (C : Core) : (s.setCore c C).homes = s.homes := rfl
@[simp] theorem State.setCore_under (s : State) (c : Nat) (C : Core) : (s.setCore c C).under = s.under := rfl
@[simp] theorem State.setCore_hostLines (s : State) (c : Nat) (C : Core) : (s.setCore c C).hostLines = s.hostLines := rfl
@[simp] theorem State.setCore_resv (s : State) (c : Nat) (C : Core) : (s.setCore c C).resv = s.resv := rfl
@[simp] theorem State.setCore_msgs (s : State) (c : Nat) (C : Core) : (s.setCore c C).msgs = s.msgs := rfl
@[simp] theorem State.setCore_atomq (s : State) (c : Nat) (C : Core) : (s.setCore c C).atomq = s.atomq := rfl
@[simp] theorem State.setCore_tiles (s : State) (c : Nat) (C : Core) : (s.setCore c C).tiles = s.tiles := rfl
@[simp] theorem State.setCore_tileOps (s : State) (c : Nat) (C : Core) : (s.setCore c C).tileOps = s.tileOps := rfl
@[simp] theorem State.setCore_away (s : State) (c : Nat) (C : Core) : (s.setCore c C).away = s.away := rfl
@[simp] theorem State.setCore_poison (s : State) (c : Nat) (C : Core) : (s.setCore c C).poison = s.poison := rfl
@[simp] theorem State.setCore_bpoison (s : State) (c : Nat) (C : Core) : (s.setCore c C).bpoison = s.bpoison := rfl
@[simp] theorem State.setCore_hpoison (s : State) (c : Nat) (C : Core) : (s.setCore c C).hpoison = s.hpoison := rfl
@[simp] theorem State.setCore_umarks (s : State) (c : Nat) (C : Core) : (s.setCore c C).umarks = s.umarks := rfl
@[simp] theorem State.setCore_cmarks (s : State) (c : Nat) (C : Core) : (s.setCore c C).cmarks = s.cmarks := rfl
@[simp] theorem State.setCore_unfilled (s : State) (c : Nat) (C : Core) : (s.setCore c C).unfilled = s.unfilled := rfl
@[simp] theorem State.setCore_dev (s : State) (c : Nat) (C : Core) : (s.setCore c C).dev = s.dev := rfl

/-! ### setCluster -/

@[simp] theorem State.setCluster_agenda (s : State) (c : Nat) (C : Cluster) : (s.setCluster c C).agenda = s.agenda := rfl
@[simp] theorem State.setCluster_cur (s : State) (c : Nat) (C : Cluster) : (s.setCluster c C).cur = s.cur := rfl
@[simp] theorem State.setCluster_slot (s : State) (c : Nat) (C : Cluster) : (s.setCluster c C).slot = s.slot := rfl
@[simp] theorem State.setCluster_free (s : State) (c : Nat) (C : Cluster) : (s.setCluster c C).free = s.free := rfl
@[simp] theorem State.setCluster_uid (s : State) (c : Nat) (C : Cluster) : (s.setCluster c C).uid = s.uid := rfl
@[simp] theorem State.setCluster_gtime (s : State) (c : Nat) (C : Cluster) : (s.setCluster c C).gtime = s.gtime := rfl
@[simp] theorem State.setCluster_cycles (s : State) (c : Nat) (C : Cluster) : (s.setCluster c C).cycles = s.cycles := rfl
@[simp] theorem State.setCluster_mem (s : State) (c : Nat) (C : Cluster) : (s.setCluster c C).mem = s.mem := rfl
@[simp] theorem State.setCluster_teams (s : State) (c : Nat) (C : Cluster) : (s.setCluster c C).teams = s.teams := rfl
@[simp] theorem State.setCluster_gens (s : State) (c : Nat) (C : Cluster) : (s.setCluster c C).gens = s.gens := rfl
@[simp] theorem State.setCluster_cores (s : State) (c : Nat) (C : Cluster) : (s.setCluster c C).cores = s.cores := rfl
@[simp] theorem State.setCluster_sbufs (s : State) (c : Nat) (C : Cluster) : (s.setCluster c C).sbufs = s.sbufs := rfl
@[simp] theorem State.setCluster_blocks (s : State) (c : Nat) (C : Cluster) : (s.setCluster c C).blocks = s.blocks := rfl
@[simp] theorem State.setCluster_launches (s : State) (c : Nat) (C : Cluster) : (s.setCluster c C).launches = s.launches := rfl
@[simp] theorem State.setCluster_ctxs (s : State) (c : Nat) (C : Cluster) : (s.setCluster c C).ctxs = s.ctxs := rfl
@[simp] theorem State.setCluster_parts (s : State) (c : Nat) (C : Cluster) : (s.setCluster c C).parts = s.parts := rfl
@[simp] theorem State.setCluster_vis (s : State) (c : Nat) (C : Cluster) : (s.setCluster c C).vis = s.vis := rfl
@[simp] theorem State.setCluster_routers (s : State) (c : Nat) (C : Cluster) : (s.setCluster c C).routers = s.routers := rfl
@[simp] theorem State.setCluster_lines (s : State) (c : Nat) (C : Cluster) : (s.setCluster c C).lines = s.lines := rfl
@[simp] theorem State.setCluster_recent (s : State) (c : Nat) (C : Cluster) : (s.setCluster c C).recent = s.recent := rfl
@[simp] theorem State.setCluster_homes (s : State) (c : Nat) (C : Cluster) : (s.setCluster c C).homes = s.homes := rfl
@[simp] theorem State.setCluster_under (s : State) (c : Nat) (C : Cluster) : (s.setCluster c C).under = s.under := rfl
@[simp] theorem State.setCluster_hostLines (s : State) (c : Nat) (C : Cluster) : (s.setCluster c C).hostLines = s.hostLines := rfl
@[simp] theorem State.setCluster_resv (s : State) (c : Nat) (C : Cluster) : (s.setCluster c C).resv = s.resv := rfl
@[simp] theorem State.setCluster_msgs (s : State) (c : Nat) (C : Cluster) : (s.setCluster c C).msgs = s.msgs := rfl
@[simp] theorem State.setCluster_atomq (s : State) (c : Nat) (C : Cluster) : (s.setCluster c C).atomq = s.atomq := rfl
@[simp] theorem State.setCluster_tiles (s : State) (c : Nat) (C : Cluster) : (s.setCluster c C).tiles = s.tiles := rfl
@[simp] theorem State.setCluster_tileOps (s : State) (c : Nat) (C : Cluster) : (s.setCluster c C).tileOps = s.tileOps := rfl
@[simp] theorem State.setCluster_away (s : State) (c : Nat) (C : Cluster) : (s.setCluster c C).away = s.away := rfl
@[simp] theorem State.setCluster_poison (s : State) (c : Nat) (C : Cluster) : (s.setCluster c C).poison = s.poison := rfl
@[simp] theorem State.setCluster_bpoison (s : State) (c : Nat) (C : Cluster) : (s.setCluster c C).bpoison = s.bpoison := rfl
@[simp] theorem State.setCluster_hpoison (s : State) (c : Nat) (C : Cluster) : (s.setCluster c C).hpoison = s.hpoison := rfl
@[simp] theorem State.setCluster_umarks (s : State) (c : Nat) (C : Cluster) : (s.setCluster c C).umarks = s.umarks := rfl
@[simp] theorem State.setCluster_cmarks (s : State) (c : Nat) (C : Cluster) : (s.setCluster c C).cmarks = s.cmarks := rfl
@[simp] theorem State.setCluster_unfilled (s : State) (c : Nat) (C : Cluster) : (s.setCluster c C).unfilled = s.unfilled := rfl
@[simp] theorem State.setCluster_dev (s : State) (c : Nat) (C : Cluster) : (s.setCluster c C).dev = s.dev := rfl

/-! ### setBlock -/

@[simp] theorem State.setBlock_agenda (s : State) (b : Nat) (B : Block) : (s.setBlock b B).agenda = s.agenda := rfl
@[simp] theorem State.setBlock_cur (s : State) (b : Nat) (B : Block) : (s.setBlock b B).cur = s.cur := rfl
@[simp] theorem State.setBlock_slot (s : State) (b : Nat) (B : Block) : (s.setBlock b B).slot = s.slot := rfl
@[simp] theorem State.setBlock_free (s : State) (b : Nat) (B : Block) : (s.setBlock b B).free = s.free := rfl
@[simp] theorem State.setBlock_uid (s : State) (b : Nat) (B : Block) : (s.setBlock b B).uid = s.uid := rfl
@[simp] theorem State.setBlock_gtime (s : State) (b : Nat) (B : Block) : (s.setBlock b B).gtime = s.gtime := rfl
@[simp] theorem State.setBlock_cycles (s : State) (b : Nat) (B : Block) : (s.setBlock b B).cycles = s.cycles := rfl
@[simp] theorem State.setBlock_mem (s : State) (b : Nat) (B : Block) : (s.setBlock b B).mem = s.mem := rfl
@[simp] theorem State.setBlock_teams (s : State) (b : Nat) (B : Block) : (s.setBlock b B).teams = s.teams := rfl
@[simp] theorem State.setBlock_gens (s : State) (b : Nat) (B : Block) : (s.setBlock b B).gens = s.gens := rfl
@[simp] theorem State.setBlock_cores (s : State) (b : Nat) (B : Block) : (s.setBlock b B).cores = s.cores := rfl
@[simp] theorem State.setBlock_clusters (s : State) (b : Nat) (B : Block) : (s.setBlock b B).clusters = s.clusters := rfl
@[simp] theorem State.setBlock_sbufs (s : State) (b : Nat) (B : Block) : (s.setBlock b B).sbufs = s.sbufs := rfl
@[simp] theorem State.setBlock_launches (s : State) (b : Nat) (B : Block) : (s.setBlock b B).launches = s.launches := rfl
@[simp] theorem State.setBlock_ctxs (s : State) (b : Nat) (B : Block) : (s.setBlock b B).ctxs = s.ctxs := rfl
@[simp] theorem State.setBlock_parts (s : State) (b : Nat) (B : Block) : (s.setBlock b B).parts = s.parts := rfl
@[simp] theorem State.setBlock_vis (s : State) (b : Nat) (B : Block) : (s.setBlock b B).vis = s.vis := rfl
@[simp] theorem State.setBlock_routers (s : State) (b : Nat) (B : Block) : (s.setBlock b B).routers = s.routers := rfl
@[simp] theorem State.setBlock_lines (s : State) (b : Nat) (B : Block) : (s.setBlock b B).lines = s.lines := rfl
@[simp] theorem State.setBlock_recent (s : State) (b : Nat) (B : Block) : (s.setBlock b B).recent = s.recent := rfl
@[simp] theorem State.setBlock_homes (s : State) (b : Nat) (B : Block) : (s.setBlock b B).homes = s.homes := rfl
@[simp] theorem State.setBlock_under (s : State) (b : Nat) (B : Block) : (s.setBlock b B).under = s.under := rfl
@[simp] theorem State.setBlock_hostLines (s : State) (b : Nat) (B : Block) : (s.setBlock b B).hostLines = s.hostLines := rfl
@[simp] theorem State.setBlock_resv (s : State) (b : Nat) (B : Block) : (s.setBlock b B).resv = s.resv := rfl
@[simp] theorem State.setBlock_msgs (s : State) (b : Nat) (B : Block) : (s.setBlock b B).msgs = s.msgs := rfl
@[simp] theorem State.setBlock_atomq (s : State) (b : Nat) (B : Block) : (s.setBlock b B).atomq = s.atomq := rfl
@[simp] theorem State.setBlock_tiles (s : State) (b : Nat) (B : Block) : (s.setBlock b B).tiles = s.tiles := rfl
@[simp] theorem State.setBlock_tileOps (s : State) (b : Nat) (B : Block) : (s.setBlock b B).tileOps = s.tileOps := rfl
@[simp] theorem State.setBlock_away (s : State) (b : Nat) (B : Block) : (s.setBlock b B).away = s.away := rfl
@[simp] theorem State.setBlock_poison (s : State) (b : Nat) (B : Block) : (s.setBlock b B).poison = s.poison := rfl
@[simp] theorem State.setBlock_bpoison (s : State) (b : Nat) (B : Block) : (s.setBlock b B).bpoison = s.bpoison := rfl
@[simp] theorem State.setBlock_hpoison (s : State) (b : Nat) (B : Block) : (s.setBlock b B).hpoison = s.hpoison := rfl
@[simp] theorem State.setBlock_umarks (s : State) (b : Nat) (B : Block) : (s.setBlock b B).umarks = s.umarks := rfl
@[simp] theorem State.setBlock_cmarks (s : State) (b : Nat) (B : Block) : (s.setBlock b B).cmarks = s.cmarks := rfl
@[simp] theorem State.setBlock_unfilled (s : State) (b : Nat) (B : Block) : (s.setBlock b B).unfilled = s.unfilled := rfl
@[simp] theorem State.setBlock_dev (s : State) (b : Nat) (B : Block) : (s.setBlock b B).dev = s.dev := rfl

/-! ### setLaunch -/

@[simp] theorem State.setLaunch_agenda (s : State) (l : Nat) (L : Launch) : (s.setLaunch l L).agenda = s.agenda := rfl
@[simp] theorem State.setLaunch_cur (s : State) (l : Nat) (L : Launch) : (s.setLaunch l L).cur = s.cur := rfl
@[simp] theorem State.setLaunch_slot (s : State) (l : Nat) (L : Launch) : (s.setLaunch l L).slot = s.slot := rfl
@[simp] theorem State.setLaunch_free (s : State) (l : Nat) (L : Launch) : (s.setLaunch l L).free = s.free := rfl
@[simp] theorem State.setLaunch_uid (s : State) (l : Nat) (L : Launch) : (s.setLaunch l L).uid = s.uid := rfl
@[simp] theorem State.setLaunch_gtime (s : State) (l : Nat) (L : Launch) : (s.setLaunch l L).gtime = s.gtime := rfl
@[simp] theorem State.setLaunch_cycles (s : State) (l : Nat) (L : Launch) : (s.setLaunch l L).cycles = s.cycles := rfl
@[simp] theorem State.setLaunch_mem (s : State) (l : Nat) (L : Launch) : (s.setLaunch l L).mem = s.mem := rfl
@[simp] theorem State.setLaunch_teams (s : State) (l : Nat) (L : Launch) : (s.setLaunch l L).teams = s.teams := rfl
@[simp] theorem State.setLaunch_gens (s : State) (l : Nat) (L : Launch) : (s.setLaunch l L).gens = s.gens := rfl
@[simp] theorem State.setLaunch_cores (s : State) (l : Nat) (L : Launch) : (s.setLaunch l L).cores = s.cores := rfl
@[simp] theorem State.setLaunch_clusters (s : State) (l : Nat) (L : Launch) : (s.setLaunch l L).clusters = s.clusters := rfl
@[simp] theorem State.setLaunch_sbufs (s : State) (l : Nat) (L : Launch) : (s.setLaunch l L).sbufs = s.sbufs := rfl
@[simp] theorem State.setLaunch_blocks (s : State) (l : Nat) (L : Launch) : (s.setLaunch l L).blocks = s.blocks := rfl
@[simp] theorem State.setLaunch_ctxs (s : State) (l : Nat) (L : Launch) : (s.setLaunch l L).ctxs = s.ctxs := rfl
@[simp] theorem State.setLaunch_parts (s : State) (l : Nat) (L : Launch) : (s.setLaunch l L).parts = s.parts := rfl
@[simp] theorem State.setLaunch_vis (s : State) (l : Nat) (L : Launch) : (s.setLaunch l L).vis = s.vis := rfl
@[simp] theorem State.setLaunch_routers (s : State) (l : Nat) (L : Launch) : (s.setLaunch l L).routers = s.routers := rfl
@[simp] theorem State.setLaunch_lines (s : State) (l : Nat) (L : Launch) : (s.setLaunch l L).lines = s.lines := rfl
@[simp] theorem State.setLaunch_recent (s : State) (l : Nat) (L : Launch) : (s.setLaunch l L).recent = s.recent := rfl
@[simp] theorem State.setLaunch_homes (s : State) (l : Nat) (L : Launch) : (s.setLaunch l L).homes = s.homes := rfl
@[simp] theorem State.setLaunch_under (s : State) (l : Nat) (L : Launch) : (s.setLaunch l L).under = s.under := rfl
@[simp] theorem State.setLaunch_hostLines (s : State) (l : Nat) (L : Launch) : (s.setLaunch l L).hostLines = s.hostLines := rfl
@[simp] theorem State.setLaunch_resv (s : State) (l : Nat) (L : Launch) : (s.setLaunch l L).resv = s.resv := rfl
@[simp] theorem State.setLaunch_msgs (s : State) (l : Nat) (L : Launch) : (s.setLaunch l L).msgs = s.msgs := rfl
@[simp] theorem State.setLaunch_atomq (s : State) (l : Nat) (L : Launch) : (s.setLaunch l L).atomq = s.atomq := rfl
@[simp] theorem State.setLaunch_tiles (s : State) (l : Nat) (L : Launch) : (s.setLaunch l L).tiles = s.tiles := rfl
@[simp] theorem State.setLaunch_tileOps (s : State) (l : Nat) (L : Launch) : (s.setLaunch l L).tileOps = s.tileOps := rfl
@[simp] theorem State.setLaunch_away (s : State) (l : Nat) (L : Launch) : (s.setLaunch l L).away = s.away := rfl
@[simp] theorem State.setLaunch_poison (s : State) (l : Nat) (L : Launch) : (s.setLaunch l L).poison = s.poison := rfl
@[simp] theorem State.setLaunch_bpoison (s : State) (l : Nat) (L : Launch) : (s.setLaunch l L).bpoison = s.bpoison := rfl
@[simp] theorem State.setLaunch_hpoison (s : State) (l : Nat) (L : Launch) : (s.setLaunch l L).hpoison = s.hpoison := rfl
@[simp] theorem State.setLaunch_umarks (s : State) (l : Nat) (L : Launch) : (s.setLaunch l L).umarks = s.umarks := rfl
@[simp] theorem State.setLaunch_cmarks (s : State) (l : Nat) (L : Launch) : (s.setLaunch l L).cmarks = s.cmarks := rfl
@[simp] theorem State.setLaunch_unfilled (s : State) (l : Nat) (L : Launch) : (s.setLaunch l L).unfilled = s.unfilled := rfl
@[simp] theorem State.setLaunch_dev (s : State) (l : Nat) (L : Launch) : (s.setLaunch l L).dev = s.dev := rfl

/-! ### setCtx -/

@[simp] theorem State.setCtx_agenda (s : State) (c : Nat) (C : Ctx) : (s.setCtx c C).agenda = s.agenda := rfl
@[simp] theorem State.setCtx_cur (s : State) (c : Nat) (C : Ctx) : (s.setCtx c C).cur = s.cur := rfl
@[simp] theorem State.setCtx_slot (s : State) (c : Nat) (C : Ctx) : (s.setCtx c C).slot = s.slot := rfl
@[simp] theorem State.setCtx_free (s : State) (c : Nat) (C : Ctx) : (s.setCtx c C).free = s.free := rfl
@[simp] theorem State.setCtx_uid (s : State) (c : Nat) (C : Ctx) : (s.setCtx c C).uid = s.uid := rfl
@[simp] theorem State.setCtx_gtime (s : State) (c : Nat) (C : Ctx) : (s.setCtx c C).gtime = s.gtime := rfl
@[simp] theorem State.setCtx_cycles (s : State) (c : Nat) (C : Ctx) : (s.setCtx c C).cycles = s.cycles := rfl
@[simp] theorem State.setCtx_mem (s : State) (c : Nat) (C : Ctx) : (s.setCtx c C).mem = s.mem := rfl
@[simp] theorem State.setCtx_teams (s : State) (c : Nat) (C : Ctx) : (s.setCtx c C).teams = s.teams := rfl
@[simp] theorem State.setCtx_gens (s : State) (c : Nat) (C : Ctx) : (s.setCtx c C).gens = s.gens := rfl
@[simp] theorem State.setCtx_cores (s : State) (c : Nat) (C : Ctx) : (s.setCtx c C).cores = s.cores := rfl
@[simp] theorem State.setCtx_clusters (s : State) (c : Nat) (C : Ctx) : (s.setCtx c C).clusters = s.clusters := rfl
@[simp] theorem State.setCtx_sbufs (s : State) (c : Nat) (C : Ctx) : (s.setCtx c C).sbufs = s.sbufs := rfl
@[simp] theorem State.setCtx_blocks (s : State) (c : Nat) (C : Ctx) : (s.setCtx c C).blocks = s.blocks := rfl
@[simp] theorem State.setCtx_launches (s : State) (c : Nat) (C : Ctx) : (s.setCtx c C).launches = s.launches := rfl
@[simp] theorem State.setCtx_parts (s : State) (c : Nat) (C : Ctx) : (s.setCtx c C).parts = s.parts := rfl
@[simp] theorem State.setCtx_vis (s : State) (c : Nat) (C : Ctx) : (s.setCtx c C).vis = s.vis := rfl
@[simp] theorem State.setCtx_routers (s : State) (c : Nat) (C : Ctx) : (s.setCtx c C).routers = s.routers := rfl
@[simp] theorem State.setCtx_lines (s : State) (c : Nat) (C : Ctx) : (s.setCtx c C).lines = s.lines := rfl
@[simp] theorem State.setCtx_recent (s : State) (c : Nat) (C : Ctx) : (s.setCtx c C).recent = s.recent := rfl
@[simp] theorem State.setCtx_homes (s : State) (c : Nat) (C : Ctx) : (s.setCtx c C).homes = s.homes := rfl
@[simp] theorem State.setCtx_under (s : State) (c : Nat) (C : Ctx) : (s.setCtx c C).under = s.under := rfl
@[simp] theorem State.setCtx_hostLines (s : State) (c : Nat) (C : Ctx) : (s.setCtx c C).hostLines = s.hostLines := rfl
@[simp] theorem State.setCtx_resv (s : State) (c : Nat) (C : Ctx) : (s.setCtx c C).resv = s.resv := rfl
@[simp] theorem State.setCtx_msgs (s : State) (c : Nat) (C : Ctx) : (s.setCtx c C).msgs = s.msgs := rfl
@[simp] theorem State.setCtx_atomq (s : State) (c : Nat) (C : Ctx) : (s.setCtx c C).atomq = s.atomq := rfl
@[simp] theorem State.setCtx_tiles (s : State) (c : Nat) (C : Ctx) : (s.setCtx c C).tiles = s.tiles := rfl
@[simp] theorem State.setCtx_tileOps (s : State) (c : Nat) (C : Ctx) : (s.setCtx c C).tileOps = s.tileOps := rfl
@[simp] theorem State.setCtx_away (s : State) (c : Nat) (C : Ctx) : (s.setCtx c C).away = s.away := rfl
@[simp] theorem State.setCtx_poison (s : State) (c : Nat) (C : Ctx) : (s.setCtx c C).poison = s.poison := rfl
@[simp] theorem State.setCtx_bpoison (s : State) (c : Nat) (C : Ctx) : (s.setCtx c C).bpoison = s.bpoison := rfl
@[simp] theorem State.setCtx_hpoison (s : State) (c : Nat) (C : Ctx) : (s.setCtx c C).hpoison = s.hpoison := rfl
@[simp] theorem State.setCtx_umarks (s : State) (c : Nat) (C : Ctx) : (s.setCtx c C).umarks = s.umarks := rfl
@[simp] theorem State.setCtx_cmarks (s : State) (c : Nat) (C : Ctx) : (s.setCtx c C).cmarks = s.cmarks := rfl
@[simp] theorem State.setCtx_unfilled (s : State) (c : Nat) (C : Ctx) : (s.setCtx c C).unfilled = s.unfilled := rfl
@[simp] theorem State.setCtx_dev (s : State) (c : Nat) (C : Ctx) : (s.setCtx c C).dev = s.dev := rfl

/-! ### setPart -/

@[simp] theorem State.setPart_agenda (s : State) (p : Nat) (P : Part) : (s.setPart p P).agenda = s.agenda := rfl
@[simp] theorem State.setPart_cur (s : State) (p : Nat) (P : Part) : (s.setPart p P).cur = s.cur := rfl
@[simp] theorem State.setPart_slot (s : State) (p : Nat) (P : Part) : (s.setPart p P).slot = s.slot := rfl
@[simp] theorem State.setPart_free (s : State) (p : Nat) (P : Part) : (s.setPart p P).free = s.free := rfl
@[simp] theorem State.setPart_uid (s : State) (p : Nat) (P : Part) : (s.setPart p P).uid = s.uid := rfl
@[simp] theorem State.setPart_gtime (s : State) (p : Nat) (P : Part) : (s.setPart p P).gtime = s.gtime := rfl
@[simp] theorem State.setPart_cycles (s : State) (p : Nat) (P : Part) : (s.setPart p P).cycles = s.cycles := rfl
@[simp] theorem State.setPart_mem (s : State) (p : Nat) (P : Part) : (s.setPart p P).mem = s.mem := rfl
@[simp] theorem State.setPart_teams (s : State) (p : Nat) (P : Part) : (s.setPart p P).teams = s.teams := rfl
@[simp] theorem State.setPart_gens (s : State) (p : Nat) (P : Part) : (s.setPart p P).gens = s.gens := rfl
@[simp] theorem State.setPart_cores (s : State) (p : Nat) (P : Part) : (s.setPart p P).cores = s.cores := rfl
@[simp] theorem State.setPart_clusters (s : State) (p : Nat) (P : Part) : (s.setPart p P).clusters = s.clusters := rfl
@[simp] theorem State.setPart_sbufs (s : State) (p : Nat) (P : Part) : (s.setPart p P).sbufs = s.sbufs := rfl
@[simp] theorem State.setPart_blocks (s : State) (p : Nat) (P : Part) : (s.setPart p P).blocks = s.blocks := rfl
@[simp] theorem State.setPart_launches (s : State) (p : Nat) (P : Part) : (s.setPart p P).launches = s.launches := rfl
@[simp] theorem State.setPart_ctxs (s : State) (p : Nat) (P : Part) : (s.setPart p P).ctxs = s.ctxs := rfl
@[simp] theorem State.setPart_vis (s : State) (p : Nat) (P : Part) : (s.setPart p P).vis = s.vis := rfl
@[simp] theorem State.setPart_routers (s : State) (p : Nat) (P : Part) : (s.setPart p P).routers = s.routers := rfl
@[simp] theorem State.setPart_lines (s : State) (p : Nat) (P : Part) : (s.setPart p P).lines = s.lines := rfl
@[simp] theorem State.setPart_recent (s : State) (p : Nat) (P : Part) : (s.setPart p P).recent = s.recent := rfl
@[simp] theorem State.setPart_homes (s : State) (p : Nat) (P : Part) : (s.setPart p P).homes = s.homes := rfl
@[simp] theorem State.setPart_under (s : State) (p : Nat) (P : Part) : (s.setPart p P).under = s.under := rfl
@[simp] theorem State.setPart_hostLines (s : State) (p : Nat) (P : Part) : (s.setPart p P).hostLines = s.hostLines := rfl
@[simp] theorem State.setPart_resv (s : State) (p : Nat) (P : Part) : (s.setPart p P).resv = s.resv := rfl
@[simp] theorem State.setPart_msgs (s : State) (p : Nat) (P : Part) : (s.setPart p P).msgs = s.msgs := rfl
@[simp] theorem State.setPart_atomq (s : State) (p : Nat) (P : Part) : (s.setPart p P).atomq = s.atomq := rfl
@[simp] theorem State.setPart_tiles (s : State) (p : Nat) (P : Part) : (s.setPart p P).tiles = s.tiles := rfl
@[simp] theorem State.setPart_tileOps (s : State) (p : Nat) (P : Part) : (s.setPart p P).tileOps = s.tileOps := rfl
@[simp] theorem State.setPart_away (s : State) (p : Nat) (P : Part) : (s.setPart p P).away = s.away := rfl
@[simp] theorem State.setPart_poison (s : State) (p : Nat) (P : Part) : (s.setPart p P).poison = s.poison := rfl
@[simp] theorem State.setPart_bpoison (s : State) (p : Nat) (P : Part) : (s.setPart p P).bpoison = s.bpoison := rfl
@[simp] theorem State.setPart_hpoison (s : State) (p : Nat) (P : Part) : (s.setPart p P).hpoison = s.hpoison := rfl
@[simp] theorem State.setPart_umarks (s : State) (p : Nat) (P : Part) : (s.setPart p P).umarks = s.umarks := rfl
@[simp] theorem State.setPart_cmarks (s : State) (p : Nat) (P : Part) : (s.setPart p P).cmarks = s.cmarks := rfl
@[simp] theorem State.setPart_unfilled (s : State) (p : Nat) (P : Part) : (s.setPart p P).unfilled = s.unfilled := rfl
@[simp] theorem State.setPart_dev (s : State) (p : Nat) (P : Part) : (s.setPart p P).dev = s.dev := rfl

/-! ### setVi -/

@[simp] theorem State.setVi_agenda (s : State) (v : Nat) (V : VI) : (s.setVi v V).agenda = s.agenda := rfl
@[simp] theorem State.setVi_cur (s : State) (v : Nat) (V : VI) : (s.setVi v V).cur = s.cur := rfl
@[simp] theorem State.setVi_slot (s : State) (v : Nat) (V : VI) : (s.setVi v V).slot = s.slot := rfl
@[simp] theorem State.setVi_free (s : State) (v : Nat) (V : VI) : (s.setVi v V).free = s.free := rfl
@[simp] theorem State.setVi_uid (s : State) (v : Nat) (V : VI) : (s.setVi v V).uid = s.uid := rfl
@[simp] theorem State.setVi_gtime (s : State) (v : Nat) (V : VI) : (s.setVi v V).gtime = s.gtime := rfl
@[simp] theorem State.setVi_cycles (s : State) (v : Nat) (V : VI) : (s.setVi v V).cycles = s.cycles := rfl
@[simp] theorem State.setVi_mem (s : State) (v : Nat) (V : VI) : (s.setVi v V).mem = s.mem := rfl
@[simp] theorem State.setVi_teams (s : State) (v : Nat) (V : VI) : (s.setVi v V).teams = s.teams := rfl
@[simp] theorem State.setVi_gens (s : State) (v : Nat) (V : VI) : (s.setVi v V).gens = s.gens := rfl
@[simp] theorem State.setVi_cores (s : State) (v : Nat) (V : VI) : (s.setVi v V).cores = s.cores := rfl
@[simp] theorem State.setVi_clusters (s : State) (v : Nat) (V : VI) : (s.setVi v V).clusters = s.clusters := rfl
@[simp] theorem State.setVi_sbufs (s : State) (v : Nat) (V : VI) : (s.setVi v V).sbufs = s.sbufs := rfl
@[simp] theorem State.setVi_blocks (s : State) (v : Nat) (V : VI) : (s.setVi v V).blocks = s.blocks := rfl
@[simp] theorem State.setVi_launches (s : State) (v : Nat) (V : VI) : (s.setVi v V).launches = s.launches := rfl
@[simp] theorem State.setVi_ctxs (s : State) (v : Nat) (V : VI) : (s.setVi v V).ctxs = s.ctxs := rfl
@[simp] theorem State.setVi_parts (s : State) (v : Nat) (V : VI) : (s.setVi v V).parts = s.parts := rfl
@[simp] theorem State.setVi_routers (s : State) (v : Nat) (V : VI) : (s.setVi v V).routers = s.routers := rfl
@[simp] theorem State.setVi_lines (s : State) (v : Nat) (V : VI) : (s.setVi v V).lines = s.lines := rfl
@[simp] theorem State.setVi_recent (s : State) (v : Nat) (V : VI) : (s.setVi v V).recent = s.recent := rfl
@[simp] theorem State.setVi_homes (s : State) (v : Nat) (V : VI) : (s.setVi v V).homes = s.homes := rfl
@[simp] theorem State.setVi_under (s : State) (v : Nat) (V : VI) : (s.setVi v V).under = s.under := rfl
@[simp] theorem State.setVi_hostLines (s : State) (v : Nat) (V : VI) : (s.setVi v V).hostLines = s.hostLines := rfl
@[simp] theorem State.setVi_resv (s : State) (v : Nat) (V : VI) : (s.setVi v V).resv = s.resv := rfl
@[simp] theorem State.setVi_msgs (s : State) (v : Nat) (V : VI) : (s.setVi v V).msgs = s.msgs := rfl
@[simp] theorem State.setVi_atomq (s : State) (v : Nat) (V : VI) : (s.setVi v V).atomq = s.atomq := rfl
@[simp] theorem State.setVi_tiles (s : State) (v : Nat) (V : VI) : (s.setVi v V).tiles = s.tiles := rfl
@[simp] theorem State.setVi_tileOps (s : State) (v : Nat) (V : VI) : (s.setVi v V).tileOps = s.tileOps := rfl
@[simp] theorem State.setVi_away (s : State) (v : Nat) (V : VI) : (s.setVi v V).away = s.away := rfl
@[simp] theorem State.setVi_poison (s : State) (v : Nat) (V : VI) : (s.setVi v V).poison = s.poison := rfl
@[simp] theorem State.setVi_bpoison (s : State) (v : Nat) (V : VI) : (s.setVi v V).bpoison = s.bpoison := rfl
@[simp] theorem State.setVi_hpoison (s : State) (v : Nat) (V : VI) : (s.setVi v V).hpoison = s.hpoison := rfl
@[simp] theorem State.setVi_umarks (s : State) (v : Nat) (V : VI) : (s.setVi v V).umarks = s.umarks := rfl
@[simp] theorem State.setVi_cmarks (s : State) (v : Nat) (V : VI) : (s.setVi v V).cmarks = s.cmarks := rfl
@[simp] theorem State.setVi_unfilled (s : State) (v : Nat) (V : VI) : (s.setVi v V).unfilled = s.unfilled := rfl
@[simp] theorem State.setVi_dev (s : State) (v : Nat) (V : VI) : (s.setVi v V).dev = s.dev := rfl

/-! ### setRouter -/

@[simp] theorem State.setRouter_agenda (s : State) (r : Nat) (R : Router) : (s.setRouter r R).agenda = s.agenda := rfl
@[simp] theorem State.setRouter_cur (s : State) (r : Nat) (R : Router) : (s.setRouter r R).cur = s.cur := rfl
@[simp] theorem State.setRouter_slot (s : State) (r : Nat) (R : Router) : (s.setRouter r R).slot = s.slot := rfl
@[simp] theorem State.setRouter_free (s : State) (r : Nat) (R : Router) : (s.setRouter r R).free = s.free := rfl
@[simp] theorem State.setRouter_uid (s : State) (r : Nat) (R : Router) : (s.setRouter r R).uid = s.uid := rfl
@[simp] theorem State.setRouter_gtime (s : State) (r : Nat) (R : Router) : (s.setRouter r R).gtime = s.gtime := rfl
@[simp] theorem State.setRouter_cycles (s : State) (r : Nat) (R : Router) : (s.setRouter r R).cycles = s.cycles := rfl
@[simp] theorem State.setRouter_mem (s : State) (r : Nat) (R : Router) : (s.setRouter r R).mem = s.mem := rfl
@[simp] theorem State.setRouter_teams (s : State) (r : Nat) (R : Router) : (s.setRouter r R).teams = s.teams := rfl
@[simp] theorem State.setRouter_gens (s : State) (r : Nat) (R : Router) : (s.setRouter r R).gens = s.gens := rfl
@[simp] theorem State.setRouter_cores (s : State) (r : Nat) (R : Router) : (s.setRouter r R).cores = s.cores := rfl
@[simp] theorem State.setRouter_clusters (s : State) (r : Nat) (R : Router) : (s.setRouter r R).clusters = s.clusters := rfl
@[simp] theorem State.setRouter_sbufs (s : State) (r : Nat) (R : Router) : (s.setRouter r R).sbufs = s.sbufs := rfl
@[simp] theorem State.setRouter_blocks (s : State) (r : Nat) (R : Router) : (s.setRouter r R).blocks = s.blocks := rfl
@[simp] theorem State.setRouter_launches (s : State) (r : Nat) (R : Router) : (s.setRouter r R).launches = s.launches := rfl
@[simp] theorem State.setRouter_ctxs (s : State) (r : Nat) (R : Router) : (s.setRouter r R).ctxs = s.ctxs := rfl
@[simp] theorem State.setRouter_parts (s : State) (r : Nat) (R : Router) : (s.setRouter r R).parts = s.parts := rfl
@[simp] theorem State.setRouter_vis (s : State) (r : Nat) (R : Router) : (s.setRouter r R).vis = s.vis := rfl
@[simp] theorem State.setRouter_lines (s : State) (r : Nat) (R : Router) : (s.setRouter r R).lines = s.lines := rfl
@[simp] theorem State.setRouter_recent (s : State) (r : Nat) (R : Router) : (s.setRouter r R).recent = s.recent := rfl
@[simp] theorem State.setRouter_homes (s : State) (r : Nat) (R : Router) : (s.setRouter r R).homes = s.homes := rfl
@[simp] theorem State.setRouter_under (s : State) (r : Nat) (R : Router) : (s.setRouter r R).under = s.under := rfl
@[simp] theorem State.setRouter_hostLines (s : State) (r : Nat) (R : Router) : (s.setRouter r R).hostLines = s.hostLines := rfl
@[simp] theorem State.setRouter_resv (s : State) (r : Nat) (R : Router) : (s.setRouter r R).resv = s.resv := rfl
@[simp] theorem State.setRouter_msgs (s : State) (r : Nat) (R : Router) : (s.setRouter r R).msgs = s.msgs := rfl
@[simp] theorem State.setRouter_atomq (s : State) (r : Nat) (R : Router) : (s.setRouter r R).atomq = s.atomq := rfl
@[simp] theorem State.setRouter_tiles (s : State) (r : Nat) (R : Router) : (s.setRouter r R).tiles = s.tiles := rfl
@[simp] theorem State.setRouter_tileOps (s : State) (r : Nat) (R : Router) : (s.setRouter r R).tileOps = s.tileOps := rfl
@[simp] theorem State.setRouter_away (s : State) (r : Nat) (R : Router) : (s.setRouter r R).away = s.away := rfl
@[simp] theorem State.setRouter_poison (s : State) (r : Nat) (R : Router) : (s.setRouter r R).poison = s.poison := rfl
@[simp] theorem State.setRouter_bpoison (s : State) (r : Nat) (R : Router) : (s.setRouter r R).bpoison = s.bpoison := rfl
@[simp] theorem State.setRouter_hpoison (s : State) (r : Nat) (R : Router) : (s.setRouter r R).hpoison = s.hpoison := rfl
@[simp] theorem State.setRouter_umarks (s : State) (r : Nat) (R : Router) : (s.setRouter r R).umarks = s.umarks := rfl
@[simp] theorem State.setRouter_cmarks (s : State) (r : Nat) (R : Router) : (s.setRouter r R).cmarks = s.cmarks := rfl
@[simp] theorem State.setRouter_unfilled (s : State) (r : Nat) (R : Router) : (s.setRouter r R).unfilled = s.unfilled := rfl
@[simp] theorem State.setRouter_dev (s : State) (r : Nat) (R : Router) : (s.setRouter r R).dev = s.dev := rfl

/-! ### setSbuf, setLine, fresh, chosen, emitOut -/

@[simp] theorem State.setSbuf_agenda (s : State) (k : Nat) (l : List SEntry) : (s.setSbuf k l).agenda = s.agenda := rfl
@[simp] theorem State.setSbuf_cur (s : State) (k : Nat) (l : List SEntry) : (s.setSbuf k l).cur = s.cur := rfl
@[simp] theorem State.setSbuf_slot (s : State) (k : Nat) (l : List SEntry) : (s.setSbuf k l).slot = s.slot := rfl
@[simp] theorem State.setSbuf_free (s : State) (k : Nat) (l : List SEntry) : (s.setSbuf k l).free = s.free := rfl
@[simp] theorem State.setSbuf_uid (s : State) (k : Nat) (l : List SEntry) : (s.setSbuf k l).uid = s.uid := rfl
@[simp] theorem State.setSbuf_gtime (s : State) (k : Nat) (l : List SEntry) : (s.setSbuf k l).gtime = s.gtime := rfl
@[simp] theorem State.setSbuf_cycles (s : State) (k : Nat) (l : List SEntry) : (s.setSbuf k l).cycles = s.cycles := rfl
@[simp] theorem State.setSbuf_mem (s : State) (k : Nat) (l : List SEntry) : (s.setSbuf k l).mem = s.mem := rfl
@[simp] theorem State.setSbuf_teams (s : State) (k : Nat) (l : List SEntry) : (s.setSbuf k l).teams = s.teams := rfl
@[simp] theorem State.setSbuf_gens (s : State) (k : Nat) (l : List SEntry) : (s.setSbuf k l).gens = s.gens := rfl
@[simp] theorem State.setSbuf_cores (s : State) (k : Nat) (l : List SEntry) : (s.setSbuf k l).cores = s.cores := rfl
@[simp] theorem State.setSbuf_clusters (s : State) (k : Nat) (l : List SEntry) : (s.setSbuf k l).clusters = s.clusters := rfl
@[simp] theorem State.setSbuf_blocks (s : State) (k : Nat) (l : List SEntry) : (s.setSbuf k l).blocks = s.blocks := rfl
@[simp] theorem State.setSbuf_launches (s : State) (k : Nat) (l : List SEntry) : (s.setSbuf k l).launches = s.launches := rfl
@[simp] theorem State.setSbuf_ctxs (s : State) (k : Nat) (l : List SEntry) : (s.setSbuf k l).ctxs = s.ctxs := rfl
@[simp] theorem State.setSbuf_parts (s : State) (k : Nat) (l : List SEntry) : (s.setSbuf k l).parts = s.parts := rfl
@[simp] theorem State.setSbuf_vis (s : State) (k : Nat) (l : List SEntry) : (s.setSbuf k l).vis = s.vis := rfl
@[simp] theorem State.setSbuf_routers (s : State) (k : Nat) (l : List SEntry) : (s.setSbuf k l).routers = s.routers := rfl
@[simp] theorem State.setSbuf_lines (s : State) (k : Nat) (l : List SEntry) : (s.setSbuf k l).lines = s.lines := rfl
@[simp] theorem State.setSbuf_recent (s : State) (k : Nat) (l : List SEntry) : (s.setSbuf k l).recent = s.recent := rfl
@[simp] theorem State.setSbuf_homes (s : State) (k : Nat) (l : List SEntry) : (s.setSbuf k l).homes = s.homes := rfl
@[simp] theorem State.setSbuf_under (s : State) (k : Nat) (l : List SEntry) : (s.setSbuf k l).under = s.under := rfl
@[simp] theorem State.setSbuf_hostLines (s : State) (k : Nat) (l : List SEntry) : (s.setSbuf k l).hostLines = s.hostLines := rfl
@[simp] theorem State.setSbuf_resv (s : State) (k : Nat) (l : List SEntry) : (s.setSbuf k l).resv = s.resv := rfl
@[simp] theorem State.setSbuf_msgs (s : State) (k : Nat) (l : List SEntry) : (s.setSbuf k l).msgs = s.msgs := rfl
@[simp] theorem State.setSbuf_atomq (s : State) (k : Nat) (l : List SEntry) : (s.setSbuf k l).atomq = s.atomq := rfl
@[simp] theorem State.setSbuf_tiles (s : State) (k : Nat) (l : List SEntry) : (s.setSbuf k l).tiles = s.tiles := rfl
@[simp] theorem State.setSbuf_tileOps (s : State) (k : Nat) (l : List SEntry) : (s.setSbuf k l).tileOps = s.tileOps := rfl
@[simp] theorem State.setSbuf_away (s : State) (k : Nat) (l : List SEntry) : (s.setSbuf k l).away = s.away := rfl
@[simp] theorem State.setSbuf_poison (s : State) (k : Nat) (l : List SEntry) : (s.setSbuf k l).poison = s.poison := rfl
@[simp] theorem State.setSbuf_bpoison (s : State) (k : Nat) (l : List SEntry) : (s.setSbuf k l).bpoison = s.bpoison := rfl
@[simp] theorem State.setSbuf_hpoison (s : State) (k : Nat) (l : List SEntry) : (s.setSbuf k l).hpoison = s.hpoison := rfl
@[simp] theorem State.setSbuf_umarks (s : State) (k : Nat) (l : List SEntry) : (s.setSbuf k l).umarks = s.umarks := rfl
@[simp] theorem State.setSbuf_cmarks (s : State) (k : Nat) (l : List SEntry) : (s.setSbuf k l).cmarks = s.cmarks := rfl
@[simp] theorem State.setSbuf_unfilled (s : State) (k : Nat) (l : List SEntry) : (s.setSbuf k l).unfilled = s.unfilled := rfl
@[simp] theorem State.setSbuf_dev (s : State) (k : Nat) (l : List SEntry) : (s.setSbuf k l).dev = s.dev := rfl
@[simp] theorem State.setLine_agenda (s : State) (h l : Nat) (x : Moes) : (s.setLine h l x).agenda = s.agenda := rfl
@[simp] theorem State.setLine_cur (s : State) (h l : Nat) (x : Moes) : (s.setLine h l x).cur = s.cur := rfl
@[simp] theorem State.setLine_slot (s : State) (h l : Nat) (x : Moes) : (s.setLine h l x).slot = s.slot := rfl
@[simp] theorem State.setLine_free (s : State) (h l : Nat) (x : Moes) : (s.setLine h l x).free = s.free := rfl
@[simp] theorem State.setLine_uid (s : State) (h l : Nat) (x : Moes) : (s.setLine h l x).uid = s.uid := rfl
@[simp] theorem State.setLine_gtime (s : State) (h l : Nat) (x : Moes) : (s.setLine h l x).gtime = s.gtime := rfl
@[simp] theorem State.setLine_cycles (s : State) (h l : Nat) (x : Moes) : (s.setLine h l x).cycles = s.cycles := rfl
@[simp] theorem State.setLine_mem (s : State) (h l : Nat) (x : Moes) : (s.setLine h l x).mem = s.mem := rfl
@[simp] theorem State.setLine_teams (s : State) (h l : Nat) (x : Moes) : (s.setLine h l x).teams = s.teams := rfl
@[simp] theorem State.setLine_gens (s : State) (h l : Nat) (x : Moes) : (s.setLine h l x).gens = s.gens := rfl
@[simp] theorem State.setLine_cores (s : State) (h l : Nat) (x : Moes) : (s.setLine h l x).cores = s.cores := rfl
@[simp] theorem State.setLine_clusters (s : State) (h l : Nat) (x : Moes) : (s.setLine h l x).clusters = s.clusters := rfl
@[simp] theorem State.setLine_sbufs (s : State) (h l : Nat) (x : Moes) : (s.setLine h l x).sbufs = s.sbufs := rfl
@[simp] theorem State.setLine_blocks (s : State) (h l : Nat) (x : Moes) : (s.setLine h l x).blocks = s.blocks := rfl
@[simp] theorem State.setLine_launches (s : State) (h l : Nat) (x : Moes) : (s.setLine h l x).launches = s.launches := rfl
@[simp] theorem State.setLine_ctxs (s : State) (h l : Nat) (x : Moes) : (s.setLine h l x).ctxs = s.ctxs := rfl
@[simp] theorem State.setLine_parts (s : State) (h l : Nat) (x : Moes) : (s.setLine h l x).parts = s.parts := rfl
@[simp] theorem State.setLine_vis (s : State) (h l : Nat) (x : Moes) : (s.setLine h l x).vis = s.vis := rfl
@[simp] theorem State.setLine_routers (s : State) (h l : Nat) (x : Moes) : (s.setLine h l x).routers = s.routers := rfl
@[simp] theorem State.setLine_recent (s : State) (h l : Nat) (x : Moes) : (s.setLine h l x).recent = s.recent := rfl
@[simp] theorem State.setLine_homes (s : State) (h l : Nat) (x : Moes) : (s.setLine h l x).homes = s.homes := rfl
@[simp] theorem State.setLine_under (s : State) (h l : Nat) (x : Moes) : (s.setLine h l x).under = s.under := rfl
@[simp] theorem State.setLine_hostLines (s : State) (h l : Nat) (x : Moes) : (s.setLine h l x).hostLines = s.hostLines := rfl
@[simp] theorem State.setLine_resv (s : State) (h l : Nat) (x : Moes) : (s.setLine h l x).resv = s.resv := rfl
@[simp] theorem State.setLine_msgs (s : State) (h l : Nat) (x : Moes) : (s.setLine h l x).msgs = s.msgs := rfl
@[simp] theorem State.setLine_atomq (s : State) (h l : Nat) (x : Moes) : (s.setLine h l x).atomq = s.atomq := rfl
@[simp] theorem State.setLine_tiles (s : State) (h l : Nat) (x : Moes) : (s.setLine h l x).tiles = s.tiles := rfl
@[simp] theorem State.setLine_tileOps (s : State) (h l : Nat) (x : Moes) : (s.setLine h l x).tileOps = s.tileOps := rfl
@[simp] theorem State.setLine_away (s : State) (h l : Nat) (x : Moes) : (s.setLine h l x).away = s.away := rfl
@[simp] theorem State.setLine_poison (s : State) (h l : Nat) (x : Moes) : (s.setLine h l x).poison = s.poison := rfl
@[simp] theorem State.setLine_bpoison (s : State) (h l : Nat) (x : Moes) : (s.setLine h l x).bpoison = s.bpoison := rfl
@[simp] theorem State.setLine_hpoison (s : State) (h l : Nat) (x : Moes) : (s.setLine h l x).hpoison = s.hpoison := rfl
@[simp] theorem State.setLine_umarks (s : State) (h l : Nat) (x : Moes) : (s.setLine h l x).umarks = s.umarks := rfl
@[simp] theorem State.setLine_cmarks (s : State) (h l : Nat) (x : Moes) : (s.setLine h l x).cmarks = s.cmarks := rfl
@[simp] theorem State.setLine_unfilled (s : State) (h l : Nat) (x : Moes) : (s.setLine h l x).unfilled = s.unfilled := rfl
@[simp] theorem State.setLine_dev (s : State) (h l : Nat) (x : Moes) : (s.setLine h l x).dev = s.dev := rfl
@[simp] theorem State.fresh_agenda (s : State) : s.fresh.agenda = s.agenda := rfl
@[simp] theorem State.fresh_cur (s : State) : s.fresh.cur = s.cur := rfl
@[simp] theorem State.fresh_slot (s : State) : s.fresh.slot = s.slot := rfl
@[simp] theorem State.fresh_free (s : State) : s.fresh.free = s.free := rfl
@[simp] theorem State.fresh_gtime (s : State) : s.fresh.gtime = s.gtime := rfl
@[simp] theorem State.fresh_cycles (s : State) : s.fresh.cycles = s.cycles := rfl
@[simp] theorem State.fresh_mem (s : State) : s.fresh.mem = s.mem := rfl
@[simp] theorem State.fresh_teams (s : State) : s.fresh.teams = s.teams := rfl
@[simp] theorem State.fresh_gens (s : State) : s.fresh.gens = s.gens := rfl
@[simp] theorem State.fresh_cores (s : State) : s.fresh.cores = s.cores := rfl
@[simp] theorem State.fresh_clusters (s : State) : s.fresh.clusters = s.clusters := rfl
@[simp] theorem State.fresh_sbufs (s : State) : s.fresh.sbufs = s.sbufs := rfl
@[simp] theorem State.fresh_blocks (s : State) : s.fresh.blocks = s.blocks := rfl
@[simp] theorem State.fresh_launches (s : State) : s.fresh.launches = s.launches := rfl
@[simp] theorem State.fresh_ctxs (s : State) : s.fresh.ctxs = s.ctxs := rfl
@[simp] theorem State.fresh_parts (s : State) : s.fresh.parts = s.parts := rfl
@[simp] theorem State.fresh_vis (s : State) : s.fresh.vis = s.vis := rfl
@[simp] theorem State.fresh_routers (s : State) : s.fresh.routers = s.routers := rfl
@[simp] theorem State.fresh_lines (s : State) : s.fresh.lines = s.lines := rfl
@[simp] theorem State.fresh_recent (s : State) : s.fresh.recent = s.recent := rfl
@[simp] theorem State.fresh_homes (s : State) : s.fresh.homes = s.homes := rfl
@[simp] theorem State.fresh_under (s : State) : s.fresh.under = s.under := rfl
@[simp] theorem State.fresh_hostLines (s : State) : s.fresh.hostLines = s.hostLines := rfl
@[simp] theorem State.fresh_resv (s : State) : s.fresh.resv = s.resv := rfl
@[simp] theorem State.fresh_msgs (s : State) : s.fresh.msgs = s.msgs := rfl
@[simp] theorem State.fresh_atomq (s : State) : s.fresh.atomq = s.atomq := rfl
@[simp] theorem State.fresh_tiles (s : State) : s.fresh.tiles = s.tiles := rfl
@[simp] theorem State.fresh_tileOps (s : State) : s.fresh.tileOps = s.tileOps := rfl
@[simp] theorem State.fresh_away (s : State) : s.fresh.away = s.away := rfl
@[simp] theorem State.fresh_poison (s : State) : s.fresh.poison = s.poison := rfl
@[simp] theorem State.fresh_bpoison (s : State) : s.fresh.bpoison = s.bpoison := rfl
@[simp] theorem State.fresh_hpoison (s : State) : s.fresh.hpoison = s.hpoison := rfl
@[simp] theorem State.fresh_umarks (s : State) : s.fresh.umarks = s.umarks := rfl
@[simp] theorem State.fresh_cmarks (s : State) : s.fresh.cmarks = s.cmarks := rfl
@[simp] theorem State.fresh_unfilled (s : State) : s.fresh.unfilled = s.unfilled := rfl
@[simp] theorem State.fresh_dev (s : State) : s.fresh.dev = s.dev := rfl
@[simp] theorem State.fresh_uid (s : State) : s.fresh.uid = s.uid + 1 := rfl
@[simp] theorem State.chosen_agenda (s : State) : s.chosen.agenda = s.agenda := rfl
@[simp] theorem State.chosen_cur (s : State) : s.chosen.cur = s.cur := rfl
@[simp] theorem State.chosen_slot (s : State) : s.chosen.slot = s.slot := rfl
@[simp] theorem State.chosen_uid (s : State) : s.chosen.uid = s.uid := rfl
@[simp] theorem State.chosen_gtime (s : State) : s.chosen.gtime = s.gtime := rfl
@[simp] theorem State.chosen_cycles (s : State) : s.chosen.cycles = s.cycles := rfl
@[simp] theorem State.chosen_mem (s : State) : s.chosen.mem = s.mem := rfl
@[simp] theorem State.chosen_teams (s : State) : s.chosen.teams = s.teams := rfl
@[simp] theorem State.chosen_gens (s : State) : s.chosen.gens = s.gens := rfl
@[simp] theorem State.chosen_cores (s : State) : s.chosen.cores = s.cores := rfl
@[simp] theorem State.chosen_clusters (s : State) : s.chosen.clusters = s.clusters := rfl
@[simp] theorem State.chosen_sbufs (s : State) : s.chosen.sbufs = s.sbufs := rfl
@[simp] theorem State.chosen_blocks (s : State) : s.chosen.blocks = s.blocks := rfl
@[simp] theorem State.chosen_launches (s : State) : s.chosen.launches = s.launches := rfl
@[simp] theorem State.chosen_ctxs (s : State) : s.chosen.ctxs = s.ctxs := rfl
@[simp] theorem State.chosen_parts (s : State) : s.chosen.parts = s.parts := rfl
@[simp] theorem State.chosen_vis (s : State) : s.chosen.vis = s.vis := rfl
@[simp] theorem State.chosen_routers (s : State) : s.chosen.routers = s.routers := rfl
@[simp] theorem State.chosen_lines (s : State) : s.chosen.lines = s.lines := rfl
@[simp] theorem State.chosen_recent (s : State) : s.chosen.recent = s.recent := rfl
@[simp] theorem State.chosen_homes (s : State) : s.chosen.homes = s.homes := rfl
@[simp] theorem State.chosen_under (s : State) : s.chosen.under = s.under := rfl
@[simp] theorem State.chosen_hostLines (s : State) : s.chosen.hostLines = s.hostLines := rfl
@[simp] theorem State.chosen_resv (s : State) : s.chosen.resv = s.resv := rfl
@[simp] theorem State.chosen_msgs (s : State) : s.chosen.msgs = s.msgs := rfl
@[simp] theorem State.chosen_atomq (s : State) : s.chosen.atomq = s.atomq := rfl
@[simp] theorem State.chosen_tiles (s : State) : s.chosen.tiles = s.tiles := rfl
@[simp] theorem State.chosen_tileOps (s : State) : s.chosen.tileOps = s.tileOps := rfl
@[simp] theorem State.chosen_away (s : State) : s.chosen.away = s.away := rfl
@[simp] theorem State.chosen_poison (s : State) : s.chosen.poison = s.poison := rfl
@[simp] theorem State.chosen_bpoison (s : State) : s.chosen.bpoison = s.bpoison := rfl
@[simp] theorem State.chosen_hpoison (s : State) : s.chosen.hpoison = s.hpoison := rfl
@[simp] theorem State.chosen_umarks (s : State) : s.chosen.umarks = s.umarks := rfl
@[simp] theorem State.chosen_cmarks (s : State) : s.chosen.cmarks = s.cmarks := rfl
@[simp] theorem State.chosen_unfilled (s : State) : s.chosen.unfilled = s.unfilled := rfl
@[simp] theorem State.chosen_dev (s : State) : s.chosen.dev = s.dev := rfl
@[simp] theorem State.chosen_free (s : State) : s.chosen.free = s.free + 1 := rfl
@[simp] theorem State.emitOut_agenda (s : State) (o : Out) : (s.emitOut o).agenda = s.agenda := rfl
@[simp] theorem State.emitOut_cur (s : State) (o : Out) : (s.emitOut o).cur = s.cur := rfl
@[simp] theorem State.emitOut_slot (s : State) (o : Out) : (s.emitOut o).slot = s.slot := rfl
@[simp] theorem State.emitOut_free (s : State) (o : Out) : (s.emitOut o).free = s.free := rfl
@[simp] theorem State.emitOut_uid (s : State) (o : Out) : (s.emitOut o).uid = s.uid := rfl
@[simp] theorem State.emitOut_gtime (s : State) (o : Out) : (s.emitOut o).gtime = s.gtime := rfl
@[simp] theorem State.emitOut_cycles (s : State) (o : Out) : (s.emitOut o).cycles = s.cycles := rfl
@[simp] theorem State.emitOut_mem (s : State) (o : Out) : (s.emitOut o).mem = s.mem := rfl
@[simp] theorem State.emitOut_teams (s : State) (o : Out) : (s.emitOut o).teams = s.teams := rfl
@[simp] theorem State.emitOut_gens (s : State) (o : Out) : (s.emitOut o).gens = s.gens := rfl
@[simp] theorem State.emitOut_cores (s : State) (o : Out) : (s.emitOut o).cores = s.cores := rfl
@[simp] theorem State.emitOut_clusters (s : State) (o : Out) : (s.emitOut o).clusters = s.clusters := rfl
@[simp] theorem State.emitOut_sbufs (s : State) (o : Out) : (s.emitOut o).sbufs = s.sbufs := rfl
@[simp] theorem State.emitOut_blocks (s : State) (o : Out) : (s.emitOut o).blocks = s.blocks := rfl
@[simp] theorem State.emitOut_launches (s : State) (o : Out) : (s.emitOut o).launches = s.launches := rfl
@[simp] theorem State.emitOut_ctxs (s : State) (o : Out) : (s.emitOut o).ctxs = s.ctxs := rfl
@[simp] theorem State.emitOut_parts (s : State) (o : Out) : (s.emitOut o).parts = s.parts := rfl
@[simp] theorem State.emitOut_vis (s : State) (o : Out) : (s.emitOut o).vis = s.vis := rfl
@[simp] theorem State.emitOut_routers (s : State) (o : Out) : (s.emitOut o).routers = s.routers := rfl
@[simp] theorem State.emitOut_lines (s : State) (o : Out) : (s.emitOut o).lines = s.lines := rfl
@[simp] theorem State.emitOut_recent (s : State) (o : Out) : (s.emitOut o).recent = s.recent := rfl
@[simp] theorem State.emitOut_homes (s : State) (o : Out) : (s.emitOut o).homes = s.homes := rfl
@[simp] theorem State.emitOut_under (s : State) (o : Out) : (s.emitOut o).under = s.under := rfl
@[simp] theorem State.emitOut_hostLines (s : State) (o : Out) : (s.emitOut o).hostLines = s.hostLines := rfl
@[simp] theorem State.emitOut_resv (s : State) (o : Out) : (s.emitOut o).resv = s.resv := rfl
@[simp] theorem State.emitOut_msgs (s : State) (o : Out) : (s.emitOut o).msgs = s.msgs := rfl
@[simp] theorem State.emitOut_atomq (s : State) (o : Out) : (s.emitOut o).atomq = s.atomq := rfl
@[simp] theorem State.emitOut_tiles (s : State) (o : Out) : (s.emitOut o).tiles = s.tiles := rfl
@[simp] theorem State.emitOut_tileOps (s : State) (o : Out) : (s.emitOut o).tileOps = s.tileOps := rfl
@[simp] theorem State.emitOut_away (s : State) (o : Out) : (s.emitOut o).away = s.away := rfl
@[simp] theorem State.emitOut_poison (s : State) (o : Out) : (s.emitOut o).poison = s.poison := rfl
@[simp] theorem State.emitOut_bpoison (s : State) (o : Out) : (s.emitOut o).bpoison = s.bpoison := rfl
@[simp] theorem State.emitOut_hpoison (s : State) (o : Out) : (s.emitOut o).hpoison = s.hpoison := rfl
@[simp] theorem State.emitOut_umarks (s : State) (o : Out) : (s.emitOut o).umarks = s.umarks := rfl
@[simp] theorem State.emitOut_cmarks (s : State) (o : Out) : (s.emitOut o).cmarks = s.cmarks := rfl
@[simp] theorem State.emitOut_unfilled (s : State) (o : Out) : (s.emitOut o).unfilled = s.unfilled := rfl

/-! ### memWr, basinWr, tick -/

@[simp] theorem State.memWr_agenda (s : State) (pa : Nat) (bs : List Byte) : (s.memWr pa bs).agenda = s.agenda := rfl
@[simp] theorem State.memWr_cur (s : State) (pa : Nat) (bs : List Byte) : (s.memWr pa bs).cur = s.cur := rfl
@[simp] theorem State.memWr_slot (s : State) (pa : Nat) (bs : List Byte) : (s.memWr pa bs).slot = s.slot := rfl
@[simp] theorem State.memWr_free (s : State) (pa : Nat) (bs : List Byte) : (s.memWr pa bs).free = s.free := rfl
@[simp] theorem State.memWr_uid (s : State) (pa : Nat) (bs : List Byte) : (s.memWr pa bs).uid = s.uid := rfl
@[simp] theorem State.memWr_gtime (s : State) (pa : Nat) (bs : List Byte) : (s.memWr pa bs).gtime = s.gtime := rfl
@[simp] theorem State.memWr_cycles (s : State) (pa : Nat) (bs : List Byte) : (s.memWr pa bs).cycles = s.cycles := rfl
@[simp] theorem State.memWr_teams (s : State) (pa : Nat) (bs : List Byte) : (s.memWr pa bs).teams = s.teams := rfl
@[simp] theorem State.memWr_gens (s : State) (pa : Nat) (bs : List Byte) : (s.memWr pa bs).gens = s.gens := rfl
@[simp] theorem State.memWr_cores (s : State) (pa : Nat) (bs : List Byte) : (s.memWr pa bs).cores = s.cores := rfl
@[simp] theorem State.memWr_clusters (s : State) (pa : Nat) (bs : List Byte) : (s.memWr pa bs).clusters = s.clusters := rfl
@[simp] theorem State.memWr_sbufs (s : State) (pa : Nat) (bs : List Byte) : (s.memWr pa bs).sbufs = s.sbufs := rfl
@[simp] theorem State.memWr_blocks (s : State) (pa : Nat) (bs : List Byte) : (s.memWr pa bs).blocks = s.blocks := rfl
@[simp] theorem State.memWr_launches (s : State) (pa : Nat) (bs : List Byte) : (s.memWr pa bs).launches = s.launches := rfl
@[simp] theorem State.memWr_ctxs (s : State) (pa : Nat) (bs : List Byte) : (s.memWr pa bs).ctxs = s.ctxs := rfl
@[simp] theorem State.memWr_parts (s : State) (pa : Nat) (bs : List Byte) : (s.memWr pa bs).parts = s.parts := rfl
@[simp] theorem State.memWr_vis (s : State) (pa : Nat) (bs : List Byte) : (s.memWr pa bs).vis = s.vis := rfl
@[simp] theorem State.memWr_routers (s : State) (pa : Nat) (bs : List Byte) : (s.memWr pa bs).routers = s.routers := rfl
@[simp] theorem State.memWr_lines (s : State) (pa : Nat) (bs : List Byte) : (s.memWr pa bs).lines = s.lines := rfl
@[simp] theorem State.memWr_recent (s : State) (pa : Nat) (bs : List Byte) : (s.memWr pa bs).recent = s.recent := rfl
@[simp] theorem State.memWr_homes (s : State) (pa : Nat) (bs : List Byte) : (s.memWr pa bs).homes = s.homes := rfl
@[simp] theorem State.memWr_under (s : State) (pa : Nat) (bs : List Byte) : (s.memWr pa bs).under = s.under := rfl
@[simp] theorem State.memWr_hostLines (s : State) (pa : Nat) (bs : List Byte) : (s.memWr pa bs).hostLines = s.hostLines := rfl
@[simp] theorem State.memWr_resv (s : State) (pa : Nat) (bs : List Byte) : (s.memWr pa bs).resv = s.resv := rfl
@[simp] theorem State.memWr_msgs (s : State) (pa : Nat) (bs : List Byte) : (s.memWr pa bs).msgs = s.msgs := rfl
@[simp] theorem State.memWr_atomq (s : State) (pa : Nat) (bs : List Byte) : (s.memWr pa bs).atomq = s.atomq := rfl
@[simp] theorem State.memWr_tiles (s : State) (pa : Nat) (bs : List Byte) : (s.memWr pa bs).tiles = s.tiles := rfl
@[simp] theorem State.memWr_tileOps (s : State) (pa : Nat) (bs : List Byte) : (s.memWr pa bs).tileOps = s.tileOps := rfl
@[simp] theorem State.memWr_away (s : State) (pa : Nat) (bs : List Byte) : (s.memWr pa bs).away = s.away := rfl
@[simp] theorem State.memWr_bpoison (s : State) (pa : Nat) (bs : List Byte) : (s.memWr pa bs).bpoison = s.bpoison := rfl
@[simp] theorem State.memWr_hpoison (s : State) (pa : Nat) (bs : List Byte) : (s.memWr pa bs).hpoison = s.hpoison := rfl
@[simp] theorem State.memWr_umarks (s : State) (pa : Nat) (bs : List Byte) : (s.memWr pa bs).umarks = s.umarks := rfl
@[simp] theorem State.memWr_unfilled (s : State) (pa : Nat) (bs : List Byte) : (s.memWr pa bs).unfilled = s.unfilled := rfl
@[simp] theorem State.memWr_dev (s : State) (pa : Nat) (bs : List Byte) : (s.memWr pa bs).dev = s.dev := rfl
theorem State.memWr_mem (s : State) (pa : Nat) (bs : List Byte) : (s.memWr pa bs).mem = mputs 0 s.mem pa bs := rfl
theorem State.basinPut_eq (s : State) (cl b off : Nat) (bs : List Byte) :
    ∃ cs ws, s.basinPut cl b off bs = { s with clusters := cs, bpoison := ws } := ⟨_, _, rfl⟩

/-- A write to a basin changes clusters and poisoned words only. -/
theorem State.basinWr_eq (s : State) (cl b off : Nat) (bs : List Byte) :
    ∃ cs ws, s.basinWr cl b off bs = { s with clusters := cs, bpoison := ws } := by
  unfold State.basinWr
  dsimp only
  split
  · exact s.basinPut_eq cl b _ bs
  · obtain ⟨cs, ws, h⟩ := s.basinPut_eq cl b (off % 65536) (bs.take (65536 - off % 65536))
    rw [h]
    obtain ⟨cs', ws', h'⟩ := State.basinPut_eq { s with clusters := cs, bpoison := ws } cl b 0 (bs.drop (65536 - off % 65536))
    exact ⟨cs', ws', h'⟩

@[simp] theorem State.basinWr_agenda (s : State) (cl b off : Nat) (bs : List Byte) : (s.basinWr cl b off bs).agenda = s.agenda := by obtain ⟨_, _, h⟩ := s.basinWr_eq cl b off bs; rw [h]
@[simp] theorem State.basinWr_cur (s : State) (cl b off : Nat) (bs : List Byte) : (s.basinWr cl b off bs).cur = s.cur := by obtain ⟨_, _, h⟩ := s.basinWr_eq cl b off bs; rw [h]
@[simp] theorem State.basinWr_slot (s : State) (cl b off : Nat) (bs : List Byte) : (s.basinWr cl b off bs).slot = s.slot := by obtain ⟨_, _, h⟩ := s.basinWr_eq cl b off bs; rw [h]
@[simp] theorem State.basinWr_free (s : State) (cl b off : Nat) (bs : List Byte) : (s.basinWr cl b off bs).free = s.free := by obtain ⟨_, _, h⟩ := s.basinWr_eq cl b off bs; rw [h]
@[simp] theorem State.basinWr_uid (s : State) (cl b off : Nat) (bs : List Byte) : (s.basinWr cl b off bs).uid = s.uid := by obtain ⟨_, _, h⟩ := s.basinWr_eq cl b off bs; rw [h]
@[simp] theorem State.basinWr_gtime (s : State) (cl b off : Nat) (bs : List Byte) : (s.basinWr cl b off bs).gtime = s.gtime := by obtain ⟨_, _, h⟩ := s.basinWr_eq cl b off bs; rw [h]
@[simp] theorem State.basinWr_cycles (s : State) (cl b off : Nat) (bs : List Byte) : (s.basinWr cl b off bs).cycles = s.cycles := by obtain ⟨_, _, h⟩ := s.basinWr_eq cl b off bs; rw [h]
@[simp] theorem State.basinWr_mem (s : State) (cl b off : Nat) (bs : List Byte) : (s.basinWr cl b off bs).mem = s.mem := by obtain ⟨_, _, h⟩ := s.basinWr_eq cl b off bs; rw [h]
@[simp] theorem State.basinWr_teams (s : State) (cl b off : Nat) (bs : List Byte) : (s.basinWr cl b off bs).teams = s.teams := by obtain ⟨_, _, h⟩ := s.basinWr_eq cl b off bs; rw [h]
@[simp] theorem State.basinWr_gens (s : State) (cl b off : Nat) (bs : List Byte) : (s.basinWr cl b off bs).gens = s.gens := by obtain ⟨_, _, h⟩ := s.basinWr_eq cl b off bs; rw [h]
@[simp] theorem State.basinWr_cores (s : State) (cl b off : Nat) (bs : List Byte) : (s.basinWr cl b off bs).cores = s.cores := by obtain ⟨_, _, h⟩ := s.basinWr_eq cl b off bs; rw [h]
@[simp] theorem State.basinWr_sbufs (s : State) (cl b off : Nat) (bs : List Byte) : (s.basinWr cl b off bs).sbufs = s.sbufs := by obtain ⟨_, _, h⟩ := s.basinWr_eq cl b off bs; rw [h]
@[simp] theorem State.basinWr_blocks (s : State) (cl b off : Nat) (bs : List Byte) : (s.basinWr cl b off bs).blocks = s.blocks := by obtain ⟨_, _, h⟩ := s.basinWr_eq cl b off bs; rw [h]
@[simp] theorem State.basinWr_launches (s : State) (cl b off : Nat) (bs : List Byte) : (s.basinWr cl b off bs).launches = s.launches := by obtain ⟨_, _, h⟩ := s.basinWr_eq cl b off bs; rw [h]
@[simp] theorem State.basinWr_ctxs (s : State) (cl b off : Nat) (bs : List Byte) : (s.basinWr cl b off bs).ctxs = s.ctxs := by obtain ⟨_, _, h⟩ := s.basinWr_eq cl b off bs; rw [h]
@[simp] theorem State.basinWr_parts (s : State) (cl b off : Nat) (bs : List Byte) : (s.basinWr cl b off bs).parts = s.parts := by obtain ⟨_, _, h⟩ := s.basinWr_eq cl b off bs; rw [h]
@[simp] theorem State.basinWr_vis (s : State) (cl b off : Nat) (bs : List Byte) : (s.basinWr cl b off bs).vis = s.vis := by obtain ⟨_, _, h⟩ := s.basinWr_eq cl b off bs; rw [h]
@[simp] theorem State.basinWr_routers (s : State) (cl b off : Nat) (bs : List Byte) : (s.basinWr cl b off bs).routers = s.routers := by obtain ⟨_, _, h⟩ := s.basinWr_eq cl b off bs; rw [h]
@[simp] theorem State.basinWr_lines (s : State) (cl b off : Nat) (bs : List Byte) : (s.basinWr cl b off bs).lines = s.lines := by obtain ⟨_, _, h⟩ := s.basinWr_eq cl b off bs; rw [h]
@[simp] theorem State.basinWr_recent (s : State) (cl b off : Nat) (bs : List Byte) : (s.basinWr cl b off bs).recent = s.recent := by obtain ⟨_, _, h⟩ := s.basinWr_eq cl b off bs; rw [h]
@[simp] theorem State.basinWr_homes (s : State) (cl b off : Nat) (bs : List Byte) : (s.basinWr cl b off bs).homes = s.homes := by obtain ⟨_, _, h⟩ := s.basinWr_eq cl b off bs; rw [h]
@[simp] theorem State.basinWr_under (s : State) (cl b off : Nat) (bs : List Byte) : (s.basinWr cl b off bs).under = s.under := by obtain ⟨_, _, h⟩ := s.basinWr_eq cl b off bs; rw [h]
@[simp] theorem State.basinWr_hostLines (s : State) (cl b off : Nat) (bs : List Byte) : (s.basinWr cl b off bs).hostLines = s.hostLines := by obtain ⟨_, _, h⟩ := s.basinWr_eq cl b off bs; rw [h]
@[simp] theorem State.basinWr_resv (s : State) (cl b off : Nat) (bs : List Byte) : (s.basinWr cl b off bs).resv = s.resv := by obtain ⟨_, _, h⟩ := s.basinWr_eq cl b off bs; rw [h]
@[simp] theorem State.basinWr_msgs (s : State) (cl b off : Nat) (bs : List Byte) : (s.basinWr cl b off bs).msgs = s.msgs := by obtain ⟨_, _, h⟩ := s.basinWr_eq cl b off bs; rw [h]
@[simp] theorem State.basinWr_atomq (s : State) (cl b off : Nat) (bs : List Byte) : (s.basinWr cl b off bs).atomq = s.atomq := by obtain ⟨_, _, h⟩ := s.basinWr_eq cl b off bs; rw [h]
@[simp] theorem State.basinWr_tiles (s : State) (cl b off : Nat) (bs : List Byte) : (s.basinWr cl b off bs).tiles = s.tiles := by obtain ⟨_, _, h⟩ := s.basinWr_eq cl b off bs; rw [h]
@[simp] theorem State.basinWr_tileOps (s : State) (cl b off : Nat) (bs : List Byte) : (s.basinWr cl b off bs).tileOps = s.tileOps := by obtain ⟨_, _, h⟩ := s.basinWr_eq cl b off bs; rw [h]
@[simp] theorem State.basinWr_away (s : State) (cl b off : Nat) (bs : List Byte) : (s.basinWr cl b off bs).away = s.away := by obtain ⟨_, _, h⟩ := s.basinWr_eq cl b off bs; rw [h]
@[simp] theorem State.basinWr_poison (s : State) (cl b off : Nat) (bs : List Byte) : (s.basinWr cl b off bs).poison = s.poison := by obtain ⟨_, _, h⟩ := s.basinWr_eq cl b off bs; rw [h]
@[simp] theorem State.basinWr_hpoison (s : State) (cl b off : Nat) (bs : List Byte) : (s.basinWr cl b off bs).hpoison = s.hpoison := by obtain ⟨_, _, h⟩ := s.basinWr_eq cl b off bs; rw [h]
@[simp] theorem State.basinWr_umarks (s : State) (cl b off : Nat) (bs : List Byte) : (s.basinWr cl b off bs).umarks = s.umarks := by obtain ⟨_, _, h⟩ := s.basinWr_eq cl b off bs; rw [h]
@[simp] theorem State.basinWr_cmarks (s : State) (cl b off : Nat) (bs : List Byte) : (s.basinWr cl b off bs).cmarks = s.cmarks := by obtain ⟨_, _, h⟩ := s.basinWr_eq cl b off bs; rw [h]
@[simp] theorem State.basinWr_unfilled (s : State) (cl b off : Nat) (bs : List Byte) : (s.basinWr cl b off bs).unfilled = s.unfilled := by obtain ⟨_, _, h⟩ := s.basinWr_eq cl b off bs; rw [h]
@[simp] theorem State.basinWr_dev (s : State) (cl b off : Nat) (bs : List Byte) : (s.basinWr cl b off bs).dev = s.dev := by obtain ⟨_, _, h⟩ := s.basinWr_eq cl b off bs; rw [h]
@[simp] theorem State.tick_agenda (s : State) : s.tick.agenda = s.agenda := rfl
@[simp] theorem State.tick_cur (s : State) : s.tick.cur = s.cur := rfl
@[simp] theorem State.tick_slot (s : State) : s.tick.slot = s.slot := rfl
@[simp] theorem State.tick_uid (s : State) : s.tick.uid = s.uid := rfl
@[simp] theorem State.tick_mem (s : State) : s.tick.mem = s.mem := rfl
@[simp] theorem State.tick_teams (s : State) : s.tick.teams = s.teams := rfl
@[simp] theorem State.tick_gens (s : State) : s.tick.gens = s.gens := rfl
@[simp] theorem State.tick_cores (s : State) : s.tick.cores = s.cores := rfl
@[simp] theorem State.tick_clusters (s : State) : s.tick.clusters = s.clusters := rfl
@[simp] theorem State.tick_sbufs (s : State) : s.tick.sbufs = s.sbufs := rfl
@[simp] theorem State.tick_blocks (s : State) : s.tick.blocks = s.blocks := rfl
@[simp] theorem State.tick_launches (s : State) : s.tick.launches = s.launches := rfl
@[simp] theorem State.tick_ctxs (s : State) : s.tick.ctxs = s.ctxs := rfl
@[simp] theorem State.tick_parts (s : State) : s.tick.parts = s.parts := rfl
@[simp] theorem State.tick_vis (s : State) : s.tick.vis = s.vis := rfl
@[simp] theorem State.tick_routers (s : State) : s.tick.routers = s.routers := rfl
@[simp] theorem State.tick_lines (s : State) : s.tick.lines = s.lines := rfl
@[simp] theorem State.tick_recent (s : State) : s.tick.recent = s.recent := rfl
@[simp] theorem State.tick_homes (s : State) : s.tick.homes = s.homes := rfl
@[simp] theorem State.tick_under (s : State) : s.tick.under = s.under := rfl
@[simp] theorem State.tick_hostLines (s : State) : s.tick.hostLines = s.hostLines := rfl
@[simp] theorem State.tick_resv (s : State) : s.tick.resv = s.resv := rfl
@[simp] theorem State.tick_msgs (s : State) : s.tick.msgs = s.msgs := rfl
@[simp] theorem State.tick_atomq (s : State) : s.tick.atomq = s.atomq := rfl
@[simp] theorem State.tick_tiles (s : State) : s.tick.tiles = s.tiles := rfl
@[simp] theorem State.tick_tileOps (s : State) : s.tick.tileOps = s.tileOps := rfl
@[simp] theorem State.tick_away (s : State) : s.tick.away = s.away := rfl
@[simp] theorem State.tick_poison (s : State) : s.tick.poison = s.poison := rfl
@[simp] theorem State.tick_bpoison (s : State) : s.tick.bpoison = s.bpoison := rfl
@[simp] theorem State.tick_hpoison (s : State) : s.tick.hpoison = s.hpoison := rfl
@[simp] theorem State.tick_umarks (s : State) : s.tick.umarks = s.umarks := rfl
@[simp] theorem State.tick_cmarks (s : State) : s.tick.cmarks = s.cmarks := rfl
@[simp] theorem State.tick_unfilled (s : State) : s.tick.unfilled = s.unfilled := rfl

/-! ### Reads after writes -/

@[simp] theorem State.setTeam_team? (s : State) (t u : Nat) (T : Team) : (s.setTeam t T).team? u = if u = t then some T else s.team? u := by
  simp [State.team?, State.setTeam, lget_lset]

@[simp] theorem State.setGen_gen? (s : State) (g h : Nat) (G : Gen) : (s.setGen g G).gen? h = if h = g then some G else s.gen? h := by
  simp [State.gen?, State.setGen, lget_lset]

@[simp] theorem State.setBlock_block? (s : State) (b c : Nat) (B : Block) : (s.setBlock b B).block? c = if c = b then some B else s.block? c := by
  simp [State.block?, State.setBlock, lget_lset]

@[simp] theorem State.setLaunch_launch? (s : State) (l k : Nat) (L : Launch) :
    (s.setLaunch l L).launch? k = if k = l then some L else s.launch? k := by
  simp [State.launch?, State.setLaunch, lget_lset]

@[simp] theorem State.setCore_core (s : State) (c d : Nat) (C : Core) : (s.setCore c C).core d = if d = c then C else s.core d := by
  simp [State.core, State.setCore, mget_mput]

@[simp] theorem State.setCluster_cluster (s : State) (c d : Nat) (C : Cluster) :
    (s.setCluster c C).cluster d = if d = c then C else s.cluster d := by
  simp [State.cluster, State.setCluster, mget_mput]

@[simp] theorem State.setCtx_ctx (s : State) (c d : Nat) (C : Ctx) : (s.setCtx c C).ctx d = if d = c then C else s.ctx d := by
  simp [State.ctx, State.setCtx, mget_mput]

@[simp] theorem State.setPart_part (s : State) (p q : Nat) (P : Part) : (s.setPart p P).part q = if q = p then P else s.part q := by
  simp [State.part, State.setPart, mget_mput]

@[simp] theorem State.setVi_vi (s : State) (v w : Nat) (V : VI) : (s.setVi v V).vi w = if w = v then V else s.vi w := by
  simp [State.vi, State.setVi, mget_mput]

@[simp] theorem State.setRouter_router (s : State) (r q : Nat) (R : Router) : (s.setRouter r R).router q = if q = r then R else s.router q := by
  simp [State.router, State.setRouter, mget_mput]

@[simp] theorem State.setSbuf_sbuf (s : State) (k j : Nat) (l : List SEntry) : (s.setSbuf k l).sbuf j = if j = k then l else s.sbuf j := by
  simp [State.sbuf, State.setSbuf, mget_mput]

/-! ### Accessors that an update of another table leaves alone -/

@[simp] theorem State.setTeam_gen_ (s : State) (t : Nat) (T : Team) (u : Nat) : (s.setTeam t T).gen? u = s.gen? u := rfl
@[simp] theorem State.setTeam_core (s : State) (t : Nat) (T : Team) (u : Nat) : (s.setTeam t T).core u = s.core u := rfl
@[simp] theorem State.setTeam_cluster (s : State) (t : Nat) (T : Team) (u : Nat) : (s.setTeam t T).cluster u = s.cluster u := rfl
@[simp] theorem State.setTeam_block_ (s : State) (t : Nat) (T : Team) (u : Nat) : (s.setTeam t T).block? u = s.block? u := rfl
@[simp] theorem State.setTeam_launch_ (s : State) (t : Nat) (T : Team) (u : Nat) : (s.setTeam t T).launch? u = s.launch? u := rfl
@[simp] theorem State.setTeam_ctx (s : State) (t : Nat) (T : Team) (u : Nat) : (s.setTeam t T).ctx u = s.ctx u := rfl
@[simp] theorem State.setTeam_part (s : State) (t : Nat) (T : Team) (u : Nat) : (s.setTeam t T).part u = s.part u := rfl
@[simp] theorem State.setTeam_vi (s : State) (t : Nat) (T : Team) (u : Nat) : (s.setTeam t T).vi u = s.vi u := rfl
@[simp] theorem State.setTeam_router (s : State) (t : Nat) (T : Team) (u : Nat) : (s.setTeam t T).router u = s.router u := rfl
@[simp] theorem State.setTeam_sbuf (s : State) (t : Nat) (T : Team) (u : Nat) : (s.setTeam t T).sbuf u = s.sbuf u := rfl
@[simp] theorem State.setTeam_mem8 (s : State) (t : Nat) (T : Team) (u : Nat) : (s.setTeam t T).mem8 u = s.mem8 u := rfl
@[simp] theorem State.setGen_team_ (s : State) (g : Nat) (G : Gen) (u : Nat) : (s.setGen g G).team? u = s.team? u := rfl
@[simp] theorem State.setGen_core (s : State) (g : Nat) (G : Gen) (u : Nat) : (s.setGen g G).core u = s.core u := rfl
@[simp] theorem State.setGen_cluster (s : State) (g : Nat) (G : Gen) (u : Nat) : (s.setGen g G).cluster u = s.cluster u := rfl
@[simp] theorem State.setGen_block_ (s : State) (g : Nat) (G : Gen) (u : Nat) : (s.setGen g G).block? u = s.block? u := rfl
@[simp] theorem State.setGen_launch_ (s : State) (g : Nat) (G : Gen) (u : Nat) : (s.setGen g G).launch? u = s.launch? u := rfl
@[simp] theorem State.setGen_ctx (s : State) (g : Nat) (G : Gen) (u : Nat) : (s.setGen g G).ctx u = s.ctx u := rfl
@[simp] theorem State.setGen_part (s : State) (g : Nat) (G : Gen) (u : Nat) : (s.setGen g G).part u = s.part u := rfl
@[simp] theorem State.setGen_vi (s : State) (g : Nat) (G : Gen) (u : Nat) : (s.setGen g G).vi u = s.vi u := rfl
@[simp] theorem State.setGen_router (s : State) (g : Nat) (G : Gen) (u : Nat) : (s.setGen g G).router u = s.router u := rfl
@[simp] theorem State.setGen_sbuf (s : State) (g : Nat) (G : Gen) (u : Nat) : (s.setGen g G).sbuf u = s.sbuf u := rfl
@[simp] theorem State.setGen_mem8 (s : State) (g : Nat) (G : Gen) (u : Nat) : (s.setGen g G).mem8 u = s.mem8 u := rfl
@[simp] theorem State.setCore_team_ (s : State) (c : Nat) (C : Core) (u : Nat) : (s.setCore c C).team? u = s.team? u := rfl
@[simp] theorem State.setCore_gen_ (s : State) (c : Nat) (C : Core) (u : Nat) : (s.setCore c C).gen? u = s.gen? u := rfl
@[simp] theorem State.setCore_cluster (s : State) (c : Nat) (C : Core) (u : Nat) : (s.setCore c C).cluster u = s.cluster u := rfl
@[simp] theorem State.setCore_block_ (s : State) (c : Nat) (C : Core) (u : Nat) : (s.setCore c C).block? u = s.block? u := rfl
@[simp] theorem State.setCore_launch_ (s : State) (c : Nat) (C : Core) (u : Nat) : (s.setCore c C).launch? u = s.launch? u := rfl
@[simp] theorem State.setCore_ctx (s : State) (c : Nat) (C : Core) (u : Nat) : (s.setCore c C).ctx u = s.ctx u := rfl
@[simp] theorem State.setCore_part (s : State) (c : Nat) (C : Core) (u : Nat) : (s.setCore c C).part u = s.part u := rfl
@[simp] theorem State.setCore_vi (s : State) (c : Nat) (C : Core) (u : Nat) : (s.setCore c C).vi u = s.vi u := rfl
@[simp] theorem State.setCore_router (s : State) (c : Nat) (C : Core) (u : Nat) : (s.setCore c C).router u = s.router u := rfl
@[simp] theorem State.setCore_sbuf (s : State) (c : Nat) (C : Core) (u : Nat) : (s.setCore c C).sbuf u = s.sbuf u := rfl
@[simp] theorem State.setCore_mem8 (s : State) (c : Nat) (C : Core) (u : Nat) : (s.setCore c C).mem8 u = s.mem8 u := rfl
@[simp] theorem State.setCluster_team_ (s : State) (c : Nat) (C : Cluster) (u : Nat) : (s.setCluster c C).team? u = s.team? u := rfl
@[simp] theorem State.setCluster_gen_ (s : State) (c : Nat) (C : Cluster) (u : Nat) : (s.setCluster c C).gen? u = s.gen? u := rfl
@[simp] theorem State.setCluster_core (s : State) (c : Nat) (C : Cluster) (u : Nat) : (s.setCluster c C).core u = s.core u := rfl
@[simp] theorem State.setCluster_block_ (s : State) (c : Nat) (C : Cluster) (u : Nat) : (s.setCluster c C).block? u = s.block? u := rfl
@[simp] theorem State.setCluster_launch_ (s : State) (c : Nat) (C : Cluster) (u : Nat) : (s.setCluster c C).launch? u = s.launch? u := rfl
@[simp] theorem State.setCluster_ctx (s : State) (c : Nat) (C : Cluster) (u : Nat) : (s.setCluster c C).ctx u = s.ctx u := rfl
@[simp] theorem State.setCluster_part (s : State) (c : Nat) (C : Cluster) (u : Nat) : (s.setCluster c C).part u = s.part u := rfl
@[simp] theorem State.setCluster_vi (s : State) (c : Nat) (C : Cluster) (u : Nat) : (s.setCluster c C).vi u = s.vi u := rfl
@[simp] theorem State.setCluster_router (s : State) (c : Nat) (C : Cluster) (u : Nat) : (s.setCluster c C).router u = s.router u := rfl
@[simp] theorem State.setCluster_sbuf (s : State) (c : Nat) (C : Cluster) (u : Nat) : (s.setCluster c C).sbuf u = s.sbuf u := rfl
@[simp] theorem State.setCluster_mem8 (s : State) (c : Nat) (C : Cluster) (u : Nat) : (s.setCluster c C).mem8 u = s.mem8 u := rfl
@[simp] theorem State.setBlock_team_ (s : State) (b : Nat) (B : Block) (u : Nat) : (s.setBlock b B).team? u = s.team? u := rfl
@[simp] theorem State.setBlock_gen_ (s : State) (b : Nat) (B : Block) (u : Nat) : (s.setBlock b B).gen? u = s.gen? u := rfl
@[simp] theorem State.setBlock_core (s : State) (b : Nat) (B : Block) (u : Nat) : (s.setBlock b B).core u = s.core u := rfl
@[simp] theorem State.setBlock_cluster (s : State) (b : Nat) (B : Block) (u : Nat) : (s.setBlock b B).cluster u = s.cluster u := rfl
@[simp] theorem State.setBlock_launch_ (s : State) (b : Nat) (B : Block) (u : Nat) : (s.setBlock b B).launch? u = s.launch? u := rfl
@[simp] theorem State.setBlock_ctx (s : State) (b : Nat) (B : Block) (u : Nat) : (s.setBlock b B).ctx u = s.ctx u := rfl
@[simp] theorem State.setBlock_part (s : State) (b : Nat) (B : Block) (u : Nat) : (s.setBlock b B).part u = s.part u := rfl
@[simp] theorem State.setBlock_vi (s : State) (b : Nat) (B : Block) (u : Nat) : (s.setBlock b B).vi u = s.vi u := rfl
@[simp] theorem State.setBlock_router (s : State) (b : Nat) (B : Block) (u : Nat) : (s.setBlock b B).router u = s.router u := rfl
@[simp] theorem State.setBlock_sbuf (s : State) (b : Nat) (B : Block) (u : Nat) : (s.setBlock b B).sbuf u = s.sbuf u := rfl
@[simp] theorem State.setBlock_mem8 (s : State) (b : Nat) (B : Block) (u : Nat) : (s.setBlock b B).mem8 u = s.mem8 u := rfl
@[simp] theorem State.setLaunch_team_ (s : State) (l : Nat) (L : Launch) (u : Nat) : (s.setLaunch l L).team? u = s.team? u := rfl
@[simp] theorem State.setLaunch_gen_ (s : State) (l : Nat) (L : Launch) (u : Nat) : (s.setLaunch l L).gen? u = s.gen? u := rfl
@[simp] theorem State.setLaunch_core (s : State) (l : Nat) (L : Launch) (u : Nat) : (s.setLaunch l L).core u = s.core u := rfl
@[simp] theorem State.setLaunch_cluster (s : State) (l : Nat) (L : Launch) (u : Nat) : (s.setLaunch l L).cluster u = s.cluster u := rfl
@[simp] theorem State.setLaunch_block_ (s : State) (l : Nat) (L : Launch) (u : Nat) : (s.setLaunch l L).block? u = s.block? u := rfl
@[simp] theorem State.setLaunch_ctx (s : State) (l : Nat) (L : Launch) (u : Nat) : (s.setLaunch l L).ctx u = s.ctx u := rfl
@[simp] theorem State.setLaunch_part (s : State) (l : Nat) (L : Launch) (u : Nat) : (s.setLaunch l L).part u = s.part u := rfl
@[simp] theorem State.setLaunch_vi (s : State) (l : Nat) (L : Launch) (u : Nat) : (s.setLaunch l L).vi u = s.vi u := rfl
@[simp] theorem State.setLaunch_router (s : State) (l : Nat) (L : Launch) (u : Nat) : (s.setLaunch l L).router u = s.router u := rfl
@[simp] theorem State.setLaunch_sbuf (s : State) (l : Nat) (L : Launch) (u : Nat) : (s.setLaunch l L).sbuf u = s.sbuf u := rfl
@[simp] theorem State.setLaunch_mem8 (s : State) (l : Nat) (L : Launch) (u : Nat) : (s.setLaunch l L).mem8 u = s.mem8 u := rfl
@[simp] theorem State.setCtx_team_ (s : State) (c : Nat) (C : Ctx) (u : Nat) : (s.setCtx c C).team? u = s.team? u := rfl
@[simp] theorem State.setCtx_gen_ (s : State) (c : Nat) (C : Ctx) (u : Nat) : (s.setCtx c C).gen? u = s.gen? u := rfl
@[simp] theorem State.setCtx_core (s : State) (c : Nat) (C : Ctx) (u : Nat) : (s.setCtx c C).core u = s.core u := rfl
@[simp] theorem State.setCtx_cluster (s : State) (c : Nat) (C : Ctx) (u : Nat) : (s.setCtx c C).cluster u = s.cluster u := rfl
@[simp] theorem State.setCtx_block_ (s : State) (c : Nat) (C : Ctx) (u : Nat) : (s.setCtx c C).block? u = s.block? u := rfl
@[simp] theorem State.setCtx_launch_ (s : State) (c : Nat) (C : Ctx) (u : Nat) : (s.setCtx c C).launch? u = s.launch? u := rfl
@[simp] theorem State.setCtx_part (s : State) (c : Nat) (C : Ctx) (u : Nat) : (s.setCtx c C).part u = s.part u := rfl
@[simp] theorem State.setCtx_vi (s : State) (c : Nat) (C : Ctx) (u : Nat) : (s.setCtx c C).vi u = s.vi u := rfl
@[simp] theorem State.setCtx_router (s : State) (c : Nat) (C : Ctx) (u : Nat) : (s.setCtx c C).router u = s.router u := rfl
@[simp] theorem State.setCtx_sbuf (s : State) (c : Nat) (C : Ctx) (u : Nat) : (s.setCtx c C).sbuf u = s.sbuf u := rfl
@[simp] theorem State.setCtx_mem8 (s : State) (c : Nat) (C : Ctx) (u : Nat) : (s.setCtx c C).mem8 u = s.mem8 u := rfl
@[simp] theorem State.setPart_team_ (s : State) (p : Nat) (P : Part) (u : Nat) : (s.setPart p P).team? u = s.team? u := rfl
@[simp] theorem State.setPart_gen_ (s : State) (p : Nat) (P : Part) (u : Nat) : (s.setPart p P).gen? u = s.gen? u := rfl
@[simp] theorem State.setPart_core (s : State) (p : Nat) (P : Part) (u : Nat) : (s.setPart p P).core u = s.core u := rfl
@[simp] theorem State.setPart_cluster (s : State) (p : Nat) (P : Part) (u : Nat) : (s.setPart p P).cluster u = s.cluster u := rfl
@[simp] theorem State.setPart_block_ (s : State) (p : Nat) (P : Part) (u : Nat) : (s.setPart p P).block? u = s.block? u := rfl
@[simp] theorem State.setPart_launch_ (s : State) (p : Nat) (P : Part) (u : Nat) : (s.setPart p P).launch? u = s.launch? u := rfl
@[simp] theorem State.setPart_ctx (s : State) (p : Nat) (P : Part) (u : Nat) : (s.setPart p P).ctx u = s.ctx u := rfl
@[simp] theorem State.setPart_vi (s : State) (p : Nat) (P : Part) (u : Nat) : (s.setPart p P).vi u = s.vi u := rfl
@[simp] theorem State.setPart_router (s : State) (p : Nat) (P : Part) (u : Nat) : (s.setPart p P).router u = s.router u := rfl
@[simp] theorem State.setPart_sbuf (s : State) (p : Nat) (P : Part) (u : Nat) : (s.setPart p P).sbuf u = s.sbuf u := rfl
@[simp] theorem State.setPart_mem8 (s : State) (p : Nat) (P : Part) (u : Nat) : (s.setPart p P).mem8 u = s.mem8 u := rfl
@[simp] theorem State.setVi_team_ (s : State) (v : Nat) (V : VI) (u : Nat) : (s.setVi v V).team? u = s.team? u := rfl
@[simp] theorem State.setVi_gen_ (s : State) (v : Nat) (V : VI) (u : Nat) : (s.setVi v V).gen? u = s.gen? u := rfl
@[simp] theorem State.setVi_core (s : State) (v : Nat) (V : VI) (u : Nat) : (s.setVi v V).core u = s.core u := rfl
@[simp] theorem State.setVi_cluster (s : State) (v : Nat) (V : VI) (u : Nat) : (s.setVi v V).cluster u = s.cluster u := rfl
@[simp] theorem State.setVi_block_ (s : State) (v : Nat) (V : VI) (u : Nat) : (s.setVi v V).block? u = s.block? u := rfl
@[simp] theorem State.setVi_launch_ (s : State) (v : Nat) (V : VI) (u : Nat) : (s.setVi v V).launch? u = s.launch? u := rfl
@[simp] theorem State.setVi_ctx (s : State) (v : Nat) (V : VI) (u : Nat) : (s.setVi v V).ctx u = s.ctx u := rfl
@[simp] theorem State.setVi_part (s : State) (v : Nat) (V : VI) (u : Nat) : (s.setVi v V).part u = s.part u := rfl
@[simp] theorem State.setVi_router (s : State) (v : Nat) (V : VI) (u : Nat) : (s.setVi v V).router u = s.router u := rfl
@[simp] theorem State.setVi_sbuf (s : State) (v : Nat) (V : VI) (u : Nat) : (s.setVi v V).sbuf u = s.sbuf u := rfl
@[simp] theorem State.setVi_mem8 (s : State) (v : Nat) (V : VI) (u : Nat) : (s.setVi v V).mem8 u = s.mem8 u := rfl
@[simp] theorem State.setRouter_team_ (s : State) (r : Nat) (R : Router) (u : Nat) : (s.setRouter r R).team? u = s.team? u := rfl
@[simp] theorem State.setRouter_gen_ (s : State) (r : Nat) (R : Router) (u : Nat) : (s.setRouter r R).gen? u = s.gen? u := rfl
@[simp] theorem State.setRouter_core (s : State) (r : Nat) (R : Router) (u : Nat) : (s.setRouter r R).core u = s.core u := rfl
@[simp] theorem State.setRouter_cluster (s : State) (r : Nat) (R : Router) (u : Nat) : (s.setRouter r R).cluster u = s.cluster u := rfl
@[simp] theorem State.setRouter_block_ (s : State) (r : Nat) (R : Router) (u : Nat) : (s.setRouter r R).block? u = s.block? u := rfl
@[simp] theorem State.setRouter_launch_ (s : State) (r : Nat) (R : Router) (u : Nat) : (s.setRouter r R).launch? u = s.launch? u := rfl
@[simp] theorem State.setRouter_ctx (s : State) (r : Nat) (R : Router) (u : Nat) : (s.setRouter r R).ctx u = s.ctx u := rfl
@[simp] theorem State.setRouter_part (s : State) (r : Nat) (R : Router) (u : Nat) : (s.setRouter r R).part u = s.part u := rfl
@[simp] theorem State.setRouter_vi (s : State) (r : Nat) (R : Router) (u : Nat) : (s.setRouter r R).vi u = s.vi u := rfl
@[simp] theorem State.setRouter_sbuf (s : State) (r : Nat) (R : Router) (u : Nat) : (s.setRouter r R).sbuf u = s.sbuf u := rfl
@[simp] theorem State.setRouter_mem8 (s : State) (r : Nat) (R : Router) (u : Nat) : (s.setRouter r R).mem8 u = s.mem8 u := rfl
@[simp] theorem State.fresh_team_ (s : State) (u : Nat) : s.fresh.team? u = s.team? u := rfl
@[simp] theorem State.chosen_team_ (s : State) (u : Nat) : s.chosen.team? u = s.team? u := rfl
@[simp] theorem State.tick_team_ (s : State) (u : Nat) : s.tick.team? u = s.team? u := rfl
@[simp] theorem State.fresh_gen_ (s : State) (u : Nat) : s.fresh.gen? u = s.gen? u := rfl
@[simp] theorem State.chosen_gen_ (s : State) (u : Nat) : s.chosen.gen? u = s.gen? u := rfl
@[simp] theorem State.tick_gen_ (s : State) (u : Nat) : s.tick.gen? u = s.gen? u := rfl
@[simp] theorem State.fresh_core (s : State) (u : Nat) : s.fresh.core u = s.core u := rfl
@[simp] theorem State.chosen_core (s : State) (u : Nat) : s.chosen.core u = s.core u := rfl
@[simp] theorem State.tick_core (s : State) (u : Nat) : s.tick.core u = s.core u := rfl
@[simp] theorem State.fresh_cluster (s : State) (u : Nat) : s.fresh.cluster u = s.cluster u := rfl
@[simp] theorem State.chosen_cluster (s : State) (u : Nat) : s.chosen.cluster u = s.cluster u := rfl
@[simp] theorem State.tick_cluster (s : State) (u : Nat) : s.tick.cluster u = s.cluster u := rfl
@[simp] theorem State.fresh_block_ (s : State) (u : Nat) : s.fresh.block? u = s.block? u := rfl
@[simp] theorem State.chosen_block_ (s : State) (u : Nat) : s.chosen.block? u = s.block? u := rfl
@[simp] theorem State.tick_block_ (s : State) (u : Nat) : s.tick.block? u = s.block? u := rfl
@[simp] theorem State.fresh_launch_ (s : State) (u : Nat) : s.fresh.launch? u = s.launch? u := rfl
@[simp] theorem State.chosen_launch_ (s : State) (u : Nat) : s.chosen.launch? u = s.launch? u := rfl
@[simp] theorem State.tick_launch_ (s : State) (u : Nat) : s.tick.launch? u = s.launch? u := rfl
@[simp] theorem State.fresh_ctx (s : State) (u : Nat) : s.fresh.ctx u = s.ctx u := rfl
@[simp] theorem State.chosen_ctx (s : State) (u : Nat) : s.chosen.ctx u = s.ctx u := rfl
@[simp] theorem State.tick_ctx (s : State) (u : Nat) : s.tick.ctx u = s.ctx u := rfl
@[simp] theorem State.fresh_part (s : State) (u : Nat) : s.fresh.part u = s.part u := rfl
@[simp] theorem State.chosen_part (s : State) (u : Nat) : s.chosen.part u = s.part u := rfl
@[simp] theorem State.tick_part (s : State) (u : Nat) : s.tick.part u = s.part u := rfl
@[simp] theorem State.fresh_vi (s : State) (u : Nat) : s.fresh.vi u = s.vi u := rfl
@[simp] theorem State.chosen_vi (s : State) (u : Nat) : s.chosen.vi u = s.vi u := rfl
@[simp] theorem State.tick_vi (s : State) (u : Nat) : s.tick.vi u = s.vi u := rfl
@[simp] theorem State.fresh_router (s : State) (u : Nat) : s.fresh.router u = s.router u := rfl
@[simp] theorem State.chosen_router (s : State) (u : Nat) : s.chosen.router u = s.router u := rfl
@[simp] theorem State.tick_router (s : State) (u : Nat) : s.tick.router u = s.router u := rfl
@[simp] theorem State.fresh_sbuf (s : State) (u : Nat) : s.fresh.sbuf u = s.sbuf u := rfl
@[simp] theorem State.chosen_sbuf (s : State) (u : Nat) : s.chosen.sbuf u = s.sbuf u := rfl
@[simp] theorem State.tick_sbuf (s : State) (u : Nat) : s.tick.sbuf u = s.sbuf u := rfl
@[simp] theorem State.fresh_mem8 (s : State) (u : Nat) : s.fresh.mem8 u = s.mem8 u := rfl
@[simp] theorem State.chosen_mem8 (s : State) (u : Nat) : s.chosen.mem8 u = s.mem8 u := rfl
@[simp] theorem State.tick_mem8 (s : State) (u : Nat) : s.tick.mem8 u = s.mem8 u := rfl

end Sys2Proof.Machine
end

