-- ==== Sys2Proof/Laws/Ops.lean ====
section
/-! SUPPORT. What the shared operations do, one lemma each: threads, memory, basins, and the issue of a word. -/

namespace Sys2Proof.Machine

/-! ### Registers of a thread -/

theorem Thread.rd_wr (th : Thread) (d r : Nat) (v : W64) : (th.wr d v).rd r = if r = d then v else th.rd r := by
  simp [Thread.rd, Thread.wr, mget_mput]

@[simp] theorem Thread.rd_wr_self (th : Thread) (d : Nat) (v : W64) : (th.wr d v).rd d = v := by simp [Thread.rd_wr]

@[simp] theorem Thread.rd_adv (th : Thread) (n r : Nat) : (th.adv n).rd r = th.rd r := rfl

@[simp] theorem Thread.rd_orFlags (th : Thread) (f : BitVec 5) (r : Nat) : (th.orFlags f).rd r = th.rd r := rfl

theorem Thread.rd_wrs (th : Thread) (d r : Nat) (vs : List W64) :
    (th.wrs d vs).rd r = if d ≤ r ∧ r < d + vs.length then vs.getD (r - d) 0 else th.rd r := by
  simp [Thread.rd, Thread.wrs, mget_mputs]

/-- A written register is poisoned no more, every other mark stays (R432). -/
theorem Thread.mem_marks_wr (th : Thread) (d w : Nat) (v : W64) : w ∈ (th.wr d v).marks ↔ w ∈ th.marks ∧ w / 2 ≠ d := by
  simp [Thread.wr]

theorem Thread.mem_marks_wrs (th : Thread) (d w : Nat) (vs : List W64) :
    w ∈ (th.wrs d vs).marks ↔ w ∈ th.marks ∧ ¬(d ≤ w / 2 ∧ w / 2 < d + vs.length) := by
  simp [Thread.wrs]; omega

/-! ### Lanes of a team -/

theorem Team.vr_vw (T : Team) (r r' l l' : Nat) (x : W32) (h : r < 512) (h' : r' < 512) :
    (T.vw r l x).vr r' l' = if r' = r ∧ l' = l then x else T.vr r' l' := by
  have hk : vkey r' l' = vkey r l ↔ r' = r ∧ l' = l := by simp only [vkey]; omega
  simp only [Team.vr, Team.vw, mget_mput, hk]

theorem Team.pred_pw (T : Team) (r r' l l' : Nat) (b : Bool) (h : r < 8) (h' : r' < 8) :
    (T.pw r l b).pred r' l' = if r' = r ∧ l' = l ∧ r ≠ 7 then b else T.pred r' l' := by
  have hk : pkey r' l' = pkey r l ↔ r' = r ∧ l' = l := by simp only [pkey]; omega
  by_cases h7 : r = 7
  · simp [Team.pw, h7]
  · simp only [Team.pw, h7, if_false, Team.pred, mget_mput, hk, ne_eq, not_false_eq_true, and_true]
    by_cases e : r' = r ∧ l' = l
    · simp [e, h7]
    · simp [e]

/-! ### Threads of agents -/

theorem State.thread?_team (s : State) (t : Nat) : s.thread? (.team t) = (s.team? t).map (·.th) := rfl

theorem State.thread?_gen (s : State) (g : Nat) : s.thread? (.gen g) = (s.gen? g).map (·.th) := rfl

/-- After a thread is written it reads as written; the other agents' threads are as before. -/
theorem State.thread?_setThread (s : State) (a b : Agent) (th : Thread) (h : (s.thread? a).isSome) :
    (s.setThread a th).thread? b = if b = a then some th else s.thread? b := by
  cases a with
  | team t =>
    cases hT : s.team? t with
    | none => simp [State.thread?, hT] at h
    | some T =>
      cases b with
      | team u => by_cases e : u = t <;> simp [State.setThread, hT, State.thread?, e]
      | gen g => simp [State.setThread, hT, State.thread?]
      | queue c => simp [State.thread?]
  | gen g =>
    cases hG : s.gen? g with
    | none => simp [State.thread?, hG] at h
    | some G =>
      cases b with
      | team u => simp [State.setThread, hG, State.thread?]
      | gen k => by_cases e : k = g <;> simp [State.setThread, hG, State.thread?, e]
      | queue c => simp [State.thread?]
  | queue c => simp [State.thread?] at h

theorem State.onThread_some (s : State) (a : Agent) (f : Thread → Thread) {th : Thread} (h : s.thread? a = some th) :
    s.onThread a f = s.setThread a (f th) := by
  simp [State.onThread, h]

@[simp] theorem State.setThread_mem (s : State) (a : Agent) (th : Thread) : (s.setThread a th).mem = s.mem := by
  unfold State.setThread; split <;> (try split) <;> rfl

@[simp] theorem State.setStatus_mem (s : State) (a : Agent) (x : Status) : (s.setStatus a x).mem = s.mem := by
  unfold State.setStatus; split <;> (try split) <;> rfl

@[simp] theorem State.onThread_mem (s : State) (a : Agent) (f : Thread → Thread) : (s.onThread a f).mem = s.mem := by
  unfold State.onThread; split <;> simp

@[simp] theorem State.onTeam_mem (s : State) (a : Agent) (f : Team → Team) : (s.onTeam a f).mem = s.mem := by
  unfold State.onTeam; split <;> (try split) <;> rfl

@[simp] theorem State.stamp_mem (s : State) (a : Agent) : (s.stamp a).mem = s.mem := by simp [State.stamp]

@[simp] theorem State.park_mem (s : State) (a : Agent) (w : Wait) : (s.park a w).mem = s.mem := by simp [State.park]

@[simp] theorem State.later_mem (s : State) (a : Agent) (n : Nat) (ps : List Path) (w : Work) : (s.later a n ps w).mem = s.mem := by
  simp [State.later]

@[simp] theorem State.raiseRecord_mem (s : State) (p : Nat) (r : SvcRec) : (s.raiseRecord p r).mem = s.mem := rfl

@[simp] theorem State.stopAgent_mem (s : State) (a : Agent) : (s.stopAgent a).mem = s.mem := by
  unfold State.stopAgent; split <;> simp

@[simp] theorem State.haltLine_mem (s : State) (ctx cause loc tag : Nat) : (s.haltLine ctx cause loc tag).mem = s.mem := by
  unfold State.haltLine; repeat' (first | split | rfl | simp)

@[simp] theorem State.fatal_mem (s : State) (a : Agent) (cause : Nat) : (s.fatal a cause).mem = s.mem := by
  unfold State.fatal; split <;> simp

@[simp] theorem State.engineFault_mem (s : State) (c ctx prov cause : Nat) : (s.engineFault c ctx prov cause).mem = s.mem := by
  simp [State.engineFault, State.engineStop]

@[simp] theorem State.teamFault_mem (s : State) (t cause haddr : Nat) (ls : List Nat) : (s.teamFault t cause haddr ls).mem = s.mem := by
  unfold State.teamFault; split
  · rfl
  · simp only; repeat' (first | split | rfl | simp)

@[simp] theorem State.genFault_mem (s : State) (g cause : Nat) : (s.genFault g cause).mem = s.mem := by
  unfold State.genFault; split
  · rfl
  · simp only; repeat' (first | split | rfl | simp)

@[simp] theorem State.raise_mem (s : State) (a : Agent) (cause : Nat) : (s.raise a cause).mem = s.mem := by
  unfold State.raise; split <;> (try split) <;> (try split) <;> simp

/-! ### Memory -/

theorem State.mem8_memWr (s : State) (pa q : Nat) (bs : List Byte) :
    (s.memWr pa bs).mem8 q = if pa ≤ q ∧ q < pa + bs.length then bs.getD (q - pa) 0 else s.mem8 q := by
  simp [State.mem8, State.memWr, mget_mputs]

/-- Performing bytes keeps the canonical form. -/
theorem State.memWr_wf (s : State) (pa : Nat) (bs : List Byte) (h : Memory.wf s.mem = true) : Memory.wf (s.memWr pa bs).mem = true :=
  mwf_mputs 0 bs s.mem pa h

@[simp] theorem State.tripAll_mem (s : State) (l : Nat) (g : Agent → Bool) : (s.tripAll l g).mem = s.mem := rfl

@[simp] theorem State.overwrite_mem (s : State) (pa n : Nat) : (s.overwrite pa n).mem = s.mem := rfl

@[simp] theorem State.touch_mem (s : State) (h l : Nat) : (s.touch h l).mem = s.mem := by unfold State.touch; split <;> rfl

@[simp] theorem State.backWrite_mem (s : State) (l : Nat) : (s.backWrite l).mem = s.mem := by unfold State.backWrite; split <;> rfl

@[simp] theorem State.sliceDrop_mem (s : State) (l : Nat) : (s.sliceDrop l).mem = s.mem := by
  unfold State.sliceDrop
  dsimp only
  split <;> simp

@[simp] theorem State.countHbm_mem (s : State) (l : Nat) : (s.countHbm l).mem = s.mem := rfl

/-- A home slice takes a line without a change of any byte. -/
@[simp] theorem State.sliceTake_mem (s : State) (l : Nat) (d : Bool) : (s.sliceTake l d).mem = s.mem := by
  unfold State.sliceTake
  dsimp only
  repeat' split
  all_goals simp

/-- A fold of updates that leave memory alone leaves it alone. -/
theorem foldl_mem {α : Type} (f : State → α → State) (hf : ∀ s x, (f s x).mem = s.mem) (l : List α) (s : State) : (l.foldl f s).mem = s.mem := by
  induction l generalizing s with
  | nil => rfl
  | cons x l ih => rw [List.foldl_cons, ih, hf]

/-- Performing bytes at device scope writes them and no other byte of memory. -/
theorem State.perform_mem (s : State) (pa : Nat) (bs : List Byte) : (s.perform pa bs).mem = mputs 0 s.mem pa bs :=
  (foldl_mem _ (fun s l => s.sliceTake_mem l true) _ _).trans (foldl_mem _ (fun s l => s.tripAll_mem l _) _ _)

/-- The memory after reset has the canonical form. -/
theorem reset_mem_wf : Memory.wf State.reset.mem = true := rfl

theorem sameMem_refl (s : State) : SameMem s s := fun _ => rfl

theorem sameMem_of_mem {s t : State} (h : t.mem = s.mem) : SameMem s t := fun pa => by simp [State.mem8, h]

/-- A byte of a basin after a write of that or another basin that does not pass its end. -/
theorem State.basin8_basinPut (s : State) (cl b off : Nat) (bs : List Byte) (cl' b' o : Nat) :
    (s.basinPut cl b off bs).basin8 cl' b' o =
      if cl' = cl ∧ b * 65536 + off ≤ b' * 65536 + o % 65536 ∧ b' * 65536 + o % 65536 < b * 65536 + off + bs.length
      then bs.getD (b' * 65536 + o % 65536 - (b * 65536 + off)) 0 else s.basin8 cl' b' o := by
  by_cases h : cl' = cl
  · subst h
    simp [State.basin8, State.basinPut, State.cluster, State.setCluster, mget_mputs]
  · simp [State.basin8, State.basinPut, State.cluster, State.setCluster, mget_mput, h]

theorem State.basin8_basinWr (s : State) (cl b off : Nat) (bs : List Byte) (cl' b' o : Nat) (hb : off + bs.length ≤ 65536) :
    (s.basinWr cl b off bs).basin8 cl' b' o =
      if cl' = cl ∧ b * 65536 + off ≤ b' * 65536 + o % 65536 ∧ b' * 65536 + o % 65536 < b * 65536 + off + bs.length
      then bs.getD (b' * 65536 + o % 65536 - (b * 65536 + off)) 0 else s.basin8 cl' b' o := by
  unfold State.basinWr
  rcases Nat.lt_or_ge off 65536 with h | h
  · rw [Nat.mod_eq_of_lt h, if_pos (by omega), State.basin8_basinPut]
  · have h0 : bs = [] := List.eq_nil_of_length_eq_zero (by omega)
    subst h0
    rw [List.length_nil, if_pos (Nat.zero_le _), State.basin8_basinPut, List.length_nil, if_neg (by omega), if_neg (by omega)]

/-! ### The issue of a word -/

theorem gate_go {s : State} {i : Instr} {a : Agent} {th : Thread} {lim : Agent → Bool} (h : Issuing s i a th) (hl : lim a = true) :
    s.gate i lim = .go := by
  unfold State.gate
  have hm : (i.marked && th.busy) = false := by
    cases e : i.marked with
    | false => rfl
    | true => simpa [e] using h.marker e
  simp only [h.cur, h.place, not_true_eq_false, if_false, hl, Bool.true_eq_false, h.thread, hm, Bool.false_eq_true]
  cases a with
  | team t => rfl
  | gen g =>
    have : th.interlocked i = false := by
      unfold Thread.interlocked
      rw [List.any_eq_false]
      intro p hp
      obtain ⟨h1, h2⟩ := h.clear g rfl p hp
      cases hf : p.finished with
      | true => simp [h1]
      | false => simpa [h1, List.any_eq_false] using h2 hf
    simp [this]
  | queue c => exact absurd h.thread (by simp [State.thread?])

/-- A word whose agent may issue it has its effect. -/
theorem issue_go {s : State} {i : Instr} {a : Agent} {th : Thread} {lim : Agent → Bool} {f : Agent → State → State}
    (h : Issuing s i a th) (hl : lim a = true) : issue s i lim f = .next (f a s) := by
  simp [issue, h.cur, gate_go h hl]

theorem issue_queue {s : State} {i : Instr} {c : Nat} {e : Emitted} {rest : List Emitted} {B : Block} {lim : Agent → Bool}
    {f : Agent → State → State} (h : QueueIssuing s i c e rest B) (hl : lim (.queue c) = true) :
    issue s i lim f = .next (f (.queue c) s) := by
  have : s.gate i lim = .go := by
    simp [State.gate, h.cur, agentPlace, h.place, hl, State.thread?]
  simp [issue, h.cur, this]

/-- A word of another place is a placement violation (R72, R89). -/
theorem issue_place {s : State} {i : Instr} {a : Agent} {th : Thread} {lim : Agent → Bool} {f : Agent → State → State}
    (hc : s.cur = some a) (ht : s.thread? a = some th) (hm : (i.marked && th.busy) = false) (hp : agentPlace a ∉ encPlaces i) :
    issue s i lim f = .next (s.raise a 9) := by
  have : s.gate i lim = .place := by simp [State.gate, hc, ht, hm, hp]
  simp [issue, hc, this]

/-- A word beyond its launch's limits is an illegal operand (R9, R59, R72). -/
theorem issue_limit {s : State} {i : Instr} {a : Agent} {th : Thread} {lim : Agent → Bool} {f : Agent → State → State}
    (hc : s.cur = some a) (ht : s.thread? a = some th) (hm : (i.marked && th.busy) = false) (hp : agentPlace a ∈ encPlaces i)
    (hl : lim a = false) : issue s i lim f = .next (s.raise a 8) := by
  have : s.gate i lim = .limit := by simp [State.gate, hc, ht, hm, hp, hl]
  simp [issue, hc, this]

/-- A marked word of a thread with outstanding results waits (R58, R261). -/
theorem issue_wait {s : State} {i : Instr} {a : Agent} {th : Thread} {lim : Agent → Bool} {f : Agent → State → State}
    (hc : s.cur = some a) (ht : s.thread? a = some th) (hm : i.marked = true) (hb : th.busy = true) :
    issue s i lim f = .next (s.park a (agentHold a)) := by
  have : s.gate i lim = .wait := by simp [State.gate, hc, ht, hm, hb]
  simp [issue, hc, this]

/-- Everything the issue of a word can do. -/
theorem issue_cases (s : State) (i : Instr) (lim : Agent → Bool) (f : Agent → State → State) :
    issue s i lim f = .fault .noIssuer ∨
      ∃ a, s.cur = some a ∧ (issue s i lim f = .next (s.raise a 9) ∨ issue s i lim f = .next (s.raise a 8) ∨
        issue s i lim f = .next (s.park a (agentHold a)) ∨ issue s i lim f = .next (f a s)) := by
  unfold issue
  cases hc : s.cur with
  | none => exact .inl rfl
  | some a =>
    simp only
    cases s.gate i lim with
    | none => exact .inl rfl
    | place => exact .inr ⟨a, rfl, .inl rfl⟩
    | limit => exact .inr ⟨a, rfl, .inr (.inl rfl)⟩
    | wait => exact .inr ⟨a, rfl, .inr (.inr (.inl rfl))⟩
    | go => exact .inr ⟨a, rfl, .inr (.inr (.inr rfl))⟩

/-- A word keeps what its effect, a fault and a wait keep of memory's form. -/
theorem issue_mem {s t : State} {i : Instr} {lim : Agent → Bool} {f : Agent → State → State}
    (hf : ∀ a, Memory.wf s.mem = true → Memory.wf (f a s).mem = true) (hs : Memory.wf s.mem = true)
    (h : issue s i lim f = .next t) : Memory.wf t.mem = true := by
  rcases issue_cases s i lim f with e | ⟨a, -, e | e | e | e⟩ <;> rw [e] at h
  · cases h
  all_goals (injection h with h; subst h)
  · simpa using hs
  · simpa using hs
  · simpa using hs
  · exact hf a hs

end Sys2Proof.Machine
end

