-- ==== Sys2Proof/Laws/Vector.lean ====
section
/-! SUPPORT. What the shared shapes of uniform and vector words do, one lemma each. -/

namespace Sys2Proof.Machine

/-! ### Lane results -/

theorem Team.vr_vwr (T : Team) (wide : Bool) (d l x r l' : Nat) (hd : d < 256) (hr : r < 256)
    (h : l' ≠ l ∨ (r ≠ d ∧ ¬(wide = true ∧ r = d + 1))) : (T.vwr wide d l x).vr r l' = T.vr r l' := by
  cases wide with
  | false =>
    simp only [Team.vwr, Bool.false_eq_true, if_false]
    rw [Team.vr_vw _ _ _ _ _ _ (by omega) (by omega), if_neg]
    rintro ⟨rfl, rfl⟩; simp at h
  | true =>
    simp only [Team.vwr, if_true]
    rw [Team.vr_vw _ _ _ _ _ _ (by omega) (by omega), if_neg, Team.vr_vw _ _ _ _ _ _ (by omega) (by omega), if_neg]
    · rintro ⟨rfl, rfl⟩; simp at h
    · rintro ⟨rfl, rfl⟩; simp at h

theorem Team.vrd_vwr_self (T : Team) (wide : Bool) (d l x : Nat) (hd : d < 256) : (T.vwr wide d l x).vrd wide d l = laneBits wide x := by
  cases wide with
  | false => simp [Team.vwr, Team.vrd, laneBits, Team.vr_vw _ d d l l _ (by omega) (by omega)]
  | true =>
    have h1 : d < 512 := by omega
    have h2 : d + 1 < 512 := by omega
    have h3 : ∀ (U : Team) (y : W32), (U.vw (d + 1) l y).vr d l = U.vr d l := fun U y => by
      rw [Team.vr_vw _ _ _ _ _ _ h2 h1, if_neg]; rintro ⟨h, -⟩; omega
    simp only [Team.vwr, Team.vrd, laneBits, if_true, h3, Team.vr_vw _ d d l l _ h1 h1, Team.vr_vw _ (d + 1) (d + 1) l l _ h2 h2, and_self]
    simp only [BitVec.toNat_ofNat]
    omega

theorem Team.vwr_only (T : Team) (wide : Bool) (d l x : Nat) : T.vwr wide d l x = { T with v := (T.vwr wide d l x).v, vmarks := (T.vwr wide d l x).vmarks } := by
  cases wide <;> rfl

theorem Team.eachLane_only (ls : List Nat) (wide : Bool) (d : Nat) (f : Nat → Nat) (T : Team) :
    T.eachLane ls (fun U l => U.vwr wide d l (f l)) = { T with
      v := (T.eachLane ls (fun U l => U.vwr wide d l (f l))).v, vmarks := (T.eachLane ls (fun U l => U.vwr wide d l (f l))).vmarks } := by
  induction ls generalizing T with
  | nil => rfl
  | cons a r ih =>
    simp only [Team.eachLane, List.foldl_cons] at ih ⊢
    rw [ih (T.vwr wide d a (f a))]
    rw [Team.vwr_only]

theorem Team.vr_eachLane (ls : List Nat) (wide : Bool) (d : Nat) (f : Nat → Nat) (T : Team) (r l : Nat) (hd : d < 256) (hr : r < 256)
    (h : l ∉ ls ∨ (r ≠ d ∧ ¬(wide = true ∧ r = d + 1))) : (T.eachLane ls fun U l => U.vwr wide d l (f l)).vr r l = T.vr r l := by
  induction ls generalizing T with
  | nil => rfl
  | cons a q ih =>
    simp only [Team.eachLane, List.foldl_cons] at ih ⊢
    rw [ih]
    · exact Team.vr_vwr T wide d a (f a) r l hd hr (h.imp (fun h e => h (by simp [e])) id)
    · exact h.imp (fun h e => h (List.mem_cons_of_mem _ e)) id

theorem Team.vrd_eachLane (ls : List Nat) (wide : Bool) (d : Nat) (f : Nat → Nat) (T : Team) (l : Nat) (hd : d < 256) (hl : l ∈ ls) :
    (T.eachLane ls fun U l => U.vwr wide d l (f l)).vrd wide d l = laneBits wide (f l) := by
  induction ls generalizing T with
  | nil => simp at hl
  | cons a q ih =>
    simp only [Team.eachLane, List.foldl_cons] at ih ⊢
    by_cases hq : l ∈ q
    · exact ih _ hq
    · have hla : l = a := by simpa [hq] using hl
      subst hla
      have hv : ∀ r, r < 512 → (List.foldl (fun U l => U.vwr wide d l (f l)) (T.vwr wide d l (f l)) q).vr r l = (T.vwr wide d l (f l)).vr r l := by
        intro r hr
        generalize T.vwr wide d l (f l) = U
        clear ih hl
        induction q generalizing U with
        | nil => rfl
        | cons b p ih =>
          simp only [List.mem_cons, not_or] at hq
          rw [List.foldl_cons, ih hq.2]
          cases wide with
          | false =>
            simp only [Team.vwr, Bool.false_eq_true, if_false]
            rw [Team.vr_vw _ _ _ _ _ _ (by omega) hr, if_neg]; rintro ⟨-, e⟩; exact hq.1 e
          | true =>
            simp only [Team.vwr, if_true]
            rw [Team.vr_vw _ _ _ _ _ _ (by omega) hr, if_neg, Team.vr_vw _ _ _ _ _ _ (by omega) hr, if_neg]
            · rintro ⟨-, e⟩; exact hq.1 e
            · rintro ⟨-, e⟩; exact hq.1 e
      have := Team.vrd_vwr_self T wide d l (f l) hd
      cases wide with
      | false => simpa [Team.vrd, hv d (by omega)] using this
      | true => simpa [Team.vrd, hv d (by omega), hv (d + 1) (by omega)] using this

/-- A written lane is poisoned no more, every other mark stays (R432). -/
theorem Team.vmarks_vwr (T : Team) (wide : Bool) (d l x r l' : Nat) (hd : d < 256) (hr : r < 256) :
    vkey r l' ∈ (T.vwr wide d l x).vmarks ↔ vkey r l' ∈ T.vmarks ∧ (l' ≠ l ∨ (r ≠ d ∧ ¬(wide = true ∧ r = d + 1))) := by
  have hk : ∀ e < 512, vkey r l' = vkey e l ↔ r = e ∧ l' = l := by intro e he; simp only [vkey]; omega
  cases wide with
  | false => simp [Team.vwr, Team.vw, hk d (by omega)]; tauto
  | true => simp [Team.vwr, Team.vw, hk d (by omega), hk (d + 1) (by omega)]; tauto

theorem Team.vmarks_eachLane (ls : List Nat) (wide : Bool) (d : Nat) (f : Nat → Nat) (T : Team) (r l : Nat) (hd : d < 256) (hr : r < 256) :
    vkey r l ∈ (T.eachLane ls fun U l => U.vwr wide d l (f l)).vmarks ↔
      vkey r l ∈ T.vmarks ∧ (l ∉ ls ∨ (r ≠ d ∧ ¬(wide = true ∧ r = d + 1))) := by
  induction ls generalizing T with
  | nil => simp [Team.eachLane]
  | cons a q ih =>
    simp only [Team.eachLane, List.foldl_cons] at ih ⊢
    rw [ih, Team.vmarks_vwr T wide d a (f a) r l hd hr, List.mem_cons]
    tauto

/-- A fixed-latency vector word that writes lanes of one register or pair. -/
theorem vec_wrote {s : State} {i : Instr} {k : Nat} {T : Team} (h : TeamIssuing s i k T) (len : Nat) (lim : Team → Bool) (hl : lim T = true)
    (g : Nat) (wide : Bool) (d : Nat) (hd : d < 256) (f : Team → Nat → Nat) :
    ∃ t, vec s i len lim (fun T => T.eachLane (T.active g) fun U l => U.vwr wide d l (f T l)) = .next t ∧
      WroteV s t k T (T.active g) wide d (f T) 0 len := by
  have hgo : s.teamLim lim (.team k) = true := by simp [State.teamLim, h.team, hl]
  refine ⟨_, issue_go h.issuing hgo, (T.eachLane (T.active g) fun U l => U.vwr wide d l (f T l)).adv len, ?_, ?_, ?_, ?_, ?_, ?_, ?_⟩
  · simp [State.onTeam, h.team]
  · simp [State.onTeam, h.team]
  · intro l hl
    exact Team.vrd_eachLane _ wide d (f T) T l hd hl
  · intro r l hr hx
    exact Team.vr_eachLane _ wide d (f T) T r l hd hr hx
  · intro r l hr
    exact Team.vmarks_eachLane _ wide d (f T) T r l hd hr
  · rw [Team.eachLane_only]
    simp only [Team.adv, Thread.adv]
    congr 1
    simp
  · exact sameMem_of_mem (by simp)

/-- A fixed-latency uniform word that writes one register. -/
theorem uni_wrote {s : State} {i : Instr} {a : Agent} {th : Thread} (h : Issuing s i a th) (d : Nat) (v : Thread → W64) (len : Nat) :
    ∃ t, uni s i len (fun th => th.wr d (v th)) = .next t ∧ WroteS s t a th d (v th) len := by
  refine ⟨_, issue_go h rfl, (th.wr d (v th)).adv len, ?_, ?_, ?_, ?_, ?_, ?_, ?_⟩
  · exact State.onThread_some s a _ h.thread
  · rw [State.onThread_some s a _ h.thread, State.thread?_setThread _ _ _ _ (by simp [h.thread])]; simp
  · simp
  · intro r hr; simp [Thread.rd_wr, hr]
  · intro w; simp [Thread.adv, Thread.wr]
  · simp [Thread.adv, Thread.wr]
  · exact sameMem_of_mem (by simp)

/-- Work queued for later. -/
theorem later_queued {s : State} {a : Agent} {th : Thread} (h : s.thread? a = some th) (len : Nat) (paths : List Path) (w : Work) :
    Queued s (s.later a len paths w) a th len paths w := by
  refine ⟨?_, sameMem_of_mem (by simp)⟩
  simp only [State.later, State.onThread_some _ _ _ h]
  cases a with
  | team t => cases hT : s.team? t <;> simp [State.setThread, hT, State.fresh, State.setTeam, Thread.push, Thread.adv]
  | gen g => cases hG : s.gen? g <;> simp [State.setThread, hG, State.fresh, State.setGen, Thread.push, Thread.adv]
  | queue c => simp [State.thread?] at h

/-- A variable-latency vector word queues its results. -/
theorem vecLater_queued {s : State} {i : Instr} {k : Nat} {T : Team} (h : TeamIssuing s i k T) (len : Nat) (lim : Team → Bool) (hl : lim T = true)
    (f : Team → List RegWrite × Flg) :
    ∃ t, vecLater s i len lim f = .next t ∧ Queued s t (.team k) T.th len [] (.result (f T).1 (f T).2) := by
  have hgo : s.teamLim lim (.team k) = true := by simp [State.teamLim, h.team, hl]
  refine ⟨_, issue_go h.issuing hgo, ?_⟩
  simp only [h.team]
  exact later_queued h.issuing.thread _ _ _

end Sys2Proof.Machine
end

