-- ==== Sys2Proof/Tests/Slice0.lean ====
section
/-! SUPPORT. Tests: an ill-formed term for every check of `Instr.wf`, decodings of words written out from the encoding
tables, single steps with results worked out by hand from the manual, and for every obligation a state that meets its
hypotheses. -/

namespace Sys2Proof.Tests

set_option Elab.async false

open Sys2Proof.Machine

/-! ### Ill-formed terms (R72 steps 6 and 7) -/

theorem test_wf_uniform :
    ([.add ⟨false, 0, 160, 0, .reg 0⟩, .sub ⟨false, 0, 0, 160, .reg 0⟩, .mul ⟨false, 0, 0, 0, .reg 255⟩, .popc ⟨false, 0, 160, 0⟩,
      .rotl ⟨false, 3, 0, 0, .imm32 1⟩, .abs ⟨false, 3, 0, 0, false⟩, .abs ⟨false, 7, 0, 160, false⟩,
      .bfx ⟨false, 0, 0, 0, 0, 0⟩, .bfx ⟨false, 0, 0, 0, 8, 1⟩, .bfx ⟨false, 3, 0, 0, 65, 0⟩, .bfi ⟨false, 3, 0, 0, 0, 1, 64⟩,
      .bfi ⟨false, 3, 0, 0, 160, 1, 0⟩, .cmp ⟨false, 6, 0, 0, 0, .reg 0⟩, .sel ⟨false, 0, 0, 0, 160, .reg 0⟩, .mov ⟨false, 0, 0, .reg 160⟩,
      .movi ⟨false, 160, .i11 0⟩, .lea ⟨false, 0, 160, .i11 0⟩, .leaPc ⟨false, 160, .i11 0⟩] : List Instr).all
      (fun i => !i.wf) = true := by decide

theorem test_wf_control :
    ([.bz ⟨false, 160, .i11 0⟩, .bc ⟨false, 7, 0, 0, 0, .i11 0⟩, .bc ⟨false, 0, 0, 0, 160, .i11 0⟩, .call ⟨false, 160, .i11 0⟩,
      .ret ⟨false, 160⟩, .ballot ⟨false, 7, 160, 0⟩, .mpop ⟨false, 0, 160⟩, .barArrive ⟨false, 0, 0⟩, .nop ⟨false, 3⟩,
      .hint ⟨0, 0, 0x1F7, 7, 0, 0, 0, 0, 0, 0, 0⟩, .hint ⟨3, 0, 0x1FF, 7, 0, 0, 0, 0, 0, 0, 0⟩, .hint ⟨0, 0, 0x1FF, 7, 0, 0, 0, 0, 0, 0, 1⟩,
      .hint ⟨1, 0, 0x1FF, 7, 0, 0, 0, 0, 0, 0, 0x100000000⟩] : List Instr).all (fun i => !i.wf) = true := by decide

theorem test_wf_vector :
    ([.vadd ⟨false, 7, 3, false, 1, 0, .reg 0⟩, .vadd ⟨false, 7, 3, false, 0, 1, .reg 0⟩, .vadd ⟨false, 7, 3, false, 0, 0, .reg 1⟩,
      .vadd ⟨false, 7, 0, false, 0, 0, .imm 256⟩, .vadd ⟨false, 7, 4, false, 0, 0, .imm 128⟩, .vand ⟨false, 7, 0, true, 0, 0, .reg 0⟩,
      .vshr ⟨false, 7, 0, true, 0, 0, .reg 0⟩, .vmad ⟨false, 7, 3, false, 0, 0, .reg 0, 1⟩, .vabs ⟨false, 7, 2, false, 0, 0, false⟩,
      .vnot ⟨false, 7, 2, true, 0, 0, false⟩, .vrotl ⟨false, 7, 3, 1, 0, 0⟩, .vpopc ⟨false, 7, 3, 0, 1⟩, .vbrev ⟨false, 7, 3, 1, 0⟩,
      .vbfx ⟨false, 7, 0, 0, 0, 9, 0⟩, .vbfi ⟨false, 7, 3, 0, 0, 1, 1, 0⟩, .vcmp ⟨false, 7, 6, 0, 0, 0, 0⟩, .vsel ⟨false, 7, 3, 0, 0, 1, 0⟩,
      .vmov ⟨false, 7, 1, 0, .imm 65536⟩, .vbcast ⟨false, 7, 0, 0, 160⟩, .vlane ⟨false, 7, 7, 1⟩] : List Instr).all
      (fun i => !i.wf) = true := by decide

theorem test_wf_lanes :
    ([.vcvt ⟨false, 7, 0, 0, 4, false, 0, 0⟩, .vcvt ⟨false, 7, 3, 0, 0, false, 1, 0⟩, .vsat ⟨false, 7, 0, 0, 0, true, 0, 0⟩,
      .vshfl ⟨false, 7, 1, 0, 0, 0, .i11 0⟩, .vrot ⟨false, 7, 0, 0, 0, .i11 0⟩, .vred ⟨false, 7, 5, 4, 0, 0⟩, .vred ⟨false, 7, 0, 0, 160, 0⟩,
      .vredx ⟨false, 7, 0, 2, 0, 0, 1⟩, .vredx ⟨false, 7, 1, 2, 3, 0, 3⟩, .vscan ⟨false, 7, 6, 1, 0, 0⟩, .vscan ⟨false, 7, 0, 1, 0, 0⟩,
      .vextract ⟨false, 0, 0, 0, .i11 0⟩, .vinsert ⟨false, 3, 1, 0, .i11 0⟩, .vmatch ⟨false, 7, 1, 0, 0, false⟩] : List Instr).all
      (fun i => !i.wf) = true := by decide

theorem test_wf_float :
    ([.vfadd ⟨false, 7, 4, 0, false, 0, 0, 0⟩, .vfsub ⟨false, 7, 1, 3, false, 0, 0, 0⟩, .vfmul ⟨false, 7, 0, 0, false, 0, 0, 1⟩,
      .vfmin ⟨false, 7, 1, 4, false, 0, 0, 0⟩, .vfmax ⟨false, 7, 1, 0, true, 0, 0, 0⟩, .vffma ⟨false, 7, 0, 0, false, 0, 0, 0, 1⟩,
      .vfsqrt ⟨false, 7, 1, 0, true, 0, 0⟩, .vfrcp ⟨false, 7, 1, 4, false, 0, 0⟩, .vfrsq ⟨false, 7, 1, 0, true, 0, 0⟩,
      .vfex2 ⟨false, 7, 2, 0, false, 0, 0⟩, .vflg2 ⟨false, 7, 1, 0, true, 0, 0⟩, .vfsin ⟨false, 7, 0, 0, false, 0, 0⟩,
      .vfclass ⟨false, 7, 0, 0, false, 0, 1⟩, .vfscale ⟨false, 7, 1, 2, false, 0, 0, 0⟩, .vfrnd ⟨false, 7, 5, 0, false, 0, 0⟩,
      .vfcmp ⟨false, 7, 0, 4, 0, 0, 0⟩, .vfcvt ⟨false, 7, 6, 1, 0, false, 0, 0⟩, .vfi ⟨false, 7, 0, 1, 0, true, 0, 0⟩,
      .vif ⟨false, 7, 4, 0, 0, false, 0, 0⟩, .fadd ⟨false, 2, 0, false, 0, 0, 0⟩, .ffma ⟨false, 0, 0, false, 0, 0, 0, 160⟩,
      .fcvt ⟨false, 3, 0, 0, 0, false, 0, 0⟩, .fcvt ⟨false, 0, 6, 0, 0, false, 0, 0⟩, .fcvt ⟨false, 1, 0, 1, 0, true, 0, 0⟩] : List Instr).all
      (fun i => !i.wf) = true := by decide

theorem test_wf_narrow :
    ([.vdot2 ⟨false, 7, 4, false, 0, 0, 0, 0, 0, 0, 0, 0⟩, .vdot2 ⟨false, 7, 2, false, 2, 0, 0, 0, 0, 0, 0, 0⟩,
      .vdot4 ⟨false, 7, 4, false, 0, 1, 0, 0, 0, 0, 0, 0⟩, .vdot4 ⟨false, 7, 4, false, 0, 0, 1, 0, 0, 0, 0, 0⟩,
      .vdot4 ⟨false, 7, 4, true, 0, 0, 3, 32, 0, 0, 0, 0⟩, .vdotds ⟨false, 7, 6, false, 0, 0, 0, 0, 0, 0, 1, 0⟩,
      .vcvtds ⟨false, 7, 6, 0, 0, 0⟩, .vcvtds ⟨false, 7, 0, 0, 1, 0⟩, .vbpdot ⟨false, 7, true, 2, 1, 0, 0, 0⟩,
      .vbpdot ⟨false, 7, true, 0, 0, 0, 0, 160⟩, .vbpsel ⟨false, 7, 0, 1, 0, 0⟩] : List Instr).all (fun i => !i.wf) = true := by decide

theorem test_wf_memory :
    ([.ld ⟨false, 0, 2, false, 0, 0, 0, .d8 0⟩, .ld ⟨false, 1, 0, false, 0, 0, 0, .d8 0⟩, .ld ⟨false, 6, 1, false, 0, 0, 0, .d8 0⟩,
      .ld ⟨false, 0, 0, true, 3, 0, 0, .d8 0⟩, .st ⟨false, 0, 1, 0, 0, 0, .d8 0⟩, .vld ⟨false, 7, 0, 0, true, 2, 0, 0, .d8 0⟩,
      .vld ⟨false, 7, 0, 0, false, 0, 0, 1, .d8 0⟩, .vst ⟨false, 7, 0, 0, 3, 0, 1, .d8 0⟩, .vprefetch ⟨false, 7, 1, .d8 0⟩,
      .atom ⟨false, 0, 0, 7, false, 2, 0, 0, 0, .none⟩, .atom ⟨false, 0, 0, 0, false, 1, 0, 0, 0, .none⟩,
      .atom ⟨false, 0, 0, 0, true, 2, 0, 0, 0, .none⟩, .cas ⟨false, 0, 0, 1, 0, 0, 0, 0, .none⟩, .vatom ⟨false, 7, 0, 0, 0x10, false, 2, 0, 0, 0, .none⟩,
      .vfatom ⟨false, 7, 0, 0, 0, false, 2, 0, 0, 0, .none⟩, .vcas ⟨false, 7, 0, 0, 3, 0, 0, 0, 1, .none⟩,
      .vscadd ⟨false, 7, 0, 1, 0, 2, 0, 0, .none⟩, .vscadd ⟨false, 7, 0, 0, 4, 2, 0, 0, .none⟩, .vbin ⟨false, 7, 0, 4, 0, 0, 0, .none⟩,
      .fence ⟨false, 0, 0⟩, .fence ⟨false, 6, 1⟩, .cinv ⟨false, 1, 0, .d8 0⟩, .marm ⟨false, 0, 2, false, 0, 0, 0, .d8 0⟩,
      .mwait ⟨false, 160, 0⟩, .waitc ⟨false, 5, 0⟩] : List Instr).all (fun i => !i.wf) = true := by decide

theorem test_wf_engine :
    ([.balloc ⟨false, 160, 0⟩, .give ⟨false, 160, 0, 0, 0⟩, .bshare ⟨false, 0, 0, 0⟩, .kick ⟨false, 160, 0⟩, .copy ⟨32, 0⟩, .binit ⟨4, 0⟩,
      .tdset ⟨false, 0, 160, .d8 0⟩, .tdsetQueue ⟨0, 8⟩, .mma ⟨7, 0, 0, 0, ⟨0, false, 0, false, 0, false, 0, 0, 0, 0, 0, 0, 0⟩⟩,
      .mma ⟨0, 0, 0, 0, ⟨1, false, 0, false, 0, false, 0, 0, 0, 0, 0, 0, 0⟩⟩, .mma ⟨0, 0, 0, 0, ⟨0, false, 0, false, 0, false, 0, 0, 1, 0, 0, 0, 0⟩⟩,
      .mmas ⟨1, 0, 0, 0, ⟨0, false, 0, false, 0, false, 0, 0, 0, 0, 0, 0, 0⟩⟩, .mmag ⟨2, 0, 0, 0, ⟨0, false, 0, false, 0, false, 0, 0, 0, 1, 0, 0, 0⟩⟩,
      .mmag ⟨2, 0, 0, 0, ⟨0, false, 0, false, 0, false, 0, 0, 0, 0, 0, 0, 1⟩⟩, .accld ⟨2, 0, 0, 0, none⟩, .accst ⟨0, 2, 0, 0, none⟩,
      .acczero ⟨2, 0, none⟩, .acczero ⟨0, 0, some ⟨0, false, 0, false, 0, true, 0, 0, 0, 0, 0, 0, 0⟩⟩, .wwin ⟨0⟩, .wwin ⟨256⟩,
      .wload ⟨0, none, some (1, 255)⟩, .wlaunch ⟨0, none, true, 1⟩, .wcapture ⟨0, none, false, 65284⟩] : List Instr).all
      (fun i => !i.wf) = true := by decide

theorem test_wf_system :
    ([.eseg ⟨false, 0, 0, 0, 32⟩, .eseg ⟨false, 0, 1, 0, 33⟩, .eseg ⟨false, 0, 1, 0, 196640⟩, .emit ⟨false, 160⟩, .emitRegs ⟨false, 159, 12⟩,
      .emitRegs ⟨false, 0, 10⟩, .emitm ⟨false, 0, 4⟩, .emitq ⟨false, 160, 0⟩, .emitqMulti ⟨false, 0, 0, 8⟩, .emitqMulti ⟨false, 0, 1, 4100⟩,
      .epatch ⟨false, 0, 0, 0, 2⟩, .eseal ⟨false, 160⟩, .tgo ⟨false, 0, 0, 153, 0, 0⟩, .tgo ⟨false, 0, 0, 0, 0, 2⟩, .eprov ⟨false, 0, 160⟩,
      .estat ⟨false, 160, 0⟩, .spawn ⟨false, 0, 153, 0⟩, .dlaunch ⟨false, 160, 0, 0⟩, .svc ⟨false, 7, 0, 0, 0, 5⟩, .svc ⟨false, 7, 0, 1, 0, 0⟩,
      .svc ⟨false, 7, 0, 0, 2, 0⟩, .getsr ⟨false, 160, 0⟩, .setsr ⟨false, 160, 8⟩, .vgrow ⟨false, 0, 0⟩, .vshrink ⟨false, 0, 32⟩] : List Instr).all
      (fun i => !i.wf) = true := by decide

/-! ### Words written out from the encoding tables (R55 to R67, R75 to R88) -/

theorem test_decode_uniform_1 :
    [decodeTableWord 64 0x3800302857000,
     decodeTableWord 64 0x380030285F008,
     decodeTableWord 64 0x3800302867010,
     decodeTableWord 64 0x380030286F018,
     decodeTableWord 64 0x3800302877020,
     decodeTableWord 64 0x380030287F028,
     decodeTableWord 64 0x280000404F030,
     decodeTableWord 64 0xFFE10000004FE03C,
     decodeTableWord 96 0x80000001000000000100E041,
     decodeTableWord 64 0x7E180000A026048,
     decodeTableWord 64 0x7E180000A826050,
     decodeTableWord 64 0x7E180000B026058]
      = [some (.add ⟨false, 7, 10, 5, .reg 6⟩),
         some (.sub ⟨false, 7, 11, 5, .reg 6⟩),
         some (.mul ⟨false, 7, 12, 5, .reg 6⟩),
         some (.mulh ⟨false, 7, 13, 5, .reg 6⟩),
         some (.div ⟨false, 7, 14, 5, .reg 6⟩),
         some (.rem ⟨false, 7, 15, 5, .reg 6⟩),
         some (.abs ⟨false, 5, 9, 8, false⟩),
         some (.min ⟨true, 2, 159, 0, .imm11 0x7FF⟩),
         some (.max ⟨false, 0, 1, 2, .imm32 0x80000001⟩),
         some (.and ⟨false, 3, 4, 20, .imm11 63⟩),
         some (.or ⟨false, 3, 4, 21, .imm11 63⟩),
         some (.xor ⟨false, 3, 4, 22, .imm11 63⟩)] := by
  decide +kernel

theorem test_decode_uniform_2 :
    [decodeTableWord 64 0x7E180000B826060,
     decodeTableWord 64 0x7E180000C026068,
     decodeTableWord 64 0x7E180000C826070,
     decodeTableWord 64 0x7E180000D026078,
     decodeTableWord 64 0x800302827080,
     decodeTableWord 64 0x3000002827088,
     decodeTableWord 64 0x3000002827090,
     decodeTableWord 64 0x3000002827098,
     decodeTableWord 64 0x30000028270A0,
     decodeTableWord 64 0x1A000028270A8,
     decodeTableWord 64 0x3E10083028270B0,
     decodeTableWord 64 0x178003028270B8]
      = [some (.andn ⟨false, 3, 4, 23, .imm11 63⟩),
         some (.shl ⟨false, 3, 4, 24, .imm11 63⟩),
         some (.shr ⟨false, 3, 4, 25, .imm11 63⟩),
         some (.sar ⟨false, 3, 4, 26, .imm11 63⟩),
         some (.rotl ⟨false, 1, 4, 5, .reg 6⟩),
         some (.popc ⟨false, 6, 4, 5⟩),
         some (.clz ⟨false, 6, 4, 5⟩),
         some (.ctz ⟨false, 6, 4, 5⟩),
         some (.brev ⟨false, 6, 4, 5⟩),
         some (.bfx ⟨false, 3, 4, 5, 64, 0⟩),
         some (.bfi ⟨false, 2, 4, 5, 6, 1, 31⟩),
         some (.cmp ⟨false, 5, 7, 4, 5, .reg 6⟩)] := by
  decide +kernel

theorem test_decode_uniform_3 :
    [decodeTableWord 64 0x18383028270C0,
     decodeTableWord 64 0x18003000270C8,
     decodeTableWord 128 0xFEDCBA987654321000000000000270D2,
     decodeTableWord 64 0x80000000028270D8,
     decodeTableWord 96 0xFFFFFFF800008000000270D9]
      = [some (.sel ⟨false, 3, 4, 5, 7, .reg 6⟩),
         some (.mov ⟨false, 3, 4, .reg 6⟩),
         some (.movi ⟨false, 4, .i64 0xFEDCBA9876543210⟩),
         some (.lea ⟨false, 4, 5, .i11 0x400⟩),
         some (.leaPc ⟨false, 4, .i32 0xFFFFFFF8⟩)] := by
  decide +kernel

theorem test_decode_control_1 :
    [decodeTableWord 64 0xFFC0000000007200,
     decodeTableWord 64 0x40000002807208,
     decodeTableWord 96 0x1000000000002807211,
     decodeTableWord 64 0x4F000482807218,
     decodeTableWord 64 0x400000000F7220,
     decodeTableWord 64 0xF007228,
     decodeTableWord 64 0xF807230,
     decodeTableWord 64 0xFF80000006007238,
     decodeTableWord 64 0x80000000007240,
     decodeTableWord 64 0x48007248,
     decodeTableWord 64 0xC6A250,
     decodeTableWord 64 0x80000346F250]
      = [some (.b ⟨false, .i11 0x7FE⟩),
         some (.bz ⟨false, 5, .i11 2⟩),
         some (.bnz ⟨false, 5, .i32 0x100⟩),
         some (.bc ⟨false, 3, 6, 5, 9, .i11 2⟩),
         some (.call ⟨false, 30, .i11 2⟩),
         some (.ret ⟨false, 30⟩),
         some (.jmp ⟨false, 31⟩),
         some (.loop ⟨false, 12, .i11 0x7FC⟩),
         some (.skipz ⟨false, .i11 4⟩),
         some (.setmask ⟨false, 144⟩),
         some (.ballot ⟨false, 2, 141, 1⟩),
         some (.ballotNz ⟨false, 7, 141, 6⟩)] := by
  decide +kernel

theorem test_decode_control_2 :
    [decodeTableWord 64 0x48027258,
     decodeTableWord 64 0x48027260,
     decodeTableWord 64 0x1001807268,
     decodeTableWord 64 0x807F87807268,
     decodeTableWord 64 0x100008000726C,
     decodeTableWord 64 0x7270,
     decodeTableWord 64 0x727C,
     decodeTableWord 128 0x7282]
      = [some (.mpop ⟨false, 4, 144⟩),
         some (.mffs ⟨false, 4, 144⟩),
         some (.barArrive ⟨false, 3, 32⟩),
         some (.barWait ⟨false, 15, 255⟩),
         some (.barSync ⟨true, 0, 1⟩),
         some (.yield ⟨false⟩),
         some (.exit ⟨true⟩),
         some (.nop ⟨false, 2⟩)] := by
  decide +kernel

theorem test_decode_vector_1 :
    [decodeTableWord 64 0x103000181027400,
     decodeTableWord 64 0x103000181027408,
     decodeTableWord 64 0x103000181027410,
     decodeTableWord 64 0x3000181027418,
     decodeTableWord 64 0x3000181027430,
     decodeTableWord 64 0x3000181027438,
     decodeTableWord 64 0x3000181027440,
     decodeTableWord 64 0x3000181027448,
     decodeTableWord 64 0x3000181027450,
     decodeTableWord 64 0x3000181027458,
     decodeTableWord 64 0x1028181020420,
     decodeTableWord 64 0x102000001027428]
      = [some (.vadd ⟨false, 7, 6, true, 4, 2, .reg 3⟩),
         some (.vsub ⟨false, 7, 6, true, 4, 2, .reg 3⟩),
         some (.vmul ⟨false, 7, 6, true, 4, 2, .reg 3⟩),
         some (.vmulh ⟨false, 7, 6, false, 4, 2, .reg 3⟩),
         some (.vmin ⟨false, 7, 6, false, 4, 2, .reg 3⟩),
         some (.vmax ⟨false, 7, 6, false, 4, 2, .reg 3⟩),
         some (.vand ⟨false, 7, 6, false, 4, 2, .reg 3⟩),
         some (.vor ⟨false, 7, 6, false, 4, 2, .reg 3⟩),
         some (.vxor ⟨false, 7, 6, false, 4, 2, .reg 3⟩),
         some (.vandn ⟨false, 7, 6, false, 4, 2, .reg 3⟩),
         some (.vmad ⟨false, 0, 2, false, 4, 2, .reg 3, 5⟩),
         some (.vabs ⟨false, 7, 4, true, 4, 2, false⟩)] := by
  decide +kernel

theorem test_decode_vector_2 :
    [decodeTableWord 96 0x1027461,
     decodeTableWord 96 0x1F0001000001027469,
     decodeTableWord 96 0x1F0001000001027471,
     decodeTableWord 96 0x1F0001000001027479,
     decodeTableWord 64 0x1800381027480,
     decodeTableWord 64 0x18000050CF488,
     decodeTableWord 64 0x18000050CF490,
     decodeTableWord 64 0x18000050CF498,
     decodeTableWord 64 0x18000050C74A0,
     decodeTableWord 64 0x3630280010274A8,
     decodeTableWord 64 0x1608281810274B0,
     decodeTableWord 64 0xB00018100F4B8]
      = [some (.vnot ⟨false, 7, 0, false, 4, 2, true⟩),
         some (.vshl ⟨false, 7, 2, false, 4, 2, .imm 31⟩),
         some (.vshr ⟨false, 7, 2, false, 4, 2, .imm 31⟩),
         some (.vsar ⟨false, 7, 2, false, 4, 2, .imm 31⟩),
         some (.vrotl ⟨false, 7, 3, 4, 2, 7⟩),
         some (.vpopc ⟨false, 7, 3, 25, 10⟩),
         some (.vclz ⟨false, 7, 3, 25, 10⟩),
         some (.vctz ⟨false, 7, 3, 25, 10⟩),
         some (.vbrev ⟨false, 7, 3, 24, 10⟩),
         some (.vbfx ⟨false, 7, 6, 4, 2, 5, 27⟩),
         some (.vbfi ⟨false, 7, 1, 4, 2, 3, 5, 11⟩),
         some (.vcmp ⟨false, 7, 2, 6, 1, 2, 3⟩)] := by
  decide +kernel

theorem test_decode_vector_3 :
    [decodeTableWord 64 0x10081810274C0,
     decodeTableWord 96 0xFFFFFFFF00010000000274C9,
     decodeTableWord 64 0x180000A0274D0,
     decodeTableWord 64 0x10000000274D8,
     decodeTableWord 64 0x1030000010274E0,
     decodeTableWord 64 0x130000010274E8,
     decodeTableWord 64 0xFFE1000181027500,
     decodeTableWord 64 0x21000001027508,
     decodeTableWord 64 0x1000002057510,
     decodeTableWord 64 0x7058002057518,
     decodeTableWord 64 0x14800002057520,
     decodeTableWord 64 0x3E1000002057528]
      = [some (.vsel ⟨false, 7, 2, 4, 2, 3, 1⟩),
         some (.vmov ⟨false, 7, 2, 4, .imm 0xFFFFFFFF⟩),
         some (.vbcast ⟨false, 7, 3, 4, 20⟩),
         some (.vlane ⟨false, 7, 2, 4⟩),
         some (.vcvt ⟨false, 7, 0, 6, 0, true, 4, 2⟩),
         some (.vsat ⟨false, 7, 4, 6, 0, false, 4, 2⟩),
         some (.vshfl ⟨false, 7, 2, 4, 2, 3, .i11 0x7FF⟩),
         some (.vrot ⟨false, 7, 2, 4, 2, .i11 1⟩),
         some (.vred ⟨false, 7, 0, 2, 10, 4⟩),
         some (.vredx ⟨false, 7, 1, 6, 10, 4, 11⟩),
         some (.vscan ⟨false, 7, 5, 1, 10, 4⟩),
         some (.vextract ⟨false, 2, 10, 4, .i11 31⟩)] := by
  decide +kernel

theorem test_decode_vector_4 :
    [decodeTableWord 64 0x1000005027530,
     decodeTableWord 64 0x1000005027538]
      = [some (.vinsert ⟨false, 2, 4, 10, .i11 0⟩),
         some (.vmatch ⟨false, 7, 2, 4, 10, false⟩)] := by
  decide +kernel

theorem test_decode_float_1 :
    [decodeTableWord 64 0x1A0800181027600,
     decodeTableWord 64 0x1A0800181027608,
     decodeTableWord 64 0x1A0800181027610,
     decodeTableWord 64 0x1A0800181027650,
     decodeTableWord 64 0x1828181027618,
     decodeTableWord 64 0x1000181027620,
     decodeTableWord 64 0x1000181027628,
     decodeTableWord 64 0x18000302017630,
     decodeTableWord 64 0x100800001027638,
     decodeTableWord 64 0x800001027640,
     decodeTableWord 64 0xE0000001027648,
     decodeTableWord 64 0x800001027658]
      = [some (.vfadd ⟨false, 7, 1, 5, true, 4, 2, 3⟩),
         some (.vfsub ⟨false, 7, 1, 5, true, 4, 2, 3⟩),
         some (.vfmul ⟨false, 7, 1, 5, true, 4, 2, 3⟩),
         some (.vfdiv ⟨false, 7, 1, 5, true, 4, 2, 3⟩),
         some (.vffma ⟨false, 7, 3, 0, false, 4, 2, 3, 5⟩),
         some (.vfmin ⟨false, 7, 2, 0, false, 4, 2, 3⟩),
         some (.vfmax ⟨false, 7, 2, 0, false, 4, 2, 3⟩),
         some (.vfcmp ⟨false, 7, 6, 0, 2, 4, 6⟩),
         some (.vfrcp ⟨false, 7, 1, 0, true, 4, 2⟩),
         some (.vfrsq ⟨false, 7, 1, 0, false, 4, 2⟩),
         some (.vfsqrt ⟨false, 7, 0, 7, false, 4, 2⟩),
         some (.vfex2 ⟨false, 7, 1, 0, false, 4, 2⟩)] := by
  decide +kernel

theorem test_decode_float_2 :
    [decodeTableWord 64 0x800001027660,
     decodeTableWord 64 0x800001027668,
     decodeTableWord 64 0x800001027670,
     decodeTableWord 64 0x90800001027678,
     decodeTableWord 64 0xB8800002037680,
     decodeTableWord 64 0x7800002037688,
     decodeTableWord 64 0x800001027690,
     decodeTableWord 64 0x1C0800181027698,
     decodeTableWord 64 0x810000010276A0,
     decodeTableWord 64 0x80800181027700,
     decodeTableWord 64 0x100000181027708,
     decodeTableWord 64 0x28181027710]
      = [some (.vflg2 ⟨false, 7, 1, 0, false, 4, 2⟩),
         some (.vfsin ⟨false, 7, 1, 0, false, 4, 2⟩),
         some (.vfcos ⟨false, 7, 1, 0, false, 4, 2⟩),
         some (.vfcvt ⟨false, 7, 4, 1, 4, false, 4, 2⟩),
         some (.vfi ⟨false, 7, 6, 1, 5, false, 6, 4⟩),
         some (.vif ⟨false, 7, 1, 7, 0, false, 6, 4⟩),
         some (.vfclass ⟨false, 7, 1, 0, false, 4, 2⟩),
         some (.vfscale ⟨false, 7, 1, 6, true, 4, 2, 3⟩),
         some (.vfrnd ⟨false, 7, 2, 4, false, 4, 2⟩),
         some (.fadd ⟨false, 1, 4, false, 4, 2, 3⟩),
         some (.fmul ⟨false, 0, 0, true, 4, 2, 3⟩),
         some (.ffma ⟨false, 0, 0, false, 4, 2, 3, 5⟩)] := by
  decide +kernel

theorem test_decode_float_3 :
    [decodeTableWord 64 0xBC808001027718]
      = [some (.fcvt ⟨false, 1, 7, 1, 5, false, 4, 2⟩)] := by
  decide +kernel

theorem test_decode_narrow :
    [decodeTableWord 64 0x5000181047800,
     decodeTableWord 64 0x14BE048181047808,
     decodeTableWord 64 0x400B000201047810,
     decodeTableWord 64 0x18800181047818,
     decodeTableWord 64 0x11800001047820,
     decodeTableWord 64 0x800001047828,
     decodeTableWord 64 0x108001840A7830,
     decodeTableWord 64 0x1000188047838]
      = [some (.vdot2 ⟨false, 7, 2, false, 1, 0, 0, 0, 8, 2, 3, 0⟩),
         some (.vdot4 ⟨false, 7, 4, true, 3, 0, 1, 37, 8, 2, 3, 9⟩),
         some (.vdotds ⟨false, 7, 6, false, 2, 1, 0, 0, 8, 2, 4, 0⟩),
         some (.vcvtds ⟨false, 7, 1, 8, 2, 3⟩),
         some (.vbpl ⟨false, 7, true, 3, 8, 2⟩),
         some (.vbpu ⟨false, 7, false, 1, 8, 2⟩),
         some (.vbpdot ⟨false, 7, true, 0, 1, 20, 8, 3⟩),
         some (.vbpsel ⟨false, 7, 2, 8, 16, 3⟩)] := by
  decide +kernel

theorem test_decode_memory_1 :
    [decodeTableWord 96 0x5000050800004037A01,
     decodeTableWord 64 0x49000606807A08,
     decodeTableWord 64 0xFFA0000004023A10,
     decodeTableWord 64 0x60000A08007A1C,
     decodeTableWord 64 0x400000004007A20,
     decodeTableWord 64 0x5F1800484037A28,
     decodeTableWord 96 0x80040050484037A31,
     decodeTableWord 64 0x40000484027A38,
     decodeTableWord 64 0x60060504027A40,
     decodeTableWord 64 0x1040000301047A48,
     decodeTableWord 64 0x1040000301007A50,
     decodeTableWord 64 0x40000406067A58]
      = [some (.ld ⟨false, 4, 1, false, 2, 6, 8, .d32 0x500⟩),
         some (.st ⟨false, 2, 2, 2, 13, 12, .d8 0⟩),
         some (.vld ⟨false, 3, 0, 0, true, 1, 4, 8, .d8 0xFF⟩),
         some (.vst ⟨true, 7, 0, 0, 3, 16, 20, .d8 0⟩),
         some (.vprefetch ⟨false, 7, 8, .d8 4⟩),
         some (.atom ⟨false, 4, 3, 5, true, 3, 6, 8, 9, .none⟩),
         some (.cas ⟨false, 0, 0, 2, 6, 8, 9, 10, .d32 8⟩),
         some (.vatom ⟨false, 7, 0, 0, 0, false, 2, 4, 8, 9, .none⟩),
         some (.vcas ⟨false, 7, 0, 0, 3, 4, 8, 10, 12, .none⟩),
         some (.vfatom ⟨false, 7, 0, 0, 0x10, false, 2, 8, 2, 6, .none⟩),
         some (.vscadd ⟨false, 7, 0, 0, 0x10, 2, 2, 6, .none⟩),
         some (.vbin ⟨false, 7, 0, 0, 12, 12, 8, .none⟩)] := by
  decide +kernel

theorem test_decode_memory_2 :
    [decodeTableWord 64 0x16000000007A60,
     decodeTableWord 64 0x8000004007A68,
     decodeTableWord 64 0x114000004007A70,
     decodeTableWord 64 0x60000004037A78,
     decodeTableWord 64 0x4037A80,
     decodeTableWord 64 0x2000004007A88]
      = [some (.fence ⟨false, 5, 4⟩),
         some (.cinv ⟨false, 2, 8, .d8 0⟩),
         some (.cwb ⟨false, 5, 8, .d8 1⟩),
         some (.marm ⟨false, 0, 0, false, 3, 6, 8, .d8 0⟩),
         some (.mwait ⟨false, 6, 8⟩),
         some (.waitc ⟨false, 4, 8⟩)] := by
  decide +kernel

theorem test_decode_engine_1 :
    [decodeTableWord 64 0x7837C00,
     decodeTableWord 64 0x837C08,
     decodeTableWord 64 0x2810CFC14,
     decodeTableWord 64 0x1837C18,
     decodeTableWord 64 0x800001837C18,
     decodeTableWord 64 0x100097C20,
     decodeTableWord 64 0x1837C28,
     decodeTableWord 64 0x1837C30,
     decodeTableWord 64 0x383007C40,
     decodeTableWord 128 0x3FF0003FFC00000000000007C4A,
     decodeTableWord 64 0x3837C50,
     decodeTableWord 128 0x10008123456780000000000007C5A]
      = [some (.balloc ⟨false, 6, 15⟩),
         some (.bfree ⟨false, 6, 1⟩),
         some (.give ⟨true, 25, 2, 5, 0⟩),
         some (.take ⟨false, 6, 3⟩),
         some (.takeTest ⟨false, 6, 3⟩),
         some (.bshare ⟨false, 18, 0, 0x02⟩),
         some (.bmap ⟨false, 6, 3⟩),
         some (.bzero ⟨false, 6, 3⟩),
         some (.kick ⟨false, 6, 7⟩),
         some (.copy ⟨0x3FFC0, 1023⟩),
         some (.bwait ⟨false, 6, 7⟩),
         some (.binit ⟨0x10008, 0x12345678⟩)] := by
  decide +kernel

theorem test_decode_engine_2 :
    [decodeTableWord 128 0x1800000000020000000000070783FC62,
     decodeTableWord 128 0x141FC0024000000000100018100FC6A,
     decodeTableWord 128 0x3A561040004400000003000282017C72,
     decodeTableWord 64 0x280000100FC78,
     decodeTableWord 128 0x1C00000000000000004800001007C82,
     decodeTableWord 64 0x4000000007C88,
     decodeTableWord 64 0x26000000A04FC90,
     decodeTableWord 64 0x800000000007CC0,
     decodeTableWord 64 0x800000007CC8,
     decodeTableWord 96 0xFC030000088003007CD1,
     decodeTableWord 64 0x20000003807CD8,
     decodeTableWord 96 0x3040000090003807CE1]
      = [some (.mma ⟨0, 7, 15, 14, ⟨1, true, 0, false, 0, false, 0, 0, 0, 0, 0, 64, 0⟩⟩),
         some (.mmas ⟨2, 1, 2, 3, ⟨0, false, 2, true, 0, false, 31, 3, 0, 9, 0, 0, 0⟩⟩),
         some (.mmag ⟨6, 2, 4, 5, ⟨3, true, 4, true, 5, true, 1, 0, 16, 0, 17, 0, 0⟩⟩),
         some (.accld ⟨0, 5, 1, 2, none⟩),
         some (.accst ⟨1, 1, 0, 2, some ⟨0, false, 3, true, 0, false, 0, 0, 0, 0, 0, 0, 0⟩⟩),
         some (.acczero ⟨1, 0, none⟩),
         some (.tdset ⟨false, 9, 20, .d8 2⟩),
         some (.wwin ⟨64⟩),
         some (.wcfg ⟨true⟩),
         some (.wload ⟨6, some 1, some (3, 252)⟩),
         some (.wlaunch ⟨7, none, true, 0x100⟩),
         some (.wcapture ⟨7, some 2, false, 0x304⟩)] := by
  decide +kernel

theorem test_decode_engine_3 :
    [decodeTableWord 64 0x7CE8]
      = [some .wreset] := by
  decide +kernel

theorem test_decode_generator :
    [decodeTableWord 128 0x30005000000008000000000000A7E06,
     decodeTableWord 64 0x14007E08,
     decodeTableWord 128 0xC0000000014007E0A,
     decodeTableWord 128 0x300000000000014007E12,
     decodeTableWord 64 0x194007E18,
     decodeTableWord 128 0x81000000000010000000000014007E1A,
     decodeTableWord 128 0x200000038282007E22,
     decodeTableWord 64 0x27E28,
     decodeTableWord 128 0x4000000F8302827E32,
     decodeTableWord 64 0x2827E38,
     decodeTableWord 64 0x1827E40]
      = [some (.eseg ⟨true, 20, 3, 5, 0x80⟩),
         some (.emit ⟨false, 40⟩),
         some (.emitRegs ⟨false, 40, 12⟩),
         some (.emitm ⟨false, 40, 196608⟩),
         some (.emitq ⟨false, 40, 3⟩),
         some (.emitqMulti ⟨false, 40, 0x81, 4096⟩),
         some (.epatch ⟨false, 4, 5, 7, 0x20⟩),
         some (.eseal ⟨false, 4⟩),
         some (.tgo ⟨false, 4, 5, 6, 31, 0x40⟩),
         some (.eprov ⟨false, 4, 5⟩),
         some (.estat ⟨false, 4, 3⟩)] := by
  decide +kernel

theorem test_decode_system :
    [decodeTableWord 64 0x302827E80,
     decodeTableWord 64 0x2000001050A7E88,
     decodeTableWord 64 0xFFE0000000007E90,
     decodeTableWord 64 0x7E98,
     decodeTableWord 64 0x200000000027EA0,
     decodeTableWord 64 0x100000002007EA8,
     decodeTableWord 64 0x3E0000000027EB0,
     decodeTableWord 64 0x20000000027EB8,
     decodeTableWord 64 0x7EC0,
     decodeTableWord 64 0x302827EC8,
     decodeTableWord 64 0x60000000007ED0]
      = [some (.spawn ⟨false, 4, 5, 6⟩),
         some (.svc ⟨false, 7, 16, 20, 10, 2⟩),
         some (.strap ⟨false, 0x7FF⟩),
         some (.rfh ⟨false⟩),
         some (.getsr ⟨false, 4, 0x10⟩),
         some (.setsr ⟨false, 4, 8⟩),
         some (.vgrow ⟨false, 4, 31⟩),
         some (.vshrink ⟨false, 4, 1⟩),
         some (.trig ⟨false⟩),
         some (.dlaunch ⟨false, 4, 5, 6⟩),
         some (.brk ⟨false, 3⟩)] := by
  decide +kernel
/-- Words of the engine queue that share an opcode with a word of another place, hints, and words the manual names as refused (R72, R73). -/
theorem test_decode_places :
    decodeBytes .queue 0 (natLe 8 0x0000010100007C50 ++ natLe 8 0) = .ok (.bwaitQueue ⟨0, 0x0202⟩) ∧
    decodeBytes .queue 0 (natLe 8 0x006000000004FC91 ++ natLe 8 0x20010) = .ok (.tdsetQueue ⟨9, 0x20010⟩) ∧
    decodeTableWord 64 0x7FC8 = some (.hint (Raw.ofBits 0x7FC8)) ∧
    decodeTableWord 64 0x70E0 = none ∧ decodeBytes .gen 0 (natLe 16 0x2404) = .error .placeViolation := by
  decide +kernel

/-- R69, R70: a 128-bit word fits only the first half of a fetch block; LEN 3 is refused; a word may not end at byte 28. -/
theorem test_decode_placement :
    decodeBytes .team 20 (natLe 16 0x7402) = .error .illegalEncoding ∧ decodeBytes .team 16 (natLe 16 0x7282) = .ok (.nop ⟨false, 2⟩) ∧
    decodeBytes .team 20 (natLe 16 0x7280) = .error .illegalEncoding ∧ decodeBytes .team 24 (natLe 16 0x7280) = .ok (.nop ⟨false, 0⟩) ∧
    decodeBytes .team 0 (natLe 16 0x7283) = .error .illegalEncoding := by
  decide +kernel

/-- R72 step 6: a non-zero reserved field is an illegal field value. -/
theorem test_decode_reserved :
    decodeTableWord 64 (0x0003000181022404 + 2 ^ 50) = none ∧ decodeTableWord 64 0x70E0 = none := by
  decide +kernel

/-! ### A small state: context 0 runs, block 0 of launch 0 with team 0 on core 0 and generator thread 0 of cluster 0 -/

def base : State := State.reset.placeWord 0x7280

def T0 : Team :=
  { Team.fresh 1 256 0 0 0 0 0 [0] with
    status := .ready
    th := Thread.zero.wrs 144 (maskSet (List.range 32) 1) }

def G0 : Gen :=
  { th := .zero, status := .ready, blk := 0, ctx := 0, eseq := 0, open? := none, tags := [], emitting := none, flueWait := []
    patching := none, faulted := none, frozen := false, skip := false }

theorem base_team : base.team? 0 = some T0 := by decide +kernel

theorem base_gen : base.gen? 0 = some G0 := by decide +kernel

theorem base_block : base.block? 0 = some loadedBlock := by decide +kernel

/-- The small state with team 0 as given and in turn. -/
def withT (T : Team) : State := base.setTeam 0 T

/-- The small state with generator thread 0 as given and in turn. -/
def withG (G : Gen) : State := { base.setGen 0 G with cur := some (.gen 0) }

/-- The small state with words of block 0 in the queue of core 0, which is in turn. -/
def withQ (es : List Emitted) : State := { base.setCore 0 { base.core 0 with queue := es } with cur := some (.queue 0) }

theorem team_issuing (T : Team) (i : Instr) (hp : Place.team ∈ encPlaces i) (hb : i.marked = true → T.th.busy = false) :
    TeamIssuing (withT T) i 0 T := by
  have ht : (withT T).team? 0 = some T := by simp [withT]
  exact ⟨ht, ⟨rfl, hp, by simp [State.thread?, ht], hb, fun g h => by cases h⟩⟩

theorem gen_issuing (G : Gen) (i : Instr) (hp : Place.gen ∈ encPlaces i) (hb : G.th.pend = []) : GenIssuing (withG G) i 0 G := by
  have hg : (withG G).gen? 0 = some G := by simp [withG, State.gen?, State.setGen]
  exact ⟨hg, ⟨rfl, hp, by simp [State.thread?, hg], fun _ => by simp [Thread.busy, hb], fun g _ p h => by simp [hb] at h⟩⟩

/-- A team with these uniform registers. -/
def Ts (l : List (Nat × W64)) : Team := { T0 with th := l.foldl (fun th x => th.wr x.1 x.2) T0.th }

/-- A team with these lane registers: register, lane, value. -/
def Tv (l : List (Nat × Nat × W32)) : Team := { T0 with v := l.foldl (fun v x => mput 0 v (vkey x.1 x.2.1) x.2.2) T0.v }

def Gs (l : List (Nat × W64)) : Gen := { G0 with th := l.foldl (fun th x => th.wr x.1 x.2) G0.th }

/-- Team 0 after a word. -/
def after (T : Team) (i : Instr) : Option Team :=
  match exec i (withT T) with
  | .next t => t.team? 0
  | _ => none

/-- s(r) of team 0 after a word. -/
def sAfter (l : List (Nat × W64)) (i : Instr) (r : Nat) : Option W64 := (after (Ts l) i).map fun T => T.th.rd r

/-- v(r) of a lane of team 0 after a word. -/
def vAfter (l : List (Nat × Nat × W32)) (i : Instr) (r lane : Nat) : Option W32 := (after (Tv l) i).map fun T => T.vr r lane

/-- The outstanding work of team 0 after a word. -/
def workAfter (T : Team) (i : Instr) : Option (List Work) := (after T i).map fun T => T.th.pend.map (·.work)

/-- Well-formed words of the team place. -/
def teamWords (l : List Instr) : Bool := l.all fun i => decide (Place.team ∈ encPlaces i) && i.wf

theorem all_issuing (T : Team) (hb : T.th.busy = false) (l : List Instr) (h : teamWords l = true) :
    ∀ i ∈ l, TeamIssuing (withT T) i 0 T ∧ i.wf = true := by
  intro i hi
  have := List.all_eq_true.mp h i hi
  simp only [Bool.and_eq_true, decide_eq_true_eq] at this
  exact ⟨team_issuing T i this.1 fun _ => hb, this.2⟩

/-! ### Uniform words (R112 to R118) -/

def uniformWords : List Instr :=
  [.add ⟨false, 0, 0, 0, .reg 0⟩, .sub ⟨true, 7, 159, 159, .imm11 0⟩, .mul ⟨false, 0, 0, 0, .imm32 0⟩, .mulh ⟨false, 3, 1, 2, .reg 3⟩,
   .min ⟨false, 4, 1, 1, .reg 1⟩, .max ⟨false, 4, 1, 1, .reg 1⟩, .and ⟨false, 0, 0, 0, .reg 0⟩, .or ⟨false, 0, 0, 0, .reg 0⟩,
   .xor ⟨false, 0, 0, 0, .reg 0⟩, .andn ⟨false, 0, 0, 0, .reg 0⟩, .shl ⟨false, 0, 0, 0, .reg 0⟩, .shr ⟨false, 0, 0, 0, .reg 0⟩,
   .sar ⟨false, 0, 0, 0, .reg 0⟩, .rotl ⟨false, 0, 0, 0, .reg 0⟩, .div ⟨false, 0, 0, 0, .reg 0⟩, .rem ⟨false, 0, 0, 0, .reg 0⟩,
   .popc ⟨false, 0, 0, 0⟩, .clz ⟨false, 0, 0, 0⟩, .ctz ⟨false, 0, 0, 0⟩, .brev ⟨false, 0, 0, 0⟩, .abs ⟨false, 4, 0, 0, true⟩,
   .bfx ⟨false, 0, 0, 0, 1, 7⟩, .bfi ⟨false, 3, 0, 0, 0, 64, 0⟩, .cmp ⟨false, 5, 0, 0, 0, .reg 0⟩, .sel ⟨false, 0, 0, 0, 0, .reg 0⟩,
   .mov ⟨false, 0, 0, .reg 0⟩, .movi ⟨false, 0, .i64 0⟩, .lea ⟨false, 0, 0, .i11 0⟩, .leaPc ⟨false, 0, .i32 0⟩]

/-- The hypotheses of UniformTwoSource and UniformOneSource are met. -/
theorem witness_uniform : ∀ i ∈ uniformWords, TeamIssuing (withT T0) i 0 T0 ∧ i.wf = true := all_issuing _ (by decide +kernel) _ (by decide +kernel)

/-- R113, R115: 0xFF + 0x01 and 0x7F + 1 wrap in 8 bits, the signed result is sign-extended; a 32-bit difference below zero. -/
theorem test_uniform_wrap :
    sAfter [(5, 0x1FF), (6, 0x01)] (.add ⟨false, 0, 4, 5, .reg 6⟩) 4 = some 0 ∧
    sAfter [(5, 0x7F)] (.add ⟨false, 4, 4, 5, .imm11 1⟩) 4 = some 0xFFFFFFFFFFFFFF80 ∧
    sAfter [(5, 0)] (.sub ⟨false, 6, 5, 5, .imm11 1⟩) 5 = some 0xFFFFFFFFFFFFFFFF ∧
    sAfter [(5, 0)] (.sub ⟨false, 2, 5, 5, .imm11 1⟩) 5 = some 0xFFFFFFFF ∧
    sAfter [(5, 3)] (.add ⟨false, 3, 4, 5, .imm11 0x7FF⟩) 4 = some 2 := by decide +kernel

/-- R115: products, the high half signed and unsigned, orders. -/
theorem test_uniform_products :
    sAfter [(5, 0x80000000), (6, 2)] (.mul ⟨false, 2, 4, 5, .reg 6⟩) 4 = some 0 ∧
    sAfter [(5, 0xFFFFFFFFFFFFFFFF), (6, 2)] (.mulh ⟨false, 7, 4, 5, .reg 6⟩) 4 = some 0xFFFFFFFFFFFFFFFF ∧
    sAfter [(5, 0xFFFFFFFFFFFFFFFF), (6, 2)] (.mulh ⟨false, 3, 4, 5, .reg 6⟩) 4 = some 1 ∧
    sAfter [(5, 0x80), (6, 1)] (.min ⟨false, 4, 4, 5, .reg 6⟩) 4 = some 0xFFFFFFFFFFFFFF80 ∧
    sAfter [(5, 0x80), (6, 1)] (.max ⟨false, 0, 4, 5, .reg 6⟩) 4 = some 0x80 := by decide +kernel

/-- R62, R113, R115: bitwise words zero-extend their immediate; shift counts are taken modulo the width only by rotl. -/
theorem test_uniform_bits :
    sAfter [(5, 0xF0F0)] (.and ⟨false, 3, 4, 5, .imm11 0x7FF⟩) 4 = some 0xF0 ∧
    sAfter [(5, 0xF0F0)] (.andn ⟨false, 3, 4, 5, .imm11 0x7FF⟩) 4 = some 0xF000 ∧
    sAfter [(5, 1)] (.or ⟨false, 3, 4, 5, .imm32 0x80000000⟩) 4 = some 0x80000001 ∧
    sAfter [(5, 0x3C), (6, 0xFF)] (.xor ⟨false, 0, 4, 5, .reg 6⟩) 4 = some 0xC3 ∧
    sAfter [(5, 1)] (.shl ⟨false, 3, 4, 5, .imm11 63⟩) 4 = some 0x8000000000000000 ∧
    sAfter [(5, 0x81)] (.rotl ⟨false, 0, 4, 5, .imm11 1⟩) 4 = some 3 ∧
    sAfter [(5, 0x81)] (.sar ⟨false, 4, 4, 5, .imm11 1⟩) 4 = some 0xFFFFFFFFFFFFFFC0 := by decide +kernel

/-- R116: division by zero gives all ones and the dividend; the most negative value divided by minus one wraps. -/
theorem test_uniform_division :
    workAfter (Ts [(5, 7), (6, 0)]) (.div ⟨false, 2, 4, 5, .reg 6⟩) = some [.result [.s 4 0xFFFFFFFF] 0] ∧
    workAfter (Ts [(5, 7), (6, 0)]) (.rem ⟨false, 2, 4, 5, .reg 6⟩) = some [.result [.s 4 7] 0] ∧
    workAfter (Ts [(5, 0x80), (6, 0xFF)]) (.div ⟨false, 4, 4, 5, .reg 6⟩) = some [.result [.s 4 0xFFFFFFFFFFFFFF80] 0] ∧
    workAfter (Ts [(5, 0xF9), (6, 2)]) (.div ⟨false, 4, 4, 5, .reg 6⟩) = some [.result [.s 4 0xFFFFFFFFFFFFFFFD] 0] ∧
    workAfter (Ts [(5, 0xF9), (6, 2)]) (.rem ⟨false, 4, 4, 5, .reg 6⟩) = some [.result [.s 4 0xFFFFFFFFFFFFFFFF] 0] := by decide +kernel

/-- R115: counts and reversal. -/
theorem test_uniform_counts :
    sAfter [(5, 0xF0)] (.popc ⟨false, 0, 4, 5⟩) 4 = some 4 ∧ sAfter [(5, 0)] (.clz ⟨false, 1, 4, 5⟩) 4 = some 16 ∧
    sAfter [(5, 0x10)] (.clz ⟨false, 1, 4, 5⟩) 4 = some 11 ∧ sAfter [(5, 0)] (.ctz ⟨false, 3, 4, 5⟩) 4 = some 64 ∧
    sAfter [(5, 1)] (.brev ⟨false, 4, 4, 5⟩) 4 = some 0xFFFFFFFFFFFFFF80 ∧
    sAfter [(5, 0x80)] (.abs ⟨false, 4, 4, 5, false⟩) 4 = some 0xFFFFFFFFFFFFFF80 := by decide +kernel

/-- R117, R118: fields, comparison, selection and moves. -/
theorem test_uniform_moves :
    sAfter [(5, 0x1F0)] (.bfx ⟨false, 7, 4, 5, 4, 5⟩) 4 = some 0xFFFFFFFFFFFFFFFF ∧
    sAfter [(5, 0), (6, 0x5)] (.bfi ⟨false, 3, 4, 5, 6, 2, 62⟩) 4 = some 0x4000000000000000 ∧
    sAfter [(5, 0x80)] (.cmp ⟨false, 2, 4, 4, 5, .imm11 0⟩) 4 = some 1 ∧ sAfter [(5, 0x80)] (.cmp ⟨false, 2, 0, 4, 5, .imm11 0⟩) 4 = some 0 ∧
    sAfter [(5, 1), (6, 2), (7, 3)] (.sel ⟨false, 3, 4, 5, 7, .reg 6⟩) 4 = some 1 ∧
    sAfter [(5, 1), (6, 2)] (.sel ⟨false, 3, 4, 5, 7, .reg 6⟩) 4 = some 2 ∧
    sAfter [] (.mov ⟨false, 4, 4, .imm11 0xFF⟩) 4 = some 0xFFFFFFFFFFFFFFFF ∧
    sAfter [] (.movi ⟨false, 4, .i32 0xFFFFFFFE⟩) 4 = some 0xFFFFFFFFFFFFFFFE ∧
    sAfter [(5, 0x100)] (.lea ⟨false, 4, 5, .i11 0x7FC⟩) 4 = some 0xFC ∧ sAfter [] (.leaPc ⟨false, 4, .i32 0x40⟩) 4 = some 0x40 := by decide +kernel

/-! ### Control (R119 to R132) -/

def branchWords : List Instr :=
  [.b ⟨false, .i11 4⟩, .bz ⟨false, 5, .i11 4⟩, .bnz ⟨false, 5, .i32 4⟩, .bc ⟨false, 0, 3, 5, 6, .i11 4⟩, .call ⟨false, 30, .i11 4⟩,
   .ret ⟨false, 5⟩, .jmp ⟨false, 5⟩, .loop ⟨false, 5, .i11 4⟩, .skipz ⟨false, .i11 4⟩, .b ⟨false, .i11 8⟩]

theorem witness_Branches :
    (∀ i ∈ branchWords, TeamIssuing (withT (Ts [(5, 28)])) i 0 (Ts [(5, 28)]) ∧ i.wf = true) ∧
    ((withT (Ts [(5, 1)])).targetOk (.team 0) 16 ∧ (withT (Ts [(5, 0)])).targetOk (.team 0) 0 ∧
      (withT (Ts [(5, 0)])).targetOk (.team 0) (0 + BitVec.ofInt 64 (4 * offInt (.i32 6)))) ∧
    ((withT (Ts [(5, 28)])).targetOk (.team 0) 28 = false ∧ (withT (Ts [(5, 2)])).targetOk (.team 0) 2 = false ∧
      (withT T0).targetOk (.team 0) (0 + BitVec.ofInt 64 (4 * offInt (.i11 8))) = false) ∧
    ((Ts [(5, 1)]).th.rd 5 = 1 ∧ T0.th.rd 5 = 0 ∧ holds 0 false (low 3 (T0.th.rd 5)) (low 3 (T0.th.rd 6)) = true ∧
      holds 0 false (low 3 ((Ts [(5, 1)]).th.rd 5)) (low 3 ((Ts [(5, 1)]).th.rd 6)) = false) ∧
    ((∀ l < 32 * (Ts [(144, 0)]).words, (Ts [(144, 0)]).maskBit l = false) ∧ T0.maskBit 31 = true) :=
  ⟨all_issuing _ (by decide +kernel) _ (by decide +kernel), by decide +kernel, by decide +kernel, by decide +kernel, by decide +kernel⟩

/-- The PC of team 0 after a word. -/
def pcAfter (l : List (Nat × W64)) (i : Instr) : Option W64 := (after (Ts l) i).map fun T => T.th.pc

/-- R119, R120: offsets count four bytes from the branch itself; a call saves the address past its word. -/
theorem test_branches :
    pcAfter [] (.b ⟨false, .i11 4⟩) = some 16 ∧ pcAfter [(5, 1)] (.bz ⟨false, 5, .i11 4⟩) = some 8 ∧
    pcAfter [(5, 1)] (.bnz ⟨false, 5, .i32 4⟩) = some 16 ∧ pcAfter [] (.bnz ⟨false, 5, .i32 4⟩) = some 12 ∧
    pcAfter [(5, 0x80)] (.bc ⟨false, 2, 4, 5, 6, .i11 2⟩) = some 8 ∧ pcAfter [(5, 0x80)] (.bc ⟨false, 2, 0, 5, 6, .i11 4⟩) = some 8 ∧
    sAfter [] (.call ⟨false, 30, .i32 4⟩) 30 = some 12 ∧ pcAfter [(5, 24)] (.ret ⟨false, 5⟩) = some 24 ∧
    pcAfter [(5, 4)] (.jmp ⟨false, 5⟩) = some 4 := by decide +kernel

/-- R121, R124: a loop decrements first; skipz jumps without an active lane. -/
theorem test_loop_skipz :
    pcAfter [(5, 2)] (.loop ⟨false, 5, .i11 4⟩) = some 16 ∧ sAfter [(5, 2)] (.loop ⟨false, 5, .i11 4⟩) 5 = some 1 ∧
    pcAfter [(5, 1)] (.loop ⟨false, 5, .i11 4⟩) = some 8 ∧ pcAfter [(144, 0)] (.skipz ⟨false, .i11 4⟩) = some 16 ∧
    pcAfter [] (.skipz ⟨false, .i11 4⟩) = some 8 := by decide +kernel

/-- R71: a bad target halts the context with cause 0x000A. -/
theorem test_bad_target :
    (match exec (.b ⟨false, .i11 8⟩) (withT T0) with
     | .next t => decide ((t.ctx 0).mode = .halted ∧ (t.ctx 0).cause = 0xA ∧ t.status? (.team 0) = some .stopped)
     | _ => false) = true := by decide +kernel

/-- An outstanding result, which a switch marker waits for. -/
def held1 : Pend := ⟨0, 0, 0, .result [.s 9 1] 0, [], false⟩

def busyTeam : Team := { T0 with th := { T0.th with pend := [held1] } }

theorem witness_WordGate :
    ((encode (.emit ⟨false, 0⟩)).isSome = true ∧ (withT T0).cur = some (.team 0) ∧ agentPlace (.team 0) ∉ encPlaces (.emit ⟨false, 0⟩)) ∧
    ((encode (.nop ⟨true, 0⟩)).isSome = true ∧ (withT busyTeam).thread? (.team 0) = some busyTeam.th ∧
      (Instr.nop ⟨true, 0⟩).marked = true ∧ busyTeam.th.busy = true ∧ agentPlace (.team 0) ∈ encPlaces (.nop ⟨true, 0⟩)) := by
  decide +kernel

def maskWords : List Instr :=
  [.setmask ⟨false, 159⟩, .ballot ⟨false, 7, 159, 1⟩, .ballotNz ⟨false, 0, 0, 7⟩, .mpop ⟨false, 4, 144⟩, .mffs ⟨false, 144, 144⟩]

theorem witness_Masks :
    (∀ i ∈ maskWords, TeamIssuing (withT T0) i 0 T0 ∧ i.wf = true) ∧ (159#8).toNat + T0.maskRegs ≤ 160 ∧
    (∀ j < 31, (T0.th.rd (144 + j / 64)).getLsbD (j % 64) = true) ∧ (∀ l < 32 * T0.words, (T0.th.rd (9 + l / 64)).getLsbD (l % 64) = false) :=
  ⟨all_issuing _ (by decide +kernel) _ (by decide +kernel), by decide +kernel, by decide +kernel, by decide +kernel⟩

/-- R15, R122 to R124: p7 is one everywhere; the count and the lowest lane of a set; no lane gives all ones. -/
theorem test_masks :
    sAfter [(144, 0xA)] (.ballot ⟨false, 7, 20, 7⟩) 20 = some 0xA ∧ sAfter [(144, 0xA)] (.ballotNz ⟨false, 7, 20, 7⟩) 20 = some 0 ∧
    sAfter [(144, 0xA)] (.ballotNz ⟨false, 7, 20, 0⟩) 20 = some 0xA ∧ sAfter [(20, 0xA0)] (.mpop ⟨false, 4, 20⟩) 4 = some 2 ∧
    sAfter [(20, 0xA0)] (.mffs ⟨false, 4, 20⟩) 4 = some 5 ∧ sAfter [(20, 0)] (.mffs ⟨false, 4, 20⟩) 4 = some 0xFFFFFFFFFFFFFFFF ∧
    (after T0 (.setmask ⟨false, 20⟩)).map (·.mbase) = some 20 := by decide +kernel

def controlWords : List Instr :=
  [.barArrive ⟨false, 15, 255⟩, .barWait ⟨false, 0, 1⟩, .barSync ⟨true, 3, 2⟩, .yield ⟨false⟩, .exit ⟨false⟩, .nop ⟨true, 2⟩,
   .hint ⟨2, 1, 0x1FF, 3, 1, 2, 3, 4, 5, 6, 7⟩]

theorem witness_ControlWords :
    (∀ i ∈ controlWords, TeamIssuing (withT T0) i 0 T0 ∧ i.wf = true) ∧
    ((withT T0).block? T0.blk = some loadedBlock ∧ lget T0.tokens 0 = none ∧ T0.th.arriving 0 = false ∧
      (loadedBlock.bar 0).settle 1 = some ⟨false, 0, 1, 0⟩) ∧
    (let B : Block := loadedBlock.setBar 0 ⟨false, 1, 3, 0⟩
     ((withT T0).setBlock 0 B).block? T0.blk = some B ∧ (B.bar 0).exp ≠ 0 ∧ (B.bar 0).exp ≠ 1 ∧
       ((withT T0).setBlock 0 B).team? 0 = some T0) :=
  ⟨all_issuing _ (by decide +kernel) _ (by decide +kernel), by decide +kernel, by decide +kernel⟩

def openG : Gen := { G0 with open? := some ⟨1, 5, 64, 64, 0, [], 0⟩ }

/-- ControlWords: `exit` with and without an open segment, `yield` of a thread, and the words of the queue place. -/
theorem witness_ControlWords_places :
    (GenIssuing (withG G0) (.exit ⟨false⟩) 0 G0 ∧ G0.open? = none) ∧ (GenIssuing (withG openG) (.exit ⟨false⟩) 0 openG ∧ openG.open? ≠ none) ∧
    GenIssuing (withG G0) (.yield ⟨false⟩) 0 G0 ∧
    (let e : Emitted := ⟨natLe 8 0x7280, 0, 0, 0, .queue, 0, false⟩
     QueueIssuing (withQ [e]) (.nop ⟨false, 0⟩) 0 e [] loadedBlock ∧ QueueIssuing (withQ [e]) (.hint ⟨0, 1, 0x1FC, 7, 0, 0, 0, 0, 0, 0, 0⟩) 0 e [] loadedBlock) :=
  ⟨⟨gen_issuing _ _ (by decide +kernel) rfl, rfl⟩, ⟨gen_issuing _ _ (by decide +kernel) rfl, by decide +kernel⟩,
    gen_issuing _ _ (by decide +kernel) rfl, ⟨rfl, by decide +kernel, by decide +kernel, by decide +kernel⟩,
    ⟨rfl, by decide +kernel, by decide +kernel, by decide +kernel⟩⟩

/-- R127: of three expected arrivals the last completes the phase; the count mismatch is cause 0x000B. -/
theorem test_barrier :
    ((BarSt.mk false 2 3 4).arrive 0).ph = true ∧ ((BarSt.mk false 2 3 4).arrive 0).cnt = 0 ∧ ((BarSt.mk true 0 0 4).arrive 0).cnt = 1 ∧
    (BarSt.mk false 1 3 4).settle 3 = some ⟨false, 1, 3, 4⟩ ∧ (BarSt.mk false 1 3 4).settle 2 = none ∧
    (match exec (.barWait ⟨false, 0, 1⟩) ((withT T0).setBlock 0 (loadedBlock.setBar 0 ⟨false, 1, 3, 0⟩)) with
     | .next t => decide ((t.ctx 0).cause = 0xB)
     | _ => false) = true := by decide +kernel

/-- R129, R131: yield keeps every register, exit parks the team; a hint of 128 bits moves the PC by 16. -/
theorem test_yield_exit_hint :
    (after T0 (.yield ⟨false⟩)).map (·.th.pc) = some 8 ∧ (after T0 (.exit ⟨false⟩)).map (·.status) = some (.parked .exit) ∧
    pcAfter [] (.hint ⟨2, 0, 0x1F8, 7, 0, 0, 0, 0, 0, 0, 0⟩) = some 16 ∧ pcAfter [] (.nop ⟨false, 1⟩) = some 12 := by decide +kernel

/-! ### Vector integer and cross-lane words (R133 to R148) -/

/-- A team with lane 1 active only. -/
def one1 : Team := Ts [(144, 2)]

def vectorWords : List Instr :=
  [.vadd ⟨false, 7, 3, false, 254, 254, .reg 254⟩, .vadd ⟨false, 7, 0, true, 255, 255, .imm 255⟩, .vsub ⟨false, 0, 4, false, 1, 2, .reg 3⟩,
   .vsub ⟨false, 7, 7, true, 0, 0, .imm 0xFFFFFFFF⟩, .vmul ⟨false, 7, 2, false, 1, 2, .reg 3⟩, .vmul ⟨false, 7, 6, true, 1, 2, .reg 3⟩,
   .vmulh ⟨false, 7, 3, false, 2, 4, .reg 6⟩, .vmin ⟨false, 7, 4, false, 1, 2, .reg 3⟩, .vmax ⟨false, 7, 4, false, 1, 2, .reg 3⟩,
   .vand ⟨false, 7, 2, false, 1, 2, .reg 3⟩, .vor ⟨false, 7, 2, false, 1, 2, .reg 3⟩, .vxor ⟨false, 7, 2, false, 1, 2, .reg 3⟩,
   .vandn ⟨false, 7, 2, false, 1, 2, .reg 3⟩, .vmad ⟨false, 7, 4, true, 1, 2, .reg 3, 4⟩, .vabs ⟨false, 7, 4, true, 255, 255, false⟩,
   .vnot ⟨false, 7, 3, false, 254, 254, true⟩, .vshl ⟨false, 7, 3, true, 254, 254, .reg 255⟩, .vshl ⟨false, 7, 0, false, 255, 255, .imm 40⟩,
   .vshr ⟨false, 7, 7, false, 0, 0, .imm 64⟩, .vsar ⟨false, 7, 7, false, 0, 0, .imm 64⟩, .vrotl ⟨false, 7, 3, 254, 254, 255⟩,
   .vpopc ⟨false, 7, 3, 255, 254⟩, .vclz ⟨false, 7, 3, 255, 254⟩, .vctz ⟨false, 7, 3, 255, 254⟩, .vbrev ⟨false, 7, 3, 254, 254⟩,
   .vbfx ⟨false, 7, 3, 254, 254, 64, 0⟩, .vbfi ⟨false, 7, 0, 255, 255, 255, 1, 7⟩, .vsel ⟨false, 7, 3, 254, 254, 254, 7⟩,
   .vmov ⟨false, 7, 3, 254, .reg 254⟩, .vbcast ⟨false, 7, 3, 254, 159⟩, .vlane ⟨false, 7, 3, 254⟩, .vcmp ⟨false, 7, 5, 3, 7, 254, 254⟩,
   .vfcmp ⟨false, 7, 7, 0, 7, 254, 254⟩, .vcvt ⟨false, 7, 7, 4, 0, true, 254, 255⟩, .vsat ⟨false, 7, 0, 7, 0, false, 254, 254⟩]

/-- The hypotheses of VectorTwoSource, VectorMadAbsNot, VectorShiftsCounts, VectorFieldsMoves and VectorCompareConvert are met. -/
theorem witness_vector : (∀ i ∈ vectorWords, TeamIssuing (withT T0) i 0 T0 ∧ i.wf = true) ∧
    (limVBin ⟨false, 7, 3, false, 254, 254, .reg 254⟩ T0 && limVBin ⟨false, 7, 0, true, 255, 255, .imm 255⟩ T0 && T0.vOk true 254 && T0.vOk false 255 &&
      T0.vsrcOk true (.reg 254) && T0.vsrcOk false (.imm 40) && T0.vsrcOk false (.reg 255)) = true :=
  ⟨all_issuing _ (by decide +kernel) _ (by decide +kernel), by decide +kernel⟩

/-- R98, R133, R137: wrapping and saturating lanes; an inactive lane keeps its value. -/
theorem test_vector_arith :
    vAfter [(2, 0, 0xFF), (3, 0, 1)] (.vadd ⟨false, 7, 0, false, 4, 2, .reg 3⟩) 4 0 = some 0 ∧
    vAfter [(2, 0, 0xFF), (3, 0, 1)] (.vadd ⟨false, 7, 0, true, 4, 2, .reg 3⟩) 4 0 = some 0xFF ∧
    vAfter [(2, 0, 0x80), (3, 0, 1)] (.vsub ⟨false, 7, 4, true, 4, 2, .reg 3⟩) 4 0 = some 0xFFFFFF80 ∧
    vAfter [(2, 31, 1)] (.vsub ⟨false, 7, 2, false, 4, 2, .imm 2⟩) 4 31 = some 0xFFFFFFFF ∧
    vAfter [(2, 0, 0xFFFFFFFF), (3, 0, 0xFFFFFFFF)] (.vmul ⟨false, 7, 3, false, 4, 2, .imm 2⟩) 5 0 = some 0xFFFFFFFF ∧
    vAfter [(2, 0, 0x80000000), (3, 0, 2)] (.vmulh ⟨false, 7, 6, false, 4, 2, .reg 3⟩) 4 0 = some 0xFFFFFFFF ∧
    (after { one1 with v := (Tv [(2, 0, 5), (2, 1, 6)]).v } (.vadd ⟨false, 7, 2, false, 4, 2, .imm 1⟩)).map (fun T => (T.vr 4 0, T.vr 4 1)) =
      some (0, 7) := by decide +kernel

/-- R137: bitwise words, multiply-add, absolute value. -/
theorem test_vector_more :
    vAfter [(2, 0, 0xF0), (3, 0, 0x3C)] (.vand ⟨false, 7, 2, false, 4, 2, .reg 3⟩) 4 0 = some 0x30 ∧
    vAfter [(2, 0, 0xF0), (3, 0, 0x3C)] (.vandn ⟨false, 7, 2, false, 4, 2, .reg 3⟩) 4 0 = some 0xC0 ∧
    vAfter [(2, 0, 0xF0)] (.vnot ⟨false, 7, 1, false, 4, 2, false⟩) 4 0 = some 0xFF0F ∧
    vAfter [(2, 0, 100), (3, 0, 2), (5, 0, 0xFFFFFFFF)] (.vmad ⟨false, 7, 4, true, 4, 2, .reg 3, 5⟩) 4 0 = some 127 ∧
    vAfter [(2, 0, 0x80)] (.vabs ⟨false, 7, 4, true, 4, 2, false⟩) 4 0 = some 127 ∧
    vAfter [(2, 0, 0x80)] (.vabs ⟨false, 7, 4, false, 4, 2, false⟩) 4 0 = some 0xFFFFFF80 ∧
    vAfter [(2, 0, 0xFF), (3, 0, 1)] (.vmin ⟨false, 7, 4, false, 4, 2, .reg 3⟩) 4 0 = some 0xFFFFFFFF ∧
    vAfter [(2, 0, 0xFF), (3, 0, 1)] (.vmax ⟨false, 7, 4, false, 4, 2, .reg 3⟩) 4 0 = some 1 := by decide +kernel

/-- R134, R137: counts of n and more shift everything out; a saturating shift clamps. -/
theorem test_vector_shifts :
    vAfter [(2, 0, 0x81), (3, 0, 8)] (.vshl ⟨false, 7, 0, false, 4, 2, .reg 3⟩) 4 0 = some 0 ∧
    vAfter [(2, 0, 0x81)] (.vshl ⟨false, 7, 0, true, 4, 2, .imm 1⟩) 4 0 = some 0xFF ∧
    vAfter [(2, 0, 0x81)] (.vshl ⟨false, 7, 4, true, 4, 2, .imm 1⟩) 4 0 = some 0xFFFFFF80 ∧
    vAfter [(2, 0, 0x81)] (.vsar ⟨false, 7, 4, false, 4, 2, .imm 99⟩) 4 0 = some 0xFFFFFFFF ∧
    vAfter [(2, 0, 0x81)] (.vshr ⟨false, 7, 4, false, 4, 2, .imm 7⟩) 4 0 = some 1 ∧
    vAfter [(2, 0, 0x80000001), (3, 0, 33)] (.vrotl ⟨false, 7, 2, 4, 2, 3⟩) 4 0 = some 3 ∧
    vAfter [(2, 0, 1), (3, 0, 1)] (.vpopc ⟨false, 7, 3, 5, 2⟩) 5 0 = some 2 ∧ vAfter [] (.vclz ⟨false, 7, 3, 5, 2⟩) 5 0 = some 64 ∧
    vAfter [(3, 0, 1)] (.vctz ⟨false, 7, 3, 5, 2⟩) 5 0 = some 32 ∧ vAfter [(2, 0, 1)] (.vbrev ⟨false, 7, 2, 5, 2⟩) 5 0 = some 0x80000000 := by
  decide +kernel

/-- R138 to R140: fields, selection by a predicate, conversions. -/
theorem test_vector_fields :
    vAfter [(2, 0, 0x1F0)] (.vbfx ⟨false, 7, 6, 4, 2, 5, 4⟩) 4 0 = some 0xFFFFFFFF ∧
    vAfter [(2, 0, 0xFF), (3, 0, 2)] (.vbfi ⟨false, 7, 2, 4, 2, 3, 4, 2⟩) 4 0 = some 0xCB ∧
    vAfter [(2, 0, 7), (3, 0, 9)] (.vsel ⟨false, 7, 2, 4, 2, 3, 0⟩) 4 0 = some 9 ∧
    vAfter [(2, 0, 7), (3, 0, 9)] (.vsel ⟨false, 7, 2, 4, 2, 3, 7⟩) 4 0 = some 7 ∧
    vAfter [] (.vmov ⟨false, 7, 7, 4, .imm 0xFFFFFFFF⟩) 5 0 = some 0xFFFFFFFF ∧ vAfter [] (.vlane ⟨false, 7, 2, 4⟩) 4 31 = some 31 ∧
    (after (Ts [(20, 0x1FF)]) (.vbcast ⟨false, 7, 4, 4, 20⟩)).map (fun T => T.vr 4 3) = some 0xFFFFFFFF ∧
    vAfter [(2, 0, 0xFFFFFFFF)] (.vcvt ⟨false, 7, 0, 6, 0, true, 4, 2⟩) 4 0 = some 0 ∧
    vAfter [(2, 0, 0x180)] (.vcvt ⟨false, 7, 4, 6, 0, false, 4, 2⟩) 4 0 = some 0xFFFFFF80 ∧
    vAfter [(2, 0, 0x180)] (.vsat ⟨false, 7, 4, 6, 0, false, 4, 2⟩) 4 0 = some 127 := by decide +kernel

/-- R13, R139: a comparison writes its predicate, p7 never. -/
theorem test_vector_compare :
    (after (Tv [(2, 0, 0xFFFFFFFF), (3, 0, 1)]) (.vcmp ⟨false, 7, 2, 6, 1, 2, 3⟩)).map (fun T => (T.pred 1 0, T.pred 1 1, T.pred 7 1)) =
      some (true, false, true) ∧
    (after (Tv [(2, 0, 0xFFFFFFFF), (3, 0, 1)]) (.vcmp ⟨false, 7, 0, 6, 7, 2, 3⟩)).map (fun T => T.pred 7 0) = some true := by decide +kernel

def laneWords : List Instr :=
  [.vshfl ⟨false, 7, 3, 254, 254, 255, .i11 0x7FF⟩, .vrot ⟨false, 7, 2, 255, 255, .i32 0x80000000⟩, .vextract ⟨false, 2, 159, 255, .i11 31⟩,
   .vinsert ⟨false, 3, 254, 159, .i32 31⟩, .vmatch ⟨false, 7, 3, 255, 254, true⟩, .vred ⟨false, 7, 0, 4, 159, 255⟩,
   .vred ⟨false, 7, 7, 0, 159, 254⟩, .vredx ⟨false, 7, 2, 3, 159, 254, 0⟩, .vredx ⟨false, 0, 1, 3, 159, 254, 0⟩, .vscan ⟨false, 7, 0, 3, 254, 254⟩,
   .vscan ⟨false, 7, 5, 2, 255, 255⟩]

/-- The hypotheses of CrossLane and Reductions are met, with an active lane and without one. -/
theorem witness_lanes : (∀ i ∈ laneWords, TeamIssuing (withT T0) i 0 T0 ∧ i.wf = true) ∧
    (T0.vOk true 254 && T0.vOk false 255 && decide (offNat (.i11 31) < 32 * T0.words) && decide (offNat (.i32 31) < 32 * T0.words) &&
      T0.vOk (redWide 0 4) 255 && T0.vOk (redWide 7 0) 254) = true ∧ T0.active 0 = [] ∧ 31 ∈ T0.active 7 :=
  ⟨all_issuing _ (by decide +kernel) _ (by decide +kernel), by decide +kernel, by decide +kernel, by decide +kernel⟩

/-- R143: lane 1 of two active ones takes lane 0 and, one past the end, zero; a rotation wraps. -/
theorem test_shuffle :
    workAfter { Ts [(144, 2)] with v := (Tv [(2, 0, 5), (3, 1, 0)]).v } (.vshfl ⟨false, 7, 2, 4, 2, 3, .i11 0⟩) = some [.result [.v 4 1 5] 0] ∧
    workAfter { Ts [(144, 2)] with v := (Tv [(2, 0, 5), (3, 1, 32)]).v } (.vshfl ⟨false, 7, 2, 4, 2, 3, .i11 0⟩) = some [.result [.v 4 1 0] 0] ∧
    workAfter { Ts [(144, 2)] with v := (Tv [(2, 31, 5)]).v } (.vrot ⟨false, 7, 2, 4, 2, .i11 0x7FE⟩) = some [.result [.v 4 1 5] 0] ∧
    workAfter (Tv [(4, 31, 0x80000000)]) (.vextract ⟨false, 6, 10, 4, .i11 31⟩) = some [.result [.s 10 0xFFFFFFFF80000000] 0] ∧
    workAfter (Ts [(10, 0x123456789)]) (.vinsert ⟨false, 3, 4, 10, .i11 2⟩) = some [.result [.v 4 2 0x23456789, .v 5 2 1] 0] ∧
    workAfter { Ts [(144, 7)] with v := (Tv [(4, 1, 9), (4, 2, 9)]).v } (.vmatch ⟨false, 7, 2, 10, 4, false⟩) =
      some [.result [.v 10 0 0, .v 10 1 1, .v 10 2 1] 0] := by decide +kernel

/-- R144, R145: the example of the lowest-distance search over two lane-words: 9 in lanes 20 and 41, lane 5 inactive. -/
theorem test_vredx_example :
    workAfter { T0 with
      words := 2
      th := T0.th.wr 144 0xFFFFFFFFFFFFFFDF
      v := (List.range 64).foldl (fun v l =>
        mput 0 v (vkey 4 l) (if l = 5 then 7 else if l = 20 ∨ l = 41 then 9 else if l = 60 then 12 else 100)) [] }
      (.vredx ⟨false, 7, 1, 6, 10, 4, 11⟩) = some [.result [.s 10 9, .s 11 20] 0] := by decide +kernel

/-- R108, R109: sums wrap and extend; without an active lane the identity; a scan over the active lanes. -/
theorem test_reductions :
    workAfter { Ts [(144, 3)] with v := (Tv [(4, 0, 0x7F), (4, 1, 1)]).v } (.vred ⟨false, 7, 0, 4, 10, 4⟩) = some [.result [.s 10 0xFFFFFFFFFFFFFF80] 0] ∧
    workAfter (Ts [(144, 0)]) (.vred ⟨false, 7, 1, 0, 10, 4⟩) = some [.result [.s 10 0xFF] 0] ∧
    workAfter { Ts [(144, 5)] with v := (Tv [(4, 0, 3), (4, 1, 100), (4, 2, 4)]).v } (.vscan ⟨false, 7, 0, 2, 6, 4⟩) =
      some [.result [.v 6 0 3, .v 6 2 7] 0] := by decide +kernel

/-! ### Floating point and narrow formats (R149 to R174) -/

def floatWords : List Instr :=
  [.vfadd ⟨false, 7, 0, 0, true, 254, 254, 254⟩, .vfsub ⟨false, 7, 1, 4, false, 255, 255, 255⟩, .vfmul ⟨false, 7, 0, 7, false, 0, 2, 254⟩,
   .vfmin ⟨false, 7, 0, 0, false, 254, 254, 254⟩, .vfmax ⟨false, 7, 3, 0, false, 255, 255, 255⟩, .vffma ⟨false, 7, 0, 0, true, 254, 254, 254, 254⟩,
   .vfclass ⟨false, 7, 0, 0, false, 255, 254⟩, .vfscale ⟨false, 7, 0, 0, true, 254, 254, 255⟩, .vfrnd ⟨false, 7, 0, 6, false, 254, 254⟩,
   .vfcvt ⟨false, 7, 0, 5, 0, false, 254, 255⟩, .vfi ⟨false, 7, 3, 0, 5, false, 254, 254⟩, .vif ⟨false, 7, 0, 7, 0, true, 254, 254⟩,
   .vfdiv ⟨false, 7, 0, 0, true, 254, 254, 254⟩, .vfsqrt ⟨false, 7, 0, 0, false, 254, 254⟩, .vfrcp ⟨false, 7, 0, 0, true, 254, 254⟩,
   .vfrsq ⟨false, 7, 0, 0, false, 254, 254⟩, .vfex2 ⟨false, 7, 1, 0, true, 255, 255⟩, .vflg2 ⟨false, 7, 1, 0, false, 255, 255⟩,
   .vfsin ⟨false, 7, 1, 0, false, 255, 255⟩, .vfcos ⟨false, 7, 1, 0, false, 255, 255⟩, .fadd ⟨false, 1, 4, true, 159, 159, 159⟩,
   .fmul ⟨false, 0, 0, false, 0, 0, 0⟩, .ffma ⟨false, 0, 7, false, 0, 1, 2, 3⟩, .fcvt ⟨false, 0, 5, 0, 0, true, 0, 0⟩,
   .fcvt ⟨false, 1, 7, 1, 0, false, 0, 0⟩, .fcvt ⟨false, 2, 0, 7, 0, true, 0, 0⟩]

/-- The hypotheses of FloatFixed, FloatConversions, FloatLater and UniformFloat are met. -/
theorem witness_float : (∀ i ∈ floatWords, TeamIssuing (withT T0) i 0 T0 ∧ i.wf = true) ∧
    (limVF2 ⟨false, 7, 0, 0, true, 254, 254, 254⟩ T0 && limVF2 ⟨false, 7, 1, 4, false, 255, 255, 255⟩ T0 && limVF1 ⟨false, 7, 0, 6, false, 254, 254⟩ T0 &&
      limVF1 ⟨false, 7, 1, 0, true, 255, 255⟩ T0 && T0.vOk (fWide 0) 254 && T0.vOk (fWide 5) 255 && T0.vOk (tyWide 7) 254) = true :=
  ⟨all_issuing _ (by decide +kernel) _ (by decide +kernel), by decide +kernel⟩

/-- FloatNan, MultiplyByOne, FloatMinMax: a lane that holds a NaN, and lanes where both operands are numbers and the second is one. -/
theorem witness_FloatNan_MultiplyByOne :
    (let T := Tv [(2, 0, 0x7FC00000)]
     0 ∈ T.active 7 ∧ (T.fval 1 2 0).isNan = true ∧ TeamIssuing (withT T) (.vfadd ⟨false, 7, 1, 0, false, 4, 2, 3⟩) 0 T) ∧
    (let T : Team := { Ts [(144, 2)] with v := (Tv [(2, 1, 0x40400000), (3, 1, 0x3F800000)]).v }
     (∀ l ∈ T.active 7, T.fbits 1 3 l = 0x3F800000 ∧ (T.fval 1 2 l).isNan = false ∧ (T.fval 1 2 l).isInf = false ∧ (T.fval 1 3 l).isNan = false) ∧
       1 ∈ T.active 7 ∧ TeamIssuing (withT T) (.vfmul ⟨false, 7, 1, 0, false, 4, 2, 3⟩) 0 T ∧
       TeamIssuing (withT T) (.vfmin ⟨false, 7, 1, 0, false, 4, 2, 3⟩) 0 T) :=
  ⟨⟨by decide +kernel, by decide +kernel, team_issuing _ _ (by decide +kernel) (by decide +kernel)⟩, by decide +kernel, by decide +kernel,
    team_issuing _ _ (by decide +kernel) (by decide +kernel), team_issuing _ _ (by decide +kernel) (by decide +kernel)⟩

/-- v(4) of lane 0 and FPFLAGS after a word on v2 and v3 of the only active lane. -/
def fAfter (a b : W32) (i : Instr) : Option (W32 × BitVec 5) :=
  (after { Ts [(144, 1)] with v := (Tv [(2, 0, a), (3, 0, b)]).v } i).map fun T => (T.vr 4 0, T.th.flags)

/-- R93 to R98, R152: sums and products, rounding by mode, overflow, NaN. -/
theorem test_float_arith :
    fAfter 0x3F800000 0x40000000 (.vfadd ⟨false, 7, 1, 0, false, 4, 2, 3⟩) = some (0x40400000, 0) ∧
    fAfter 0x7F7FFFFF 0x7F7FFFFF (.vfadd ⟨false, 7, 1, 4, false, 4, 2, 3⟩) = some (0x7F800000, 5) ∧
    fAfter 0x7F7FFFFF 0x7F7FFFFF (.vfadd ⟨false, 7, 1, 5, false, 4, 2, 3⟩) = some (0x7F7FFFFF, 5) ∧
    fAfter 0x3F800000 0x3F800000 (.vfsub ⟨false, 7, 1, 7, false, 4, 2, 3⟩) = some (0x80000000, 0) ∧
    fAfter 0x3C00 0xC000 (.vfmul ⟨false, 7, 2, 0, false, 4, 2, 3⟩) = some (0xC000, 0) ∧
    fAfter 0x7F800001 0 (.vfadd ⟨false, 7, 1, 0, false, 4, 2, 3⟩) = some (0x7FC00000, 0x10) ∧
    fAfter 0x7F800000 0 (.vfmul ⟨false, 7, 1, 0, false, 4, 2, 3⟩) = some (0x7FC00000, 0x10) ∧
    fAfter 0x3F800001 0x3F800001 (.vffma ⟨false, 7, 1, 0, false, 4, 2, 3, 2⟩) = some (0x40000002, 1) := by decide +kernel

/-- R146, R153, R157 to R159: extremes, classes, scaling and rounding to an integer. -/
theorem test_float_other :
    fAfter 0x80000000 0 (.vfmin ⟨false, 7, 1, 0, false, 4, 2, 3⟩) = some (0x80000000, 0) ∧
    fAfter 0x7FC00000 0x3F800000 (.vfmax ⟨false, 7, 1, 0, false, 4, 2, 3⟩) = some (0x3F800000, 0) ∧
    fAfter 0x80000000 0 (.vfclass ⟨false, 7, 1, 0, false, 4, 2⟩) = some (8, 0) ∧ fAfter 0x7F800001 0 (.vfclass ⟨false, 7, 1, 0, false, 4, 2⟩) = some (0x100, 0) ∧
    fAfter 0x3F800000 3 (.vfscale ⟨false, 7, 1, 0, false, 4, 2, 3⟩) = some (0x41000000, 0) ∧
    fAfter 0xBE800000 0 (.vfrnd ⟨false, 7, 1, 5, false, 4, 2⟩) = some (0x80000000, 1) ∧
    fAfter 0x40200000 0 (.vfrnd ⟨false, 7, 1, 4, false, 4, 2⟩) = some (0x40000000, 1) := by decide +kernel

/-- R98 (the table of the conversions to E4M3) and R160. -/
theorem test_float_conversions :
    fAfter 0x43E80000 0 (.vfcvt ⟨false, 7, 4, 1, 4, false, 4, 2⟩) = some (0x7E, 1) ∧
    fAfter 0x43EB0000 0 (.vfcvt ⟨false, 7, 4, 1, 4, false, 4, 2⟩) = some (0x7F, 5) ∧
    fAfter 0x43EB0000 0 (.vfcvt ⟨false, 7, 4, 1, 4, true, 4, 2⟩) = some (0x7E, 5) ∧
    fAfter 0x43EB0000 0 (.vfcvt ⟨false, 7, 4, 1, 5, false, 4, 2⟩) = some (0x7E, 1) ∧
    fAfter 0x43E10000 0 (.vfcvt ⟨false, 7, 4, 1, 6, false, 4, 2⟩) = some (0x7F, 5) ∧
    fAfter 0x7F800000 0 (.vfcvt ⟨false, 7, 4, 1, 0, true, 4, 2⟩) = some (0x7E, 0) ∧
    fAfter 0xFFFFFFFF 0 (.vif ⟨false, 7, 1, 6, 0, false, 4, 2⟩) = some (0xBF800000, 0) := by decide +kernel

/-- R99, R17: the example of the truncating conversion: lanes 0 to 4 of v4, lane 5 inactive, flags NV and NX. -/
theorem test_vfi_example :
    (after { Ts [(144, 0xFFFFFFDF)] with
      v := (Tv [(4, 0, 0x40200000), (4, 1, 0xC0200000), (4, 2, 0x4F32D05E), (4, 3, 0x7FC00000), (4, 4, 0x80000000), (6, 5, 0x55)]).v }
      (.vfi ⟨false, 7, 6, 1, 5, false, 6, 4⟩)).map (fun T => ((List.range 7).map (T.vr 6), T.th.flags)) =
      some ([2, 0xFFFFFFFE, 0x7FFFFFFF, 0, 0, 0x55, 0], 0x11) := by decide +kernel

/-- R152: quotients and roots return later with their flags; a quotient by zero raises DZ. -/
theorem test_float_later :
    workAfter { Ts [(144, 1)] with v := (Tv [(2, 0, 0x3F800000)]).v } (.vfdiv ⟨false, 7, 1, 0, false, 8, 2, 3⟩) = some [.result [.v 8 0 0x7F800000] 8] ∧
    workAfter { Ts [(144, 1)] with v := (Tv [(2, 0, 0x3F800000), (3, 0, 0x40400000)]).v } (.vfdiv ⟨false, 7, 1, 0, false, 8, 2, 3⟩) =
      some [.result [.v 8 0 0x3EAAAAAB] 1] ∧
    workAfter { Ts [(144, 1)] with v := (Tv [(2, 0, 0x40800000)]).v } (.vfsqrt ⟨false, 7, 1, 0, false, 8, 2⟩) = some [.result [.v 8 0 0x40000000] 0] ∧
    workAfter { Ts [(144, 1)] with v := (Tv [(2, 0, 0xBF800000)]).v } (.vfsqrt ⟨false, 7, 1, 0, false, 8, 2⟩) = some [.result [.v 8 0 0x7FC00000] 0x10] ∧
    workAfter { Ts [(144, 1)] with v := (Tv [(2, 0, 0x80000000)]).v } (.vfrcp ⟨false, 7, 1, 0, false, 8, 2⟩) = some [.result [.v 8 0 0xFF800000] 8] ∧
    workAfter { Ts [(144, 1)] with v := (Tv [(2, 0, 0x41800000)]).v } (.vflg2 ⟨false, 7, 1, 0, false, 8, 2⟩) = some [.result [.v 8 0 0x40800000] 0] := by
  decide +kernel

/-- R161: uniform sums and conversions; a 32-bit result leaves the high bits zero. -/
theorem test_uniform_float :
    sAfter [(5, 0x3FF0000000000000), (6, 0x4000000000000000)] (.fadd ⟨false, 0, 0, false, 4, 5, 6⟩) 4 = some 0x4008000000000000 ∧
    sAfter [(5, 0x40400000), (6, 0xC0000000)] (.fmul ⟨false, 1, 0, false, 4, 5, 6⟩) 4 = some 0xC0C00000 ∧
    sAfter [(5, 0x40400000), (6, 0xC0000000), (7, 0x40C00000)] (.ffma ⟨false, 1, 0, false, 4, 5, 6, 7⟩) 4 = some 0 ∧
    sAfter [(5, 0xC0200000)] (.fcvt ⟨false, 1, 7, 1, 5, false, 4, 5⟩) 4 = some 0xFFFFFFFFFFFFFFFE := by decide +kernel

def narrowWords : List Instr :=
  [.vdot2 ⟨false, 7, 3, false, 1, 0, 0, 0, 255, 255, 255, 0⟩, .vdot4 ⟨false, 7, 5, true, 3, 0, 0, 127, 255, 255, 255, 255⟩,
   .vdotds ⟨false, 7, 6, false, 3, 1, 0, 0, 255, 255, 254, 0⟩, .vcvtds ⟨false, 7, 0, 255, 254, 3⟩, .vbpl ⟨false, 7, true, 3, 255, 255⟩,
   .vbpu ⟨false, 7, false, 0, 255, 255⟩, .vbpdot ⟨false, 7, true, 7, 3, 255, 240, 159⟩, .vbpsel ⟨false, 7, 3, 240, 240, 0⟩]

/-- The hypotheses of DotProducts and BitPlanes are met. -/
theorem witness_narrow : (∀ i ∈ narrowWords, TeamIssuing (withT T0) i 0 T0 ∧ i.wf = true) ∧
    (T0.vOk false 255 && T0.vOk true 254 && T0.groupOk (planeK 3) 240) = true ∧ (240#8).toNat % 2 = 0 ∧ (240#8).toNat + 2 * planeK 3 ≤ 256 ∧
    (15 < 2 * planeK 3 * T0.maskRegs ∧ 15 ∈ T0.active 7) :=
  ⟨all_issuing _ (by decide +kernel) _ (by decide +kernel), by decide +kernel, by decide +kernel, by decide +kernel, by decide +kernel⟩

/-- R164 to R167: the example of the scaled E4M3 dot product with a remainder, and the same word with kv = 3. -/
theorem test_vdot4_example :
    (let T : Team := { Ts [(144, 1)] with v := (Tv [(2, 0, 0x7EB04038), (3, 0, 0x01482844), (8, 0, 0x4B800000), (9, 5, 0x00810000)]).v }
     (after T (.vdot4 ⟨false, 7, 4, true, 3, 0, 1, 37, 8, 2, 3, 9⟩)).map (fun T => (T.vr 8 0, T.th.flags)) = some (0x4B800005, 1) ∧
     (after T (.vdot4 ⟨false, 7, 4, true, 2, 0, 1, 37, 8, 2, 3, 9⟩)).map (fun T => (T.vr 8 0, T.th.flags)) = some (0x4B800003, 0)) := by
  decide +kernel

/-- R171, R172: the example of the bit-serial products: 96 with one plane read, 98 with two; packing of 1, -2, -1 into BP2 planes. -/
theorem test_bitplane_example :
    (let T : Team := { Ts [(144, 1), (3, 7)] with v := (Tv [(8, 0, 5), (10, 0, 6), (20, 0, 100)]).v }
     (after T (.vbpdot ⟨false, 7, true, 0, 1, 20, 8, 3⟩)).map (fun T => T.vr 20 0) = some 96 ∧
     (after T (.vbpdot ⟨false, 7, true, 1, 1, 20, 8, 3⟩)).map (fun T => T.vr 20 0) = some 98) ∧
    workAfter { Ts [(144, 7)] with v := (Tv [(2, 0, 1), (2, 1, 0xFFFFFFFE), (2, 2, 0xFFFFFFFF)]).v } (.vbpl ⟨false, 7, true, 1, 8, 2⟩) =
      some [.result [.v 8 0 5, .v 8 1 0, .v 8 2 6] 0] ∧
    workAfter { Ts [(144, 7)] with v := (Tv [(2, 0, 5), (2, 2, 6)]).v } (.vbpu ⟨false, 7, true, 1, 8, 2⟩) =
      some [.result [.v 8 0 1, .v 8 1 0xFFFFFFFE, .v 8 2 0xFFFFFFFF] 0] := by decide +kernel

/-- R168, R173: a DS8 byte goes into its place; `vbpsel` takes the bits that s(B) selects. -/
theorem test_vcvtds_vbpsel :
    (after { Ts [(144, 1)] with v := (Tv [(2, 0, 0), (8, 0, 0x11223344)]).v } (.vcvtds ⟨false, 7, 1, 8, 2, 2⟩)).map (fun T => (T.vr 8 0).toNat % 65536) = some 0x3344 ∧
    (after { Ts [(144, 1), (3, 0xF0)] with v := (Tv [(8, 0, 0x0F), (16, 0, 0xFF)]).v } (.vbpsel ⟨false, 7, 0, 8, 16, 3⟩)).map (fun T => T.vr 8 0) = some 0xFF := by
  decide +kernel

/-! ### Memory and basin words (R175 to R206) -/

def loadWork : Work := .mem ⟨.ld, false, 2, false, 3, 0, .s 9, [⟨0, 0x40, 0, 4, 0, 0, .checked, none, 0, false⟩], none⟩

/-- A team whose global-load counter stands at 255. -/
def fullTeam : Team := { T0 with th := { T0.th with pend := List.replicate 255 ⟨0, 0, 0, loadWork, [.gl], false⟩ } }

def memWords : List Instr :=
  [.ld ⟨false, 0, 0, false, 3, 159, 159, .d8 0x80⟩, .st ⟨false, 3, 2, 0, 0, 159, .d32 0xFFFFFFFF⟩, .atom ⟨false, 3, 3, 5, true, 2, 4, 5, 6, .none⟩,
   .cas ⟨false, 4, 3, 3, 4, 5, 6, 7, .d32 8⟩, .cinv ⟨false, 5, 0, .d8 0⟩, .cwb ⟨false, 2, 5, .d8 0⟩, .marm ⟨false, 3, 1, false, 2, 4, 5, .d8 0⟩,
   .vld ⟨false, 7, 0, 0, false, 3, 254, 254, .d8 0⟩, .vst ⟨false, 0, 1, 2, 0, 254, 255, .d8 0⟩, .vatom ⟨false, 7, 3, 1, 0, false, 2, 4, 6, 8, .none⟩,
   .vfatom ⟨false, 7, 0, 0, 0x10, false, 3, 4, 6, 8, .none⟩, .vcas ⟨false, 7, 0, 0, 3, 4, 6, 8, 10, .none⟩, .vscadd ⟨false, 7, 0, 0, 0, 2, 6, 8, .none⟩,
   .vbin ⟨false, 7, 0, 0, 255, 5, 255, .none⟩, .vprefetch ⟨false, 7, 254, .d8 0⟩, .fence ⟨false, 0, 3⟩, .fence ⟨false, 4, 1⟩,
   .mwait ⟨false, 4, 5⟩, .waitc ⟨false, 4, 5⟩, .take ⟨false, 4, 15⟩, .balloc ⟨false, 4, 15⟩, .bfree ⟨false, 4, 0⟩, .give ⟨false, 4, 0, 7, 15⟩,
   .takeTest ⟨false, 4, 0⟩, .bshare ⟨false, 4, 0, 255⟩, .bmap ⟨false, 4, 0⟩, .bzero ⟨false, 4, 0⟩, .trig ⟨false⟩, .spawn ⟨false, 4, 8, 5⟩,
   .dlaunch ⟨false, 4, 5, 6⟩, .kick ⟨false, 5, 6⟩]

/-- The hypotheses of UniformMemory, VectorMemory, FencesAndWaits and HeldWords are met: the words issue, the counters are free or
one is full, lanes are active or none is, the operands are in range. -/
theorem witness_memory : (∀ i ∈ memWords, TeamIssuing (withT (Ts [(5, 0x100), (6, 1)])) i 0 (Ts [(5, 0x100), (6, 1)]) ∧ i.wf = true) :=
  all_issuing _ (by decide +kernel) _ (by decide +kernel)

theorem witness_counters : CountersFree T0.th [.gl, .bl, .st, .at, .rq] ∧ TeamIssuing (withT fullTeam) (.ld ⟨false, 0, 0, true, 2, 4, 5, .d8 0⟩) 0 fullTeam ∧
    255 ≤ fullTeam.th.counter .gl ∧
    Path.gl ∈ (MemOp.mk .ld false 2 true 0 0 (.s 4) (lanePieces .ld 0 2 0 (fullTeam.th.rd 5 + dispVal (.d8 0)) 0 0 false) none).paths :=
  ⟨by unfold CountersFree; decide +kernel, team_issuing _ _ (by decide +kernel) (by decide +kernel), by decide +kernel, by decide +kernel⟩

theorem witness_VectorMemory : T0.active 7 ≠ [] ∧ (Ts [(144, 0)]).active 7 = [] ∧ (T0.vOk true 254 && T0.vOk false 255) = true ∧
    TeamIssuing (withT (Ts [(144, 0)])) (.vld ⟨false, 7, 0, 0, false, 3, 254, 254, .d8 0⟩) 0 (Ts [(144, 0)]) :=
  ⟨by decide +kernel, by decide +kernel, by decide +kernel, team_issuing _ _ (by decide +kernel) (by decide +kernel)⟩

theorem witness_HeldWords : (withT T0).targetOk (.team 0) (T0.th.rd 5) = true ∧ (0x100#64).toNat < 2 ^ 52 ∧ (0x100#64).toNat % 256 = 0 ∧
    ((Ts [(6, 1)]).th.rd 6 ≠ 0 ∧ T0.th.rd 6 = 0) := by decide +kernel

/-- The small state with slot 0 of core 0 mapped to basin 3, bound to context 0. -/
def withSlot (s : State) : State := s.setSlot 0 0 ⟨false, 0, 1, 3⟩

def bwTeam : Team := Ts [(5, 0xFFE0000000000008)]

/-- HeldWords: `bwait` on a slot that is mapped. -/
theorem witness_bwait : TeamIssuing (withSlot (withT bwTeam)) (.bwait ⟨false, 4, 5⟩) 0 bwTeam ∧ steer (bwTeam.th.rd 5) = .basin 0 8 ∧
    (withSlot (withT bwTeam)).slotBasin (0 / 256) 0 bwTeam.ctx = .ok 3 :=
  ⟨⟨by simp [withSlot, State.setSlot, withT], ⟨rfl, by decide +kernel, by simp [State.thread?, withSlot, State.setSlot, withT], fun _ => by decide +kernel,
    fun g h => by cases h⟩⟩, by decide +kernel, by decide +kernel⟩

/-- R64, R178, R181: the displacement is sign-extended; a misaligned plain access splits into bytes, an ordered one does not. -/
theorem test_load_pieces :
    workAfter (Ts [(5, 0x41)]) (.ld ⟨false, 0, 0, true, 1, 4, 5, .d8 0xFE⟩) =
      some [.mem ⟨.ld, false, 1, true, 0, 0, .s 4, [⟨0, 0x3F, 0, 1, 0, 0, .fresh, none, 0, false⟩, ⟨0, 0x3F, 1, 1, 0, 0, .fresh, none, 0, false⟩], none⟩] ∧
    workAfter (Ts [(5, 0x41)]) (.ld ⟨false, 3, 1, true, 1, 4, 5, .d8 0⟩) =
      some [.mem ⟨.ld, false, 1, true, 3, 1, .s 4, [⟨0, 0x41, 0, 2, 0, 0, .fresh, none, 0, false⟩], none⟩] := by decide +kernel

/-- R28: the four windows of the generic address. -/
theorem test_steer : steer 0x000FFFFFFFFFFFFF = .global 0xFFFFFFFFFFFFF ∧ steer 0x0010000000000000 = .bad ∧
    steer 0xFFE00000000F1234 = .basin 15 0x1234 ∧ steer 0xFFF00000FFFFFFFF = .stack 0xFFFFFFFF ∧ steer 0xFFF0000100000000 = .bad ∧
    steer 0xFFE0000000100000 = .bad := by decide

/-- R183: what an atomic writes over an old value; a compare-and-swap writes C where the old value equals B. -/
theorem test_atomics :
    (MemOp.mk (.atom 0) false 2 false 3 0 (.s 4) [] none).newValue ⟨0, 0, 0, 4, 5, 0, .fresh, none, 0, false⟩ 0xFFFFFFFE = 3 ∧
    (MemOp.mk (.atom 4) false 2 true 3 0 (.s 4) [] none).newValue ⟨0, 0, 0, 4, 5, 0, .fresh, none, 0, false⟩ 0xFFFFFFFE = 0xFFFFFFFE ∧
    (MemOp.mk (.atom 4) false 2 false 3 0 (.s 4) [] none).newValue ⟨0, 0, 0, 4, 5, 0, .fresh, none, 0, false⟩ 0xFFFFFFFE = 5 ∧
    (MemOp.mk .cas false 2 false 3 0 (.s 4) [] none).newValue ⟨0, 0, 0, 4, 5, 7, .fresh, none, 0, false⟩ 5 = 7 ∧
    (MemOp.mk .cas false 2 false 3 0 (.s 4) [] none).newValue ⟨0, 0, 0, 4, 5, 7, .fresh, none, 0, false⟩ 6 = 6 := by decide +kernel

/-! ### Engine queues (R207 to R231) -/

/-- A word of block 0 in a queue; the words themselves stand in the statements. -/
def qe : Emitted := ⟨natLe 8 0x7280, 7, 0, 0, .queue, 0, false⟩

/-- Descriptors of slot 0: 64 × 16 .f32 at 0, 32 × 64 .f32 at 0x2000, 64 × 64 .f32 at 0x8000 (R32). -/
def dA : TDesc := BitVec.ofNat 128 (63 * 2 ^ 24 + 15 * 2 ^ 36 + 64 * 2 ^ 48 + 4 * 2 ^ 64)

def dB : TDesc := BitVec.ofNat 128 (0x2000 + 31 * 2 ^ 24 + 63 * 2 ^ 36 + 256 * 2 ^ 48 + 4 * 2 ^ 64)

def dT : TDesc := BitVec.ofNat 128 (0x8000 + 63 * 2 ^ 24 + 63 * 2 ^ 36 + 256 * 2 ^ 48 + 4 * 2 ^ 64)

def tdBlock : Block := { loadedBlock with td := [(0, dA), (1, dB), (2, dT)] }

/-- The small state with a command in the queue of core 0, the block's descriptors, slot 0, a team of 64 lanes, and 64 bytes at
offset 0 of basin 3. -/
def qState (bs : List Byte) : State := (withSlot ((withQ [qe]).setBlock 0 tdBlock)).setTeam 0 { T0 with words := 2 } |>.basinPut 0 3 0 bs

theorem q_issuing (bs : List Byte) (i : Instr) (hp : Place.queue ∈ encPlaces i) : QueueIssuing (qState bs) i 0 qe [] tdBlock := by
  refine ⟨?_, hp, ?_, ?_⟩
  · rfl
  · simp [qState, withSlot, State.setSlot, withQ, State.core, State.setCore, State.setTeam, State.setBlock, State.basinPut, State.setCluster, Core.setSlot]
  · simp [qState, withSlot, State.setSlot, withQ, State.block?, State.setCore, State.setTeam, State.setBlock, State.basinPut, State.setCluster]
    decide +kernel

/-- A copy of one row of 64 bytes from 0x1000 to 0x2000 (R207). -/
def copyBytes : List Byte := natLe 64 (0x1000 + 0x2000 * 2 ^ 64 + 64 * 2 ^ 128 + 1 * 2 ^ 160)

theorem witness_QueueWords :
    QueueIssuing (qState copyBytes) (.copy ⟨0, 0⟩) 0 qe [] tdBlock ∧ (qState copyBytes).slotBasin 0 0 tdBlock.ctx = .ok 3 ∧
    (let d := parseCopy ((qState copyBytes).basinRd 0 3 0 64)
     let r := (qState copyBytes).copyRegions 0 tdBlock.ctx d.1
     d.2 = true ∧ (r.1.any (fun x => (r.2.1 ++ r.2.2).any x.meets) || r.2.2.any (fun x => r.2.1.any x.meets)) = false) ∧
    QueueIssuing (qState []) (.binit ⟨0, 5⟩) 0 qe [] tdBlock ∧
    ((qState []).queueFree 0 [] [⟨some 3, 0, 0, 1, 8, false⟩] = true ∧ (qState []).queueFree 0 [⟨some 3, 0, 0, 1, 8, false⟩] [] = true) ∧
    QueueIssuing (qState []) (.bwaitQueue ⟨0, 0⟩) 0 qe [] tdBlock ∧ (qState []).basinPoisoned 0 3 0 4 = false ∧
    ((qState []).countAt 0 3 0 ≤ 0 ∧ 0 < (qState [5]).countAt 0 3 0) ∧ QueueIssuing (qState []) (.tdsetQueue ⟨15, 0⟩) 0 qe [] tdBlock :=
  ⟨q_issuing _ _ (by decide), by decide +kernel, by decide +kernel, q_issuing _ _ (by decide), by decide +kernel, q_issuing _ _ (by decide),
    by decide +kernel, by decide +kernel, q_issuing _ _ (by decide)⟩

/-- The small state with generator thread 0 and executable memory from address 0 on. -/
def gState (G : Gen) (bs : List Byte) : State := (withG G).withGenWord bs

theorem g_issuing (G : Gen) (bs : List Byte) (i : Instr) (hp : Place.gen ∈ encPlaces i) (hb : G.th.pend = []) :
    GenIssuing (gState G bs) i 0 G := by
  have hg : (gState G bs).gen? 0 = some G := by
    simp [gState, State.withGenWord, State.memWr, withG, State.gen?, State.setGen]
  exact ⟨hg, ⟨rfl, hp, by simp [State.thread?, hg], fun _ => by simp [Thread.busy, hb], fun g _ p h => by simp [hb] at h⟩⟩

/-- QueueWords: `tdset` in the generator place. -/
theorem witness_tdset : GenIssuing (gState G0 [1, 2]) (.tdset ⟨false, 0, 5, .d8 0⟩) 0 G0 ∧
    steer (G0.th.rd 5 + dispVal (.d8 0)) = .global 0 ∧ (gState G0 [1, 2]).genRead (.gen 0) 0 16 = .ok (natLe 16 0x0201) :=
  ⟨g_issuing _ _ _ (by decide) rfl, by decide +kernel, by decide +kernel⟩

def plainExt : QExt := ⟨0, false, 0, false, 0, false, 0, 0, 0, 0, 0, 0, 0⟩

def waitExt : QExt := { plainExt with wbar := 3, wen := true }

def mm (e : QExt) : QMma := ⟨1, 0, 0, 1, e⟩

theorem witness_MatrixWords :
    (∀ i : Instr, i = .mma (mm plainExt) ∨ i = .mmas (mm plainExt) ∨ i = .mmag (mm plainExt) ∨ i = .mma (mm waitExt) ∨
      i = .accld ⟨1, 1, 7, 2, none⟩ ∨ i = .accst ⟨1, 1, 7, 2, none⟩ ∨ i = .acczero ⟨0, 6, none⟩ → QueueIssuing (qState []) i 0 qe [] tdBlock) ∧
    (qState []).behindTdset 0 qe.gen qe.run = false ∧
    ((qState []).mmaCauses (.mma (mm plainExt)) (mm plainExt) tdBlock = [] ∧ (qState []).mmaCauses (.mmas (mm plainExt)) (mm plainExt) tdBlock = [] ∧
      (qState []).mmaCauses (.mmag (mm plainExt)) (mm plainExt) tdBlock = [] ∧ (qState []).accCauses tdBlock (some (2, 1)) 7 false = [] ∧
      (qState []).accCauses tdBlock none 6 true = []) ∧
    (mm plainExt).ext.wen = false ∧ (mm waitExt).ext.wen = true ∧ ((qState []).core 0).head = .fresh := by
  refine ⟨?_, by decide +kernel, by decide +kernel, rfl, rfl, by decide +kernel⟩
  rintro i (rfl | rfl | rfl | rfl | rfl | rfl | rfl) <;> exact q_issuing _ _ (by decide)

/-- The small state with the Weir array of cluster 0 leased to block 0. -/
def weirState : State := { qState [] with clusters := mput .zero (qState []).clusters 0 { (qState []).cluster 0 with weir := .leased 0 [] } }

theorem witness_WeirWords :
    (∀ i : Instr, Place.queue ∈ encPlaces i → QueueIssuing weirState i 0 qe [] tdBlock) ∧ (weirState.cluster 0).weir.lease = some qe.blk ∧
    QueueIssuing (qState []) (.wwin ⟨255⟩) 0 qe [] tdBlock ∧ ((qState []).cluster 0).weir.lease = none ∧ ((qState []).cluster 0).weir.waiting = [] ∧
    (Place.queue ∈ encPlaces (.wcfg ⟨true⟩) ∧ Place.queue ∈ encPlaces (.wload ⟨15, none, none⟩) ∧ Place.queue ∈ encPlaces .wreset ∧
      Place.queue ∈ encPlaces (.wlaunch ⟨15, none, true, 0xFF00⟩) ∧ Place.queue ∈ encPlaces (.wcapture ⟨15, some 3, false, 0xFFFF⟩)) := by
  refine ⟨fun i hp => ?_, by decide +kernel, q_issuing _ _ (by decide), by decide +kernel, by decide +kernel, by decide⟩
  exact ⟨rfl, hp, (q_issuing [] i hp).head, (q_issuing [] i hp).block⟩

/-- R207: the fields of a descriptor; a second row without a stride kind is illegal. -/
theorem test_copy_descriptor : (parseCopy copyBytes).2 = true ∧ (parseCopy copyBytes).1.rowlen = 64 ∧ (parseCopy copyBytes).1.dst = 0x2000 ∧
    (parseCopy (natLe 64 (64 * 2 ^ 128 + 2 * 2 ^ 160))).2 = false := by decide +kernel

/-- R32, R34, R300: the row length and pitch of a descriptor, and a byte in a swizzled row. -/
theorem test_descriptor : TDesc.rlen dT = 256 ∧ TDesc.rows dT = 64 ∧ TDesc.pitch 0 = 65536 ∧ TDesc.bad dT = false ∧
    TDesc.bad (BitVec.ofNat 128 (0xC004 + 63 * 2 ^ 24 + 63 * 2 ^ 36 + 256 * 2 ^ 48 + 4 * 2 ^ 64)) = true ∧
    TDesc.at (dT + BitVec.ofNat 128 (2 ^ 72)) 3 0x10 = 0x8000 + 768 + 0x20 := by decide +kernel

/-! ### The Stoker's words (R235 to R244) -/

/-- The 64-bit `nop` word, and a thread with it in s10, whose open segment lies on core 0 at offset 64. -/
def nopWord : List Byte := natLe 8 0x7280

def emitGen : Gen := { Gs [(10, 0x7280), (11, 0x7280)] with open? := some ⟨1, 5, 64, 64, 0, [], 0⟩ }

def emitSeg : OpenSeg := ⟨1, 5, 64, 64, 0, [], 0⟩

theorem witness_EmitWords :
    emitGen.emitting = none ∧ emitGen.th.fenced = false ∧ [nopWord] ≠ [] ∧ (∀ w ∈ [nopWord], OneWord w) ∧ emitGen.open? = some emitSeg ∧
    (SegFits emitSeg [nopWord] ∧ FlueFree (gState emitGen nopWord) 0 1 [nopWord]) ∧
    (regWord emitGen.th 10 = .ok [nopWord].flatten ∧ regRun emitGen.th 10 8 = .ok [nopWord].flatten ∧
      (gState emitGen nopWord).wordsAt (.gen 0) (emitGen.th.rd 5) 8 = .ok [nopWord].flatten) ∧
    (GenIssuing (gState emitGen nopWord) (.emit ⟨false, 10⟩) 0 emitGen ∧ GenIssuing (gState emitGen nopWord) (.emitRegs ⟨false, 10, 8⟩) 0 emitGen ∧
      GenIssuing (gState emitGen nopWord) (.emitm ⟨false, 5, 8⟩) 0 emitGen ∧ GenIssuing (gState emitGen nopWord) (.emitq ⟨false, 10, 0⟩) 0 emitGen ∧
      GenIssuing (gState emitGen nopWord) (.emitqMulti ⟨false, 5, 1, 8⟩) 0 emitGen) := by
  refine ⟨rfl, by decide +kernel, by decide, ?_, rfl, ⟨?_, ?_⟩, by decide +kernel, ?_⟩
  · intro w hw
    rw [List.mem_singleton.mp hw]
    unfold OneWord
    decide +kernel
  · unfold SegFits; decide +kernel
  · unfold FlueFree FlueQuiet; decide +kernel
  · exact ⟨g_issuing _ _ _ (by decide) rfl, g_issuing _ _ _ (by decide) rfl, g_issuing _ _ _ (by decide) rfl, g_issuing _ _ _ (by decide) rfl,
      g_issuing _ _ _ (by decide) rfl⟩

def esegWord : GEseg := ⟨false, 4, 1, 0, 64⟩

/-- A state whose core 0 has no offset left: one open segment of another thread covers the code store. -/
def crowded : State := (gState G0 []).setCluster 0 { (gState G0 []).cluster 0 with segs := [⟨0, 1, 1, 1, 0, 0, 196608, [], false⟩] }

/-- SegmentWords: `eseg`, with room, a cached segment, and no offset left. -/
theorem witness_SegmentWords_open :
    (GenIssuing (gState G0 []) (.eseg esegWord) 0 G0 ∧ G0.open? = none ∧
      (maskCores 0 1).all (fun c => (gState G0 []).coreRuns c G0.ctx) = true) ∧
    (gState G0 []).offFree 0 1 64 1024 = true ∧
    (((gState G0 []).setCluster 0 { (gState G0 []).cluster 0 with segs := [⟨0, 0, 1, 1, 9, 32, 64, [0], true⟩] }).cachedSeg 0 0 9 1).isSome = true ∧
    (crowded.cur = some (.gen 0) ∧ crowded.gen? 0 = some G0 ∧ crowded.segOffsets 0 1 64 = []) := by
  refine ⟨⟨g_issuing _ _ _ (by decide) rfl, rfl, by decide +kernel⟩, by decide +kernel, by decide +kernel, rfl, ?_, ?_⟩
  · simp [crowded, gState, State.withGenWord, State.memWr, withG, State.gen?, State.setGen, State.setCluster]
  · decide +kernel

/-- A thread with an open segment of one word at offset 64, and the small state with that word in the code store and a sealed segment. -/
def patchGen : Gen := { G0 with open? := some ⟨1, 5, 64, 64, 8, [0], 0⟩ }

def patchState (G : Gen) : State := (gState G []).setCluster 0 { (gState G []).cluster 0 with segs := [⟨0, 0, 1, 1, 0, 0, 32, [0], true⟩] }

def tgoState : State := (patchState G0).setBlock 0 { loadedBlock with teams := [(0, 0)] }

theorem witness_SegmentWords :
    (GenIssuing (gState patchGen []) (.eseal ⟨false, 4⟩) 0 patchGen ∧ patchGen.open? = some ⟨1, 5, 64, 64, 8, [0], 0⟩) ∧
    (GenIssuing (gState patchGen []) (.epatch ⟨false, 5, 6, 0, 0⟩) 0 patchGen ∧ patchGen.th.rd 5 = 0 ∧
      (gState patchGen []).segInFlue 0 1 64 64 = false ∧ (gState patchGen []).patchShort 0 64 0 = false) ∧
    (let h := (Seg.mk 0 0 1 1 0 0 32 [0] true).handle
     h ≠ 0 ∧ (patchState (Gs [(5, h)])).segByHandle 0 0 h = some ⟨0, 0, 1, 1, 0, 0, 32, [0], true⟩ ∧
       (patchState (Gs [(5, h)])).patchShort 0 0 0 = false ∧ (patchState (Gs [(5, h)])).cur = some (.gen 0) ∧
       (patchState (Gs [(5, h)])).gen? 0 = some (Gs [(5, h)]) ∧ maskCores 0 1 = [0] ∧
       tgoState.segByHandle 0 0 h = some ⟨0, 0, 1, 1, 0, 0, 32, [0], true⟩ ∧ bitAt 1 (0 / 256 % 8) = true) ∧
    (GenIssuing (gState G0 []) (.eprov ⟨false, 4, 5⟩) 0 G0 ∧ GenIssuing (gState G0 []) (.estat ⟨false, 4, 3⟩) 0 G0) := by
  refine ⟨⟨g_issuing _ _ _ (by decide) rfl, rfl⟩, ⟨g_issuing _ _ _ (by decide) rfl, by decide +kernel, by decide +kernel, by decide +kernel⟩, ?_,
    g_issuing _ _ _ (by decide) rfl, g_issuing _ _ _ (by decide) rfl⟩
  decide +kernel

/-! ### System words and traps (R20 to R25, R245 to R256) -/

def sysWords : List Instr :=
  [.svc ⟨false, 7, 2047, 4, 8, 4⟩, .vgrow ⟨false, 4, 31⟩, .vshrink ⟨false, 4, 31⟩, .brk ⟨false, 2047⟩, .getsr ⟨false, 4, 0⟩, .getsr ⟨false, 4, 2047⟩,
   .setsr ⟨false, 4, 8⟩, .setsr ⟨false, 4, 9⟩, .setsr ⟨false, 4, 10⟩, .strap ⟨false, 2047⟩, .rfh ⟨false⟩]

def smallTeam : Team := { T0 with vregs := 8 }

/-- SystemWords and SpecialRegisters. -/
theorem witness_SystemWords :
    (∀ i ∈ sysWords, TeamIssuing (withT T0) i 0 T0 ∧ i.wf = true) ∧ SSvc.ok ⟨false, 7, 2047, 254, 248, 4⟩ T0 = true ∧
    (T0.active 7 ≠ [] ∧ (Ts [(144, 0)]).active 7 = [] ∧ SSvc.ok ⟨false, 7, 0, 4, 8, 0⟩ (Ts [(144, 0)]) = true) ∧
    (8 + 8 * 31 ≤ T0.vregs ∧ T0.th.busy = false) ∧ TeamIssuing (withT smallTeam) (.vgrow ⟨false, 4, 31⟩) 0 smallTeam ∧
    (smallTeam.vregs + 8 * 31 ≤ 256 ∧ 128 * smallTeam.words * (smallTeam.vregs + 8 * 31) ≤ 2097152) ∧
    (((withT T0).ctx 0).debugger = false ∧ (((withT T0).setCtx 0 { (withT T0).ctx 0 with debugger := true }).ctx 0).debugger = true) ∧
    (((withT T0).sr (.team 0) 1).isSome = true ∧ (withT T0).sr (.team 0) 2047 = none) :=
  ⟨all_issuing _ (by decide +kernel) _ (by decide +kernel), by decide +kernel, by decide +kernel, by decide +kernel,
    team_issuing _ _ (by decide) (fun _ => by decide +kernel), by decide +kernel, by decide +kernel, by decide +kernel⟩

/-- The small state with a handler image entry at 0x4000, and a team in its handler. -/
def handlerState (T : Team) : State := (withT T).setCtx 0 { (withT T).ctx 0 with run := { ((withT T).ctx 0).run with hentry := 0x4000 } }

def trapped : Team := { T0 with hcause := 0x10005, hpc := 64, hmbase := 144, hmsave := [0xFFFFFFFF], th := { T0.th with pc := 0x4000 } }

theorem handler_issuing (T : Team) (i : Instr) (hp : Place.team ∈ encPlaces i) (hb : T.th.busy = false) :
    TeamIssuing (handlerState T) i 0 T := by
  have ht : (handlerState T).team? 0 = some T := by simp [handlerState, withT]
  exact ⟨ht, ⟨rfl, hp, by simp [State.thread?, ht], fun _ => hb, fun g h => by cases h⟩⟩

/-- The same context with a generator handler. -/
def ghState (s : State) : State := s.setCtx 0 { s.ctx 0 with run := { (s.ctx 0).run with gh := true } }

/-- TrapEntry and its cases: a handler, inside one, none; a generator thread without a handler and with one. -/
theorem witness_TrapEntry :
    (TeamIssuing (handlerState T0) (.strap ⟨false, 5⟩) 0 T0 ∧ T0.th.pend = [] ∧ T0.hcause = 0 ∧ ((handlerState T0).ctx T0.ctx).run.hentry ≠ 0 ∧
      (handlerState T0).releaseOk (.team 0) [] 4 = true) ∧
    (TeamIssuing (handlerState trapped) (.strap ⟨false, 5⟩) 0 trapped ∧ trapped.hcause ≠ 0) ∧
    (TeamIssuing (withT T0) (.strap ⟨false, 5⟩) 0 T0 ∧ ((withT T0).ctx T0.ctx).run.hentry = 0) ∧
    (GenIssuing (withG G0) (.strap ⟨false, 5⟩) 0 G0 ∧ ((withG G0).ctx G0.ctx).run.gh = false ∧ ((withG G0).ctx G0.ctx).mode = .running) ∧
    (GenIssuing (ghState (withG G0)) (.strap ⟨false, 5⟩) 0 G0 ∧ ((ghState (withG G0)).ctx G0.ctx).run.gh = true) :=
  ⟨⟨handler_issuing _ _ (by decide) (by decide +kernel), rfl, rfl, by decide +kernel, by decide +kernel⟩,
    ⟨handler_issuing _ _ (by decide) (by decide +kernel), by decide⟩, ⟨team_issuing _ _ (by decide) (fun _ => by decide +kernel), by decide +kernel⟩,
    ⟨gen_issuing _ _ (by decide) rfl, by decide +kernel, by decide +kernel⟩, ⟨by
      have hg : (ghState (withG G0)).gen? 0 = some G0 := by simp [ghState, withG, State.gen?, State.setGen, State.setCtx]
      exact ⟨hg, ⟨rfl, by decide, by simp [State.thread?, hg], fun _ => by decide, fun g _ p h => by simp [G0, Thread.zero] at h⟩⟩, by decide +kernel⟩⟩

/-- TrapReturn: `rfh` outside a handler and in one. -/
theorem witness_TrapReturn :
    (TeamIssuing (withT T0) (.rfh ⟨false⟩) 0 T0 ∧ T0.hcause = 0) ∧
    (TeamIssuing (handlerState trapped) (.rfh ⟨false⟩) 0 trapped ∧ trapped.hcause ≠ 0 ∧ trapped.th.busy = false ∧
      (handlerState trapped).releaseOk (.team 0) trapped.th.pend 4 = true) :=
  ⟨⟨team_issuing _ _ (by decide) (fun _ => by decide +kernel), rfl⟩,
    ⟨handler_issuing _ _ (by decide) (by decide +kernel), by decide, by decide +kernel, by decide +kernel⟩⟩

/-- R25, R251: a strap saves the PC, MBASE, mask and cause; `rfh` resumes past it. -/
theorem test_trap :
    (match exec (.strap ⟨false, 5⟩) (handlerState T0) with
     | .next t => (t.team? 0).map fun T => (T.th.pc, T.hcause, T.hpc, T.hmbase, T.hmsave)
     | _ => none) = some (0x4000, 0x10005, 0, 144, [0xFFFFFFFF]) ∧
    (match exec (.rfh ⟨false⟩) (handlerState trapped) with
     | .next t => (t.team? 0).map fun T => (T.th.pc, T.hcause, T.th.rd 144)
     | _ => none) = some (72, 0, 0xFFFFFFFF) := by decide +kernel

/-- R20: special registers; a write to one that is not MODE or FPFLAGS is an illegal field value (cause 0x0008). -/
theorem test_special :
    (after (Ts [(4, 0xFFFFFFFF)]) (.setsr ⟨false, 4, 9⟩)).map (·.th.flags) = some 0x1F ∧
    (after (Ts [(4, 6)]) (.setsr ⟨false, 4, 8⟩)).map (·.th.rm) = some 2 ∧
    (match exec (.setsr ⟨false, 4, 10⟩) (withT T0) with
     | .next t => decide ((t.ctx 0).cause = 8)
     | _ => false) = true := by decide +kernel

/-! ### Turns, waits and outstanding work (R257 to R263, R290, R291) -/

/-- Partition 0 with cluster 0 and a frame pool at 0x300000 that holds one frame, and page tables in which the first page of the second
16 GiB is first-touch (R399, R403). -/
def pState (s : State) : State :=
  { (((((s.setPart 0 { s.part 0 with exists_ := true, clusters := [0], pages := [0], ftpbase := 0x300000, ftplg := 4 }).memWr loadedRoot (natLe 8 loadedLeaf)).memWr
    (loadedRoot + 8) (natLe 8 (2 ^ 63 + 0x200000))).memWr 0x200000 (natLe 8 (2 ^ 62 + 2 * 2 ^ 60))).memWr 0x300000 (natLe 8 0)).memWr 0x300008 (natLe 8 1) with
    cur := s.cur }

def ftMem : MemOp := ⟨.ld, true, 2, false, 0, 0, .v 4, [⟨5, 0x400000000, 0, 4, 0, 0, .fresh, none, 0, false⟩], none⟩

/-- The context's tables also show the second-level table at 0x200000 and the pool at 0x300000. -/
def withWin (s : State) (ptwin : W64) : State :=
  s.setCtx 0 { s.ctx 0 with run := { (s.ctx 0).run with hentry := 0x4000, ptwin := ptwin, ftpva := 0x300000 } }

/-- The small state with a change to context 0. -/
def onCtx (s : State) (f : Ctx → Ctx) : State := s.setCtx 0 (f (s.ctx 0))

/-- Team 0 in a status, or with outstanding work. -/
def inSt (st : Status) : Team := { T0 with status := st }

def pended (ps : List Pend) : Team := { T0 with th := { T0.th with pend := ps } }

theorem witness_TurnEvents :
    ((gState G0 nopWord).canIssue (.gen 0) = true ∧ (gState G0 nopWord).fetch (.gen 0) = .ok (some (.nop ⟨false, 0⟩))) ∧
    (let G : Gen := { G0 with th := { G0.th with pc := 0x400000000 } }
     (gState G nopWord).canIssue (.gen 0) = true ∧ (gState G nopWord).fetch (.gen 0) = .error 4) ∧
    (qState []).canIssue (.queue 0) = true ∧
    (let s := withWin (pState (withG { G0 with th := { G0.th with pc := 0x400000000 } })) 0
     s.canIssue (.gen 0) = false ∧ s.fetch (.gen 0) = .error 1 ∧ s.canFill 0 = true) ∧
    ((withG { G0 with status := .exited }).canIssue (.gen 0) = false ∧ ((withG G0).core 0).queue = [] ∧
      ((qState []).setCtx 0 { (qState []).ctx 0 with mode := .halted }).ctxRuns 0 = false) ∧
    (let T := inSt (.parked .marker)
     let s := withT T
     let u := s.setTeam 0 { T with status := .ready }
     s.team? 0 = some T ∧ T.th.busy = false ∧ (u.slotChoice 0 0).map Prod.fst = some 0 ∧
       ((u.setCtx 0 { u.ctx 0 with mode := .halted }).slotChoice 0 3) = none) ∧
    ((withT T0).slotReady 3 0 T0 = true ∧ (withT (inSt .stopped)).slotReady 0 0 (inSt .stopped) = false ∧ T0.boost = none) := by decide +kernel

/-- The agent waits for `w` with a monitor. -/
def waits (w : Wait) (mon : Monitor) : State := withT { inSt (.parked w) with th := { T0.th with mon := mon } }

theorem witness_WakeEvents :
    ((waits .retry .none).thread? (.team 0) = some T0.th ∧ (waits .retry .none).agentCtx? (.team 0) = some 0 ∧ (waits .retry .none).ctxRuns 0 = true) ∧
    (T0.th.counter .gl ≤ (0#64).toNat ∧ (254#64).toNat < fullTeam.th.counter .gl) ∧
    ((waits (.mwait 4 1000) .triggered).status? (.team 0) = some (.parked (.mwait 4 1000)) ∧
      (waits (.mwait 4 1000) .triggered).gtime < 1000 ∧ (0#64).toNat ≤ (waits (.mwait 4 1000) .triggered).gtime) ∧
    (let T : Team := { inSt (.parked (.bar 3 0)) with tokens := [(3, true)] }
     (withT T).block? T.blk = some loadedBlock ∧ lget T.tokens 3 = some true ∧ T.th.arriving 3 = false ∧ (loadedBlock.bar 3).ph ≠ true) ∧
    (let s := withSlot (withT (inSt (.parked (.take 4 0))))
     ((s.core 0).slot 0).mode = 1 ∧ ((s.core 0).slot 0).owner = s.cid 0) ∧
    (let s := withSlot (withT (inSt (.parked (.bwait 4 0xFFE0000000000008))))
     steer 0xFFE0000000000008 = .basin 0 8 ∧ s.slotBasin 0 0 0 = .ok 3 ∧ s.basinPoisoned 0 3 8 4 = false ∧ s.countAt 0 3 8 ≤ 0) ∧
    (withG { G0 with status := .parked (.eseg 1 64) }).segOffsets 0 1 64 ≠ [] ∧
    (let s := withG { G0 with status := .parked .exit }
     (∀ n < 8, ∀ e ∈ (s.core n).flue, e.gen ≠ 0) ∧ ∀ q ∈ s.teams, q.2.blk = 0 → q.2.status ≠ .allocated) := by decide +kernel

/-- A word outstanding at PC 8. -/
def pw (w : Work) : Pend := ⟨1, 8, 0, w, [], false⟩

/-- The small state with memory mapped as in `gState`, and team 0 with outstanding work. -/
def mState (ps : List Pend) : State := (withT (pended ps)).memWr loadedRoot (natLe 8 loadedLeaf) |>.memWr 0x40 [1, 2, 3, 4]

/-- The same with the line of address 0 in the L1 of core 0. -/
def lState (ps : List Pend) : State := (mState ps).setLine 0 0 .s

def oneLane (k : MemKind) (dst : Dest) (addr : W64) (st : LaneStage) : MemOp := ⟨k, false, 2, false, 0, 0, dst, [⟨0, addr, 0, 4, 7, 0, st, none, 0, false⟩], none⟩

theorem witness_AccessEvents :
    (let p := pw (.result [.s 4 1, .v 2 0 5] 3)
     (mState [p]).thread? (.team 0) = some (pended [p]).th ∧ (pended [p]).th.pend[0]? = some p ∧ (pended [p]).th.shadowed 0 p.work = false ∧
       RegWrite.inWord 31 (.v 2 0 5) = true ∧ RegWrite.inWord 32 (.v 2 0 5) = false) ∧
    (let m := oneLane .ld (.s 4) 0x40 .fresh
     (mState [pw (.mem m)]).spotOf (.team 0) m ⟨0, 0x40, 0, 4, 7, 0, .fresh, none, 0, false⟩ = .ok (.mem [0x40, 0x41, 0x42, 0x43] 0) ∧
       (mState [pw (.mem m)]).spotNow (.team 0) m ⟨0, 0x40, 0, 4, 7, 0, .fresh, none, 0, false⟩ = .ok (.mem [0x40, 0x41, 0x42, 0x43] 0) ∧
       ((mState [pw (.mem m)]).spotNow (.team 0) m ⟨0, 0xFFD0000000000000, 0, 4, 7, 0, .fresh, none, 0, false⟩).toOption = none) ∧
    (let m := oneLane .ld (.s 4) 0x40 .checked
     let p := pw (.mem m)
     (lState [p]).orderOk (.team 0) (pended [p]).th 0 m ⟨0, 0x40, 0, 4, 7, 0, .checked, none, 0, false⟩ (.mem [0x40, 0x41, 0x42, 0x43] 0) = true ∧
       (lState [p]).loadBytes 0 [0x40, 0x41, 0x42, 0x43] = some ([1, 2, 3, 4], false)) ∧
    (let m := oneLane .st .none 0x40 .checked
     let p := pw (.mem m)
     (mState [p]).orderOk (.team 0) (pended [p]).th 0 m ⟨0, 0x40, 0, 4, 7, 0, .checked, none, 0, false⟩ (.mem [0x40, 0x41, 0x42, 0x43] 0) = true ∧
       (pushStores (.team 0) 0 false ((mState [p]).sbuf 0) ([0x40, 0x41, 0x42, 0x43].zip (natLe 8 7))).isSome = true) ∧
    (let m := oneLane (.atom 0) (.s 4) 0x40 .checked
     let p := pw (.mem m)
     (mState [p]).orderOk (.team 0) (pended [p]).th 0 m ⟨0, 0x40, 0, 4, 7, 0, .checked, none, 0, false⟩ (.mem [0x40, 0x41, 0x42, 0x43] 0) = true ∧
       (mState [p]).lineFlushed (.team 0) 0 true = true) ∧
    (let m := oneLane .st .none 0xFFE0000000000008 .checked
     let p := pw (.mem m)
     let s := withSlot (mState [p])
     s.spotOf (.team 0) m ⟨0, 0xFFE0000000000008, 0, 4, 7, 0, .checked, none, 0, false⟩ = .ok (.basin 0 3 8 4) ∧
       s.orderOk (.team 0) (pended [p]).th 0 m ⟨0, 0xFFE0000000000008, 0, 4, 7, 0, .checked, none, 0, false⟩ (.basin 0 3 8 4) = true) := by decide +kernel

def sEntry : SEntry := ⟨2, [(1, some 9)], [.team 0], 0, false⟩

/-- WakeEvents: both sides of each wait: an access or fence outstanding, a counter, a barrier phase, a slot and a COUNT. -/
theorem witness_WakeCases :
    (let T := { inSt (.parked .older) with th := { T0.th with pend := [pw (.mem (oneLane .ld (.s 4) 0x40 .fresh))] } }
     (withT T).status? (.team 0) = some (.parked .older) ∧ T.th.busy = true ∧ T0.th.busy = false ∧ (∃ q ∈ T.th.pend, q.mayFault = true) ∧
       (∀ q ∈ T0.th.pend, q.mayFault = false)) ∧
    (CountersFree T0.th [.gl] ∧ ¬CountersFree fullTeam.th [.gl]) ∧
    ((withT T0).releaseOk (.team 0) T0.th.pend 4 = true ∧ (base.setSbuf 0 [sEntry]).releaseOk (.team 0) [] 4 = false) ∧
    (let acq := pended [pw (.mem { oneLane .ld (.s 4) 0x40 .checked with ord := 1 }), ⟨2, 16, 0, .held (.fence 0 1), [], false⟩]
     (withT acq).fencePassed (.team 0) acq.th 2 = false ∧ (withT acq).fencePassed (.team 0) acq.th 3 = true) ∧
    (let th := { T0.th with mon := .armed 0 }
     th.marming = false ∧ (5#64).toNat ≤ ({ base with gtime := 5 } : State).gtime ∧ ({ base with gtime := 4 } : State).gtime < (5#64).toNat ∧
       (pended [pw (.mem (oneLane .marm .none 0x40 .checked))]).th.marming = true) ∧
    (let B := loadedBlock.setBar 3 ⟨true, 0, 2, 4⟩
     (B.bar 3).ph ≠ false ∧ (B.bar 3).flips ≠ 3 ∧ ((B.bar 3).ph = true ∧ (B.bar 3).flips = 4) ∧
       (pended [pw (.held (.barArrive 3 2))]).th.arriving 3 = true) ∧
    (((withT T0).core 0).slot 0).mode = 0 ∧
    ((withT T0).slotBasin 0 0 0 = .error 5 ∧ (withSlot (withT T0)).slotBasin 0 0 0 = .ok 3) ∧
    (let p := pw (.mem (oneLane .st .none 0xFFE0000000000008 .checked))
     (withSlot (mState [p])).olderOk (.team 0) [p] true (.basin 0 3 8 4) = false ∧
       (withSlot (mState [])).olderOk (.team 0) [] true (.basin 0 3 8 4) = true) ∧
    (((withSlot (withT T0)).basinWr 0 3 8 (natLe 4 1)).countAt 0 3 8 = 1 ∧ ((withSlot (withT T0)).basinWr 0 3 8 (natLe 4 0)).countAt 0 3 8 = 0) ∧
    (let s := (withG { G0 with status := .parked .exit }).setTeam 1 { T0 with status := .allocated }
     (∃ q ∈ s.teams, q.2.blk = 0 ∧ q.2.status = .allocated) ∧ (∀ q ∈ s.teams, (s.team? q.1).any (fun T => decide (T = q.2)) = true)) := by
  refine ⟨by decide +kernel, ⟨by unfold CountersFree; decide +kernel, by unfold CountersFree; decide +kernel⟩, by decide +kernel, by decide +kernel,
    by decide +kernel, by decide +kernel, by decide +kernel, by decide +kernel, by decide +kernel, by decide +kernel, by decide +kernel⟩

/-- AccessEvents: a store behind an older one of its core, a full buffer, an access held back, a request in its unit, and the basin forms. -/
theorem witness_AccessCases :
    (let p : Pend := { pw (.mem (oneLane .st .none 0x40 .checked)) with id := 9 }
     let q : Pend := { p with id := 1 }
     (mState [q]).storesBefore 0 p.id = true ∧ (mState [p]).storesBefore 0 p.id = false ∧
       pushStores (.team 0) 0 false (List.replicate 32 sEntry) [(0x4000, 1)] = none ∧
       (mState [q, p]).orderOk (.team 0) (pended [q, p]).th 1 (oneLane .ld (.s 4) 0x40 .checked) ⟨0, 0x40, 0, 4, 7, 0, .checked, none, 0, false⟩
         (.mem [0x40, 0x41, 0x42, 0x43] 0) = false) ∧
    (let q : AtomReq := ⟨0, 0x40, .team 0, 1, 0, false⟩
     let s : State := { mState [pw (.mem (oneLane (.atom 0) (.s 4) 0x40 .sent))] with atomq := [⟨1, 0x80, .team 0, 7, 0, false⟩, q] }
     (s.atomq.find? fun x => decide (x.unit = q.unit)) = some q ∧ (∀ x ∈ s.atomq, x.unit ≠ 2)) ∧
    (∀ k ∈ ([.ld, .st, .cas, .atom 0, .scadd 0] : List MemKind), let m := oneLane k .none 0xFFE0000000000008 .checked
      let p := pw (.mem m)
      let s := withSlot (mState [p])
      steer 0xFFE0000000000008 = .basin 0 8 ∧ 8 + 2 ^ m.wid ≤ 65536 ∧
        s.orderOk (.team 0) (pended [p]).th 0 m ⟨0, 0xFFE0000000000008, 0, 4, 7, 0, .checked, none, 0, false⟩ (.basin 0 3 8 4) = true ∧
        s.spotOf (.team 0) m ⟨0, 0xFFE0000000000008, 0, 4, 7, 0, .checked, none, 0, false⟩ = .ok (.basin 0 3 8 4)) ∧
    (let s := withSlot (mState [])
     s.basinPoisoned 0 3 8 8 = false ∧ (5 ≤ (7#64).toNat % 2 ^ 32 ∧ (7#64).toNat % 2 ^ 32 < 8)) := by decide +kernel

/-- What team 0 holds after an event. -/
def teamAfter (s : State) (i : Instr) : Option Team :=
  match exec i s with
  | .next t => t.team? 0
  | _ => none

/-- The byte of memory at an address after an event. -/
def memAfter (s : State) (i : Instr) (pa : Nat) : Option Byte :=
  match exec i s with
  | .next t => some (t.mem8 pa)
  | _ => none

/-- R12, R23: a result and its flags return; a load returns the little-endian bytes; an atomic unit adds at its target. -/
theorem test_access_events :
    (teamAfter (mState [pw (.result [.s 4 1, .v 2 0 5] 3)]) (.variableLatencyResult (.team 0) 0 none)).map
      (fun T => (T.th.rd 4, T.vr 2 0, T.th.flags, T.th.pend)) = some (1, 5, 3, []) ∧
    (teamAfter (lState [pw (.mem (oneLane .ld (.s 4) 0x40 .checked))]) (.variableLatencyResult (.team 0) 0 none)).map
      (fun T => T.th.rd 4) = some 0x04030201 ∧
    memAfter { mState [pw (.mem (oneLane (.atom 0) (.s 4) 0x40 .sent))] with atomq := [⟨0, 0x40, .team 0, 1, 0, false⟩] } (.atomicUnitOp 0) 0x40 = some 8 := by
  decide +kernel

/-- R309: the request in the unit is the one its lane sent. -/
theorem witness_AtomicUnit :
    let p := pw (.mem (oneLane (.atom 0) (.s 4) 0x40 .sent))
    let s : State := { mState [p] with atomq := [⟨0, 0x40, .team 0, 1, 0, false⟩] }
    s.atomq = ⟨0, 0x40, .team 0, p.id, 0, false⟩ :: [] ∧ s.thread? (.team 0) = some (pended [p]).th := by decide +kernel

/-! ### Faults, stores, engines, flues and dispatch -/

/-- A `vbin` whose count word of cell 7 lies beyond the basin. -/
def binM : MemOp := ⟨.bin, true, 2, false, 0, 0, .v 4, [⟨3, 0xFFE000000000FFF0, 0, 4, 7, 0, .checked, none, 0, false⟩], some (100, 5)⟩

/-- Thread 0 waits at a first-touch page whose leaf stands at 0x200000. -/
def fillS : State := withWin (pState (withG { G0 with th := { G0.th with pc := 0x400000000 } })) (0x200000 - 8 * 0x40000)

theorem witness_FaultEvents :
    (let p := pw (.mem ftMem)
     let s := pState (handlerState (pended [p]))
     s.team? 0 = some (pended [p]) ∧ s.spotNow (.team 0) ftMem ⟨5, 0x400000000, 0, 4, 0, 0, .fresh, none, 0, false⟩ = .error 1 ∧ (s.part 0).ft = false ∧
       (∀ x ∈ ftMem.lanes, x.stage = .fresh ∧ x.poisoned = false) ∧ ftMem.faultWaits ((pended [p]).th.shadowed 0 p.work) = false ∧ ftMem.doneLanes = [] ∧
       s.poolHas 0 = true ∧ (s.ctx 0).run.hentry ≠ 0) ∧
    (let p := pw (.mem binM)
     (∀ x ∈ binM.lanes, binM.binBad x = true ∧ x.poisoned = false) ∧ binM.faultWaits ((pended [p]).th.shadowed 0 p.work) = false ∧ binM.openLanes = [3]) ∧
    (let m := oneLane .ld (.s 4) 0x40 (.performed 5 true)
     let p := pw (.mem m)
     (pended [p]).th.shadowed 0 p.work = false ∧ p.finished = false ∧
       (mState [p]).spotOf (.team 0) m ⟨0, 0x40, 0, 4, 7, 0, .performed 5 true, none, 0, false⟩ ≠ .ok .nothing) ∧
    (let G := { G0 with th := { G0.th with pend := [pw (.mem (oneLane .ld (.s 4) 0x7FFFFFFF0000 .fresh))] } }
     (gState G []).ctxRuns 0 = true ∧ G.th.pend.findIdx? Pend.unchecked = some 0 ∧ G0.th.pend.any Pend.unchecked = false ∧
       (gState G []).spotNow (.gen 0) (oneLane .ld (.s 4) 0x7FFFFFFF0000 .fresh) ⟨0, 0x7FFFFFFF0000, 0, 4, 7, 0, .fresh, none, 0, false⟩ = .error 4 ∧
       (withG G0).canIssue (.gen 0) = true ∧ ¬(onCtx (withG G0) fun c => { c with mode := .halted }).ctxRuns 0 = true ∧
       (withG { G0 with status := .exited }).canIssue (.gen 0) = false) ∧
    (fillS.ctxRuns 0 = true ∧ fillS.canFill 0 = true ∧ fillS.filler 0 0x40000 = some (.inl 0) ∧
      fillS.walk 0 (fillS.ctx 0).run.root (fillS.ctx 0).run.rsplit 0x400000000 = .error 1 ∧ (withWin (pState (withG G0)) 0).filler 0 0x40000 = none) ∧
    (fillS.fillPa 0 0x200000 .read = .ok 0x200000 ∧ fillS.fillPa 0 0x200000 .rmw = .ok 0x200000 ∧ fillS.fillPa 0 0x300000 .read = .ok 0x300000 ∧
      fillS.fillPa 0 0x300008 .read = .ok 0x300008 ∧ fillS.fillPa 0 0x300040 .read = .ok 0x300040 ∧ fillS.fillPa 0 0x7FFFFFFF0000 .read = .error 4 ∧
      bitAt (leNat (fillS.memRd 0x200000 8)) 63 = false ∧ bitAt (leNat (fillS.memRd 0x200000 8)) 51 = false ∧
      leNat (fillS.memRd 0x300000 8) ≠ leNat (fillS.memRd 0x300008 8)) := by decide +kernel

/-- The example of R404: TAKE 0x11, the frame 0x12_3450_0000, the entry before 0x6C00_0000_0000_0000 and after 0xAC00_0012_3450_0000; the
steps of a thread that waits for the page. -/
theorem test_fill :
    (let s := ((((pState (withG { G0 with th := { G0.th with pc := 0x400000000 } })).memWr 0x200000 (natLe 8 0x6C00000000000000)).memWr
       0x300000 (natLe 8 0x11)).memWr 0x300008 (natLe 8 0x12)).memWr 0x300048 (natLe 8 0x1234500000)
     let t := (withWin s (0x200000 - 8 * 0x40000)).fill 0 0x400000000
     (leNat (t.memRd 0x300000 8), leNat (t.memRd 0x200000 8))) = (0x12, 0xAC00001234500000) := by decide +kernel

def cEntry : CEntry := ⟨0, [(65, some 9)], 0, false, 0, 0, 0, []⟩

def giveP : Pend := pw (.held (.give 4 0 1 5 .draining))

/-- One entry in the cistern of cluster 0, and the same 2,048 cycles of core 0 later. -/
def cisternS : State := base.setCluster 0 { base.cluster 0 with cistern := [cEntry] }

def agedS : State := { cisternS with cycles := [(0, 2048000)] }

theorem witness_StoreEvents :
    (let s := base.setSbuf 0 [sEntry]
     s.sbuf 0 = sEntry :: [] ∧ (s.cluster 0).cistern = [] ∧ ∀ x ∈ sEntry.bytes, mget none sEntry.bytes x.1 = x.2) ∧
    (∀ x ∈ sEntry.bytes, x.1 < 32 ∧ x.2.isSome = true) ∧
    (cisternS.cur = base.cur ∧ (cisternS.cluster 0).cistern.find? (fun f => decide (f.line = 0)) = some cEntry ∧ cEntry.draining = false ∧
      cisternS.line 0 0 = .i ∧ (cisternS.setLine 0 0 .e).line 0 0 = .e ∧ cisternS.drainCause 0 0 = false ∧
      ¬cEntry.since + 2048 ≤ cisternS.holderClock 0 ∧ agedS.holderClock 0 = cEntry.since + 2048) ∧
    (let cs : List CEntry := (List.range 48).map fun l => { cEntry with line := l }
     let s := base.setCluster 0 { base.cluster 0 with cistern := cs }
     (s.cluster 0).cistern.length = 48 ∧ s.drainCause 0 0 = true ∧ s.drainCause 0 1 = false) ∧
    (let s := withSlot (withT (pended [giveP]))
     s.team? 0 = some (pended [giveP]) ∧ (∀ q ∈ s.teams, q.1 / 256 = 0 / 256 → q = (0, pended [giveP])) ∧ s.slotDrained 0 0 0 [] = true ∧
       s.releaseOk (.team 0) [] 2 = true ∧ ((s.core 1).slot 5).isFree = true) ∧
    (let s := base.setCluster 0 ((base.cluster 0).setInfo 3 ⟨some 0, false, none, true⟩)
     ((s.cluster 0).info 3).blk = some 0 ∧ ((s.cluster 0).info 3).clearing = true ∧ ((s.cluster 0).info 3).allocated = false) := by decide +kernel

/-- R303 to R305: a byte stored moves to its line and into memory. -/
theorem test_store_path :
    (match exec (.storeBufferToCistern 0) (base.setSbuf 0 [sEntry]) with
     | .next t => (t.cluster 0).cistern.map fun e => (e.line, mget none e.bytes 65)
     | _ => []) = [(0, some 9)] ∧
    memAfter (agedS.setLine 0 0 .e) (.cisternAgeExpiry 0 0) 65 = some 9 := by decide +kernel

/-- The small state with one job on core 0. -/
def jState (j : Job) : State := { qState [] with cores := mput .zero (qState []).cores 0 { (qState []).core 0 with jobs := [j] } }

def accJob : Job := { Job.base (.accMove (.acczero ⟨1, 6, none⟩)) 0 0 0 with readDone := true }

def weirJob (i : Instr) : Job := { Job.base (.weir i) 0 0 0 with readDone := true }

def copyD (kind : Nat) : CopyDesc := ⟨0x40, 0xFFE0000000000100, 4, 2, 4, 4, 0, 0, true, 8, kind, false⟩

def copyJob : Job := { Job.base (.copy (copyD 1) [(0, 8)] 4) 0 0 0 with slots := [(0, some 3)] }

theorem witness_EngineEvents :
    ((BarSt.mk false 2 3 0).exp ≠ 0 ∧ (2 + 1 = 3) ∧ (BarSt.mk false 0 0 0).exp = 0) ∧
    ((0, 3) ∈ (((qState []).setCluster 0 { (qState []).cluster 0 with arrivals := [(0, 3)] }).cluster tdBlock.cluster).arrivals) ∧
    (let j : Job := Job.base (.weir (.wwin ⟨5⟩)) 0 0 0
     (jState j).jobFree 0 0 = some j ∧ j.readDone = false ∧ j.got = [] ∧ j.elems = []) ∧
    (let s := pState (jState copyJob)
     s.jobFree 0 0 = some copyJob ∧ takeRun 0 4 [(0, 8)] = some [(4, 4)] ∧
       (∀ x < 4, (s.translate 0 (0x40 + x) .read false).map Prod.fst = .ok (0x40 + x) ∧ s.poisoned (0x40 + x) 1 = false) ∧
       rowFits 0x40 4 = true ∧ rowFits 0xFFE0000000000100 4 = true ∧ copyJob.basinOf 0 = .ok 3) ∧
    ((jState accJob).jobFree 0 0 = some accJob ∧ (jState accJob).block? 0 = some tdBlock) ∧
    (∀ i ∈ ([.wwin ⟨5⟩, .wcfg ⟨true⟩, .wreset, .wlaunch ⟨0, none, false, 0⟩] : List Instr),
      (jState (weirJob i)).jobFree 0 0 = some (weirJob i) ∧ (jState (weirJob i)).weirTurn 0 (weirJob i) = true) ∧
    (let s := base.setCluster 0 { base.cluster 0 with weir := { Weir.zero with waiting := [0] } }
     (s.cluster 0).weir.lease = none ∧ (s.cluster 0).weir.waiting = [0]) := by decide +kernel

/-- EngineEvents: CNT at 254 and 255, a job that waits and one that does not, a copy with nothing left, an array that is held. -/
theorem witness_EngineCases :
    ((BarSt.mk false 254 0 0).cnt < 255 ∧ 255 ≤ (BarSt.mk false 255 0 0).cnt ∧ (BarSt.mk false 255 0 0).exp = 0) ∧
    ((jState accJob).jobFree 0 1 = none ∧ ((qState []).cluster 0).arrivals = []) ∧
    (let j := weirJob (.wreset)
     (jState j).weirMay 0 j = true ∧ j.readDone = true ∧
       (let late : Job := { j with id := 9 }
        ((jState j).setCore 1 { (jState j).core 1 with jobs := [late] }).weirTurn 1 late = false)) ∧
    (let j : Job := { Job.base (.weir (.wcapture ⟨0, none, false, 0⟩)) 0 0 0 with slots := [(0, some 3)] }
     j.basinOf 0 = .ok 3 ∧ 0 + 256 ≤ 65536 ∧ 255 ∈ j.elems ∧ mget 0 j.got 255 = 0 ∧ j.readDone = false ∧ (jState j).weirMay 0 j = true) ∧
    (let j : Job := { Job.base (.copy (copyD 1) [] 0) 0 0 0 with slots := [(0, some 3)] }
     (jState j).jobFree 0 0 = some j ∧ takeRun 0 4 [] = none) ∧
    (let j : Job := { Job.base (.copy (copyD 1) [(0, 4)] 4) 0 0 0 with slots := [(0, some 3)] }
     0 < 4 ∧ j.basinOf ((copyD 1).bco / 65536) = .ok 3 ∧ (copyD 1).bco % 65536 + 4 ≤ 65536) ∧
    (let j : Job := { Job.base (.matrix (.mma (mm plainExt))) 0 0 0 with readDone := true }
     (jState j).jobFree 0 0 = some j ∧ ((jState j).block? j.blk).isSome = true) ∧
    ((weirState.cluster 0).weir.lease ≠ none ∧ (base.cluster 0).weir.waiting = []) := by decide +kernel

/-- R208, R211: four bytes of the first row move; the count falls by the bytes moved. -/
theorem test_copy :
    (match exec (.copyBytesCounted 0 0 0 4) ((pState (jState copyJob)).memWr 0x40 [1, 2, 3, 4]) with
     | .next t => t.basinRd 0 3 0x100 4
     | _ => []) = [1, 2, 3, 4] ∧
    (match exec (.copyBytesCounted 0 0 4 0) (jState copyJob) with
     | .next t => some (t.countAt 0 3 8)
     | _ => none) = some (-4) := by decide +kernel

def codeE : Emitted := ⟨nopWord, 7, 0, 0, .code 64, 2, false⟩

def flueS (es : List Emitted) : State := base.setCore 0 { base.core 0 with flue := es }

def segS : State :=
  { (withG { G0 with status := .parked (.eseg 1 64) }).setCluster 0 { base.cluster 0 with segs := [⟨0, 0, 1, 1, 5, 1024, 32, [0], true⟩] } with cur := none }

/-- Context 0 with an image of one word at virtual address 0. -/
def imageS : State :=
  let s := (pState base).memWr 0 nopWord
  s.setCtx 0 { s.ctx 0 with run := { (s.ctx 0).run with hsize := 8, hentry := 196600 } }

theorem witness_FlueEvents :
    (((flueS [codeE]).core 0).flue.find? (fun e => !e.dest.isQueue) = some codeE ∧ codeE.dest = .code 64 ∧ (flueS [codeE]).entryRuns codeE = true) ∧
    (let e : Emitted := { codeE with dest := .queue }
     (flueS [e]).firstRun 0 = some 2 ∧ ((flueS [e]).core 0).flue.find? (fun x => x.dest.isQueue && decide (x.run = 2)) = some e ∧
       ((flueS [e]).core 0).queue.length < 32) ∧
    ((segS.cluster 0).segs[0]? = some ⟨0, 0, 1, 1, 5, 1024, 32, [0], true⟩ ∧ segS.segBusy 0 ⟨0, 0, 1, 1, 5, 1024, 32, [0], true⟩ = false ∧
      (0, { G0 with status := .parked (.eseg 1 64) }) ∈ segS.gens ∧ bitAt 1 0 = true) ∧
    ((imageS.ctx 0).mode = .running ∧ imageS.hasWork 0 = true ∧ 0 ∈ (imageS.part 0).clusters ∧ (imageS.core 0).himg ≠ some 0 ∧
      imageS.imageRoom 0 8 = true ∧ imageS.readVa 0 2 0 8 = .ok nopWord ∧ imageOk 1 (196608 - 8) nopWord = true) := by decide +kernel

/-- FlueEvents: a full engine queue, a segment with words under way or not wanted, and an image with a bad parity bit or out of reach. -/
theorem witness_FlueCases :
    (((flueS [codeE]).setCtx 0 { (flueS [codeE]).ctx 0 with mode := .halted }).entryRuns codeE = false) ∧
    (let s := base.setCore 0 { base.core 0 with flue := [{ codeE with dest := .queue }], queue := List.replicate 32 { codeE with dest := .queue } }
     32 ≤ (s.core 0).queue.length ∧ s.firstRun 0 = some 2 ∧ ∀ e ∈ (s.core 0).flue, e.dest = .queue) ∧
    (let s := segS.setCluster 0 { segS.cluster 0 with segs := [⟨0, 0, 1, 1, 5, 1024, 32, [0], false⟩, ⟨0, 0, 2, 2, 5, 1024, 32, [0], true⟩] }
     (s.cluster 0).segs[1]? = some ⟨0, 0, 2, 2, 5, 1024, 32, [0], true⟩ ∧ bitAt 2 0 = false ∧ base.gens.all (fun q => decide (q.2.status = .ready)) = true) ∧
    (let s := imageS.perform 0 [3]
     s.readVa 0 2 0 8 = .ok (3 :: nopWord.drop 1) ∧ imageOk 1 (196608 - 8) (3 :: nopWord.drop 1) = false) ∧
    ((base.ctx 0).run.hsize = 0 ∧ (imageS.setCore 0 { imageS.core 0 with himg := some 0 } |>.core 0).himg = some 0) := by decide +kernel

/-- A launch of four blocks with its units on die 0, or on cluster 0. -/
def uRecord : Record := { loadedLaunch.rcd with
  vregs := 64, code := 4096, basins := 1, ranges := [⟨0, 3, true, true⟩, ⟨0, 0, true, true⟩] }

def uLaunch : Launch := { loadedLaunch with rcd := uRecord, dies := [(0, [(0, 3)])] }

def uState (L : Launch) (clusters : List Nat) : State :=
  let s := pState base
  (s.setPart 0 { s.part 0 with clusters := clusters }).setLaunch 1 L

def reservingL : Launch := { uLaunch with rcd := { uRecord with flags := 1 }, phase := .reserving }

def retiring : State := (uState { uLaunch with rcd := { uRecord with ranges := [⟨0, 0, true, false⟩] } } [0]).setBlock 9
  { loadedBlock with launch := 1, teams := [], gthread := 1 } |>.setGen 1 { G0 with status := .exited, blk := 9 }

theorem witness_DispatchEvents :
    ((uState uLaunch [0]).launch? 1 = some uLaunch ∧ (uState uLaunch [0]).dispatching uLaunch = true ∧ 0 ∈ (uState uLaunch [0]).dieClusters 0 0 ∧
      mget [] uLaunch.dies 0 ≠ [] ∧ uRecord.cor = false) ∧
    (let L := { uLaunch with dies := [], clusters := [(1, [(0, 3)])] }
     (uState L [0, 1]).dispatching L = true ∧ 0 ∈ (uState L [0, 1]).dieClusters 0 0 ∧ 0 < ivCount (ivWhole uRecord.du uRecord.fbase (mget [] L.clusters 1)) / uRecord.du ∧
       ivWhole uRecord.du uRecord.fbase (mget [] L.clusters 0) = []) ∧
    ((uState uLaunch [0, 64]).dieClusters 0 1 ≠ [] ∧ (∀ d, d = 0 ∨ d = 1 →
      (uRecord.ranges.getD d ⟨0, 0, false, false⟩).en = true ∧ (uRecord.ranges.getD d ⟨0, 0, false, false⟩).flt = true)) ∧
    (reservingL.phase = .reserving ∧ (uState reservingL [0]).reserver 0 = some 1 ∧ (uState reservingL [0]).placeChoices 1 reservingL ≠ []) ∧
    (let L := { uLaunch with dies := [], clusters := [(0, [(0, 3)])] }
     let s := uState L [0]
     let u := s.firstRunOf 0
     s.dispatching L = true ∧ ivMem 2 (mget [] L.clusters 0) = true ∧ (s.ctx 0).saved = [] ∧ (s.ctx 0).savedSegs = [] ∧ 0 / 64 ∉ s.dev.off ∧
       u.coresMeet 1 0 L [1] = true ∧ u.freeThreads 0 ≠ [] ∧ L.rcd.basins ≤ (u.cluster 0).pool.length ∧ u.idsLeft 0 L [1] = true ∧
       u.rangesKept 1 2 0 L = true ∧ (u.started 1 2 0 L [1]).placesFit 0 0 = true ∧ L.rcd.nteam = L.rcd.shape.length ∧
       (∀ x ∈ L.rcd.shape, x.1 < 1) ∧ (∀ b < 32, ((s.cluster 0).info b).blk ≠ some s.uid)) ∧
    (retiring.block? 9 = some { loadedBlock with launch := 1, teams := [], gthread := 1 } ∧
      retiring.blockDone 9 { loadedBlock with launch := 1, teams := [], gthread := 1 } = true ∧ retiring.ctxRuns 0 = true) ∧
    (let L := { uLaunch with rcd := { uRecord with ranges := [⟨0, 0, true, false⟩] }, retired := [(0, 0)] }
     L.phase = .running ∧ L.retired.length = L.rcd.nblk) := by
  refine ⟨by decide +kernel, by decide +kernel, ⟨by decide +kernel, ?_⟩, by decide +kernel, by decide +kernel, by decide +kernel, by decide +kernel⟩
  rintro d (rfl | rfl) <;> decide

/-! ### Writes by virtual address that succeed -/

/-- No byte is marked as poisoned. -/
def Clean (s : State) : Prop := s.poison = [] ∧ s.hpoison = [] ∧ s.umarks = []

/-- What a write leaves as it was. -/
def Like (s t : State) : Prop := t.ctxs = s.ctxs ∧ t.parts = s.parts ∧ t.dev = s.dev ∧ Clean t

theorem clean_foldl {α : Type} (f : State → α → State) (hf : ∀ s x, Clean s → Like s (f s x)) (l : List α) (s : State) (h : Clean s) :
    Like s (l.foldl f s) := by
  induction l generalizing s with
  | nil => exact ⟨rfl, rfl, rfl, h⟩
  | cons x l ih =>
    obtain ⟨a, b, c, d⟩ := hf s x h
    obtain ⟨a', b', c', d'⟩ := ih (f s x) d
    exact ⟨a'.trans a, b'.trans b, c'.trans c, d'⟩

theorem clean_backWrite (s : State) (l : Nat) (h : Clean s) : Like s (s.backWrite l) := by
  obtain ⟨p, q, u⟩ := h
  have e : s.sliceBad = fun _ => false := by
    funext x
    simp [State.sliceBad, p, u]
  unfold State.backWrite
  split
  · exact ⟨rfl, rfl, rfl, p, by simp [q, e], u⟩
  · exact ⟨rfl, rfl, rfl, p, q, u⟩

theorem clean_sliceDrop (s : State) (l : Nat) (h : Clean s) : Like s (s.sliceDrop l) := by
  obtain ⟨a, b, c, p, q, u⟩ := clean_backWrite s l h
  unfold State.sliceDrop
  dsimp only
  split
  · exact ⟨a, b, c, p, q, u⟩
  · exact ⟨a, b, c, by simp [p, q], by simpa [State.setLine] using q, by simp [q, u]⟩

theorem clean_sliceTake (s : State) (l : Nat) (d : Bool) (h : Clean s) : Like s (s.sliceTake l d) := by
  have key : ∀ (u : State) (c : Prop) [Decidable c] (k : Nat) (x : Moes), Like s u →
      Like s (((if c then u else u.countHbm l).setLine k l x).touch k l) := by
    intro u c _ k x w
    have v : Like s (if c then u else u.countHbm l) := by
      split
      · exact w
      · have : u.hpoison = [] := w.2.2.2.2.1
        exact ⟨w.1, w.2.1, by simp [State.countHbm, this, w.2.2.1], w.2.2.2⟩
    have touch : ∀ w : State, Like s w → Like s (w.touch k l) := by
      intro w hw
      unfold State.touch
      split <;> exact hw
    exact touch _ v
  unfold State.sliceTake
  by_cases r : paRemote (128 * l) = true
  · rw [if_pos r]
    exact ⟨rfl, rfl, rfl, h⟩
  · rw [if_neg r]
    refine key _ _ _ _ ?_
    split
    · exact ⟨rfl, rfl, rfl, h⟩
    · split
      · exact clean_sliceDrop s _ h
      · exact ⟨rfl, rfl, rfl, h⟩

theorem perform_same (s : State) (pa : Nat) (bs : List Byte) (h : Clean s) : Like s (s.perform pa bs) := by
  unfold State.perform State.renew
  have b : Like s ((s.memWr pa bs).overwrite pa bs.length) := ⟨rfl, rfl, rfl, by simp [State.overwrite, State.memWr, h.1], h.2.1, h.2.2⟩
  have c := clean_foldl (fun s l => s.tripAll l fun _ => true) (fun s _ h => ⟨rfl, rfl, rfl, h⟩) (linesOf pa bs.length) _ b.2.2.2
  have d := clean_foldl (fun s l => s.sliceTake l true) (fun s l h => clean_sliceTake s l true h) (linesOf pa bs.length) _ c.2.2.2
  exact ⟨d.1.trans (c.1.trans b.1), d.2.1.trans (c.2.1.trans b.2.1), d.2.2.1.trans (c.2.2.1.trans b.2.2.1), d.2.2.2⟩

/-- Context 0 reaches the first 16 GiB of memory through the one leaf of `pState` at their own addresses. -/
def Mapped (s : State) : Prop :=
  (s.ctx 0).tlb = [] ∧ (s.ctx 0).tables.root = loadedRoot ∧ (s.ctx 0).tables.rsplit = false ∧ s.dev.fpkg = 0 ∧ s.dev.off = [] ∧ Clean s ∧
    (∀ q ∈ s.parts, q.1 = 0) ∧ s.memRd loadedRoot 8 = natLe 8 loadedLeaf

theorem mgets_mputs_before (m : List Host.Cell) (bs : List Byte) (k pa : Nat) : ∀ n, k + n ≤ pa → mgets 0 (mputs 0 m pa bs) k n = mgets 0 m k n := by
  intro n
  induction n generalizing k with
  | zero => exact fun _ => rfl
  | succ n ih =>
    intro h
    simp only [mgets, mget_mputs]
    rw [if_neg (by omega), ih (k + 1) (by omega)]

theorem mapped_perform (s : State) (pa : Nat) (bs : List Byte) (h : Mapped s) (hp : loadedRoot + 8 ≤ pa) : Mapped (s.perform pa bs) := by
  obtain ⟨h1, h2, h3, h4, h5, h6, h7, h8⟩ := h
  obtain ⟨c, p, d, q⟩ := perform_same s pa bs h6
  have hc : (s.perform pa bs).ctx 0 = s.ctx 0 := by simp only [State.ctx, c]
  refine ⟨by rw [hc]; exact h1, by rw [hc]; exact h2, by rw [hc]; exact h3, by rw [d]; exact h4, by rw [d]; exact h5, q, by rw [p]; exact h7, ?_⟩
  rw [← h8]
  simp only [State.memRd, State.perform_mem]
  exact mgets_mputs_before _ _ _ _ _ hp

theorem mapped_translate (s : State) (va : Nat) (acc : Access) (h : Mapped s) (hv : va < 2 ^ 34) : s.translate 0 va acc false = .ok (va, loadedLeaf) := by
  obtain ⟨h1, h2, h3, h4, h5, h6, h7, h8⟩ := h
  have e : s.entry 0 (loadedRoot + 8 * 0) = .ok loadedLeaf := by
    have : leNat (natLe 8 loadedLeaf) = loadedLeaf := by decide +kernel
    have hp : paOk 0 loadedRoot = true := by decide
    have hr : paRemote loadedRoot = false := by decide
    simp [State.entry, State.poisoned, State.homeOff, h4, h5, h6.1, h8, this, hp, hr]
  have b : bits va 34 18 = 0 := by
    simp only [bits]
    omega
  have w : s.walk 0 loadedRoot false va = .ok (bits va 16 18 * 65536, loadedLeaf) := by
    have k : entryBad false loadedLeaf = false := by decide +kernel
    have v : bitAt loadedLeaf 63 = true := by decide +kernel
    have x : bits loadedLeaf 60 2 = 2 := by decide +kernel
    have y : bits loadedLeaf 34 14 = 0 := by decide +kernel
    simp only [State.walk, b, e, bind, Except.bind, pure, Except.pure, k, v, x, y, if_false, if_true, Bool.false_eq_true]
    simp
  have p : s.pageOf 0 va = .ok (bits va 16 18 * 65536, loadedLeaf) := by
    simp only [State.pageOf, h1, List.filter_nil, h2, h3, show ctxPart 0 = 0 from rfl, w]
  have sum : bits va 16 18 * 65536 + va % 65536 = va := by
    simp only [bits]
    omega
  have l : leafOk loadedLeaf acc false = true := by cases acc <;> decide +kernel
  have o : paOk 0 va = true := by
    simp only [paOk]
    rw [if_pos (by omega)]
    simp
    omega
  have r : paRemote va = false := by
    simp only [paRemote, bitAt]
    simp
    omega
  have m : s.othersPage (ctxPart 0) va = false := by
    simp only [State.othersPage, List.any_eq_false, Bool.and_eq_true, decide_eq_true_eq, not_and]
    exact fun q hq hn => absurd (h7 q hq) hn
  simp only [State.translate, p, bind, Except.bind, pure, Except.pure, l, sum, h4, h5, o, r, m]
  simp

/-- A write into the mapped part of the address space succeeds. -/
theorem mapped_putVa (f va : Nat) (bs : List Byte) (s : State) (h : Mapped s) (hv : loadedRoot + 8 ≤ va) (ht : va + 65536 * f < 2 ^ 34) :
    ∃ t, s.putVa 0 f va bs = (t, none) ∧ Mapped t ∧ t.ctxs = s.ctxs := by
  induction f generalizing s va bs with
  | zero => exact ⟨s, rfl, h, rfl⟩
  | succ f ih =>
    simp only [State.putVa]
    split
    · exact ⟨s, rfl, h, rfl⟩
    · rw [if_neg (by omega)]
      simp only [mapped_translate s va .write h (by omega)]
      obtain ⟨t, e, m, c⟩ := ih (va + (65536 - va % 65536)) (bs.drop (65536 - va % 65536)) _ (mapped_perform s va (bs.take (65536 - va % 65536)) h hv)
        (by omega) (by omega)
      exact ⟨t, e, m, c.trans (perform_same s va _ h.2.2.2.2.2.1).1⟩

theorem mapped_saveTeam (s : State) (T : Team) (slot : Nat) (head : List Byte) (h : Mapped s) (hc : T.ctx = 0)
    (hm : T.areaBad = [] ∧ T.vecBad = [])
    (h1 : loadedRoot + 8 ≤ (s.ctx 0).run.area slot) (h2 : (s.ctx 0).run.area slot + 0x100000 < 2 ^ 34)
    (h3 : loadedRoot + 8 ≤ (s.ctx 0).run.vArea slot) (h4 : (s.ctx 0).run.vArea slot + 0x200000 < 2 ^ 34) :
    ∃ t, s.saveTeam T slot head = (t, none) := by
  obtain ⟨t1, e1, m1, -⟩ := mapped_putVa 2 ((s.ctx 0).run.area slot) head s h h1 (by omega)
  obtain ⟨t2, e2, m2, -⟩ := mapped_putVa 2 ((s.ctx 0).run.area slot + 0x2800) T.predBytes t1 m1 (by omega) (by omega)
  obtain ⟨t3, e3, -, -⟩ := mapped_putVa 18 ((s.ctx 0).run.vArea slot) T.vecBytes t2 m2 h3 (by omega)
  simp only [State.saveTeam, hc, e1, e2, e3, onward, hm.1, hm.2, State.markVa, List.foldl_nil]
  exact ⟨_, rfl⟩

/-- A read of the mapped part of the address space succeeds. -/
theorem mapped_bytesVa (b : Bool) (f va len : Nat) (s : State) (h : Mapped s) (ht : va + 65536 * f < 2 ^ 34) : ∃ bs, s.bytesVa 0 b f va len = .ok bs := by
  induction f generalizing va len with
  | zero => exact ⟨[], rfl⟩
  | succ f ih =>
    have hp : ∀ pa n, s.poisoned pa n = false := by simp [State.poisoned, h.2.2.2.2.2.1.1]
    simp only [State.bytesVa]
    split
    · exact ⟨[], rfl⟩
    · by_cases hl : len ≤ 65536 - va % 65536
      · have e : len - min len (65536 - va % 65536) = 0 := by omega
        rw [if_neg (by omega)]
        simp only [mapped_translate s va .read h (by omega), bind, Except.bind, pure, Except.pure, hp, e, Bool.and_false]
        cases f with
        | zero => exact ⟨_, rfl⟩
        | succ f => exact ⟨_, rfl⟩
      · rw [if_neg (by omega)]
        obtain ⟨bs, e⟩ := ih (va + min len (65536 - va % 65536)) (len - min len (65536 - va % 65536)) (by omega)
        simp only [mapped_translate s va .read h (by omega), bind, Except.bind, pure, Except.pure, hp, e, Bool.and_false]
        exact ⟨_, rfl⟩

theorem mapped_loadTeam (s : State) (T : Team) (slot : Nat) (h : Mapped s) (hc : T.ctx = 0)
    (h2 : (s.ctx 0).run.area slot + 0x100000 < 2 ^ 34) (h4 : (s.ctx 0).run.vArea slot + 0x200000 < 2 ^ 34) :
    ∃ x, s.loadTeam T slot = .ok x := by
  obtain ⟨b1, e1⟩ := mapped_bytesVa false 2 ((s.ctx 0).run.area slot) 0x2800 s h (by omega)
  obtain ⟨b2, e2⟩ := mapped_bytesVa false 2 ((s.ctx 0).run.area slot + 0x2800) 0x380 s h (by omega)
  obtain ⟨b3, e3⟩ := mapped_bytesVa false 18 ((s.ctx 0).run.vArea slot) (128 * T.words * T.vregs) s h (by omega)
  simp only [State.loadTeam, hc, e1, e2, e3, bind, Except.bind, pure, Except.pure]
  exact ⟨_, rfl⟩

/-! ### Switching teams out and back, halts -/

/-- A state whose context 0 has two switch-out slots from virtual address 0x1000000 on, and whose partition has a ring and a save area. -/
def swState (T : Team) : State :=
  let s := (pState (withT T)).setPart 0 { (pState (withT T)).part 0 with ring := ⟨0x2000000, 0, 6, 0, 0⟩ }
  s.setCtx 0 { s.ctx 0 with run := { (s.ctx 0).run with
    swva := 0x1000000, vswva := 0x1800000, swlg := 1, savebase := 0x3000000, savesize := 0x10000 } }

theorem swState_same (T : Team) : (swState T).ctxs = (swState T0).ctxs ∧ (swState T).dev = (swState T0).dev ∧
    (swState T).poison = (swState T0).poison ∧ (swState T).mem = (swState T0).mem ∧ (swState T).hpoison = (swState T0).hpoison ∧
    (swState T).umarks = (swState T0).umarks ∧ (swState T).parts = (swState T0).parts := by
  simp [swState, pState, State.memWr, State.setCtx, State.setPart, State.ctx, State.part, withT, State.setTeam]

theorem swState_mapped0 : Mapped (swState T0) := by unfold Mapped Clean; decide +kernel

theorem swState_mapped (T : Team) : Mapped (swState T) := by
  obtain ⟨c, d, p, m, q, u, x⟩ := swState_same T
  simpa only [Mapped, Clean, State.ctx, State.memRd, c, d, p, m, q, u, x] using swState_mapped0

def tiny (st : Status) : Team := { T0 with vregs := 8, status := st }

/-- A save to slot 1 succeeds. -/
theorem sw_saves (T U : Team) (head : List Byte) (h : U.ctx = 0) (hm : U.areaBad = [] ∧ U.vecBad = []) :
    ∃ t, (swState T).saveTeam U 1 head = (t, none) := by
  have a : loadedRoot + 8 ≤ ((swState T0).ctx 0).run.area 1 ∧ ((swState T0).ctx 0).run.area 1 + 0x100000 < 2 ^ 34 ∧
      loadedRoot + 8 ≤ ((swState T0).ctx 0).run.vArea 1 ∧ ((swState T0).ctx 0).run.vArea 1 + 0x200000 < 2 ^ 34 := by decide +kernel
  have e : (swState T).ctx 0 = (swState T0).ctx 0 := by simp only [State.ctx, (swState_same T).1]
  rw [← e] at a
  exact mapped_saveTeam _ _ _ _ (swState_mapped T) h hm a.1 a.2.1 a.2.2.1 a.2.2.2

def stalled : Team := tiny (.parked (.saving (.stallBar 3 0)))

def calling : Team := tiny (.parked (.svc 16 4 2 1 [0, 31]))

/-- The team once its record is raised. -/
def called : Team := tiny (.parked (.called 1 4 [0, 31] false))

def backS (why : SwitchReason) : State :=
  (swState (tiny (.switchedOut 1 why true))).setCore 0 { (swState (tiny (.switchedOut 1 why true))).core 0 with returning := [0] }

theorem back_loads (why : SwitchReason) : ∃ x, (backS why).loadTeam (tiny (.switchedOut 1 why true)) 1 = .ok x := by
  obtain ⟨c, d, p, m, q, u, x⟩ := swState_same (tiny (.switchedOut 1 why true))
  have a : ((swState T0).ctx 0).run.area 1 + 0x100000 < 2 ^ 34 ∧ ((swState T0).ctx 0).run.vArea 1 + 0x200000 < 2 ^ 34 := by decide +kernel
  have e : (backS why).ctx 0 = (swState T0).ctx 0 := by simp only [backS, State.setCore, State.ctx, c]
  have h' : Mapped (backS why) := by
    simpa only [Mapped, Clean, backS, State.setCore, State.ctx, State.memRd, c, d, p, m, q, u, x] using swState_mapped0
  rw [← e] at a
  exact mapped_loadTeam _ _ _ h' rfl a.1 a.2

theorem witness_SwitchEvents :
    ((swState stalled).team? 0 = some stalled ∧ (swState stalled).slotFree 0 1 = true ∧ stalled.th.pend.all (·.finished) = true ∧
      ((swState stalled).ctx 0).mode ≠ .lost ∧ ∃ t, (swState stalled).saveTeam stalled 1
        (stalled.header 0 2 ((swState stalled).tagAt 0 stalled.th.pc) 0 stalled.th.pc [] (List.replicate 5 0)) = (t, none)) ∧
    ((swState calling).drained (.team 0) 5 = true ∧ (swState calling).slotFree 0 1 = true ∧ calling.th.pend.all (·.finished) = true ∧
      ((swState calling).setSbuf 0 [sEntry]).drained (.team 0) 5 = false ∧ ((swState calling).takeSlot 0 1).slotFree 0 1 = false) ∧
    (called.th.pend.all (·.finished) = true ∧ ((swState called).ctx 0).mode ≠ .lost ∧
      ∃ t, (swState called).saveTeam (called.adv 8) 1 ((called.adv 8).header 0 1 ((swState called).tagAt 0 called.th.pc) 0
        (called.adv 8).th.pc [] (List.replicate 5 0)) = (t, none)) ∧
    (∀ why ∈ ([.svc 4 [0, 31], .fault 0x40 true, .stallGrow 4 2, .stallBar 3 0] : List SwitchReason),
      let T := tiny (.switchedOut 1 why true)
      (backS why).returns 0 T why = true ∧ (backS why).placeBack 0 T why = some [0] ∧ T.place = [0]) ∧
    (∀ why, ∃ x, (backS why).loadTeam (tiny (.switchedOut 1 why true)) 1 = .ok x) ∧
    (let T := tiny (.parked (.vgrow 4 2))
     let s := (withT T).setCore 0 { (withT T).core 0 with grow := [0] }
     let U : Team := { T with vregs := T.vregs + 8 * 2, th := T.th.wr 4 (BitVec.ofNat 64 (T.vregs + 8 * 2)), status := .ready }
     let v := (s.setCore 0 { s.core 0 with grow := [] }).setTeam 0 U
     s.team? 0 = some T ∧ (s.core 0).grow = [0] ∧ (∀ x ∈ (s.core 0).returning, s.mayReturn x = false) ∧ s.ctxRuns T.ctx = true ∧
       (s.coreUse 0).2 + 128 * T.words * (8 * 2) ≤ 2097152 ∧ v.placesFit (0 / 8) T.ctx = true ∧ T.status.stall = some (.stallGrow 4 2) ∧
       (∀ q ∈ s.teams, q.1 = 0 → q.2 = T) ∧ (∀ q ∈ s.teams, q.1 / 256 = 0 → q.2.status.stall ≠ none) ∧ (s.core 0).grow.head? = some 0 ∧
       T0.status.stall = none) ∧
    (let T := tiny (.parked .exit)
     (withT T).team? 0 = some T ∧ T.th.pend.all (·.finished) = true ∧ (withT T).block? T.blk = some loadedBlock) := by
  refine ⟨⟨by decide +kernel, by decide +kernel, by decide +kernel, by decide +kernel, sw_saves _ _ _ rfl ⟨rfl, rfl⟩⟩,
    by decide +kernel, ⟨by decide +kernel, by decide +kernel, sw_saves _ _ _ rfl ⟨rfl, rfl⟩⟩, by decide +kernel, fun why => back_loads why, by decide +kernel,
    by decide +kernel⟩

/-- R293: a granted `vgrow` returns the new number of registers. -/
theorem test_vgrow : (teamAfter ((withT (tiny (.parked (.vgrow 4 2)))).setCore 0 { (withT (tiny (.parked (.vgrow 4 2)))).core 0 with grow := [0] })
    (.vgrowGrant 0)).map (fun T => (T.vregs, T.th.rd 4, T.status)) = some (24, 24, .ready) := by decide +kernel

def haltedEmpty : State :=
  onCtx { swState T0 with teams := [], gens := [], blocks := [], clusters := [] } fun c => { c with mode := .halted, stops := [] }

/-- Context 0 is being pre-empted with a deadline of one microsecond, and has one saved block or segment. -/
def preS (s : State) : State := onCtx s fun c => { c with mode := .preempting, since := 0, limit := 1 }

def savedB : SavedBlock := ⟨0, loadedBlock, G0, [], [], [], 8192⟩

/-- The partition leaves pre-emption to the host. -/
def onPs (s : State) : State := s.setPart 0 { s.part 0 with ps := true }

theorem witness_HaltEvents :
    ((base.ctx 0).mode = .running ∧ (onPs base).mayPreempt 0 true = true ∧ base.mayPreempt 0 true = false ∧
      (∀ q ∈ base.blocks, q.2.ctx = 0 → 16 * q.2.cluster + q.2.gthread = 0 → q = (0, loadedBlock))) ∧
    (((preS base).ctx 0).since + 1000 * 1 ≤ ({ preS base with gtime := 1000 } : State).gtime ∧
      ¬((preS base).ctx 0).since + 1000 * 1 ≤ ({ preS base with gtime := 999 } : State).gtime) ∧
    ((∃ q ∈ ((preS (withG G0)).freeze 0).blocks, q.2.ctx = 0 ∧ ((preS (withG G0)).freeze 0).blockStill q = false) ∧
      (let u := (preS haltedEmpty).freeze 0
       (∀ q ∈ u.blocks, q.2.ctx = 0 → u.blockStill q = true) ∧ (u.writeSections 0 0 4096 (u.saveParts 0).2.2).2 = none)) ∧
    (let T : Team := { T0 with status := .parked (.bar 3 0), th := { T0.th with period := 5 } }
     let s : State := { withT T with gtime := 5001 }
     s.team? 0 = some T ∧ s.watched (.team 0) = some (1, 0, 5) ∧ 0 + 1000 * 5 < s.gtime) ∧
    (let s : State := { base with dev := { base.dev with lostLinks := [95] } }
     s.lossMeets 0 = true ∧ (s.part 0).err0v = false ∧ (s.ctx 0).mode = .running) ∧
    (let s := onCtx (swState T0) fun c => { c with mode := .halted }
     s.stopCtxs (.team 0) = [0] ∧ s.active (.team 0) 0 = true ∧
       (let v := (s.addStops 0 [{ s.stopRecord (.team 0) 0 0 with
          pc := (s.stopPoint (.team 0)).1, tag := (s.stopPoint (.team 0)).2 }]).stopHere (.team 0)
        (v.writeSection 0 2 4096 (v.stopEntries 0)).2 = none)) ∧
    (let s := onCtx (swState T0) fun c => { c with mode := .debugHalted }
     s.thread? (.team 0) = some T0.th ∧ T0.th.pend.find? Pend.unchecked = none ∧ (s.ctx 0).stops = [] ∧ s.active (.team 0) 0 = true ∧
       (let u := s.addStops 0 [{ s.stopRecord (.team 0) 0 2 with pc := (s.stopPoint (.team 0)).1, tag := (s.stopPoint (.team 0)).2 }]
        (u.writeSection 0 2 4096 (u.stopEntries 0)).2 = none)) ∧
    (let s := onCtx haltedEmpty fun c => { c with note := some ⟨3, .halt 0, shortRecord 3 0 0 0 0 0 0 0xF 0 0, false⟩ }
     (s.ctx 0).note.isSome = true ∧ s.haltDone 0 = true ∧ (onCtx base fun c => { c with mode := .halted }).haltDone 0 = false) ∧
    (((onCtx base fun c => { c with debugger := true }).ctx 0).debugger = true ∧ ((onCtx base fun c => { c with mode := .debugHalted }).ctx 0).mode = .debugHalted ∧
      (withT (inSt .broken)).status? (.team 0) = some .broken ∧ (withT (inSt .broken)).agentCtx? (.team 0) = some 0) ∧
    ((haltedEmpty.ctx 0).mode = .halted ∧ haltedEmpty.haltDone 0 = true ∧ 128 ≤ (haltedEmpty.ctx 0).run.savesize ∧ (haltedEmpty.ctx 0).stops = [] ∧
      haltedEmpty.ctxBlocks 0 = [] ∧ haltedEmpty.ctxSegs 0 = [] ∧ haltedEmpty.ctxBasins 0 = [] ∧ (∀ q ∈ haltedEmpty.teams, q.2.ctx ≠ 0) ∧
      (∀ x < 128, (haltedEmpty.part 0).pages.contains (((haltedEmpty.ctx 0).run.savebase + x) / 2 ^ 30) = true)) ∧
    (let s := onCtx haltedEmpty fun c => { c with run := { c.run with savesize := 0 } }
     s.haltDone 0 = true ∧ (s.ctx 0).run.savesize = 0) ∧
    (haltedEmpty.savingCtx 0 = true ∧ (haltedEmpty.ctx 0).cause = 0 ∧ (haltedEmpty.part 0).err0v = false) ∧
    ((onCtx (withG G0) fun c => { c with mode := .saved }).mayResume 0 = true ∧ (haltedEmpty.ctx 0).mode = .halted) ∧
    ((onCtx base fun c => { c with savedSegs := [⟨0, ⟨0, 0, 1, 1, 5, 1024, 32, [0], true⟩, [0], 4096⟩] }).offFree 0 1 32 1024 = true) ∧
    (let x : SavedBlock := savedB
     let s := onCtx { base with teams := [], gens := [], blocks := [], clusters := [] } fun c => { c with saved := [x] }
     s.launch? x.blk.launch = some loadedLaunch ∧ s.blockFits x = true ∧ (s.resumed 0 x [] loadedLaunch).placesFit x.blk.cluster 0 = true) := by
  refine ⟨?_, ?_, ?_, ?_, ?_, ?_, ?_, ?_, ?_, ?_, ?_, ?_, ?_, ?_, ?_⟩ <;> decide +kernel

/-- HaltEvents: saves that fail for want of a save area, a context that leaves under its debugger, a team on its way out and none, a record
to go on from, and waits that nothing watches. -/
theorem witness_HaltCases :
    (let s := onCtx haltedEmpty fun c => { c with run := { c.run with savesize := 0 } }
     (((preS s).freeze 0).writeSections 0 0 4096 (((preS s).freeze 0).saveParts 0).2.2).2.isSome = true ∧
       (s.writeSection 0 2 4096 [(zeros 64, [])]).2.isSome = true) ∧
    ((onCtx base fun c => { c with mode := .debugHalted, leaving := true, since := 0, limit := 0 }).ctx 0).leaving = true ∧
    ((swState called).savingTeam 0 = some (0, called) ∧ haltedEmpty.savingTeam 0 = none ∧ haltedEmpty.savingCtx 0 = true ∧
      base.savingTeam 0 = none ∧ base.savingCtx 0 = false) ∧
    (let r : StopRec := ⟨1, 2, 0, agentLoc (.team 0), 0, 0, 0, 0, 0, 0, 0⟩
     let s := onCtx (swState T0) fun c => { c with mode := .debugHalted, stops := [r], written := 1 }
     s.recordPc 0 (.team 0) = some 0 ∧ s.recordPc 0 (.gen 0) = none ∧ (s.ctxThreads 0).Nodup ∧ .team 0 ∈ s.ctxThreads 0) ∧
    (base.watched (.team 0) = none ∧ (onCtx haltedEmpty fun c => { c with mode := .lost }).haltDone 0 = true ∧
      (pended [pw (.mem ftMem)]).th.pend.findIdx? Pend.unchecked = some 0 ∧ (withT T0).stopCtxs (.team 0) = [0] ∧ (withT T0).ctxRuns 0 = true) := by
  refine ⟨?_, ?_, ?_, ?_, ?_⟩ <;> decide +kernel

/-- What context 0 is after an event. -/
def ctxAfter (s : State) (i : Instr) : Option Ctx :=
  match exec i s with
  | .next t => some (t.ctx 0)
  | _ => none

/-- A store with one lane at a stage. -/
def stPend (id : Nat) (st : LaneStage) : Pend :=
  { id := id, pc := 0, prov := 0, paths := [.st], finished := false
    work := .mem { kind := .st, vec := false, wid := 3, sgn := false, scope := 0, ord := 0, dst := .none, header := none
                   lanes := [{ lane := 0, addr := 0, off := 0, len := 8, b := 0, c := 0, stage := st, spot := none, gen := 0, bad := false }] } }

/-- R262, R263, R356: at a stop the checked store goes on; what is not checked, and a store behind it, is dropped. -/
theorem test_stop_keeps_checked_stores :
    ((goneOut [stPend 0 .checked, stPend 1 .fresh, stPend 2 .checked]).map (·.id)) = [0] := by decide

/-- R354: a barrier wait longer than the period halts the context with cause 0x000E and a record of KIND 6 naming wait 1. -/
theorem test_watchdog :
    (ctxAfter { withT { T0 with status := .parked (.bar 3 0), th := { T0.th with period := 5 } } with gtime := 5001 } (.watchdog (.team 0))).map
      (fun c => (c.mode, c.cause, c.stops.map fun r => (r.kind, r.wait))) = some (.halted, 0xE, [(6, 1)]) ∧
    (ctxAfter { withT { T0 with status := .parked (.bar 3 0), th := { T0.th with period := 5 } } with gtime := 5000 } (.watchdog (.team 0))).map
      (·.mode) = some .running := by decide +kernel

/-! ### Coherence (R312 to R330) -/

def cMsg (port : Nat) (k : MsgKind) : Msg := ⟨clusterRouter 0, port, 0, k, false, 0⟩

/-- The small state with one message at the router of cluster 0, the home of line 0, and a tree there. -/
def cState (m : Msg) (tree : List TEntry) : State := { base.setRouter m.dest { base.router m.dest with tree := tree } with msgs := [m] }

def cEnt (root : Nat) (links : SMap Nat) (tear : Option Tear) : TEntry := ⟨0, root, false, links, tear, 0, 0, false, false⟩

/-- Router 1, one hop from the home. -/
def awayMsg (k : MsgKind) : Msg := ⟨1, 4, 0, k, false, 0⟩

def grantS : State :=
  { base.setCluster 0 { base.cluster 0 with cistern := [{ cEntry with draining := true }] } with msgs := [cMsg 5 (.grant 0 false [])] }

/-- Core 0 waits for a load of line 0; its L1 with the sixteen ways of set 0 filled. -/
def loadS : State :=
  mState [pw (.mem { oneLane .ld (.s 4) 0x40 .checked with
    lanes := [⟨0, 0x40, 0, 4, 7, 0, .checked, some (.mem [0x40, 0x41, 0x42, 0x43] 0), 0, false⟩] })]

def fullL1 : State := (List.range 16).foldl (fun s k => s.takeLine 0 (128 * k) .s [0, 1, 2, 3] []) base

/-- Die 0 is off. -/
def deadS : State := { base with dev := { base.dev with off := [0] } }

/-- The die of line 0 is off. -/
def goneS (s : State) : State := { s with dev := { s.dev with off := [0] } }

/-- The home of line 0 in these states. -/
def homeR : Nat := clusterRouter 0

/-- CoherenceEvents: misses, lines taken and given up, and what is still held of a line. -/
theorem witness_CoherenceEvents :
    (loadS.line 0 0 = .i ∧ loadS.asking 0 0 = false ∧ loadS.wanted 0 0 ≠ [] ∧ loadS.clHolders (holderRouter 0) 0 = [] ∧
      (loadS.setLine 1 0 .m).clHolders (holderRouter 0) 0 = [1] ∧ (loadS.setLine 0 0 .s).wanted 0 0 ≠ [] ∧
      (loadS.setLine 0 0 .s).line 0 0 ≠ .i ∧ base.wanted 0 0 = []) ∧
    (base.victimLine 0 0 = none ∧ fullL1.victimLine 0 2048 = some 0 ∧ fullL1.line 0 0 = .s ∧ base.line 0 0 = .i) ∧
    ((base.setLine 8192 0 .s).line 8192 0 ≠ .i ∧ base.deliverable 0 = none) ∧
    (let s : State := { fullL1 with msgs := [⟨0, 4, 2048, .read 0 0 0 [] homeR, false, 0⟩] }
     s.victimLine 0 0 = none ∧ (s.setLines 0 0).length + 1 = holderWays 0 ∧ s.line 0 0 = .s ∧ s.line 0 2048 = .i ∧ s.wantsLine 0 2048 = true ∧
       lineSet 0 2048 = lineSet 0 0 ∧ ((mget [] s.recent 0).filter fun l => decide (lineSet 0 l = lineSet 0 0)).getLast? = some 0) ∧
    ((base.setLine 0 0 .s).lines.any (fun q => decide (q.1 / 16384 = 0) && decide (q.1 % 16384 < 8256)) = true ∧
      base.lines = [] ∧ base.msgs = [] ∧ (∀ R ∈ base.routers, R.2.tree = []) ∧ mwf none base.under = true) ∧
    (base.clHolders (holderRouter 0) 0 = [] ∧ (base.setLine 1 0 .s).clHolders (holderRouter 0) 0 = [1]) ∧
    (deadS.deadHolder 0 = true ∧ base.deadHolder 0 = false) := by
  refine ⟨?_, ?_, ?_, ?_, ?_, ?_, ?_⟩ <;> decide +kernel

/-- A router with two entries in set 0 and two ways, then one. -/
def fullR : Router := { tree := [cEnt 4 [(1, 1)] none, { cEnt 4 [(2, 1)] none with line := 512 }, { cEnt 4 [(2, 1)] none with line := 1024 }], setlg := 9, ways := 2, gated := false, owed := [] }

/-- CoherenceEvents: reads. -/
theorem witness_reads :
    (let m := awayMsg (.read 16 0 0 [] homeR)
     (cState m []).deliverable 0 = some m ∧ homeR ≠ m.dest ∧ ((cState m []).router m.dest).overfull = false) ∧
    (let m := awayMsg (.read 16 1 0 [] homeR)
     (cState m []).deliverable 0 = some m) ∧
    (let m := awayMsg (.read 16 0 0 [] homeR)
     (cState m [cEnt 3 [(3, 1)] none]).deliverable 0 = some m ∧ (cEnt 3 [(3, 1)] none).best 4 = some 3 ∧ (cEnt 3 [(4, 1)] none).best 4 = none) ∧
    (let m := cMsg 1 (.read 16 0 0 [(1, 4)] homeR)
     (cState m []).deliverable 0 = some m ∧ homeR = m.dest ∧ (cState m []).canPut 0 m.dest 0 = true ∧ (cState m []).lineGone 0 = false ∧
       (cState m []).isAway 0 = false ∧ ({ cState m [] with away := [(0, 2)] } : State).isAway 0 = true ∧
       (goneS (cState m [])).lineGone 0 = true ∧ rdcOnPath homeR 16 [(homeR, 1), (1, 4)] = false) ∧
    (let m := cMsg 1 (.read 16 0 0 [(1, 4)] homeR)
     (cState m [{ cEnt 4 [(5, 1)] none with own := true }]).deliverable 0 = some m ∧
       (cState m [{ cEnt 4 [] none with own := true, pins := 1 }]).deliverable 0 = some m ∧
       (cState m [cEnt 4 [(5, 1)] (some ⟨.evict, [5], false, false, true⟩)]).deliverable 0 = some m) ∧
    (let m := cMsg 5 (.read 16 1 1 [(homeR, 12), (1, 4)] homeR)
     let s := cState m [{ cEnt 4 [(5, 1)] none with pins := 1 }]
     s.deliverable 0 = some m ∧ s.clHolders m.dest 0 = [] ∧ (s.setLine 0 0 .m).clHolders m.dest 0 = [0]) ∧
    (let m := cMsg 4 (.read 16 2 1 [(homeR, 12), (1, 4)] homeR)
     let s := cState m [{ cEnt 4 [(5, 1)] none with pins := 1 }]
     s.deliverable 0 = some m ∧ (loopOf homeR [(homeR, 12), (1, 4)]).1.getLast? = some (homeR, 12)) ∧
    (fullR.overfull = false ∧ (fullR.limit 9 2).overfull = false ∧ ({ fullR with tree := [{ cEnt 4 [] none with outside := true }] } : Router).overfull = true) := by
  refine ⟨?_, ?_, ?_, ?_, ?_, ?_, ?_, ?_⟩ <;> decide +kernel

/-- CoherenceEvents: replies, owns and grants. -/
theorem witness_replies :
    (let m := cMsg 5 (.reply 0 .e [] 1 false [])
     (cState m []).deliverable 0 = some m ∧ (cState m []).deadHolder 0 = false ∧ ({ cState m [] with dev := { base.dev with off := [0] } } : State).deadHolder 0 = true) ∧
    (let m := cMsg 1 (.reply 16 .s [(homeR, 2), (1, 4)] 3 false [])
     (cState m []).deliverable 0 = some m ∧ (cState m []).evicting m.dest 0 = false ∧
       (cState m [cEnt 4 [] (some ⟨.evict, [1], false, false, true⟩)]).evicting m.dest 0 = true) ∧
    (let m := awayMsg (.own 16 false [] homeR)
     (cState m []).deliverable 0 = some m ∧ homeR ≠ m.dest) ∧
    (let m := cMsg 4 (.own 0 false [] homeR)
     let s := cState m []
     s.deliverable 0 = some m ∧ homeR = m.dest ∧ s.askedPkgs 0 = 0 ∧ s.tileWaits 0 = false ∧ s.lineGone 0 = false ∧
       (goneS s).lineGone 0 = true ∧ s.canPut 0 m.dest 0 = true ∧ ({ s with tiles := [(0, 4)] } : State).askedPkgs 0 ≠ 0) ∧
    (grantS.deliverable 0 = some (cMsg 5 (.grant 0 false [])) ∧ grantS.deadHolder 0 = false ∧
      (grantS.cluster 0).cistern = [{ cEntry with draining := true }] ∧ cEntry.line = 0 ∧ cEntry.holder = 0) ∧
    (let m := cMsg 5 (.grant 0 false [])
     (cState m []).deliverable 0 = some m ∧ ((cState m []).cluster 0).cistern = []) ∧
    (let m := cMsg 1 (.grant 16 false [(homeR, 2)])
     (cState m []).deliverable 0 = some m ∧ (cState m []).canPut 0 m.dest 0 = true ∧ (cState m []).evicting m.dest 0 = false) := by
  refine ⟨?_, ?_, ?_, ?_, ?_, ?_, ?_⟩ <;> decide +kernel

/-- CoherenceEvents: invals, acks, prunes and cuts. -/
theorem witness_invals :
    ((cState (cMsg 5 (.inval none)) []).deliverable 0 = some (cMsg 5 (.inval none)) ∧
      (cState (cMsg 1 (.inval none)) [cEnt 4 [(2, 1)] none]).deliverable 0 = some (cMsg 1 (.inval none)) ∧
      (cState (cMsg 1 (.inval none)) [cEnt 4 [(2, 1)] (some ⟨.parent 1 none, [2], false, false, false⟩)]).deliverable 0 = some (cMsg 1 (.inval none))) ∧
    (let x : Tear := ⟨.evict, [1, 2], false, false, true⟩
     let s := cState (cMsg 1 (.ack true false false)) [cEnt 4 [(1, 1), (2, 1)] (some x)]
     s.deliverable 0 = some (cMsg 1 (.ack true false false)) ∧ 1 ∈ x.wait ∧ x.wait.erase 1 ≠ [] ∧ 1 ∉ x.wait.erase 1 ∧
       (s.router homeR).owed = []) ∧
    (let s := cState (cMsg 1 (.ack false true false)) []
     (s.setRouter homeR { s.router homeR with owed := [(0, 1)] }).deliverable 0 = some (cMsg 1 (.ack false true false))) ∧
    (let m := cMsg 1 (.prune true false true)
     (cState m [cEnt 4 [(1, 1)] none]).deliverable 0 = some m ∧ (cState m []).deliverable 0 = some m ∧
       (cState m [cEnt 4 [(1, 1)] (some ⟨.evict, [1], false, false, true⟩)]).deliverable 0 = some m ∧
       (cState m []).homeRouter 0 = m.dest ∧ paRemote (128 * 0) = false) ∧
    ((cState (cMsg 1 .cut) [cEnt 4 [(1, 1)] none]).deliverable 0 = some (cMsg 1 .cut)) := by
  refine ⟨?_, ?_, ?_, ?_, ?_⟩ <;> decide +kernel

/-- CoherenceEvents: routers and tree entries at the edges of the limiter. -/
theorem witness_tree :
    (fullR.ways < (fullR.inSet 0).length ∧ fullR.victim 0 = some { cEnt 4 [(2, 1)] none with line := 1024 } ∧
      fullR.entry? 1024 = some { cEnt 4 [(2, 1)] none with line := 1024 }) ∧
    (paRemote (128 * 0) = false ∧ base.dev.fpkg = 0 ∧ (base.router (base.homeRouter 0)).entry? 0 = none) ∧
    ((0x98#64).toNat / 16 % 16 ≤ 9 ∧ 2 ≤ (0x98#64).toNat % 16 ∧ (0x98#64).toNat % 16 ≤ 8) ∧
    (base.dev.rgateEn = true ∧ (∀ e ∈ (base.router 0).tree, e.tear = none) ∧ ∀ m ∈ base.msgs, m.dest ≠ 0) := by decide +kernel

/-- R312, R317: a miss that a holder in M of the cluster serves leaves that holder in O and the reader in S. -/
theorem test_cluster_miss :
    (match exec (.clusterMiss 0 0) (loadS.setLine 1 0 .m) with
     | .next t => (t.line 0 0, t.line 1 0)
     | _ => (.i, .i)) = (.s, .o) := by decide +kernel

/-! ### The host side (R368 to R383, R401 to R406, R413) -/

/-- A state whose device registers are changed. -/
def withDev (f : Dev → Dev) : State := { State.reset with dev := f State.reset.dev }

/-- Port 0 is up and holds the lease. -/
def leased : State := withDev fun d => { d with leaseState := 1, holder := 0, epoch := 1, ports := [(0, ⟨true, 16, 6, 20⟩)] }

theorem witness_PortEvents :
    ((0x0064000100000001#64).toNat / 2 ^ 32 = 0x00640001 ∧ (0x0000000100640001#64).toNat / 2 ^ 32 = leased.dev.epoch ∧
      (0x0000000100640001#64).getLsbD 0 = true ∧ (0x0000000100640001#64).getLsbD 1 = false ∧ (0x0000000100640001#64).toNat / 2 ^ 16 % 2 ^ 16 ≠ 0) ∧
    ((2#64).toNat / 2 ^ 32 = State.reset.dev.epoch ∧ (2#64).getLsbD 1 = true ∧ (2#64).getLsbD 0 = false ∧ State.reset.dev.leaseState = 0 ∧
      (0x100000002#64).toNat / 2 ^ 32 = leased.dev.epoch ∧ leased.dev.holder ≠ 1 ∧ (0x100000002#64).toNat / 2 ^ 16 % 2 ^ 16 = 0) ∧
    (let s := withDev fun d => { d with leaseState := 3, taker := some 1 }
     s.dev.leaseState = 3 ∧ s.dev.taker = some 1) ∧
    (let s : State := { leased with gtime := 100000000 }
     s.dev.renewed + s.dev.period * 1000000 ≤ s.gtime ∧ leased.gtime < leased.dev.renewed + leased.dev.period * 1000000) ∧
    (State.reset.leads 0 = true ∧ (0x100000100#64).toNat / 2 ^ 32 = State.reset.dev.hbTerm ∧ (0x100000100#64).toNat % 8 = 0) ∧
    (let s := withDev fun d => { d with hbStage := 1 }
     s.dev.successor? = some 1 ∧ (0x200000001#64).toNat / 2 ^ 32 = (s.dev.hbTerm + 1) % 2 ^ 32 ∧ (0x200000001#64).toNat % 8 = 1) ∧
    ({ State.reset with gtime := 10000000 } : State).dev.hbSince + 10000000 * 1 ≤ 10000000 ∧ bitAt State.reset.dev.sphealth 7 = true := by
  decide +kernel

/-- PortEvents: a port that is down, one fenced off, a lease that may be renewed or taken, and the clock of the heartbeat after 0 to 2
intervals. -/
theorem witness_PortCases :
    (State.reset.portUp 0 = false ∧ leased.portUp 0 = true ∧ leased.pf0Fenced 0 = false) ∧
    (let s : State := { leased with dev := { leased.dev with leaseState := 3, taker := some 1 } }
     s.portUp 0 = true ∧ s.pf0Fenced 0 = true ∧ s.pf0Fenced 1 = false) ∧
    (let v : W64 := 0x100640001
     v.toNat / 2 ^ 32 = leased.dev.epoch ∧ v.getLsbD 0 ≠ v.getLsbD 1 ∧ v.getLsbD 0 = true ∧ leased.dev.leaseState = 1 ∧ leased.dev.holder = 0 ∧
       v.toNat / 2 ^ 16 % 2 ^ 16 ≠ 0) ∧
    (let v : W64 := 0x100000002
     v.toNat / 2 ^ 32 = leased.dev.epoch ∧ v.getLsbD 0 ≠ v.getLsbD 1 ∧ v.getLsbD 1 = true ∧ leased.dev.holder ≠ 1 ∧ v.toNat / 2 ^ 16 % 2 ^ 16 = 0) ∧
    (State.reset.dev.hbStage = 0 ∧ State.reset.dev.hbSince = 0 ∧ (State.reset.dev.beatClock 9999999).successor? = none ∧
      (State.reset.dev.beatClock 10000000).successor? = some 1 ∧ (State.reset.dev.beatClock 20000000).successor? = some 2) ∧
    (8 ≤ 8 ∧ bitAt (withDev fun d => { d with sphealth := 0xFE }).dev.sphealth 0 = false) := by decide +kernel

/-- Virtual interface 1 belongs to partition 0 on port 0, with queue 0 of context 0 at virtual address 0x1000000. -/
def viState (s : State) : State :=
  (s.setVi 1 { VI.zero with part := some 0, port0 := true, queues := [(0, { Queue.zero with base := 0x1000000, lg := 4, en := true, pi := 1 })] }) |> fun s =>
    { s with dev := leased.dev }

def svcP : Posted := ⟨0, 3, ⟨0, .team 0, zeros 64, false⟩⟩

def postedS (vi : Nat) : State :=
  let s := viState (pState (withT (tiny (.switchedOut 1 (.svc 4 [0]) false))))
  s.setPart 0 { s.part 0 with posted := [{ svcP with vi := vi }] }

def waitingS : State := (swState T0).setPart 0 { (swState T0).part 0 with waiting := [⟨0, .team 0, zeros 64, false⟩] }

theorem witness_RegisterEvents :
    (leased.pf0Fenced 0 = false ∧ leased.pf0Ok 0 = true) ∧
    ((0x0A1838#64).toNat % 2 ^ 16 = 6200 ∧ (0x0A1838#64).toNat / 2 ^ 16 % 2 ^ 8 = 10 ∧ (0#64).toNat % 2 ^ 16 < 2500 ∧ 1000 ≤ (1000#64).toNat % 2 ^ 32) ∧
    ((withDev fun d => { d with diagsel := 1 }).dev.diagsel % 32 = 1) ∧ (withDev fun d => { d with leaseState := 3, taker := some 1 }).pf0Fenced 0 = true ∧
    State.reset.leads 0 = true ∧
    (((postedS 0).part 0).posted.find? (fun x => decide (x.vi = 0) && decide (x.unit = (3#64).toNat % 2 ^ 32)) = some svcP ∧
      (3#64).toNat / 2 ^ 32 % 2 ^ 8 = 0 ∧ (postedS 0).team? 0 = some (tiny (.switchedOut 1 (.svc 4 [0]) false))) ∧
    ((postedS 1).viServes 0 1 = true ∧ ((postedS 1).vi 1).part = some 0 ∧
      ((postedS 1).part 0).posted.find? (fun x => decide (x.vi = 1) && decide (x.unit = (3#64).toNat % 2 ^ 32)) = some { svcP with vi := 1 }) ∧
    (State.reset.viServes 0 1 = false ∧ 4 ≤ (0x13#64).toNat / 4 % 32 ∧ (0x13#64).toNat / 4 % 32 ≤ 16 ∧ ((postedS 1).vi 1 |>.queue 5).en = false) ∧
    (waitingS.ringOf 0 false = some (0, (waitingS.part 0).ring) ∧ (waitingS.part 0).ring.room 1 = true ∧
      (waitingS.writeUnits 0 (waitingS.part 0).ring 2 0 (zeros 64)).toOption.isSome = true) ∧
    (pairWindow 0x40 = none ∧ State.reset.pairMem 0x40 8 = true ∧ ∃ pa, ∃ off, pairWindow pa = some off) ∧
    ((mget ⟨false, 0, 0, 0⟩ (postedS 1).dev.ports 0).cxl ≠ 0 ∧ (postedS 1).hostReaches 0 0x40 4 = true) := by
  refine ⟨by decide +kernel, by decide +kernel, by decide +kernel, by decide +kernel, by decide +kernel, by decide +kernel, by decide +kernel,
    by decide +kernel, by decide +kernel, ⟨by decide +kernel, by decide +kernel, ⟨0x80000000040000, 0x40000, by decide +kernel⟩⟩,
    by decide +kernel⟩

/-- The two kinds of writer that R371 admits. -/
theorem witness_Writers : HostWriter leased (.pf0 0) ∧ PairWriter State.reset (.pair 0) :=
  ⟨⟨0, rfl, by decide +kernel, by decide +kernel⟩, ⟨0, rfl, by decide +kernel⟩⟩

/-- RegisterEvents: ports, pairs that run or not, partitions and interfaces that may be changed or not, posts to a team, a thread and a halt,
a ring with and without room, and the accesses of pairs and hosts at their boundaries. -/
theorem witness_RegisterCases :
    (leased.partRuns 5 = false ∧ (∀ q ∈ leased.parts, q.1 ≠ 5 → ∀ c ∈ [8, 9], c ∉ q.2.clusters) ∧ [8, 9].Nodup ∧ 9 / 64 ∉ leased.dev.off) ∧
    (let s := pState base
     ∃ q ∈ s.parts, q.1 ≠ 5 ∧ 0 ∈ q.2.clusters) ∧
    ((postedS 1).viServes 0 1 = true ∧ (postedS 1).viServes 0 2 = false ∧ (postedS 1).portUp 0 = true ∧ (postedS 1).portUp 1 = false) ∧
    (let s := postedS 1
     let y : Posted := { svcP with vi := 1, rcd := ⟨4, .gen 0, zeros 64, true⟩ }
     let u := (s.setGen 0 { G0 with status := .parked .answer }).setPart 0 { s.part 0 with posted := [y] }
     (u.part 0).posted.find? (fun x => decide (x.vi = 1) && decide (x.unit = (0x200000003#64).toNat % 2 ^ 32)) = some y ∧
       (0x200000003#64).toNat / 2 ^ 32 % 2 ^ 8 = 2 ∧ u.gen? 0 = some { G0 with status := .parked .answer }) ∧
    (waitingS.ringOf 0 true = none ∧ (waitingS.part 0).ring.lg = 6 ∧ ¬(2 ^ 6 < (2 ^ 32 + 0 - 0) % 2 ^ 32 + 1)) ∧
    (State.reset.pairRuns 0 = true ∧ State.reset.pairRuns 8 = false ∧ State.reset.pairMem 0x44 8 = true ∧ 0x44 % 8 ≠ 0 ∧
      mget 0 ({ State.reset with resv := [(0, 1)] } : State).resv 0 = 0x40 / 128 + 1) ∧
    (let s := viState (pState base)
     s.portUp 0 = true ∧ (s.port 0).cxl = 20 ∧ s.hostReaches 0 0x40 4 = true ∧ s.heldLines 0 512 = [] ∧
       (s.setLine 0 0 .m).heldLines 0 512 = [0] ∧ s.hostReaches 0 0x40000000 4 = false) := by decide +kernel

/-- The queue of `viState` with these 64 bytes as its first entry. -/
def qHead (b : List Byte) : State :=
  let s := (viState (pState base)).memWr 0x1000000 b
  s.setCtx 0 { s.ctx 0 with ctxrec := 0x8000000000000000 }

def cmdNop : List Byte := [0]

def cmdWait (a : Nat) : List Byte := [2, 0, 0, 0, 0, 0, 0, 0] ++ natLe 8 a

def cmdSignal : List Byte := [3, 1, 0, 0, 0, 0, 0, 0] ++ natLe 8 0x1100000 ++ natLe 8 7

def cmdLaunch : List Byte := [1, 0, 0, 0] ++ zeros 4 ++ natLe 8 0x1200000 ++ natLe 8 0x1300000

def isCmd (s : State) (op : Nat) : Bool :=
  s.inTurn 1 0 && match s.head 1 0 with
    | .cmd k _ => decide (k = op)
    | _ => false

def endedL : Launch := { loadedLaunch with phase := .ended 0, crec := 0x1300000, crsize := 128, from? := ⟨1, 0, false, true⟩ }

def sig1 : Signal := ⟨0x1100000, 7, 0, [], true⟩

theorem witness_QueueEvents :
    ((qHead cmdNop).queueCtx 1 0 = some 0 ∧ isCmd (qHead cmdNop) 0 = true) ∧
    (isCmd (qHead (cmdWait 0x1100000)) 2 = true ∧ ((qHead (cmdWait 0x1100000)).readVa 0 2 0x1100000 8).toOption.isSome = true ∧
      isCmd (qHead (cmdWait 0x1100001)) 2 = true) ∧
    (isCmd (qHead cmdSignal) 3 = true ∧ (((qHead cmdSignal).vi 1).queue 0).signals = []) ∧
    (let s := (qHead []).onQueue 1 0 fun Q => { Q with signals := [sig1] }
     ((s.vi 1).queue 0).signals.find? s.signalReady = some sig1 ∧ sig1.addr.toNat % 8 = 0 ∧
       ((s.onQueue 1 0 fun R => { R with signals := R.signals.erase sig1 }).writeVa 0 2 0x1100000 (natLe 8 7)).toOption.isSome = true) ∧
    isCmd (qHead cmdLaunch) 1 = true ∧ ((qHead [9]).inTurn 1 0 = true ∧ (qHead [9]).head 1 0 = .bad 1) ∧
    (let L := { loadedLaunch with phase := .waiting }
     let s := base.setLaunch 3 L
     s.launch? 3 = some L ∧ s.ctxRuns 0 = true ∧ L.waits.all s.retiredL = true ∧ L.waitTrig = none) ∧
    (let s := (qHead []).setLaunch 3 endedL
     let s1 := (s.setLaunch 3 { endedL with recorded := true }).onQueue 1 0 fun R => { R with launches := R.launches.filter fun x => decide (x ≠ 3) }
     s.launch? 3 = some endedL ∧ endedL.recorded = false ∧ endedL.crec ≠ 0 ∧ 128 ≤ endedL.crsize ∧
       (s1.writeVa 0 3 0x1300000 (endedL.completion 0 s.gtime)).toOption.isSome = true) := by decide +kernel

theorem witness_ContextEvents :
    (leased.pf0Fenced 0 = false ∧ leased.pf0Ok 0 = true ∧ (leased.ctx 0).gen ≠ (5#64).toNat % 2 ^ 32 ∧ ∀ x ∈ (leased.ctx 0).genWait, leased.storeGone x = true) ∧
    (let s : State := { pState base with dev := leased.dev }
     (s.part 0).ftplg ≠ 0 ∧ (0x50000#64).toNat % 65536 = 0 ∧ (0x50000#64).toNat < 2 ^ 48 ∧ (State.reset.part 0).ftplg = 0 ∧
       (2 ^ 64 + leNat (s.memRd ((s.part 0).ftpbase + 8) 8) - leNat (s.memRd (s.part 0).ftpbase 8)) % 2 ^ 64 < 2 ^ (s.part 0).ftplg) ∧
    ((∀ q ∈ leased.teams, q.2.ctx = 0 → q.2.status.active = false) ∧ (∀ q ∈ leased.gens, q.2.ctx = 0 → q.2.status.active = false)) ∧
    ((0x8000000000000000#64).getLsbD 63 = true ∧ (0#64).getLsbD 63 = false) := by decide +kernel

/-- ContextEvents: an access of an earlier generation that waits, and a store that has not left. -/
theorem witness_ContextCases :
    (let m := { oneLane .ld (.s 4) 0x40 .checked with lanes := [⟨0, 0x40, 0, 4, 7, 0, .checked, some (.mem [0x40] 0), 5, false⟩] }
     (∃ q ∈ (pended [pw (.mem m)]).th.pend, ∃ m, q.work = .mem m ∧ ∃ l ∈ m.lanes, l.spot.isSome = true ∧ l.gen ≠ (base.ctx 0).genSeq ∧
       (l.stage = .checked ∨ l.stage = .sent))) ∧
    (let s := base.setSbuf 0 [sEntry]
     ∃ e ∈ s.sbuf 0, e.sector / 4 = 0) ∧
    (∃ q ∈ (withT T0).teams, q.2.ctx = 0 ∧ q.2.status.active = true) := by
  refine ⟨⟨_, List.mem_singleton.mpr rfl, _, rfl, ⟨_, List.mem_singleton.mpr rfl, by decide +kernel⟩⟩, by decide +kernel, by decide +kernel⟩

/-- Endpoints 1 and 2 of context 0, with a `put` of 4 bytes from 0x40 to endpoint 2 and a `get` of 4 bytes at 0x80. -/
def sendPut : List Byte := [1, 0, 0, 2] ++ zeros 4 ++ natLe 8 0x40 ++ natLe 8 4 ++ natLe 8 0 ++ natLe 8 9

def sendGet : List Byte := [2, 0, 0, 2] ++ zeros 4 ++ natLe 8 0x80 ++ natLe 8 4 ++ natLe 8 0x40 ++ natLe 8 9

def epS (x : List Byte) : State :=
  let s := pState base
  { s with dev := { s.dev with eps := [(1, ⟨0, 0, [x], [], [], 0x4000, 4, 0⟩), (2, ⟨0, 0, [], [(0x100, 64)], [], 0x5000, 4, 0⟩)] } }

theorem witness_DeviceEvents :
    (3 ∉ State.reset.dev.failedPairs ∧ 3 ∉ State.reset.dev.off ∧ 3 ∉ State.reset.dev.spared ∧
      5 ∈ (withDev fun d => { d with spared := [5] }).dev.spared ∧ 5 ∉ (withDev fun d => { d with spared := [5] }).dev.lostLinks) ∧
    ((epS sendPut).ep? 1 = some ⟨0, 0, [sendPut], [], [], 0x4000, 4, 0⟩ ∧ (epS sendPut).ep? 2 = some ⟨0, 0, [], [(0x100, 64)], [], 0x5000, 4, 0⟩ ∧ leAt sendPut 0 1 = 1 ∧
      16 * leAt sendPut 2 1 + leAt sendPut 3 1 % 16 = 2 ∧ leAt sendPut 1 1 = (epS sendPut).dev.fpkg ∧ leAt sendPut 16 8 = 4 ∧
      ((epS sendPut).span 0 0x100 4 .write none).toOption = some [0x100, 0x101, 0x102, 0x103] ∧ ((epS sendPut).span 0 0x40 4 .read none).toOption.isSome = true) ∧
    (leAt sendGet 0 1 = 2 ∧ leAt sendGet 1 1 = (epS sendGet).dev.fpkg ∧ ((epS sendGet).span 0 0x80 4 .write none).toOption = some [0x80, 0x81, 0x82, 0x83] ∧
      ((epS sendGet).span 0 0x40 4 .read none).toOption.isSome = true) ∧
    (leased.pf0Fenced 0 = false ∧ leased.pf0Ok 0 = true ∧ (0x80#64).getLsbD 7 = true ∧ bitAt leased.dev.isolate 7 = false ∧ 7 ∉ leased.dev.off) ∧
    (95 ∉ State.reset.dev.spared ∧ (let s : State := { base with dev := { base.dev with spared := [95] } }
      95 ∈ s.dev.spared ∧ 95 ∉ s.dev.lostLinks ∧ (s.ctx 0).mode = .running ∧ s.lossMeets 0 = false ∧ s.crosses 0 1 = false)) ∧
    ((leAt [1, 3] 1 1 ≠ State.reset.dev.fpkg) ∧ (epS sendPut).ep? 3 = none ∧ (epS [3]).ep? 1 = some ⟨0, 0, [[3]], [], [], 0x4000, 4, 0⟩) ∧
    (let s : State := { State.reset with gtime := State.reset.dev.scrubHours * hourNs }
     s.dev.scrubSince + s.dev.scrubHours * hourNs ≤ s.gtime) ∧
    ((State.reset.setLine 0 5 .m).lines.map (·.1)).Nodup ∧
    (32 * 0 < 3 * 2 ^ 39 ∧ mget 0 State.reset.dev.errCe 8 < 2 ^ 32 - 1 ∧ State.reset.dev.scrubEn = true ∧
      State.reset.gtime < State.reset.dev.scrubSince + State.reset.dev.scrubHours * hourNs) := by decide +kernel

/-- Endpoint 1 sends `x` to package 3, over the pairs of mask `m`, with an aperture of partition 0. -/
def farS (x : List Byte) (m : Nat) : State :=
  let s := epS x
  { s with dev := { s.dev with froute := [(3, ⟨true, m⟩)], faper := [(0, ⟨true, true, true, 3, 0, 0, 0⟩), (1, ⟨true, true, true, 0, 0, 0, 0⟩)] } }

/-- Endpoint 1 waits for the answer to `x`. -/
def flownS (x : List Byte) : State :=
  let s := epS x
  { s with dev := { s.dev with froute := [(3, ⟨true, 1⟩)], eps := [(1, ⟨0, 0, [], [], [x], 0x4000, 4, 0⟩), (2, ⟨0, 0, [], [(0x100, 64)], [], 0x5000, 4, 0⟩)] } }

def farPut : List Byte := [1, 3, 0, 2] ++ zeros 4 ++ natLe 8 0x40 ++ natLe 8 4 ++ natLe 8 0 ++ natLe 8 9

def farGet : List Byte := [2, 3, 0, 2] ++ zeros 4 ++ natLe 8 0x80 ++ natLe 8 4 ++ natLe 8 0x40 ++ natLe 8 9

/-- DeviceEvents, between packages: descriptors that leave, are refused for want of a route or an aperture, or find no pair left; what
arrives and what is answered; the pair whose failure cuts a package off, with a context that waits for it. -/
theorem witness_MessageCases :
    (leAt farPut 1 1 ≠ (farS farPut 1).dev.fpkg ∧ leAt farPut 1 1 = 3 ∧ leAt farPut 0 1 = 1 ∧ leAt farGet 0 1 = 2 ∧
      (farS farPut 1).aperOpens 0 3 true = true ∧ (farS farGet 1).aperOpens 0 3 false = true ∧ (farS farGet 1).aperOpens 1 3 false = false ∧
      (farS farPut 1).cutOff 3 = false ∧ (farS farPut 0).cutOff 3 = true ∧
      (epS farPut).aperOpens 0 3 true = false ∧ (farS farPut 0).inUse 0 = true) ∧
    ((farS [] 1).foreign 3 = true ∧ (farS [] 0).foreign 3 = false ∧ (farS [] 1).ep? 2 = some ⟨0, 0, [], [(0x100, 64)], [], 0x5000, 4, 0⟩ ∧
      (farS [] 1).ep? 3 = none ∧ ((farS [] 1).span 0 0x100 2 .write (some 3)).toOption = some [0x100, 0x101] ∧
      ((farS [] 1).span 0 0x100 2 .write (some 11)).toOption = none ∧ ((farS [] 1).span 0 0x40 2 .read (some 3)).toOption = some [0x40, 0x41]) ∧
    ((flownS farPut).flying? 1 0 = some (⟨0, 0, [], [], [farPut], 0x4000, 4, 0⟩, farPut) ∧ (flownS farGet).flying? 1 0 = some (⟨0, 0, [], [], [farGet], 0x4000, 4, 0⟩, farGet) ∧
      (flownS farGet).flying? 1 1 = none ∧ leAt farGet 16 8 = 4 ∧ ((flownS farGet).span 0 0x80 4 .write none).toOption = some [0x80, 0x81, 0x82, 0x83]) ∧
    ((flownS farPut).waitsOn 3 = [0] ∧ (flownS farPut).inUse 0 = true ∧ 0 ∉ (flownS farPut).dev.failedPairs ∧ (flownS farPut).tileOps = [] ∧
      ((flownS farPut).tiles.map (·.1)).Nodup ∧ bitAt ((flownS farPut).route 0 3).mask 0 = true ∧ ((flownS farPut).dev.froute.map (·.1)).Nodup) := by
  decide +kernel

/-- The state after one instruction, or the state before it. -/
def nextOf (i : Instr) (s : State) : State := match exec i s with
  | .next t => t
  | _ => s

/-- What the forms do in those states: a put leaves and halts no one, or finds its package cut off. -/
theorem test_message_sends :
    ((nextOf (.put 1 2) (farS farPut 1)).ep? 1).map (·.flying.length) = some 1 ∧
    ((nextOf (.put 1 2) (farS farPut 0)).ctx 0).mode = .halted ∧ ((nextOf (.put 1 2) (farS farPut 0)).ctx 0).cause = 0xF := by decide +kernel

/-- R422, R423: the answers complete them; a put that arrives is placed, and a get is answered. -/
theorem test_message_arrivals :
    (let t := nextOf (.putAnswerFabric 1 0 1 3) (flownS farPut)
     (t.ep? 1).map (·.cpi) = some 1 ∧ t.memRd 0x4000 1 = [1] ∧ t.memRd 0x4010 1 = [3] ∧ t.memRd 0x4018 1 = [9]) ∧
    (let t := nextOf (.getAnswerFabric 1 0 0 [(7, false), (8, false), (9, false), (10, false)]) (flownS farGet)
     t.mem8 0x80 = 7 ∧ t.mem8 0x83 = 10 ∧ t.memRd 0x4000 1 = [0] ∧ t.memRd 0x4010 1 = [4]) ∧
    (let t := nextOf (.putFabric 3 2 9 [(7, false), (8, false)]) (farS [] 1)
     t.mem8 0x100 = 7 ∧ t.mem8 0x101 = 8 ∧ t.memRd 0x5008 1 = [2] ∧ t.dev.out = [.fabric 3 9 0 2 []]) ∧
    (nextOf (.getFabric 3 2 9 0x40 2) (farS [] 1)).dev.out = [.fabric 3 9 0 2 [(0, false), (0, false)]] := by decide +kernel

/-- The last pair of a package fails: its sender halts and waits no more. -/
theorem test_pair_failure :
    (let t := nextOf (.fibrePairFailure 0) (flownS farPut)
     (t.ctx 0).mode = .halted ∧ (t.ctx 0).cause = 0xF ∧ (t.ep? 1).map (·.flying) = some []) := by decide +kernel

/-- Poison in registers (R431, R432): a write clears it, an emitted word, a staged lane and an accumulator that is added to consume it. -/
theorem test_register_poison :
    (let th : Thread := { T0.th with marks := [8, 9, 10] }
     (th.wr 4 7).marks = [10] ∧ (th.wrs 4 [1, 2]).marks = [] ∧ th.poisoned 4 1 = true ∧ th.poisoned 6 2 = false) ∧
    (let T := { T0 with vmarks := [vkey 3 0, vkey 3 1] }
     (T.vw 3 1 7).vmarks = [vkey 3 0] ∧ (T.vw 4 1 7).vmarks = T.vmarks ∧ T.stagedBad 0 [3] = true ∧ T.stagedBad 1 [3] = false) ∧
    regWord { emitGen.th with marks := [22] } 10 = .ok nopWord ∧ regWord { emitGen.th with marks := [21] } 10 = .error (some 0xD) ∧
    regRun { emitGen.th with marks := [21] } 10 4 = .ok (nopWord.take 4) ∧
    (let B := { loadedBlock with accMarks := [accKey 0 1 0 0] }
     B.accBad 0 1 false none = true ∧ B.accBad 0 0 true (some 0) = true ∧ B.accBad 0 2 false none = false ∧ B.marksBut 0 0 true = []) := by
  decide +kernel

/-- DeviceEvents: a thread's, a team's and a block's words that an error strikes, and ones that are not there. -/
theorem witness_RegisterErrors :
    base.thread? (.team 0) = some T0.th ∧ base.team? 0 = some T0 ∧ 3 < T0.vregs ∧ 31 < 32 * T0.words ∧ base.block? 0 = some loadedBlock ∧
      0 ∈ loadedBlock.cores ∧ 1 ∉ loadedBlock.cores ∧ base.thread? (.queue 0) = none ∧ base.team? 1 = none ∧ base.block? 1 = none := by
  decide +kernel

/-- The hearth die's control array takes the package down (R436); an SPDM request needs a port that is up (R439). -/
theorem witness_ControlCases :
    ((viState (pState base)).portUp 0 = true ∧ (viState (pState base)).pf0Fenced 0 = false ∧ State.reset.portUp 0 = false) ∧
    (match exec (.uncorrectableError (.control 8)) State.reset with
      | .next t => decide (t.dev.off.length = 13)
      | _ => false) = true := by decide +kernel

/-! ### More witnesses -/

/-- WordGate: launch limits that fail in each place, and a generator's word whose source is still to be written. -/
theorem witness_WordLimits :
    ((withT smallTeam).thread? (.team 0) = some smallTeam.th ∧ agentPlace (.team 0) ∈ encPlaces (.vlane ⟨false, 7, 6, 8⟩) ∧
      (withT smallTeam).limitFails (.team 0) (.vlane ⟨false, 7, 6, 8⟩) ∧ ¬(withT T0).limitFails (.team 0) (.nop ⟨false, 0⟩)) ∧
    (let s : State := { qState [] with launches := [] }
     QueueIssuing s (.acczero ⟨7, 6, none⟩) 0 qe [] tdBlock ∧ s.limitFails (.queue 0) (.acczero ⟨7, 6, none⟩)) ∧
    (let p := pw (.result [.s 4 1] 0)
     let G := { G0 with th := { G0.th with pend := [p] } }
     (withG G).thread? (.gen 0) = some G.th ∧ p ∈ G.th.pend ∧ p.finished = false ∧ 4 ∈ p.work.dests ∧
       4 ∈ Instr.touches (.mov ⟨false, 0, 5, .reg 4⟩) G.th.rd) := by
  refine ⟨⟨by decide +kernel, by decide, Or.inl ⟨0, smallTeam, rfl, by decide +kernel, Or.inl ⟨(8, 1), by decide +kernel, by decide⟩⟩, ?_⟩,
    ⟨⟨rfl, by decide, (q_issuing [] (.acczero ⟨7, 6, none⟩) (by decide)).head, (q_issuing [] (.acczero ⟨7, 6, none⟩) (by decide)).block⟩,
      Or.inr ⟨tdBlock, by decide +kernel, by decide +kernel⟩⟩, by decide +kernel⟩
  rintro (⟨k, T, _, _, h | h⟩ | h)
  · obtain ⟨q, hq, _⟩ := h
    simp [Instr.vecRegs] at hq
  · exact h
  · exact h

/-- ControlWords: arrivals counted before complete the phase as EXP is set. -/
theorem witness_settled : (loadedBlock.setBar 0 ⟨false, 2, 0, 0⟩ |>.bar 0).settle 2 = some ⟨false, 2, 2, 0⟩ := by decide +kernel

/-- FloatRounding and TranscendentalBounds: values of both kinds, a zero sum, and operands in every class. -/
theorem witness_rounding :
    ((FV.fin false 1 0).real + (FV.fin false 1 0).real ≠ 0 ∧ (FV.fin false 1 0).real + (FV.fin true 1 0).real = 0 ∧
      (FV.fin false 1 0).real * (FV.fin true 0 0).real = 0 ∧ (FV.fin false 1 0).real = (0 : ℤ) + 1 ∧ 0 < (FV.fin false 3 0).real) ∧
    (fmtF32.val 0x3F800000 = .fin false 0x800000 (-23) ∧ fmtF32.val 0xFF800000 = .inf true ∧ fmtF32.val 0x7FC00000 = .nan false ∧
      (fmtF32.val 0x7F800001).isNan = true ∧ (1 : Nat) < 2 ^ fmtF32.bits) := by
  refine ⟨?_, by decide +kernel⟩
  norm_num [FV.real, FV.rat]

/-- Team 0 with one held word, and with slot 0 of its core. -/
def heldS (o : HeldOp) : State := withSlot (withT (pended [pw (.held o)]))

/-- Generator thread 0 with one held word. -/
def heldG (o : HeldOp) : State := withG { G0 with th := { G0.th with pend := [pw (.held o)] } }

/-- A store to a basin that has not been performed. -/
def slowStore : Pend := pw (.mem (oneLane .st .none 0xFFE0000000000008 .checked))

/-- FaultEffects: what may still fault, handlers and none, a thread, a job, a context whose save fails. -/
theorem witness_FaultEffects :
    ((∃ p ∈ (pended [pw (.mem (oneLane .ld (.s 4) 0x40 .fresh))]).th.pend, p.mayFault = true) ∧ (∀ p ∈ T0.th.pend, p.mayFault = false)) ∧
    (trapped.hcause ≠ 0 ∧ T0.hcause = 0 ∧ ((withT T0).ctx 0).run.hentry = 0 ∧ ((handlerState T0).ctx 0).run.hentry ≠ 0 ∧
      (pState (handlerState T0)).poolHas 0 = true ∧ ((pState (handlerState T0)).part 0).ft = false ∧ (withT T0).poolHas 0 = false) ∧
    ((withT T0).team? 0 = some T0 ∧ (withG G0).gen? 0 = some G0 ∧ (jState copyJob).jobFree 0 0 = some copyJob) ∧
    (copyJob.kind = .copy (copyD 1) [(0, 8)] 4 ∧ accJob.kind = .accMove (.acczero ⟨1, 6, none⟩) ∧
      (Job.base (.matrix (.mma (mm plainExt))) 0 0 0).kind = .matrix (.mma (mm plainExt)) ∧ (weirJob .wreset).kind = .weir .wreset) ∧
    ((encode (.acczero ⟨1, 6, none⟩)).isSome = true ∧ (encode (.mma (mm plainExt))).isSome = true ∧ (encode .wreset).isSome = true) ∧
    ((base.ctx 0).cause = 0 ∧ (base.part 0).err0v = false ∧ ((onPs base).setPart 0 { base.part 0 with err0v := true } |>.part 0).err0v = true) := by
  refine ⟨?_, ?_, ?_, ?_, ?_, ?_⟩ <;> decide +kernel

/-- HeldPerformed: the basin words, with their slot as it must be, empty, another context's or busy, and basins of the block to allocate. -/
theorem witness_HeldBasins :
    (∀ o ∈ ([.balloc 4 1, .bfree 4 0 .idle, .give 4 0 1 5 .idle, .takeTest 4 0, .bshare 4 0 3, .bmap 4 0, .bzero 4 0 none, .bzero 4 0 (some 3)] : List HeldOp),
      (heldS o).thread? (.team 0) = some (pended [pw (.held o)]).th ∧ (pended [pw (.held o)]).th.pend[0]? = some (pw (.held o)) ∧
        (heldS o).ctxRuns 0 = true) ∧
    (let s := heldS (.balloc 4 1)
     ((s.core 0).slot 0).mode = 1 ∧ ((s.core 0).slot 0).owner = s.cid 0 ∧ ((s.core 0).slot 0).busy = false ∧ ((s.core 0).slot 1).mode = 0 ∧
       ((s.core 0).slot 1).busy = false ∧ (∀ b < 32, ((s.cluster 0).info b).blk ≠ some 0) ∧
       (let u := s.setCluster 0 ((s.cluster 0).setInfo 3 ⟨some 0, false, some 0, false⟩)
        ((u.cluster 0).info 3).blk = some 0 ∧ ((u.cluster 0).info 3).allocated = false ∧ ((u.cluster 0).info 3).last = some 0) ∧
       (let u := s.setCluster 0 ((s.cluster 0).setInfo 3 ⟨some 0, false, none, false⟩)
        ((u.cluster 0).info 3).last ≠ some 0)) ∧
    (let s := (heldS (.give 4 0 1 5 .idle)).setSlot 0 0 ⟨true, 0, 1, 3⟩
     ((s.core 0).slot 0).busy = true ∧ ((heldS (.bshare 4 0 3)).setSlot 0 0 ⟨false, 9, 1, 3⟩ |>.core 0 |>.slot 0).owner ≠ s.cid 0) ∧
    (let s := (heldS (.bshare 4 0 3)).setBlock 0 { loadedBlock with cores := [0, 1] }
     (∃ b ∈ s.blocks, b.2.ctx = 0 ∧ b.2.cluster = 0 ∧ 1 ∈ b.2.cores) ∧ (3 : Nat).testBit 1 = true ∧ ((s.core 1).slot 0).mode = 0 ∧
       (∀ b ∈ (heldS (.bshare 4 0 3)).blocks, 1 ∉ b.2.cores)) ∧
    ((heldS (.bzero 4 0 none)).touchesSlot 0 slowStore 0 false = true ∧ (pended [slowStore, pw (.held (.bzero 4 0 none))]).th.pend.take 1 = [slowStore]) := by
  refine ⟨?_, ?_, ?_, ?_, ?_⟩ <;> decide +kernel

/-- HeldPerformed: fences, arrivals, `trig`, `spawn`, `kick` and `dlaunch`. -/
theorem witness_HeldWaits :
    (acqOrd 1 = true ∧ relOrd 1 = false ∧ relOrd 2 = true ∧ slowStore.performed = false ∧ slowStore.checkedAll = true ∧
      (pw (.mem (oneLane .ld (.s 4) 0x40 .fresh))).checkedAll = false ∧ (pw (.mem (oneLane .ld (.s 4) 0x40 .checked))).finished = false) ∧
    (let q := pw (.held (.fence 4 3))
     q.finished = false ∧ (pended [q, pw (.held .trig)]).th.pend.take 1 = [q]) ∧
    (let B := loadedBlock.setBar 3 ⟨false, 1, 2, 0⟩
     (B.bar 3).exp ≠ 0 ∧ (B.bar 3).exp ≠ 4 ∧ (loadedBlock.bar 3).exp = 0 ∧
       ((heldS (.barArrive 3 2)).setBlock 0 B).block? 0 = some B) ∧
    (let s := heldS (.spawn 4 (List.replicate 8 0) 64)
     s.newFits 0 1 256 = true ∧ s.team? 0 ≠ none ∧ s.team? 1 = none ∧ lget loadedBlock.teams 31 = none ∧ loadedBlock.teams.length < 32) ∧
    (let s := heldS (.kick 0xFFE0000000000000 1)
     steer 0xFFE0000000000000 = .basin 0 0 ∧ 0 + 64 * 1024 ≤ 65536 ∧ s.slotBasin 0 0 0 = .ok 3 ∧ (withT T0).slotBasin 0 0 0 = .error 5 ∧
       s.copyLegal 0 3 0 0 = false ∧ (s.basinPut 0 3 0 copyBytes).copyLegal 0 3 0 0 = true) ∧
    (let s := pState (heldS (.dlaunch 4 0x1000 0))
     ((s.translateAll 0 false .read ((List.range 256).map (0x1000 + ·))).toOption.isSome = true) ∧
       (s.translateAll 0 false .read [0x7FFFFFFF0000]).toOption = none ∧ s.poison = [] ∧ bits 2047 5 6 + 1 = 64 ∧ ((s.vi 1).queue 0).en = false ∧
       (let u := viState s
        ((u.vi 1).queue 0).en = true ∧ ((u.vi 1).queue 0).ctx = 0 ∧ (u.vi 1).part = some 0 ∧ ((u.vi 1).queue 0).dev.length < 64)) := by
  refine ⟨?_, ?_, ?_, ?_, ?_, ?_⟩ <;> decide +kernel

/-- HeldPerformed: what a generator thread waits for, and the segment, the team and the descriptor. -/
theorem witness_HeldGen :
    (let x : OpenSeg := ⟨1, 5, 64, 64, 8, [0], 0⟩
     let s := heldG (.eseal 4 x)
     s.thread? (.gen 0) = some { G0.th with pend := [pw (.held (.eseal 4 x))] } ∧ (s.core 0).flue = [] ∧
       (let u := s.setCore 0 { s.core 0 with flue := [codeE] }
        ∃ e ∈ (u.core 0).flue, e.gen = 0 ∧ e.dest = .code 64)) ∧
    (let s := (heldG (.tgo 4 0 9 64 (List.replicate 8 1))).setBlock 0 { loadedBlock with teams := [(0, 0)] }
     let u := s.setTeam 0 { T0 with status := .allocated }
     (∀ B, s.block? 0 = some B → lget B.teams 0 = some 0) ∧ (s.team? 0).map (·.status) = some .ready ∧ (u.team? 0).map (·.status) = some .allocated ∧
       T0.words ≤ 32) ∧
    (let p : Pend := { pw (.held (.tdset 0 5)) with id := 9 }
     let s := heldG (.tdset 0 5)
     (s.core 0).queue = [] ∧ (let u := s.setCore 0 { s.core 0 with queue := [{ codeE with dest := .queue }] }
       ∃ e ∈ (u.core 0).queue, e.gen = 0 ∧ e.run < p.id)) := by
  refine ⟨by decide +kernel, ⟨?_, by decide +kernel⟩, by decide +kernel⟩
  intro B h
  have e : State.block? ((heldG (.tgo 4 0 9 64 (List.replicate 8 1))).setBlock 0 { loadedBlock with teams := [(0, 0)] }) 0 =
      some { loadedBlock with teams := [(0, 0)] } := by decide +kernel
  rw [e] at h
  cases h
  rfl

/-- A job that stores accumulator 2 through descriptor 2, and one that multiplies. -/
def accstJob : Job := { Job.base (.accMove (.accst ⟨1, 1, 7, 2, none⟩)) 0 0 0 with da := dT, slots := [(0, some 3)] }

def mmaJob : Job := { Job.base (.matrix (.mma (mm plainExt))) 0 0 0 with da := dA, db := dB, slots := [(0, some 3)] }

/-- EngineEvents: an `accst` at its last element, a poisoned accumulator and COUNT word, an all-ones index, a matrix job between K steps. -/
theorem witness_EngineMore :
    ((jState accstJob).jobFree 0 0 = some accstJob ∧ accstJob.readDone = false ∧ accstJob.basinOf (TDesc.slot accstJob.da) = .ok 3 ∧
      mget 0 accstJob.got 4095 = 0 ∧ 4095 ∈ accstJob.elems ∧ tdBlock.accBad 0 2 false (some 4095) = false ∧
      ({ tdBlock with accMarks := [accKey 0 2 63 63] } : Block).accBad 0 2 false (some 4095) = true) ∧
    (let s := jState copyJob
     s.basinPoisoned 0 3 8 4 = false ∧ ({ s with bpoison := [3 * 16384 + 2] } : State).basinPoisoned 0 3 8 4 = true ∧ 4 < 2 ^ 31) ∧
    (2 ^ (if (copyD 2).iw then 16 else 32) - 1 = 4294967295 ∧ (copyD 2).kind = 2 ∧ takeRun 7 1 [(0, 8)] = some [(0, 7)]) ∧
    (mmaJob.mat? = some (.mma (mm plainExt), mm plainExt) ∧ mmaJob.steps ≤ mmaJob.stepsRead (.mma (mm plainExt)) (mm plainExt) ∧
      copyJob.mat? = none ∧ (jState mmaJob).block? mmaJob.blk = some tdBlock) := by
  refine ⟨?_, ?_, ?_, ?_⟩ <;> decide +kernel

/-- DispatchEvents: a block that is done, one whose store has not left, and one that an engine word holds. -/
theorem witness_BlockDone :
    (let B : Block := { loadedBlock with launch := 1, teams := [], gthread := 1 }
     B.teams = [] ∧ (retiring.gen? (16 * B.cluster + B.gthread)).map (·.status) = some .exited ∧
       (∀ n < 8, (retiring.core (8 * B.cluster + n)).jobs = [] ∧ (retiring.core (8 * B.cluster + n)).queue = [] ∧ (retiring.core (8 * B.cluster + n)).flue = []) ∧
       (retiring.cluster B.cluster).arrivals = [] ∧ (∀ n < 9, retiring.sbuf (16 * B.cluster + n) = []) ∧ (retiring.cluster B.cluster).cistern = [] ∧
       retiring.ctxRuns B.ctx = true) ∧
    ((retiring.setSbuf 0 [sEntry]).sbuf 0 ≠ [] ∧ ∃ e ∈ ((retiring.setCore 0 { retiring.core 0 with queue := [{ codeE with blk := 9 }] }).core 0).queue, e.blk = 9) := by
  decide +kernel

/-- RegisterEvents: an image to stage and an endpoint's ring, with the writers that may and may not. -/
theorem witness_Endpoints :
    (leased.portUp 0 = true ∧ leased.pf0Fenced 0 = false ∧ leased.pf0Ok 0 = true ∧ (withDev fun d => { d with ports := leased.dev.ports }).pf0Ok 0 = false) ∧
    (State.reset.leads 0 = true ∧ 1023 < 1024 ∧ State.reset.leads 1 = false) ∧
    ((postedS 1).viServes 0 1 = true ∧ ((postedS 1).vi 1).part = some (15 / 16) ∧ ((postedS 1).vi 1).part ≠ some (16 / 16)) ∧
    ((lget (epS sendPut).dev.eps 1).isSome = true ∧ (zeros 64).length = 64 ∧ ([] : List Byte).length ≠ 64) ∧
    (let s := withDev fun d => { d with leaseState := 3, moved := some 1, taker := some 0 }
     s.dev.moved = some 1 ∧ s.dev.leaseState = 3 ∧ s.dev.taker = some 0) := by decide +kernel

/-- DeviceEvents: a chimney die on, its partition's context, and the places that hold a word or do not. -/
theorem witness_Errors :
    (9 ≤ 9 ∧ 9 < 13 ∧ 9 ∉ State.reset.dev.off ∧ 8 ∉ State.reset.dev.off ∧ (farS farPut 1).inUse 0 = true ∧
      (∃ e ∈ (farS farPut 1).dev.faper, e.1 / 256 = 0 ∧ e.2.v = true ∧ e.2.part = ctxPart 0)) ∧
    (let s := base.setLine 0 0 .m
     s.filled 0 0 0 = true ∧ (s.line 0 0).dirty = true ∧ (base.setLine 0 0 .s |>.line 0 0).dirty = false ∧ base.filled 0 0 0 = false) ∧
    (3 < 4 ∧ (∃ f ∈ (cisternS.cluster 0).cistern, f.line = 0) ∧ (∀ f ∈ (base.cluster 0).cistern, f.line ≠ 0)) ∧
    ((base.setLine (base.sliceOf 0) 0 .e).line ((base.setLine (base.sliceOf 0) 0 .e).sliceOf 0) 0 ≠ .i ∧ base.line (base.sliceOf 0) 0 = .i) ∧
    (0 < ((flueS [codeE]).core 0).flue.length ∧ (base.core 0).flue.length ≤ 0 ∧ 0 < ((qState []).core 0).queue.length ∧ (base.core 0).queue.length ≤ 0) ∧
    (575 < 576 ∧ 3 * 2 ^ 39 ≤ 32 * (3 * 2 ^ 34) ∧ 32 * (3 * 2 ^ 34 - 1) < 3 * 2 ^ 39) ∧
    ((State.reset.dev.pwrAt + 1000000 ≤ ({ State.reset with gtime := 1000000 } : State).gtime) ∧ State.reset.gtime < State.reset.dev.pwrAt + 1000000) ∧
    (State.reset.dev.staged.map (·.1)).Nodup := by
  refine ⟨?_, ?_, ?_, ?_, ?_, ?_, ?_, ?_⟩ <;> decide +kernel

/-- AccessEvents: an atomic in its unit, whose tile another package shares, that has asked it, and whose memory is out of reach. -/
theorem witness_AtomicCases :
    let p := pw (.mem (oneLane (.atom 0) (.s 4) 0x40 .sent))
    let q : AtomReq := ⟨0, 0x40, .team 0, 1, 0, false⟩
    let s : State := { mState [p] with atomq := [q] }
    (s.atomq.find? fun x => decide (x.unit = q.unit)) = some q ∧ q.n = p.id ∧ s.lineGone 0 = false ∧ s.askedPkgs 0 = 0 ∧ (goneS s).lineGone 0 = true ∧
      ({ s with tiles := [(0, 4)] } : State).askedPkgs 0 ≠ 0 ∧ s.tileOps = [] ∧
      (let o : TileOp := ⟨0, 0, 4⟩
       o.line = 0 ∧ o.wait ≠ 0) := by decide +kernel

/-- CoherenceEvents: tiles that another package may read, write and answer for, and ones that are busy or closed to it. -/
theorem witness_tiles :
    ((farS [] 1).foreign 3 = true ∧ (farS [] 1).admits 3 0 false = true ∧ (farS [] 1).admits 3 0 true = true ∧ (farS [] 1).admits 11 0 false = false ∧
      (farS [] 1).tileBusy 0 = false ∧ ((farS [] 1).lines.map (·.1)).Nodup ∧ paRemote (128 * 0) = false ∧ (farS [] 1).foreign 0 = false) ∧
    (let s : State := { farS [] 1 with tileOps := [⟨0, 3, 0⟩] }
     s.tileBusy 0 = true) ∧
    (let r := (farS [] 1).homeRouter 0
     ((farS [] 1).router r).entry? 0 = none ∧ (farS [] 1).canPut (farS [] 1).msgs.length r 0 = true ∧
       (let s := (farS [] 1).setRouter r { (farS [] 1).router r with tree := [cEnt 4 [(1, 1)] none] }
        (s.router r).entry? 0 = some (cEnt 4 [(1, 1)] none) ∧ (cEnt 4 [(1, 1)] none).ports ≠ [] ∧ (TEntry.new 0 4).ports = [])) ∧
    (paRemote (2 ^ 47) = true ∧ 2 ^ 47 / 2 ^ 44 % 8 = 0 ∧ ∀ l ∈ tileLines 0, (farS [] 1).tearing l = false) ∧
    (let o : TileOp := ⟨0, 0, 8⟩
     let s : State := { farS [] 1 with tileOps := [o], tiles := [(0, 8)] }
     bitAt o.wait 3 = true ∧ o.wait = 2 ^ 3 ∧ bitAt (mget 0 s.tiles 0) 3 = true ∧ (TearWhy.own 0 [(homeR, 1)]).grants = true) := by
  refine ⟨?_, ?_, ?_, ?_, ?_⟩ <;> decide +kernel

/-! ### The whole machine -/

theorem witness_RoundTrip :
    (let i : Instr := .add ⟨true, 7, 159, 0, .imm11 0x7FF⟩
     (encode i).isSome = true ∧ i.wf = true ∧ Place.team ∈ encPlaces i ∧ ((encode i).map fun r => placedOk 0 r.bytes) = some true) ∧
    (let i : Instr := .hint ⟨0, 1, 0x1FF, 7, 0, 0, 0, 0, 0, 0, 0⟩
     (encode i).isSome = true ∧ i.wf = true ∧ Place.queue ∈ encPlaces i ∧ (encode i).map (fun r => decide (0x1F8 ≤ r.op.toNat)) = some true) := by
  decide +kernel

theorem witness_StepRunsDecoded :
    (let u : State := { base.tick with agenda := base.agenda.tail }
     base.agenda = [] ∧ base.cur = some (.team 0) ∧ base.agentCtx? (.team 0) = some 0 ∧ u.ctxRuns 0 = true ∧ u.canIssue (.team 0) = true ∧
       u.inSealed 0 0 0 = true ∧ decodeBytes .team 0 (mgets 0 (base.core 0).code 0 16) = .ok (.nop ⟨false, 0⟩)) ∧
    (let s := gState G0 nopWord
     let u : State := { s.tick with agenda := s.agenda.tail }
     s.cur = some (.gen 0) ∧ u.canIssue (.gen 0) = true ∧ (match u.fetchGen 0 0 with
       | .ok bs => decide (decodeBytes .gen 0 bs = .ok (.nop ⟨false, 0⟩))
       | _ => false) = true) ∧
    (let s := withQ [qe]
     let u : State := { s.tick with agenda := s.agenda.tail }
     s.cur = some (.queue 0) ∧ u.canIssue (.queue 0) = true ∧ decodeBytes .queue 0 qe.bytes = .ok (.nop ⟨false, 0⟩)) ∧
    isEvent .leaseExpiry = true := by decide +kernel

/-- The first step of the small state runs its word. -/
theorem test_step : (match step base with
    | .next t => (t.team? 0).map (·.th.pc)
    | _ => none) = some 8 := by decide +kernel

theorem witness_StepKeepsMemory : base.Inv ∧ (gState G0 nopWord).Inv ∧ ∃ t, step base = .next t := by
  refine ⟨by unfold State.Inv; decide +kernel, by unfold State.Inv; decide +kernel, ?_⟩
  have h : (match step base with
    | .next _ => true
    | _ => false) = true := by decide +kernel
  generalize step base = o at h ⊢
  cases o with
  | next t => exact ⟨t, rfl⟩
  | fault f => cases h
  | refused r => cases h

end Sys2Proof.Tests
end

section
/-! The one-source uniform words, bit fields, comparison, selection and moves (R84, R113, R115, R117, R118): each operation on numbers
is the one on n-bit vectors. -/

namespace Sys2Proof.Machine.OneSource

/-! ### Widths and low bits -/

/-- The model extends a number's low bits as the statements extend a bit vector (R12). -/
theorem extTo_eq_extend (ty : BitVec 3) (x : Nat) : extTo 64 ty x = extend ty (BitVec.ofNat (tyBits ty) x) := by
  rw [extTo_eq, extend]

theorem low_eq_ofNat (ty : BitVec 3) (x : W64) : low ty x = BitVec.ofNat (tyBits ty) x.toNat := by
  apply BitVec.eq_of_toNat_eq
  simp [low]

theorem bitAt_eq_testBit (x n : Nat) : bitAt x n = x.testBit n := by
  rw [bitAt, Nat.testBit_eq_decide_div_mod_eq]
  rfl

theorem getElem_ofNat_eq_testBit {n i : Nat} (x : Nat) (hi : i < n) : (BitVec.ofNat n x)[i] = x.testBit i := by
  simp [BitVec.getElem_eq_testBit_toNat, hi]

theorem bitAt_eq_getLsbD {n x k : Nat} (hk : k < n) : bitAt x k = (BitVec.ofNat n x).getLsbD k := by
  simp [bitAt_eq_testBit, getElem_ofNat_eq_testBit, hk]

/-! ### Counts and reversal (R115) -/

theorem popN_eq (n x : Nat) : popN n x = (List.range n).countP fun k => (BitVec.ofNat n x).getLsbD k := by
  rw [popN, ← List.countP_eq_length_filter]
  refine List.countP_congr fun k hk => ?_
  rw [bitAt_eq_getLsbD (List.mem_range.mp hk)]

theorem clzN_eq_takeWhile (n x : Nat) : clzN n x = ((List.range n).reverse.takeWhile fun k => !bitAt x k).length := by
  induction n with
  | zero => rfl
  | succ n ih =>
    rw [List.range_succ, List.reverse_concat', List.takeWhile_cons, clzN]
    cases bitAt x n with
    | true => rfl
    | false => simp [ih, Nat.add_comm]

theorem bitAt_half (x k : Nat) : bitAt (x / 2) k = bitAt x (k + 1) := by
  simp [bitAt_eq_testBit, Nat.testBit_succ]

theorem ctzN_eq_takeWhile (n x : Nat) : ctzN n x = ((List.range n).takeWhile fun k => !bitAt x k).length := by
  induction n generalizing x with
  | zero => rfl
  | succ n ih =>
    rw [List.range_succ_eq_map, List.takeWhile_cons, ctzN, List.takeWhile_map, ih]
    cases bitAt x 0 with
    | true => rfl
    | false => simp [bitAt_half, Function.comp_def, Nat.add_comm]

/-- At positions below `n`, bits of a number are bits of its n-bit vector. -/
theorem takeWhile_bitAt {n x : Nat} {ks : List Nat} (h : ∀ k ∈ ks, k < n) :
    (ks.takeWhile fun k => !bitAt x k) = ks.takeWhile fun k => !(BitVec.ofNat n x).getLsbD k := by
  induction ks with
  | nil => rfl
  | cons k ks ih =>
    rw [List.takeWhile_cons, List.takeWhile_cons, bitAt_eq_getLsbD (h k (by simp)), ih fun j hj => h j (by simp [hj])]

theorem brevN_lt (n x : Nat) : brevN n x < 2 ^ n := by
  induction n generalizing x with
  | zero => simp [brevN]
  | succ n ih =>
    have := ih (x / 2)
    rw [brevN, pow_succ]
    cases bitAt x 0 <;> simp [b2n] <;> omega

theorem testBit_brevN (n x i : Nat) (hi : i < n) : (brevN n x).testBit i = x.testBit (n - 1 - i) := by
  induction n generalizing x with
  | zero => omega
  | succ n ih =>
    rw [brevN, Nat.mul_comm, Nat.testBit_two_pow_mul_add _ (brevN_lt n _)]
    by_cases h : i < n
    · rw [if_pos h, ih _ h, ← Nat.testBit_succ]
      congr 1; omega
    · obtain rfl : i = n := by omega
      rw [if_neg h, bitAt_eq_testBit]
      cases e : x.testBit 0 <;> simp [b2n, e]

theorem ofNat_brevN (n x : Nat) : BitVec.ofNat n (brevN n x) = (BitVec.ofNat n x).reverse := by
  apply BitVec.eq_of_getLsbD_eq
  intro i hi
  have : n - 1 - i < n := by omega
  rw [BitVec.getLsbD_reverse, BitVec.getMsbD_eq_getLsbD, BitVec.getLsbD_ofNat, BitVec.getLsbD_ofNat, testBit_brevN n x i hi]
  simp [hi, this]

/-! ### Absolute value, bit fields, conditions -/

theorem ofInt_natAbs_toInt {n : Nat} (x : BitVec n) : BitVec.ofInt n (x.toInt.natAbs : Int) = x.abs := by
  rw [BitVec.abs_eq]
  cases h : x.msb with
  | true =>
    have : ((x.toInt.natAbs : Nat) : Int) = -x.toInt := by have := BitVec.toInt_neg_of_msb_true h; omega
    simp [this, BitVec.ofInt_neg]
  | false =>
    have : ((x.toInt.natAbs : Nat) : Int) = x.toInt := by have := BitVec.toInt_nonneg_of_msb_false h; omega
    simp [this]

theorem ofNat_absN (ty : BitVec 3) (h : tySigned ty = true) (x : Nat) :
    BitVec.ofNat (tyBits ty) (absN ty false x) = (BitVec.ofNat (tyBits ty) x).abs := by
  simp only [absN, Bool.false_eq_true, if_false, wrapN_eq, tyVal_eq, h, if_true, ofInt_natAbs_toInt, BitVec.ofNat_toNat,
    BitVec.setWidth_eq]

/-- The number of a field is the field of the vector, where the field lies inside it (R117). -/
theorem ofNat_bits {n pos width : Nat} (h : pos + width ≤ n) (x : Nat) :
    BitVec.ofNat width (bits x pos width) = (BitVec.ofNat n x).extractLsb' pos width := by
  apply BitVec.eq_of_getLsbD_eq
  intro i hi
  have : pos + i < n := by omega
  simp [bits, getElem_ofNat_eq_testBit, hi, this, Nat.testBit_div_two_pow, Nat.testBit_mod_two_pow, Nat.add_comm]

theorem bits_lt (x lo n : Nat) : bits x lo n < 2 ^ n := Nat.mod_lt _ (Nat.two_pow_pos n)

/-- A field of at least one bit, read with its top bit as a sign. -/
theorem signedField_eq {f width : Nat} (hf : f < 2 ^ width) (hw : 1 ≤ width) :
    (if bitAt f (width - 1) then (f : Int) - ((2 ^ width : Nat) : Int) else f) = (BitVec.ofNat width f).toInt := by
  have hm : (BitVec.ofNat width f).msb = bitAt f (width - 1) := by
    rw [BitVec.msb_eq_getLsbD_last, ← bitAt_eq_getLsbD (by omega)]
  rw [BitVec.toInt_eq_msb_cond, hm, BitVec.toNat_ofNat, Nat.mod_eq_of_lt hf]

theorem ofNat_bfxN (ty : BitVec 3) {pos width : Nat} (hw : 1 ≤ width) (h : pos + width ≤ tyBits ty) (x : Nat) :
    BitVec.ofNat (tyBits ty) (bfxN ty x pos width) =
      if tySigned ty then ((BitVec.ofNat (tyBits ty) x).extractLsb' pos width).signExtend _
      else ((BitVec.ofNat (tyBits ty) x).extractLsb' pos width).setWidth _ := by
  simp only [bfxN, wrapN_eq, BitVec.ofNat_toNat, BitVec.setWidth_eq, ← ofNat_bits h]
  cases tySigned ty with
  | true =>
    simp only [true_and, if_true, signedField_eq (bits_lt x pos width) hw]
    rw [BitVec.signExtend]
  | false =>
    simp only [Bool.false_eq_true, false_and, if_false, ofInt_nat_mod]
    apply BitVec.eq_of_toNat_eq
    simp [Nat.mod_eq_of_lt (bits_lt x pos width)]

theorem bfiN_eq (ty : BitVec 3) (x y pos width : Nat) :
    bfiN ty x y pos width =
      2 ^ pos * (2 ^ width * (x % 2 ^ tyBits ty / 2 ^ (pos + width)) + bits y 0 width) + x % 2 ^ tyBits ty % 2 ^ pos := by
  simp only [bfiN, pow_add]
  ring

theorem testBit_bfiN (ty : BitVec 3) (x y pos width i : Nat) :
    (bfiN ty x y pos width).testBit i =
      if i < pos then (x % 2 ^ tyBits ty).testBit i
      else if i - pos < width then y.testBit (i - pos) else (x % 2 ^ tyBits ty).testBit i := by
  rw [bfiN_eq, Nat.testBit_two_pow_mul_add _ (Nat.mod_lt _ (Nat.two_pow_pos _)), Nat.testBit_two_pow_mul_add _ (bits_lt y 0 width)]
  by_cases h1 : i < pos
  · simp [h1, Nat.testBit_mod_two_pow]
  · by_cases h2 : i - pos < width
    · simp [h1, h2, bits, Nat.testBit_mod_two_pow]
    · simp only [h1, h2, if_false, Nat.testBit_div_two_pow]
      congr 1; omega

theorem ofNat_bfiN (ty : BitVec 3) (x y pos width : Nat) :
    BitVec.ofNat (tyBits ty) (bfiN ty x y pos width) =
      (let m : BitVec (tyBits ty) := (BitVec.allOnes width).setWidth _
       (BitVec.ofNat _ x &&& ~~~(m <<< pos)) ||| ((BitVec.ofNat _ y &&& m) <<< pos)) := by
  apply BitVec.eq_of_getLsbD_eq
  intro i hi
  by_cases h1 : i < pos
  · simp [getElem_ofNat_eq_testBit, testBit_bfiN, hi, h1, Nat.testBit_mod_two_pow]
  · by_cases h2 : i - pos < width
    · simp [getElem_ofNat_eq_testBit, testBit_bfiN, hi, h1, h2]
    · simp [getElem_ofNat_eq_testBit, testBit_bfiN, hi, h1, h2, Nat.testBit_mod_two_pow]

theorem tyLt_ofNat (ty : BitVec 3) (x y : Nat) :
    tyLt (tySigned ty) (BitVec.ofNat (tyBits ty) x) (BitVec.ofNat (tyBits ty) y) = decide (tyVal ty x < tyVal ty y) := by
  rw [tyVal_eq, tyVal_eq, tyLt]
  cases tySigned ty with
  | true => simp [BitVec.slt]
  | false => simp only [Bool.false_eq_true, if_false, BitVec.ult, Nat.cast_lt]

theorem tyVal_inj (ty : BitVec 3) (x y : Nat) :
    tyVal ty x = tyVal ty y ↔ BitVec.ofNat (tyBits ty) x = BitVec.ofNat (tyBits ty) y := by
  refine ⟨fun h => ?_, fun h => by rw [tyVal_eq, tyVal_eq, h]⟩
  rw [← ofInt_tyVal, h, ofInt_tyVal]

/-- The conditions on exact values are those on vectors of the type (R84). -/
theorem condInt_eq_holds (c ty : BitVec 3) (x y : Nat) :
    condInt c (tyVal ty x) (tyVal ty y) = holds c (tySigned ty) (BitVec.ofNat (tyBits ty) x) (BitVec.ofNat (tyBits ty) y) := by
  unfold condInt holds
  generalize c.toNat = code
  match code with
  | 0 => simp only [tyVal_inj]
  | 1 => simp only [ne_eq, tyVal_inj]
  | 2 => exact (tyLt_ofNat ty x y).symm
  | 3 => simp only [tyLt_ofNat, ← Int.not_lt, decide_not]
  | 4 => exact (tyLt_ofNat ty y x).symm
  | 5 => simp only [tyLt_ofNat, ← Int.not_lt, decide_not]
  | _ + 6 => rfl

theorem extTo_b2n (ty : BitVec 3) (b : Bool) : extTo 64 ty (b2n b) = if b then 1 else 0 := by
  revert ty b; decide

/-! ### The words of the group -/

theorem bfOk_iff {ty : BitVec 3} {width : BitVec 8} {pos : BitVec 11} :
    bfOk ty width pos = true ↔
      ((1 ≤ width.toNat ∧ width.toNat ≤ 64) ∧ pos.toNat ≤ 63) ∧ pos.toNat + width.toNat ≤ tyBits ty := by
  simp [bfOk]

/-- A one-source word writes what its operation on numbers computes, once that agrees with an operation on vectors. -/
theorem uniUnary_of_ofNat {i : UUn → Instr} {g : Nat → Nat → Nat} {f : (n : Nat) → BitVec n → BitVec n}
    (hexec : ∀ o s, exec (i o) s = uni s (i o) 8 (uniUn g o))
    (hf : ∀ n x, BitVec.ofNat n (g n x) = f n (BitVec.ofNat n x)) : UniUnary i f := by
  intro s a th o h
  rw [hexec, low_eq_ofNat, ← hf, ← extTo_eq_extend]
  exact uni_wrote h o.d.toNat (fun th => extTo 64 o.ty (g (tyBits o.ty) (th.rd o.a.toNat).toNat)) 8

theorem popc_spec : UniUnary .popc fun n x => BitVec.ofNat n ((List.range n).countP fun k => x.getLsbD k) :=
  uniUnary_of_ofNat exec_popc fun n x => by rw [popN_eq]

theorem clz_spec : UniUnary .clz fun n x => BitVec.ofNat n (((List.range n).reverse.takeWhile fun k => !x.getLsbD k).length) :=
  uniUnary_of_ofNat exec_clz fun n x => by rw [clzN_eq_takeWhile, takeWhile_bitAt fun k hk => by simpa using hk]

theorem ctz_spec : UniUnary .ctz fun n x => BitVec.ofNat n (((List.range n).takeWhile fun k => !x.getLsbD k).length) :=
  uniUnary_of_ofNat exec_ctz fun n x => by rw [ctzN_eq_takeWhile, takeWhile_bitAt fun k hk => by simpa using hk]

theorem brev_spec : UniUnary .brev fun _ x => x.reverse := uniUnary_of_ofNat exec_brev ofNat_brevN

section Words
variable {s : State} {a : Agent} {th : Thread}

theorem abs_wrote {o : UAbs} (h : Issuing s (.abs o) a th) (hwf : (Instr.abs o).wf = true) :
    ∃ t, exec (.abs o) s = .next t ∧
      WroteS s t a th o.d.toNat (extend o.ty (low o.ty (th.rd o.a.toNat)).abs) (if o.long then 12 else 8) := by
  have hs : tySigned o.ty = true := by
    simp only [Instr.wf, Bool.and_eq_true] at hwf
    exact hwf.2
  rw [exec_abs, low_eq_ofNat, ← ofNat_absN o.ty hs, ← extTo_eq_extend]
  exact uni_wrote h o.d.toNat (fun th => extTo 64 o.ty (absN o.ty false (th.rd o.a.toNat).toNat)) _

theorem bfx_wrote {o : UBfx} (h : Issuing s (.bfx o) a th) (hwf : (Instr.bfx o).wf = true) :
    ∃ t, exec (.bfx o) s = .next t ∧ WroteS s t a th o.d.toNat (extend o.ty
      (let f := (low o.ty (th.rd o.a.toNat)).extractLsb' o.pos.toNat o.width.toNat
       if tySigned o.ty then f.signExtend _ else f.setWidth _)) 8 := by
  simp only [Instr.wf, Bool.and_eq_true, bfOk_iff] at hwf
  obtain ⟨-, ⟨⟨hw, -⟩, -⟩, hn⟩ := hwf
  rw [exec_bfx, low_eq_ofNat, ← ofNat_bfxN o.ty hw hn, ← extTo_eq_extend]
  exact uni_wrote h o.d.toNat (fun th => extTo 64 o.ty (bfxN o.ty (th.rd o.a.toNat).toNat o.pos.toNat o.width.toNat)) 8

theorem bfi_wrote {o : UBfi} (h : Issuing s (.bfi o) a th) :
    ∃ t, exec (.bfi o) s = .next t ∧ WroteS s t a th o.d.toNat (extend o.ty
      (let m : BitVec (tyBits o.ty) := (BitVec.allOnes o.width.toNat).setWidth _
       (low o.ty (th.rd o.a.toNat) &&& ~~~(m <<< o.pos.toNat)) ||| ((low o.ty (th.rd o.b.toNat) &&& m) <<< o.pos.toNat))) 8 := by
  rw [exec_bfi, low_eq_ofNat, low_eq_ofNat, ← ofNat_bfiN, ← extTo_eq_extend]
  exact uni_wrote h o.d.toNat
    (fun th => extTo 64 o.ty (bfiN o.ty (th.rd o.a.toNat).toNat (th.rd o.b.toNat).toNat o.pos.toNat o.width.toNat)) 8

theorem cmp_wrote {o : UCmp} (h : Issuing s (.cmp o) a th) :
    ∃ t, exec (.cmp o) s = .next t ∧ WroteS s t a th o.d.toNat
      (if holds o.cond (tySigned o.ty) (low o.ty (th.rd o.a.toNat)) (low o.ty (th.src true o.src)) then 1 else 0) (srcLen o.src) := by
  rw [exec_cmp, low_eq_ofNat, low_eq_ofNat, ← condInt_eq_holds, ← extTo_b2n o.ty]
  exact uni_wrote h o.d.toNat
    (fun th => extTo 64 o.ty (b2n (condInt o.cond (tyVal o.ty (th.rd o.a.toNat).toNat) (tyVal o.ty (th.src true o.src).toNat)))) _

theorem sel_wrote {o : USel} (h : Issuing s (.sel o) a th) :
    ∃ t, exec (.sel o) s = .next t ∧ WroteS s t a th o.d.toNat
      (extend o.ty (low o.ty (if th.rd o.c.toNat ≠ 0 then th.rd o.a.toNat else th.src true o.src))) (srcLen o.src) := by
  rw [exec_sel, low_eq_ofNat, ← extTo_eq_extend, apply_ite BitVec.toNat]
  exact uni_wrote h o.d.toNat
    (fun th => extTo 64 o.ty (if th.rd o.c.toNat ≠ 0 then (th.rd o.a.toNat).toNat else (th.src true o.src).toNat)) _

theorem mov_wrote {o : UMov} (h : Issuing s (.mov o) a th) :
    ∃ t, exec (.mov o) s = .next t ∧
      WroteS s t a th o.d.toNat (extend o.ty (low o.ty (th.src true o.src))) (srcLen o.src) := by
  rw [exec_mov, low_eq_ofNat, ← extTo_eq_extend]
  exact uni_wrote h o.d.toNat (fun th => extTo 64 o.ty (th.src true o.src).toNat) _

/-- R118: `movi` by the form of its immediate. -/
theorem movi_wrote {o : UMovi} (h : Issuing s (.movi o) a th) :
    ∃ t, exec (.movi o) s = .next t ∧
      (∀ x, o.imm = .i11 x → WroteS s t a th o.d.toNat (x.signExtend 64) 8) ∧
      (∀ x, o.imm = .i32 x → WroteS s t a th o.d.toNat (x.signExtend 64) 12) ∧
      (∀ x, o.imm = .i64 x → WroteS s t a th o.d.toNat x 16) := by
  obtain ⟨t, ht, hw⟩ := uni_wrote h o.d.toNat (fun _ => match o.imm with
    | .i11 x => x.signExtend 64
    | .i32 x => x.signExtend 64
    | .i64 x => x) (immLen o.imm)
  refine ⟨t, (exec_movi o s).trans ht, ?_, ?_, ?_⟩ <;>
  · intro x hx
    simpa only [hx, immLen] using hw

theorem lea_wrote {o : ULea} (h : Issuing s (.lea o) a th) :
    ∃ t, exec (.lea o) s = .next t ∧
      WroteS s t a th o.d.toNat (th.rd o.a.toNat + BitVec.ofInt 64 (offInt o.off)) (offLen o.off) :=
  exec_lea o s ▸ uni_wrote h o.d.toNat (fun th => th.rd o.a.toNat + BitVec.ofInt 64 (offInt o.off)) _

theorem leaPc_wrote {o : ULeaPc} (h : Issuing s (.leaPc o) a th) :
    ∃ t, exec (.leaPc o) s = .next t ∧
      WroteS s t a th o.d.toNat (th.pc + BitVec.ofInt 64 (offInt o.off)) (offLen o.off) :=
  exec_leaPc o s ▸ uni_wrote h o.d.toNat (fun th => th.pc + BitVec.ofInt 64 (offInt o.off)) _

end Words

/-- Settles O2: each word is a fixed-latency uniform word (`uni_wrote`), and its operation on numbers is the one on n-bit vectors. -/
theorem uniformOneSource : Obligations.UniformOneSource :=
  ⟨popc_spec, clz_spec, ctz_spec, brev_spec, fun _ _ _ _ h hwf => abs_wrote h hwf, fun _ _ _ _ h hwf => bfx_wrote h hwf,
    fun _ _ _ _ h _ => bfi_wrote h, fun _ _ _ _ h => cmp_wrote h, fun _ _ _ _ h => sel_wrote h, fun _ _ _ _ h => mov_wrote h,
    fun _ _ _ _ h => movi_wrote h, fun _ _ _ _ h => lea_wrote h, fun _ _ _ _ h => leaPc_wrote h⟩

end Sys2Proof.Machine.OneSource
end

section
/-! Reductions and scans (R85, R108, R109, R144, R145): the model's level-by-level tree is the recursive one, and for the integer
operations its value is the fold over the active lanes. -/

namespace Sys2Proof.Machine.Reduction

/-! ### Pairwise trees -/

section Trees
variable {α β : Type} {f : α → α → α}

/-- The lowest level of a tree may be combined first: the order in which the device works (R108). -/
theorem treeOf_neighbours (leaf : Nat → α) (k i : Nat) :
    treeOf f leaf (k + 1) (2 * i) = treeOf f (fun j => f (leaf (2 * j)) (leaf (2 * j + 1))) k i := by
  induction k generalizing i with
  | zero => rfl
  | succ k ih =>
    have hmid : 2 * i + 2 ^ (k + 1) = 2 * (i + 2 ^ k) := by rw [pow_succ]; omega
    calc treeOf f leaf (k + 2) (2 * i)
        = f (treeOf f leaf (k + 1) (2 * i)) (treeOf f leaf (k + 1) (2 * (i + 2 ^ k))) := by rw [treeOf, hmid]
      _ = treeOf f (fun j => f (leaf (2 * j)) (leaf (2 * j + 1))) (k + 1) i := by rw [ih, ih, treeOf]

theorem treeOf_congr {leaf leaf' : Nat → α} {k i : Nat} (h : ∀ j, i ≤ j → j < i + 2 ^ k → leaf j = leaf' j) :
    treeOf f leaf k i = treeOf f leaf' k i := by
  induction k generalizing i with
  | zero => exact h i le_rfl (by simp)
  | succ k ih =>
    rw [pow_succ] at h
    rw [treeOf, treeOf, ih fun j h1 h2 => h j h1 (by omega), ih fun j h1 h2 => h j (by omega) (by omega)]

theorem treeOf_const {e : α} (he : f e e = e) (k i : Nat) : treeOf f (fun _ => e) k i = e := by
  induction k generalizing i with
  | zero => rfl
  | succ k ih => rw [treeOf, ih, ih, he]

/-- A tree of more leaves has the same value when the leaves added are a right identity (R108: the widening). -/
theorem treeOf_widen {e : α} (he : ∀ x, f x e = x) {leaf : Nat → α} {k : Nat} (hleaf : ∀ j, 2 ^ k ≤ j → leaf j = e) (d : Nat) :
    treeOf f leaf (k + d) 0 = treeOf f leaf k 0 := by
  induction d with
  | zero => rfl
  | succ d ih =>
    have hright : treeOf f leaf (k + d) (0 + 2 ^ (k + d)) = e :=
      (treeOf_congr fun j hj _ => hleaf j (le_trans (Nat.pow_le_pow_right (by omega) (by omega)) (by omega : 2 ^ (k + d) ≤ j))).trans
        (treeOf_const (he e) _ _)
    rw [← Nat.add_assoc, treeOf, ih, hright, he]

theorem treeOf_hom {g : β → β → β} (h : α → β) (hom : ∀ x y, h (f x y) = g (h x) (h y)) (leaf : Nat → α) (k i : Nat) :
    h (treeOf f leaf k i) = treeOf g (fun j => h (leaf j)) k i := by
  induction k generalizing i with
  | zero => rfl
  | succ k ih => rw [treeOf, hom, ih, ih, treeOf]

/-- The tree of an associative operation with an identity is the fold over its leaves in order. -/
theorem treeOf_eq_foldr {e : α} (assoc : ∀ x y z, f (f x y) z = f x (f y z)) (left : ∀ x, f e x = x) (right : ∀ x, f x e = x)
    (leaf : Nat → α) (k i : Nat) : treeOf f leaf k i = ((List.range' i (2 ^ k)).map leaf).foldr f e := by
  have hfold : ∀ (l : List α) (x : α), f (l.foldr f e) x = l.foldr f x := fun l x => by
    induction l with
    | nil => exact left x
    | cons y l ih => rw [List.foldr_cons, assoc, ih, List.foldr_cons]
  induction k generalizing i with
  | zero => simp [treeOf, right]
  | succ k ih =>
    rw [treeOf, ih, ih, hfold, ← List.foldr_append, ← List.map_append, pow_succ, Nat.mul_two, ← List.range'_append_1]

end Trees

/-- A fold passes over the elements that are its identity. -/
theorem foldr_filter_of_identity {α β : Type} {f : β → β → β} {e : β} (left : ∀ x, f e x = x) {g : α → β} {p : α → Bool}
    (hg : ∀ x, p x = false → g x = e) (l : List α) : (l.map g).foldr f e = ((l.filter p).map g).foldr f e := by
  induction l with
  | nil => rfl
  | cons x l ih =>
    cases hp : p x with
    | true => simp [hp, ih]
    | false => simp [hp, ih, hg x hp, left]

/-! ### One combination (R145) -/

section Join
variable {op ty : BitVec 3} {rm : RMode}

@[simp] theorem redPair_none_left (y : RedElt) : redPair op ty rm none y = (y, 0) := rfl

@[simp] theorem redPair_none_right (x : RedElt) : redPair op ty rm x none = (x, 0) := by cases x <;> rfl

@[simp] theorem redJoin_identity (x : RedElt × Flg) : redJoin op ty rm x (none, 0) = x := by simp [redJoin]

theorem redPair_some (p q : Nat × Nat) : redPair op ty rm (some p) (some q) =
    (some ((redVal op ty rm p.1 q.1).1, if redRight op ty p.1 q.1 then q.2 else p.2), (redVal op ty rm p.1 q.1).2) := rfl

theorem integerOp_cases (h : op.toNat < 5) : op = 0#3 ∨ op = 1#3 ∨ op = 2#3 ∨ op = 3#3 ∨ op = 4#3 := by
  revert op; decide

/-- Only the floating operations of R85 raise flags (R135). -/
theorem redVal_flags (h : op.toNat < 5) (x y : Nat) : (redVal op ty rm x y).2 = 0 := by
  rcases integerOp_cases h with rfl | rfl | rfl | rfl | rfl <;> rfl

theorem redJoin_flags (h : op.toNat < 5) (x y : RedElt × Flg) : (redJoin op ty rm x y).2 = x.2 ||| y.2 := by
  obtain ⟨_ | p, u⟩ := x
  · simp [redJoin]
  obtain ⟨_ | q, v⟩ := y
  · simp [redJoin]
  · simp [redJoin, redPair_some, redVal_flags h]

/-! ### The model's tree is the tree of R108 -/

/-- Flags of the leaves are kept beside the flags of the combinations. -/
theorem treeOf_leafFlags (v : Nat → RedElt) (φ : Nat → Flg) (k i : Nat) :
    treeOf (redJoin op ty rm) (fun j => (v j, φ j)) k i =
      ((treeOf (redJoin op ty rm) (fun j => (v j, 0)) k i).1,
        treeOf (· ||| ·) φ k i ||| (treeOf (redJoin op ty rm) (fun j => (v j, 0)) k i).2) := by
  induction k generalizing i with
  | zero => simp [treeOf]
  | succ k ih =>
    rw [treeOf, ih, ih (i + 2 ^ k), treeOf, treeOf]
    simp only [redJoin, Prod.mk.injEq, true_and]
    ac_rfl

/-- Element `i` of a list of elements, the identity mark past its end. -/
def eltAt (l : List RedElt) (i : Nat) : RedElt := l[i]?.getD none

/-- The combination of neighbours 2 i and 2 i + 1. -/
def neighbour (op ty : BitVec 3) (rm : RMode) (l : List RedElt) (i : Nat) : RedElt × Flg :=
  redPair op ty rm (eltAt l (2 * i)) (eltAt l (2 * i + 1))

theorem eltAt_of_length_le {l : List RedElt} {i : Nat} (h : l.length ≤ i) : eltAt l i = none := by
  simp [eltAt, h]

theorem neighbour_of_length_le {l : List RedElt} {i : Nat} (h : l.length ≤ 2 * i) : neighbour op ty rm l i = (none, 0) := by
  rw [neighbour, eltAt_of_length_le h, eltAt_of_length_le (by omega), redPair_none_left]

theorem neighbour_cons_cons (x y : RedElt) (r : List RedElt) (i : Nat) :
    neighbour op ty rm (x :: y :: r) (i + 1) = neighbour op ty rm r i := rfl

/-- The elements of a level of the model's tree are the combinations of neighbours. -/
theorem eltAt_redLevel (l : List RedElt) (i : Nat) : eltAt (redLevel op ty rm l).1 i = (neighbour op ty rm l i).1 := by
  induction l using redLevel.induct op ty rm generalizing i with
  | case1 => rw [neighbour_of_length_le (by simp)]; rfl
  | case2 x =>
    cases i with
    | zero => simp [redLevel, neighbour, eltAt]
    | succ i => simp [redLevel, neighbour, eltAt]
  | case3 x y r ih =>
    cases i with
    | zero => rfl
    | succ i => rw [neighbour_cons_cons, ← ih i]; rfl

theorem redLevel_length (l : List RedElt) : (redLevel op ty rm l).1.length = (l.length + 1) / 2 := by
  induction l using redLevel.induct op ty rm with
  | case1 => rfl
  | case2 x => simp [redLevel]
  | case3 x y r ih => simp only [redLevel, List.length_cons, ih]; omega

theorem neighbourFlags_of_length_le_one {l : List RedElt} (h : l.length ≤ 1) (n : Nat) :
    ((List.range n).map fun i => (neighbour op ty rm l i).2).foldr (· ||| ·) 0 = 0 := by
  have hz : ∀ i, (neighbour op ty rm l i).2 = 0 := fun i => by
    rw [neighbour, eltAt_of_length_le (i := 2 * i + 1) (by omega), redPair_none_right]
  rw [foldr_filter_of_identity (e := (0 : Flg)) (p := fun _ => false) (fun x => by simp) (fun i _ => hz i)]
  simp

/-- The flags of a level are those of its combinations; lanes of the widening raise none. -/
theorem redLevel_flags (l : List RedElt) (n : Nat) (hn : l.length ≤ 2 * n) :
    (redLevel op ty rm l).2 = ((List.range n).map fun i => (neighbour op ty rm l i).2).foldr (· ||| ·) 0 := by
  induction l using redLevel.induct op ty rm generalizing n with
  | case1 => rw [neighbourFlags_of_length_le_one (by simp)]; rfl
  | case2 x => rw [neighbourFlags_of_length_le_one (by simp)]; rfl
  | case3 x y r ih =>
    obtain ⟨m, rfl⟩ : ∃ m, n = m + 1 := ⟨n - 1, by simp at hn; omega⟩
    rw [List.range_succ_eq_map, List.map_cons, List.foldr_cons, List.map_map]
    simp only [Function.comp_def, Nat.succ_eq_add_one, neighbour_cons_cons]
    rw [← ih m (by simp at hn; omega)]
    rfl

/-- The model's tree over at most 2^k lanes, level by level, is the pairwise tree of R108. -/
theorem redTree_eq_treeOf (k : Nat) (l : List RedElt) (h : l.length ≤ 2 ^ k) :
    redTree op ty rm k l = treeOf (redJoin op ty rm) (fun i => (eltAt l i, 0)) k 0 := by
  induction k generalizing l with
  | zero => cases l <;> simp [redTree, treeOf, eltAt]
  | succ k ih =>
    rw [pow_succ, Nat.mul_comm] at h
    have hlen : (redLevel op ty rm l).1.length ≤ 2 ^ k := by rw [redLevel_length]; omega
    have hleaf : (fun j => redJoin op ty rm (eltAt l (2 * j), 0) (eltAt l (2 * j + 1), 0)) =
        fun j => (eltAt (redLevel op ty rm l).1 j, (neighbour op ty rm l j).2) := by
      funext j
      simp [redJoin, eltAt_redLevel, neighbour]
    have hflags : (redLevel op ty rm l).2 = treeOf (· ||| ·) (fun j => (neighbour op ty rm l j).2) k 0 := by
      rw [redLevel_flags l (2 ^ k) h, treeOf_eq_foldr (e := (0 : Flg)) BitVec.or_assoc (fun x => by simp) (fun x => by simp),
        List.range_eq_range']
    rw [← Nat.mul_zero 2, treeOf_neighbours, hleaf, treeOf_leafFlags, ← hflags, ← ih _ hlen]
    rfl

end Join

/-! ### The reduction of a team (R108, R144) -/

/-- A lane's element: its value and number where it is active, else the identity mark (R145). -/
def leafOf (act : List Nat) (val : Nat → Nat) (l : Nat) : RedElt × Flg := (if l ∈ act then some (val l, l) else none, 0)

/-- The tree of R108 over the lanes below 2^k. -/
def laneTree (op ty : BitVec 3) (rm : RMode) (act : List Nat) (val : Nat → Nat) (k : Nat) : RedElt × Flg :=
  treeOf (redJoin op ty rm) (leafOf act val) k 0

/-- The value of a reduction element, the operation's identity for the mark (R144). -/
def valueOf (op ty : BitVec 3) (x : RedElt) : Nat := (x.map (·.1)).getD (redIdent op ty)

/-- The value of a lane that a reduction takes. -/
def laneVal (T : Team) (op ty : BitVec 3) (a : BitVec 8) (l : Nat) : Nat := T.vrd (redWide op ty) a.toNat l % 2 ^ redBits op ty

theorem active_lt {T : Team} {g l : Nat} (h : l ∈ T.active g) : l < 32 * T.words :=
  List.mem_range.mp (List.mem_filter.mp h).1

theorem active_pairwise (T : Team) (g : Nat) : (T.active g).Pairwise (· < ·) :=
  List.Pairwise.filter _ List.pairwise_lt_range

theorem filter_mem_active {T : Team} {g n : Nat} (hn : 32 * T.words ≤ n) :
    (List.range n).filter (fun l => decide (l ∈ T.active g)) = T.active g := by
  obtain ⟨d, rfl⟩ := Nat.exists_eq_add_of_le hn
  have hin : (List.range (32 * T.words)).filter (fun l => decide (l ∈ T.active g)) = T.active g :=
    List.filter_congr fun l hl => by rw [Bool.eq_iff_iff, decide_eq_true_iff, Team.active, List.mem_filter, and_iff_right hl]
  have hout : ((List.range d).map (32 * T.words + ·)).filter (fun l => decide (l ∈ T.active g)) = [] := by
    simp only [List.filter_eq_nil_iff, List.mem_map, decide_eq_true_iff]
    rintro _ ⟨l, -, rfl⟩ h
    exact absurd (active_lt h) (by omega)
  rw [List.range_add, List.filter_append, hout, List.append_nil, hin]

theorem eltAt_redElts (T : Team) (g : Nat) (op ty : BitVec 3) (a : BitVec 8) (i : Nat) :
    (eltAt (T.redElts g op ty a.toNat) i, (0 : Flg)) = leafOf (T.active g) (laneVal T op ty a) i := by
  by_cases hi : i < 32 * T.words
  · simp [eltAt, Team.redElts, leafOf, laneVal, hi]
  · have : i ∉ T.active g := fun h => hi (active_lt h)
    rw [eltAt_of_length_le (by simpa [Team.redElts] using hi), leafOf, if_neg this]

theorem laneTree_widen {act : List Nat} {n : Nat} (hact : ∀ l ∈ act, l < n) {op ty : BitVec 3} {rm : RMode} {val : Nat → Nat}
    {k k' : Nat} (hk : n ≤ 2 ^ k) (hkk' : k ≤ k') : laneTree op ty rm act val k' = laneTree op ty rm act val k := by
  obtain ⟨d, rfl⟩ := Nat.exists_eq_add_of_le hkk'
  refine treeOf_widen redJoin_identity (fun j hj => ?_) d
  rw [leafOf, if_neg fun h => absurd (hact j h) (by omega)]

/-- The model's reduction is the tree of R108, however far it is widened. -/
theorem reduce_eq_laneTree (T : Team) (g : Nat) (op ty : BitVec 3) (a : BitVec 8) {K : Nat} (hK : 32 * T.words ≤ 2 ^ K) :
    T.reduce g op ty a.toNat = laneTree op ty T.th.rm.toNat (T.active g) (laneVal T op ty a) K := by
  have hW : 32 * T.words ≤ 2 ^ (T.words + 5) := by
    have := Nat.lt_two_pow_self (n := T.words)
    rw [pow_add]; omega
  have hact : ∀ l ∈ T.active g, l < 32 * T.words := fun l => active_lt
  have hmodel : T.reduce g op ty a.toNat = laneTree op ty T.th.rm.toNat (T.active g) (laneVal T op ty a) (T.words + 5) := by
    rw [Team.reduce, redTree_eq_treeOf _ _ (by simpa [Team.redElts] using hW)]
    simp only [eltAt_redElts]
    rfl
  rcases Nat.le_total K (T.words + 5) with h | h
  · rw [hmodel, laneTree_widen hact hK h]
  · rw [hmodel, laneTree_widen hact hW h]

section Values
variable {op ty : BitVec 3} {rm : RMode} {act : List Nat} {val : Nat → Nat} {K : Nat}

theorem laneTree_nil (op ty : BitVec 3) (rm : RMode) (val : Nat → Nat) (K : Nat) : laneTree op ty rm [] val K = (none, 0) :=
  treeOf_const (redJoin_identity (none, 0)) K 0

theorem laneTree_flags (h : op.toNat < 5) : (laneTree op ty rm act val K).2 = 0 :=
  (treeOf_hom Prod.snd (redJoin_flags h) _ _ _).trans (treeOf_const (e := (0 : Flg)) (by simp) K 0)

/-- Where an integer operation acts on the n low bits as an associative `f` whose identity is that of R108, the tree's value is the
fold of `f` over the active lanes. -/
theorem laneTree_value {f : BitVec (tyBits ty) → BitVec (tyBits ty) → BitVec (tyBits ty)}
    (hval : ∀ x y, lowN ty (redVal op ty rm x y).1 = f (lowN ty x) (lowN ty y))
    (assoc : ∀ x y z, f (f x y) z = f x (f y z)) (left : ∀ x, f (lowN ty (redIdent op ty)) x = x)
    (right : ∀ x, f x (lowN ty (redIdent op ty)) = x)
    (hact : (List.range (2 ^ K)).filter (fun l => decide (l ∈ act)) = act) :
    lowN ty (valueOf op ty (laneTree op ty rm act val K).1) =
      (act.map fun l => lowN ty (val l)).foldr f (lowN ty (redIdent op ty)) := by
  have hom : ∀ x y, lowN ty (valueOf op ty (redJoin op ty rm x y).1) =
      f (lowN ty (valueOf op ty x.1)) (lowN ty (valueOf op ty y.1)) := by
    rintro ⟨_ | p, u⟩ ⟨_ | q, v⟩
    · exact (left _).symm
    · exact (left _).symm
    · exact (right _).symm
    · exact hval p.1 q.1
  have hin : ∀ l ∈ act, lowN ty (valueOf op ty (leafOf act val l).1) = lowN ty (val l) := fun l hl => by
    rw [leafOf, if_pos hl]; rfl
  have hout : ∀ l, decide (l ∈ act) = false → lowN ty (valueOf op ty (leafOf act val l).1) = lowN ty (redIdent op ty) := fun l hl => by
    rw [leafOf, if_neg (of_decide_eq_false hl)]; rfl
  refine (treeOf_hom (fun x : RedElt × Flg => lowN ty (valueOf op ty x.1)) hom _ K 0).trans ?_
  rw [treeOf_eq_foldr assoc left right, ← List.range_eq_range', foldr_filter_of_identity left hout, hact, List.map_congr_left hin]

/-! ### Extreme values with their lanes (R145) -/

/-- What a minimum or maximum makes small: the value, or for the maximum its negation. -/
def rank (op ty : BitVec 3) (x : Nat) : Int := if op = 1#3 then tyVal ty x else -tyVal ty x

/-- The element for the lanes of `act` from `lo` to before `hi`: none without one, else the value of least rank with the lowest
lane that has it. -/
def IsExtreme (op ty : BitVec 3) (act : List Nat) (val : Nat → Nat) (lo hi : Nat) (x : RedElt) : Prop :=
  match x with
  | none => ∀ l ∈ act, lo ≤ l → ¬ l < hi
  | some (v, j) => (j ∈ act ∧ lo ≤ j ∧ j < hi ∧ v = val j) ∧ ∀ l ∈ act, lo ≤ l → l < hi →
      rank op ty v ≤ rank op ty (val l) ∧ (rank op ty (val l) = rank op ty v → j ≤ l)

theorem redRight_extreme (hop : op = 1#3 ∨ op = 2#3) (x y : Nat) :
    redRight op ty x y = decide (rank op ty y < rank op ty x) := by
  rcases hop with rfl | rfl
  · rfl
  · simp [redRight, rank]

theorem redVal_extreme (hop : op = 1#3 ∨ op = 2#3) {x y : Nat} (hx : x < 2 ^ tyBits ty) (hy : y < 2 ^ tyBits ty) :
    (redVal op ty rm x y).1 = if rank op ty y < rank op ty x then y else x := by
  rcases hop with rfl | rfl
  · show IOp.run .min ty x y = if tyVal ty y < tyVal ty x then y else x
    rw [run_min]
    split <;> simp [Nat.mod_eq_of_lt, hx, hy]
  · show IOp.run .max ty x y = if -tyVal ty y < -tyVal ty x then y else x
    rw [run_max]
    simp only [neg_lt_neg_iff]
    split <;> simp [Nat.mod_eq_of_lt, hx, hy]

/-- Neighbouring ranges of lanes combine: the upper one wins only when it is strictly better. -/
theorem IsExtreme.join (hop : op = 1#3 ∨ op = 2#3) (hlt : ∀ l ∈ act, val l < 2 ^ tyBits ty) {lo mid hi : Nat} {x y : RedElt}
    (hlm : lo ≤ mid) (hmh : mid ≤ hi) (hx : IsExtreme op ty act val lo mid x) (hy : IsExtreme op ty act val mid hi y) :
    IsExtreme op ty act val lo hi (redPair op ty rm x y).1 := by
  match x, y with
  | none, none =>
    intro l hl h1 h2
    have := hx l hl h1
    exact hy l hl (by omega) h2
  | none, some (w, j) =>
    obtain ⟨⟨hq, h1, h2, h3⟩, h⟩ := hy
    refine ⟨⟨hq, by omega, h2, h3⟩, fun l hl hlo hhi => ?_⟩
    have := hx l hl hlo
    exact h l hl (by omega) hhi
  | some (v, i), none =>
    obtain ⟨⟨hp, h1, h2, h3⟩, h⟩ := hx
    rw [redPair_none_right]
    refine ⟨⟨hp, h1, by omega, h3⟩, fun l hl hlo hhi => ?_⟩
    by_cases hm : l < mid
    · exact h l hl hlo hm
    · exact absurd hhi (hy l hl (by omega))
  | some (v, i), some (w, j) =>
    obtain ⟨⟨hp, hp1, hp2, rfl⟩, hpl⟩ := hx
    obtain ⟨⟨hq, hq1, hq2, rfl⟩, hql⟩ := hy
    rw [redPair_some, redRight_extreme hop, redVal_extreme hop (hlt _ hp) (hlt _ hq)]
    by_cases hw : rank op ty (val j) < rank op ty (val i)
    · simp only [hw, if_true, decide_true]
      refine ⟨⟨hq, by omega, hq2, rfl⟩, fun l hl hlo hhi => ?_⟩
      by_cases hm : l < mid
      · have := (hpl l hl hlo hm).1
        constructor <;> omega
      · exact hql l hl (by omega) hhi
    · simp only [hw, if_false, decide_false, Bool.false_eq_true]
      refine ⟨⟨hp, hp1, by omega, rfl⟩, fun l hl hlo hhi => ?_⟩
      by_cases hm : l < mid
      · exact hpl l hl hlo hm
      · have := (hql l hl (by omega) hhi).1
        constructor <;> omega

theorem isExtreme_treeOf (hop : op = 1#3 ∨ op = 2#3) (hlt : ∀ l ∈ act, val l < 2 ^ tyBits ty) (k i : Nat) :
    IsExtreme op ty act val i (i + 2 ^ k) (treeOf (redJoin op ty rm) (leafOf act val) k i).1 := by
  induction k generalizing i with
  | zero =>
    by_cases h : i ∈ act
    · rw [treeOf, leafOf, if_pos h]
      refine ⟨⟨h, le_rfl, by simp, rfl⟩, fun l _ h1 h2 => ?_⟩
      obtain rfl : l = i := by simp at h2; omega
      exact ⟨le_rfl, fun _ => le_rfl⟩
    · rw [treeOf, leafOf, if_neg h]
      intro l hl h1 h2
      obtain rfl : l = i := by simp at h2; omega
      exact h hl
  | succ k ih =>
    have hend : i + 2 ^ (k + 1) = i + 2 ^ k + 2 ^ k := by rw [pow_succ]; omega
    rw [treeOf, hend]
    exact IsExtreme.join hop hlt (Nat.le_add_right _ _) (Nat.le_add_right _ _) (ih i) (ih (i + 2 ^ k))

/-- A minimum or maximum over active lanes is one of their values, with the lowest lane that has it. -/
theorem laneTree_extreme (hop : op = 1#3 ∨ op = 2#3) (hlt : ∀ l ∈ act, val l < 2 ^ tyBits ty) (hK : ∀ l ∈ act, l < 2 ^ K)
    (hne : act ≠ []) : ∃ j ∈ act, (laneTree op ty rm act val K).1 = some (val j, j) ∧
      (∀ l ∈ act, if op = 1#3 then tyVal ty (val j) ≤ tyVal ty (val l) else tyVal ty (val l) ≤ tyVal ty (val j)) ∧
      ∀ l ∈ act, tyVal ty (val l) = tyVal ty (val j) → j ≤ l := by
  have hex := isExtreme_treeOf (rm := rm) hop hlt K 0
  rw [Nat.zero_add] at hex
  rw [laneTree]
  match hx : (treeOf (redJoin op ty rm) (leafOf act val) K 0).1, hex with
  | none, hex =>
    obtain ⟨l, hl⟩ := List.exists_mem_of_ne_nil act hne
    exact absurd (hK l hl) (hex l hl (Nat.zero_le l))
  | some (v, j), ⟨⟨hj, _, _, hv⟩, hbest⟩ =>
    subst hv
    refine ⟨j, hj, rfl, fun l hl => ?_, fun l hl heq => ?_⟩
    · have := (hbest l hl (Nat.zero_le l) (hK l hl)).1
      rcases hop with rfl | rfl <;> simpa [rank] using this
    · exact (hbest l hl (Nat.zero_le l) (hK l hl)).2 (by rw [rank, rank, heq])

end Values

/-! ### Scans (R109) -/

section Scan
variable {op ty : BitVec 3} {rm : RMode} {val : Nat → Nat}

/-- The running result of a scan goes on with one lane. -/
def scanNext (op ty : BitVec 3) (rm : RMode) (val : Nat → Nat) (x : Option Nat × Flg) (l : Nat) : Option Nat × Flg :=
  match x.1 with
  | none => (some (val l), x.2)
  | some v => (some (redVal op ty rm v (val l)).1, x.2 ||| (redVal op ty rm v (val l)).2)

theorem scanLanes_cons (x : Option Nat × Flg) (l : Nat) (r : List Nat) :
    ∃ y u, scanNext op ty rm val x l = (some y, x.2 ||| u) ∧ scanLanes op ty rm val x.1 (l :: r) =
      ((l, y) :: (scanLanes op ty rm val (some y) r).1, u ||| (scanLanes op ty rm val (some y) r).2) := by
  obtain ⟨_ | v, w⟩ := x
  · exact ⟨val l, 0, by simp [scanNext], rfl⟩
  · exact ⟨_, _, rfl, rfl⟩

theorem scanLanes_flags (ls : List Nat) (x : Option Nat × Flg) :
    (ls.foldl (scanNext op ty rm val) x).2 = x.2 ||| (scanLanes op ty rm val x.1 ls).2 := by
  induction ls generalizing x with
  | nil => simp [scanLanes]
  | cons l r ih =>
    obtain ⟨y, u, hnext, hscan⟩ := scanLanes_cons (op := op) (ty := ty) (rm := rm) (val := val) x l r
    rw [List.foldl_cons, hnext, ih, hscan, BitVec.or_assoc]

/-- Each lane of an ascending list takes the running result over the lanes up to it. -/
theorem scanLanes_values (ls : List Nat) (hls : ls.Pairwise (· < ·)) (x : Option Nat × Flg) :
    (scanLanes op ty rm val x.1 ls).1 =
      ls.map fun l => (l, (((ls.filter fun j => decide (j ≤ l)).foldl (scanNext op ty rm val) x).1).getD 0) := by
  induction ls generalizing x with
  | nil => rfl
  | cons l r ih =>
    obtain ⟨hl, hr⟩ := List.pairwise_cons.mp hls
    obtain ⟨y, u, hnext, hscan⟩ := scanLanes_cons (op := op) (ty := ty) (rm := rm) (val := val) x l r
    have hhead : ((l :: r).filter fun j => decide (j ≤ l)) = [l] := by
      simp only [List.filter_cons, le_refl, decide_true, if_true, List.cons.injEq, true_and, List.filter_eq_nil_iff, decide_eq_true_iff]
      exact fun j hj => by have := hl j hj; omega
    have htail : ∀ m ∈ r, ((l :: r).filter fun j => decide (j ≤ m)) = l :: r.filter fun j => decide (j ≤ m) := fun m hm => by
      rw [List.filter_cons, if_pos (by have := hl m hm; simp; omega)]
    rw [hscan, List.map_cons, hhead, List.foldl_cons, List.foldl_nil, hnext, ih hr (some y, x.2 ||| u)]
    refine congrArg _ (List.map_congr_left fun m hm => ?_)
    rw [htail m hm, List.foldl_cons, hnext]

end Scan

/-! ### What the integer trees compute (R108) -/

section Integers
variable {op ty : BitVec 3} {rm : RMode} {act : List Nat} {val : Nat → Nat} {K : Nat}

theorem redOut_integer (h : op.toNat < 5) (x : Nat) : redOut op ty x = extend ty (lowN ty x) := by
  rw [redOut, if_pos h, OneSource.extTo_eq_extend, lowN]

theorem lowN_toNat (x : BitVec (tyBits ty)) : lowN ty x.toNat = x := by
  rw [lowN, BitVec.ofNat_toNat, BitVec.setWidth_eq]

theorem lowN_sum (xs : List Nat) : (xs.map (lowN ty)).foldr (· + ·) 0 = BitVec.ofNat _ xs.sum := by
  induction xs with
  | nil => rfl
  | cons x xs ih => rw [List.map_cons, List.foldr_cons, ih, List.sum_cons, lowN, BitVec.ofNat_add]

theorem lowN_redIdent_and : lowN ty (redIdent 4#3 ty) = BitVec.allOnes _ := by
  apply BitVec.eq_of_toNat_eq
  simp [lowN, redIdent]

/-- `add`: the sum modulo 2^n. -/
theorem laneTree_add (hact : (List.range (2 ^ K)).filter (fun l => decide (l ∈ act)) = act) :
    redOut 0#3 ty (valueOf 0#3 ty (laneTree 0#3 ty rm act val K).1) = extend ty (BitVec.ofNat _ (act.map val).sum) := by
  have hval : ∀ x y, lowN ty (redVal 0#3 ty rm x y).1 = lowN ty x + lowN ty y := fun x y =>
    (congrArg (lowN ty) (run_add ty x y)).trans (lowN_toNat _)
  rw [redOut_integer (by decide), laneTree_value hval BitVec.add_assoc BitVec.zero_add BitVec.add_zero hact, ← lowN_sum, List.map_map]
  rfl

/-- `or` of the active lanes. -/
theorem laneTree_or (hact : (List.range (2 ^ K)).filter (fun l => decide (l ∈ act)) = act) :
    redOut 3#3 ty (valueOf 3#3 ty (laneTree 3#3 ty rm act val K).1) =
      extend ty ((act.map fun l => lowN ty (val l)).foldl (· ||| ·) 0) := by
  have hval : ∀ x y, lowN ty (redVal 3#3 ty rm x y).1 = lowN ty x ||| lowN ty y := fun x y =>
    (congrArg (lowN ty) (run_or ty x y)).trans (lowN_toNat _)
  have left : ∀ x, lowN ty (redIdent 3#3 ty) ||| x = x := fun _ => BitVec.zero_or
  have right : ∀ x, x ||| lowN ty (redIdent 3#3 ty) = x := fun _ => BitVec.or_zero
  rw [redOut_integer (by decide), laneTree_value hval BitVec.or_assoc left right hact, List.foldl_eq_foldr]
  rfl

/-- `and` of the active lanes. -/
theorem laneTree_and (hact : (List.range (2 ^ K)).filter (fun l => decide (l ∈ act)) = act) :
    redOut 4#3 ty (valueOf 4#3 ty (laneTree 4#3 ty rm act val K).1) =
      extend ty ((act.map fun l => lowN ty (val l)).foldl (· &&& ·) (BitVec.allOnes _)) := by
  have hval : ∀ x y, lowN ty (redVal 4#3 ty rm x y).1 = lowN ty x &&& lowN ty y := fun x y =>
    (congrArg (lowN ty) (run_and ty x y)).trans (lowN_toNat _)
  have left : ∀ x, lowN ty (redIdent 4#3 ty) &&& x = x := fun _ => by rw [lowN_redIdent_and, BitVec.allOnes_and]
  have right : ∀ x, x &&& lowN ty (redIdent 4#3 ty) = x := fun _ => by rw [lowN_redIdent_and, BitVec.and_allOnes]
  rw [redOut_integer (by decide), laneTree_value hval BitVec.and_assoc left right hact, lowN_redIdent_and, List.foldl_eq_foldr]

theorem laneVal_lt {T : Team} {a : BitVec 8} (h : op.toNat < 5) (l : Nat) : laneVal T op ty a l < 2 ^ tyBits ty := by
  rw [laneVal, redBits, if_pos h]
  exact Nat.mod_lt _ (Nat.two_pow_pos _)

end Integers

/-! ### The words -/

/-- The lane number of a reduction element, all ones for the mark (R144, R145). -/
def laneOut (x : RedElt) : W64 := (x.map fun p => BitVec.ofNat 64 p.2).getD (BitVec.allOnes 64)

theorem execVred_eq (o : VRed) (s : State) : execVred o s = vecLater s (.vred o) 8 (fun T => T.vOk (redWide o.op o.ty) o.a) fun T =>
    ([.s o.d.toNat (redOut o.op o.ty (valueOf o.op o.ty (T.reduce o.g.toNat o.op o.ty o.a.toNat).1))],
      (T.reduce o.g.toNat o.op o.ty o.a.toNat).2) := by
  unfold execVred
  congr 1
  funext T
  cases h : (T.reduce o.g.toNat o.op o.ty o.a.toNat).1 <;> simp only [h] <;> rfl

theorem execVredx_eq (o : VRedx) (s : State) : execVredx o s = vecLater s (.vredx o) 8 (fun T => T.vOk (redWide o.op o.ty) o.a) fun T =>
    ([.s o.d.toNat (redOut o.op o.ty (valueOf o.op o.ty (T.reduce o.g.toNat o.op o.ty o.a.toNat).1)),
      .s o.c.toNat (laneOut (T.reduce o.g.toNat o.op o.ty o.a.toNat).1)], (T.reduce o.g.toNat o.op o.ty o.a.toNat).2) := by
  unfold execVredx
  congr 1
  funext T
  cases h : (T.reduce o.g.toNat o.op o.ty o.a.toNat).1 <;> simp only [h] <;> rfl

section Words
variable {s : State} {k : Nat} {T : Team} {K : Nat}

/-- R144: `vred` queues the tree's value. -/
theorem vred_queued {o : VRed} (hK : 32 * T.words ≤ 2 ^ K) (h : TeamIssuing s (.vred o) k T)
    (hl : T.vOk (redWide o.op o.ty) o.a = true) :
    let tree := laneTree o.op o.ty T.th.rm.toNat (T.active o.g.toNat) (laneVal T o.op o.ty o.a) K
    ∃ t, exec (.vred o) s = .next t ∧ Queued s t (.team k) T.th 8 []
      (.result [.s o.d.toNat (redOut o.op o.ty (valueOf o.op o.ty tree.1))] tree.2) := by
  intro tree
  rw [exec_vred, execVred_eq, show tree = _ from (reduce_eq_laneTree T o.g.toNat o.op o.ty o.a hK).symm]
  exact vecLater_queued h 8 _ hl _

/-- R144, R145: `vredx` queues the tree's value and its lane. -/
theorem vredx_queued {o : VRedx} (hK : 32 * T.words ≤ 2 ^ K) (h : TeamIssuing s (.vredx o) k T)
    (hl : T.vOk (redWide o.op o.ty) o.a = true) :
    let tree := laneTree o.op o.ty T.th.rm.toNat (T.active o.g.toNat) (laneVal T o.op o.ty o.a) K
    ∃ t, exec (.vredx o) s = .next t ∧ Queued s t (.team k) T.th 8 []
      (.result [.s o.d.toNat (redOut o.op o.ty (valueOf o.op o.ty tree.1)), .s o.c.toNat (laneOut tree.1)] tree.2) := by
  intro tree
  rw [exec_vredx, execVredx_eq, show tree = _ from (reduce_eq_laneTree T o.g.toNat o.op o.ty o.a hK).symm]
  exact vecLater_queued h 8 _ hl _

/-- R109, R144: `vscan` queues for each active lane the running result over the active lanes up to it. -/
theorem vscan_queued {o : VRed} (h : TeamIssuing s (.vscan o) k T)
    (hl : (T.vOk (redWide o.op o.ty) o.d && T.vOk (redWide o.op o.ty) o.a) = true) :
    let upTo (ls : List Nat) : Option Nat × Flg := scanOver o.op o.ty T.th.rm.toNat (laneVal T o.op o.ty o.a) ls
    ∃ t, exec (.vscan o) s = .next t ∧ Queued s t (.team k) T.th 8 [] (.result
      ((T.active o.g.toNat).flatMap fun l =>
        let x := ((upTo ((T.active o.g.toNat).filter fun j => decide (j ≤ l))).1).getD 0
        laneWrites (redWide o.op o.ty) o.d.toNat l (if o.op.toNat < 5 then (extTo 64 o.ty x).toNat else x))
      (upTo (T.active o.g.toNat)).2) := by
  intro upTo
  have hflags : (upTo (T.active o.g.toNat)).2 =
      (scanLanes o.op o.ty T.th.rm.toNat (laneVal T o.op o.ty o.a) none (T.active o.g.toNat)).2 :=
    (scanLanes_flags _ (none, 0)).trans (by simp)
  have hvalues := scanLanes_values (op := o.op) (ty := o.ty) (rm := T.th.rm.toNat) (val := laneVal T o.op o.ty o.a) _
    (active_pairwise T o.g.toNat) (none, 0)
  obtain ⟨t, ht, hq⟩ := vecLater_queued h 8 (fun T => T.vOk (redWide o.op o.ty) o.d && T.vOk (redWide o.op o.ty) o.a) hl fun T =>
    let r := scanLanes o.op o.ty T.th.rm.toNat (laneVal T o.op o.ty o.a) none (T.active o.g.toNat)
    (r.1.flatMap fun p => laneWrites (redWide o.op o.ty) o.d.toNat p.1
      (if o.op.toNat < 5 then (extTo 64 o.ty p.2).toNat else p.2), r.2)
  refine ⟨t, ht, ?_⟩
  rw [hflags]
  simp only [hvalues, List.flatMap_map] at hq
  exact hq

end Words

/-- Settles O13: the model's level-by-level tree is the tree of R108 (`reduce_eq_laneTree`), whose value for the integer operations
is a fold over the active lanes (`laneTree_value`) or an extreme one (`laneTree_extreme`); scans by induction on the lanes. -/
theorem reductions : Obligations.Reductions := by
  intro s k T g op ty a K hK
  have hact := filter_mem_active (g := g.toNat) hK
  have hlanes : ∀ l ∈ T.active g.toNat, l < 2 ^ K := fun l hl => lt_of_lt_of_le (active_lt hl) hK
  refine ⟨?vred, ?vredx, ?vscan, ?empty, laneTree_flags, ?add, ?extreme, ?or, ?and⟩
  case vred =>
    rintro o rfl rfl rfl rfl h hl
    exact vred_queued hK h hl
  case vredx =>
    rintro o rfl rfl rfl rfl h hl
    exact vredx_queued hK h hl
  case vscan =>
    rintro o rfl rfl rfl rfl h hl
    exact vscan_queued h hl
  case empty =>
    intro hnil
    have := laneTree_nil op ty T.th.rm.toNat (laneVal T op ty a) K
    rwa [← hnil] at this
  case add =>
    rintro rfl
    exact laneTree_add hact
  case extreme =>
    intro hop hne
    have h5 : op.toNat < 5 := by rcases hop with rfl | rfl <;> decide
    obtain ⟨j, hj, hx, hbest, hlow⟩ :=
      laneTree_extreme (ty := ty) (rm := T.th.rm.toNat) (val := laneVal T op ty a) hop (fun l _ => laneVal_lt h5 l) hlanes hne
    exact ⟨j, hj, congrArg laneOut hx, (congrArg (fun x => redOut op ty (valueOf op ty x)) hx).trans (redOut_integer h5 _), hbest, hlow⟩
  case or =>
    rintro rfl
    exact laneTree_or hact
  case and =>
    rintro rfl
    exact laneTree_and hact

end Sys2Proof.Machine.Reduction
end

section
/-! The vector integer words (R98, R133 to R137): each operation on lane numbers is the one on n-bit vectors, and `.sat` clamps the
exact value to the type. -/

namespace Sys2Proof.Machine.VectorInteger

open OneSource

/-! ### Typed lane results (R133) -/

/-- A fixed-latency vector word that writes a typed value in every active lane. -/
theorem vec_wroteTy {s : State} {i : Instr} {k : Nat} {T : Team} (h : TeamIssuing s i k T) (len : Nat) {lim : Team → Bool}
    (hl : lim T = true) (g : Nat) (ty : BitVec 3) (d : BitVec 8) (f : Team → Nat → Nat) {v : Nat → BitVec (tyBits ty)}
    (hv : ∀ l, BitVec.ofNat (tyBits ty) (f T l) = v l) :
    ∃ t, vec s i len lim (fun T => T.lanesTy g ty d.toNat (f T)) = .next t ∧
      WroteV s t k T (T.active g) (tyWide ty) d.toNat (fun l => laneOf ty (v l)) 0 len := by
  obtain ⟨t, ht, hw⟩ := vec_wrote h len lim hl g (tyWide ty) d.toNat d.isLt fun T l => (extTo 64 ty (f T l)).toNat
  refine ⟨t, ht, ?_⟩
  simpa only [extTo_eq_extend, hv, laneOf] using hw

theorem ofNat_wrapN (n : Nat) (v : Int) : BitVec.ofNat n (wrapN n v) = BitVec.ofInt n v := by
  rw [wrapN_eq, BitVec.ofNat_toNat, BitVec.setWidth_eq]

theorem lowN_tyVal (ty : BitVec 3) (x : Nat) : BitVec.ofInt (tyBits ty) (tyVal ty x) = lowN ty x := ofInt_tyVal ty x

/-! ### Saturation (R98) -/

theorem tyMin_le_tyMax (ty : BitVec 3) : tyMin ty ≤ tyMax ty := by revert ty; decide

theorem tyMax_lt (ty : BitVec 3) : tyMax ty < 2 ^ tyBits ty := by revert ty; decide

theorem lt_tyMin (ty : BitVec 3) : -2 ^ tyBits ty < tyMin ty := by revert ty; decide

/-- A clamp by comparisons is one by `max` and `min`. -/
theorem clamp_by_order {lo hi : Int} (h : lo ≤ hi) (v : Int) : (if v < lo then lo else if hi < v then hi else v) = max lo (min hi v) := by
  split
  · omega
  · split <;> omega

theorem clamp_eq (ty : BitVec 3) (v : Int) : clamp ty v = max (tyMin ty) (min (tyMax ty) v) :=
  clamp_by_order (tyMin_le_tyMax ty) v

theorem two_pow_tyBits (ty : BitVec 3) : 2 ^ tyBits ty = 2 * 2 ^ (tyBits ty - 1) := by
  rw [← Nat.pow_succ', Nat.succ_eq_add_one, Nat.sub_add_cancel (tyBits_pos ty)]

theorem tyVal_range (ty : BitVec 3) (x : Nat) : tyMin ty ≤ tyVal ty x ∧ tyVal ty x ≤ tyMax ty := by
  have hlt : x % 2 ^ tyBits ty < 2 ^ tyBits ty := Nat.mod_lt _ (Nat.two_pow_pos _)
  have hhalf := two_pow_tyBits ty
  unfold tyMin tyMax tyVal
  cases tySigned ty with
  | false => simp only [Bool.false_eq_true, false_and, if_false]; omega
  | true => simp only [true_and, if_true]; split <;> omega

/-! ### Two-source words (R137) -/

/-- An operation on lane numbers that agrees with `f` on n-bit vectors gives a word that writes `f`. -/
theorem vecBinary_of_run {i : VBin → Instr} {op : IOp} {f : (n : Nat) → Bool → BitVec n → BitVec n → BitVec n}
    (hexec : ∀ o s, exec (i o) s = vecBin op (i o) o s)
    (hf : ∀ ty x y, IOp.run op ty x y = (f (tyBits ty) (tySigned ty) (lowN ty x) (lowN ty y)).toNat) : VecBinary i f := by
  intro s k T o h hl hsat
  rw [hexec]
  refine vec_wroteTy h _ hl o.g.toNat o.ty o.d _ fun l => ?_
  simp only [hsat, Bool.false_eq_true, if_false, hf, BitVec.ofNat_toNat, BitVec.setWidth_eq]

/-- With `.sat` a word clamps the exact value of its operation. -/
theorem vecSat_of_exact {i : VBin → Instr} {op : IOp} {f : Int → Int → Int} (hexec : ∀ o s, exec (i o) s = vecBin op (i o) o s)
    (hf : ∀ ty x y, op.exact ty x y = f (tyVal ty x) (tyVal ty y)) : VecSat i f := by
  intro s k T o h hl hsat
  rw [hexec]
  refine vec_wroteTy h _ hl o.g.toNat o.ty o.d _ fun l => ?_
  simp only [hsat, if_true, ofNat_wrapN, clamp_eq, hf]

theorem run_mulh (ty : BitVec 3) (x y : Nat) : IOp.run .mulh ty x y =
    (if tySigned ty then BitVec.ofInt (tyBits ty) ((lowN ty x).toInt * (lowN ty y).toInt / 2 ^ tyBits ty)
      else BitVec.ofNat (tyBits ty) ((lowN ty x).toNat * (lowN ty y).toNat / 2 ^ tyBits ty)).toNat := by
  simp only [IOp.run, IOp.exact, wrapN_eq, tyVal_eq, lowN]
  cases tySigned ty with
  | true => simp only [if_true, Nat.cast_pow, Nat.cast_ofNat]
  | false =>
    simp only [Bool.false_eq_true, if_false, ← Nat.cast_mul, ← Int.natCast_ediv, ofInt_nat_mod]

theorem run_min_tyLt (ty : BitVec 3) (x y : Nat) :
    IOp.run .min ty x y = (if tyLt (tySigned ty) (lowN ty y) (lowN ty x) then lowN ty y else lowN ty x).toNat := by
  rw [run_min, lowN, lowN, tyLt_ofNat]
  simp only [decide_eq_true_eq]

theorem run_max_tyLt (ty : BitVec 3) (x y : Nat) :
    IOp.run .max ty x y = (if tyLt (tySigned ty) (lowN ty x) (lowN ty y) then lowN ty y else lowN ty x).toNat := by
  rw [run_max, lowN, lowN, tyLt_ofNat]
  simp only [decide_eq_true_eq]

/-- Settles O7: each word is `vecBin` of an operation (`vecBinary_of_run`, `vecSat_of_exact`) that agrees with the one on vectors. -/
theorem vectorTwoSource : Obligations.VectorTwoSource :=
  ⟨vecBinary_of_run exec_vadd run_add, vecBinary_of_run exec_vsub run_sub, vecBinary_of_run exec_vmul run_mul,
    vecBinary_of_run exec_vmulh run_mulh, vecBinary_of_run exec_vmin run_min_tyLt, vecBinary_of_run exec_vmax run_max_tyLt,
    vecBinary_of_run exec_vand run_and, vecBinary_of_run exec_vor run_or, vecBinary_of_run exec_vxor run_xor,
    vecBinary_of_run exec_vandn run_andn, vecSat_of_exact exec_vadd fun _ _ _ => rfl, vecSat_of_exact exec_vsub fun _ _ _ => rfl,
    vecSat_of_exact exec_vmul fun _ _ _ => rfl⟩

/-! ### `vmad`, `vabs`, `vnot` (R137) -/

section Words
variable {s : State} {k : Nat} {T : Team}

theorem vmad_wrote {o : VMad} (h : TeamIssuing s (.vmad o) k T)
    (hl : (T.vOk (tyWide o.ty) o.d && T.vOk (tyWide o.ty) o.a && T.vOk (tyWide o.ty) o.c && T.vsrcOk (tyWide o.ty) o.src) = true) :
    ∃ t, exec (.vmad o) s = .next t ∧ WroteV s t k T (T.active o.g.toNat) (tyWide o.ty) o.d.toNat (fun l =>
      let a := T.vrd (tyWide o.ty) o.a.toNat l
      let b := T.vsrc o.ty l o.src
      let c := T.vrd (tyWide o.ty) o.c.toNat l
      laneOf o.ty (if o.sat then BitVec.ofInt _ (max (tyMin o.ty) (min (tyMax o.ty) (tyVal o.ty a * tyVal o.ty b + tyVal o.ty c)))
        else lowN o.ty a * lowN o.ty b + lowN o.ty c)) 0 (vsrcLen o.src) := by
  rw [exec_vmad]
  refine vec_wroteTy h _ hl o.g.toNat o.ty o.d _ fun l => ?_
  rw [ofNat_wrapN]
  cases o.sat with
  | true => simp only [if_true, clamp_eq]
  | false => simp only [Bool.false_eq_true, if_false, BitVec.ofInt_add, BitVec.ofInt_mul, lowN_tyVal]

theorem toInt_intMax {ty : BitVec 3} (h : tySigned ty = true) : (BitVec.intMax (tyBits ty)).toInt = tyMax ty := by
  revert ty; decide

theorem toInt_intMin {ty : BitVec 3} (h : tySigned ty = true) : (BitVec.intMin (tyBits ty)).toInt = tyMin ty := by
  revert ty; decide

/-- Only the smallest value has no absolute value of its type; with `.sat` it gives the largest one. -/
theorem ofNat_absN_sat {ty : BitVec 3} (h : tySigned ty = true) (x : Nat) :
    BitVec.ofNat (tyBits ty) (absN ty true x) = if lowN ty x = BitVec.intMin _ then BitVec.intMax _ else (lowN ty x).abs := by
  have hneg : tyMin ty = -tyMax ty - 1 := by revert ty; decide
  have hval : tyVal ty x = (lowN ty x).toInt := by rw [tyVal_eq, if_pos h, lowN]
  obtain ⟨hlo, hhi⟩ := tyVal_range ty x
  rw [hval] at hlo hhi
  simp only [absN, if_true, ofNat_wrapN, clamp_eq, hval]
  by_cases he : lowN ty x = BitVec.intMin _
  · have hmin : (lowN ty x).toInt = tyMin ty := by rw [he, toInt_intMin h]
    rw [if_pos he, show max (tyMin ty) (min (tyMax ty) ((lowN ty x).toInt.natAbs : Int)) = tyMax ty by omega, ← toInt_intMax h,
      BitVec.ofInt_toInt]
  · have hmin : (lowN ty x).toInt ≠ tyMin ty := fun hc => he (BitVec.eq_of_toInt_eq (hc.trans (toInt_intMin h).symm))
    rw [if_neg he, show max (tyMin ty) (min (tyMax ty) ((lowN ty x).toInt.natAbs : Int)) = ((lowN ty x).toInt.natAbs : Int) by omega,
      ofInt_natAbs_toInt]

theorem vabs_wrote {o : VUnL} (h : TeamIssuing s (.vabs o) k T) (hwf : (Instr.vabs o).wf = true)
    (hl : (T.vOk (tyWide o.ty) o.d && T.vOk (tyWide o.ty) o.a) = true) :
    ∃ t, exec (.vabs o) s = .next t ∧ WroteV s t k T (T.active o.g.toNat) (tyWide o.ty) o.d.toNat (fun l =>
      let x := lowN o.ty (T.vrd (tyWide o.ty) o.a.toNat l)
      laneOf o.ty (if o.sat ∧ x = BitVec.intMin _ then BitVec.intMax _ else x.abs)) 0 (if o.long then 12 else 8) := by
  have hs : tySigned o.ty = true := by
    simp only [Instr.wf, Bool.and_eq_true] at hwf
    exact hwf.1.1
  rw [exec_vabs]
  refine vec_wroteTy h _ hl o.g.toNat o.ty o.d _ fun l => ?_
  cases o.sat with
  | true => simp only [ofNat_absN_sat hs, true_and]
  | false => simp only [ofNat_absN o.ty hs, Bool.false_eq_true, false_and, if_false, lowN]

theorem ofNat_complement (n x : Nat) : BitVec.ofNat n (2 ^ n - 1 - x % 2 ^ n) = ~~~(BitVec.ofNat n x) := by
  have : 2 ^ n - 1 - x % 2 ^ n < 2 ^ n := by have := Nat.two_pow_pos n; omega
  apply BitVec.eq_of_toNat_eq
  simp [Nat.mod_eq_of_lt this]

theorem vnot_wrote {o : VUnL} (h : TeamIssuing s (.vnot o) k T) (hl : (T.vOk (tyWide o.ty) o.d && T.vOk (tyWide o.ty) o.a) = true) :
    ∃ t, exec (.vnot o) s = .next t ∧ WroteV s t k T (T.active o.g.toNat) (tyWide o.ty) o.d.toNat
      (fun l => laneOf o.ty (~~~(lowN o.ty (T.vrd (tyWide o.ty) o.a.toNat l)))) 0 (if o.long then 12 else 8) := by
  rw [exec_vnot]
  exact vec_wroteTy h _ hl o.g.toNat o.ty o.d _ fun l => ofNat_complement _ _

end Words

/-- Settles O8: each word writes a typed lane value (`vec_wroteTy`) that is the operation on n-bit vectors. -/
theorem vectorMadAbsNot : Obligations.VectorMadAbsNot :=
  fun _ _ _ => ⟨fun _ h hl => vmad_wrote h hl, fun _ h hwf hl => vabs_wrote h hwf hl, fun _ h hl => vnot_wrote h hl⟩

/-! ### Shifts and rotates by the 32-bit count of a lane (R134, R137) -/

/-- An unsaturated shift on lane numbers that agrees with `f` on n-bit vectors gives a word that writes `f`. -/
theorem vecShift_of_shift {i : VBin → Instr} {op : IOp} {f : (n : Nat) → BitVec n → Nat → BitVec n}
    (hexec : ∀ o s, exec (i o) s = vecShift op (i o) o s)
    (hf : ∀ ty x k, wrapN (tyBits ty) (IOp.shift op ty x k) = (f (tyBits ty) (lowN ty x) k).toNat) : VecShift i f := by
  intro s k T o h hl hsat
  rw [hexec]
  refine vec_wroteTy h _ hl o.g.toNat o.ty o.d _ fun l => ?_
  simp only [hsat, Bool.false_eq_true, if_false, hf, BitVec.ofNat_toNat, BitVec.setWidth_eq]

/-- The floor of a division by a power of two at least the magnitude is the sign. -/
theorem ediv_two_pow_eq {a : Int} {n k : Nat} (hlo : -2 ^ n ≤ a) (hhi : a < 2 ^ n) (hk : n ≤ k) : a / 2 ^ k = a / 2 ^ n := by
  have hpow : (2 : Int) ^ n ≤ 2 ^ k := pow_le_pow_right₀ (by norm_num) hk
  have hpos : (0 : Int) < 2 ^ n := by positivity
  rcases lt_or_ge a 0 with h | h
  · rw [Int.ediv_eq_neg_one_of_neg_of_le h (by omega), Int.ediv_eq_neg_one_of_neg_of_le h (by omega)]
  · rw [Int.ediv_eq_zero_of_lt h (by omega), Int.ediv_eq_zero_of_lt h hhi]

theorem toInt_lowN (ty : BitVec 3) (x : Nat) : (lowN ty x).toInt =
    if 2 ^ (tyBits ty - 1) ≤ x % 2 ^ tyBits ty then ((x % 2 ^ tyBits ty : Nat) : Int) - ((2 ^ tyBits ty : Nat) : Int)
    else ((x % 2 ^ tyBits ty : Nat) : Int) := by
  have := two_pow_tyBits ty
  rw [lowN, BitVec.toInt_eq_toNat_cond, BitVec.toNat_ofNat]
  split <;> split <;> omega

theorem shift_sar (ty : BitVec 3) (x k : Nat) :
    wrapN (tyBits ty) (IOp.shift .sar ty x k) = ((lowN ty x).sshiftRight k).toNat := by
  have hhalf : (2 : Int) ^ (tyBits ty - 1) ≤ 2 ^ tyBits ty := pow_le_pow_right₀ (by norm_num) (by omega)
  have hlo := BitVec.le_toInt (lowN ty x)
  have hhi := BitVec.toInt_lt (x := lowN ty x)
  rw [wrapN_eq, BitVec.sshiftRight, Int.shiftRight_eq_div_pow]
  simp only [IOp.shift, ← toInt_lowN]
  split
  · next hk =>
    rw [Nat.cast_pow, Nat.cast_pow, Nat.cast_ofNat, ← ediv_two_pow_eq (by omega) (by omega) hk]
  · rfl

theorem shift_rotl (ty : BitVec 3) (x k : Nat) :
    wrapN (tyBits ty) (IOp.shift .rotl ty x k) = ((lowN ty x).rotateLeft k).toNat := by
  have hr : k % tyBits ty < tyBits ty := Nat.mod_lt _ (tyBits_pos ty)
  have hu : x % 2 ^ tyBits ty < 2 ^ tyBits ty := Nat.mod_lt _ (Nat.two_pow_pos _)
  simp only [wrapN_eq, IOp.shift, ofInt_nat_mod, BitVec.toNat_ofNat, BitVec.toNat_rotateLeft, lowN]
  generalize x % 2 ^ tyBits ty = u at hu
  generalize k % tyBits ty = r at hr
  obtain ⟨m, hm⟩ : ∃ m, tyBits ty = m + r := ⟨tyBits ty - r, by omega⟩
  have hlow : u / 2 ^ m < 2 ^ r := Nat.div_lt_of_lt_mul (by rwa [← pow_add, ← hm])
  have hhigh : u * 2 ^ r % 2 ^ (m + r) = u % 2 ^ m * 2 ^ r := by rw [pow_add, Nat.mul_mod_mul_right]
  have hsum : u % 2 ^ m * 2 ^ r + u / 2 ^ m < 2 ^ (m + r) := by
    have hm : u % 2 ^ m + 1 ≤ 2 ^ m := Nat.mod_lt _ (Nat.two_pow_pos m)
    calc u % 2 ^ m * 2 ^ r + u / 2 ^ m < (u % 2 ^ m + 1) * 2 ^ r := by rw [Nat.add_mul]; omega
      _ ≤ 2 ^ (m + r) := by rw [pow_add]; exact Nat.mul_le_mul_right _ hm
  have hor : u % 2 ^ m * 2 ^ r ||| u / 2 ^ m = u % 2 ^ m * 2 ^ r + u / 2 ^ m := by
    rw [← Nat.shiftLeft_eq, Nat.shiftLeft_add_eq_or_of_lt hlow]
  rw [hm, Nat.add_sub_cancel, Nat.shiftLeft_eq, Nat.shiftRight_eq_div_pow, hhigh, hor, ← Nat.mod_add_mod, hhigh, Nat.mod_eq_of_lt hsum]

/-- A count beyond the width shifts every value but 0 out of the range of its type, on its side. -/
theorem clamp_shl (ty : BitVec 3) (x k : Nat) :
    clamp ty (tyVal ty x * ((2 ^ min k (tyBits ty) : Nat) : Int)) = clamp ty (tyVal ty x * 2 ^ k) := by
  rw [Nat.cast_pow, Nat.cast_ofNat]
  have hmax := tyMax_lt ty
  have hmin := lt_tyMin ty
  rcases le_total k (tyBits ty) with hk | hk
  · rw [min_eq_left hk]
  have hpow : (2 : Int) ^ tyBits ty ≤ 2 ^ k := pow_le_pow_right₀ (by norm_num) hk
  have hle := tyMin_le_tyMax ty
  rw [min_eq_right hk, clamp_eq, clamp_eq]
  rcases lt_trichotomy (tyVal ty x) 0 with h | h | h
  · have h1 : tyVal ty x * 2 ^ tyBits ty ≤ -2 ^ tyBits ty := by nlinarith
    have h2 : tyVal ty x * 2 ^ k ≤ -2 ^ k := by nlinarith
    omega
  · rw [h, zero_mul, zero_mul]
  · have h1 : 2 ^ tyBits ty ≤ tyVal ty x * 2 ^ tyBits ty := by nlinarith
    have h2 : 2 ^ k ≤ tyVal ty x * 2 ^ k := by nlinarith
    omega

theorem vshl_sat_wrote {s : State} {k : Nat} {T : Team} {o : VBin} (h : TeamIssuing s (.vshl o) k T)
    (hl : (T.vOk (tyWide o.ty) o.d && T.vOk (tyWide o.ty) o.a && T.vsrcOk false o.src) = true) (hsat : o.sat = true) :
    ∃ t, exec (.vshl o) s = .next t ∧ WroteV s t k T (T.active o.g.toNat) (tyWide o.ty) o.d.toNat
      (fun l => laneOf o.ty (BitVec.ofInt _ (max (tyMin o.ty) (min (tyMax o.ty)
        (tyVal o.ty (T.vrd (tyWide o.ty) o.a.toNat l) * 2 ^ T.vcount l o.src))))) 0 (vsrcLen o.src) := by
  rw [exec_vshl]
  refine vec_wroteTy h _ hl o.g.toNat o.ty o.d _ fun l => ?_
  simp only [hsat, if_true, ofNat_wrapN]
  rw [clamp_shl, clamp_eq]

theorem vrotl_wrote {s : State} {k : Nat} {T : Team} {o : VRotl} (h : TeamIssuing s (.vrotl o) k T)
    (hl : (T.vOk (tyWide o.ty) o.d && T.vOk (tyWide o.ty) o.a && T.vOk false o.b) = true) :
    ∃ t, exec (.vrotl o) s = .next t ∧ WroteV s t k T (T.active o.g.toNat) (tyWide o.ty) o.d.toNat
      (fun l => laneOf o.ty ((lowN o.ty (T.vrd (tyWide o.ty) o.a.toNat l)).rotateLeft (T.vr o.b.toNat l).toNat)) 0 8 := by
  rw [exec_vrotl]
  refine vec_wroteTy h _ hl o.g.toNat o.ty o.d _ fun l => ?_
  rw [shift_rotl, BitVec.ofNat_toNat, BitVec.setWidth_eq]

/-! ### Counts and reversal (R137) -/

/-- A count of a lane's low bits goes into a single register. -/
theorem vecCount_of_eq {i : VUn → Instr} {g : Nat → Nat → Nat} {f : (n : Nat) → BitVec n → Nat}
    (hexec : ∀ o s, exec (i o) s = vecCount g (i o) o s) (hf : ∀ n x, g n x = f n (BitVec.ofNat n x)) :
    VecCount i f := by
  intro s k T o h hl
  obtain ⟨t, ht, hw⟩ := vec_wrote h 8 (fun T => T.vOk false o.d && T.vOk (tyWide o.ty) o.a) hl o.g.toNat false o.d.toNat o.d.isLt
    fun T l => g (tyBits o.ty) (T.vrd (tyWide o.ty) o.a.toNat l)
  refine ⟨t, (hexec o s).trans ht, ?_⟩
  simpa only [hf, lowN] using hw

theorem vbrev_wrote {s : State} {k : Nat} {T : Team} {o : VUn} (h : TeamIssuing s (.vbrev o) k T)
    (hl : (T.vOk (tyWide o.ty) o.d && T.vOk (tyWide o.ty) o.a) = true) :
    ∃ t, exec (.vbrev o) s = .next t ∧ WroteV s t k T (T.active o.g.toNat) (tyWide o.ty) o.d.toNat
      (fun l => laneOf o.ty (lowN o.ty (T.vrd (tyWide o.ty) o.a.toNat l)).reverse) 0 8 := by
  rw [exec_vbrev]
  exact vec_wroteTy h _ hl o.g.toNat o.ty o.d _ fun l => ofNat_brevN _ _

/-- Settles O9: shifts agree with those of vectors for every count (`shift_sar`, `clamp_shl`), and counts with those of the uniform
group. -/
theorem vectorShiftsCounts : Obligations.VectorShiftsCounts :=
  ⟨vecShift_of_shift exec_vshl shift_shl, vecShift_of_shift exec_vshr shift_shr, vecShift_of_shift exec_vsar shift_sar,
    fun _ _ _ _ h hl hsat => vshl_sat_wrote h hl hsat, fun _ _ _ _ h hl => vrotl_wrote h hl,
    vecCount_of_eq exec_vpopc popN_eq,
    vecCount_of_eq exec_vclz fun n x => by rw [clzN_eq_takeWhile, takeWhile_bitAt fun k hk => by simpa using hk],
    vecCount_of_eq exec_vctz fun n x => by rw [ctzN_eq_takeWhile, takeWhile_bitAt fun k hk => by simpa using hk],
    fun _ _ _ _ h hl => vbrev_wrote h hl⟩

end Sys2Proof.Machine.VectorInteger
end

section
/-! Vector words that raise flags (R23), and the conversions of the floating group (R133, R160). -/

namespace Sys2Proof.Machine.FlaggedLanes

open OneSource

/-- A fixed-latency vector word within its launch limits changes its team and nothing else. -/
theorem vec_next {s : State} {i : Instr} {k : Nat} {T : Team} (h : TeamIssuing s i k T) (len : Nat) {lim : Team → Bool}
    (hl : lim T = true) (f : Team → Team) : ∃ t, vec s i len lim f = .next t ∧ t = s.setTeam k ((f T).adv len) ∧
      t.team? k = some ((f T).adv len) ∧ SameMem s t := by
  have hgo : s.teamLim lim (.team k) = true := by simp [State.teamLim, h.team, hl]
  refine ⟨_, issue_go h.issuing hgo, ?_, ?_, sameMem_of_mem (by simp)⟩
  · simp [State.onTeam, h.team]
  · simp [State.onTeam, h.team]

/-- A fixed-latency vector word that writes lanes of one register or pair and ORs the flags of every active lane in. -/
theorem vec_wroteF {s : State} {i : Instr} {k : Nat} {T : Team} (h : TeamIssuing s i k T) (len : Nat) {lim : Team → Bool}
    (hl : lim T = true) (g : Nat) (wide : Bool) (d : BitVec 8) (f : Team → Nat → FRes) :
    ∃ t, vec s i len lim (fun T => T.lanesF g wide d.toNat (f T)) = .next t ∧
      WroteV s t k T (T.active g) wide d.toNat (fun l => (f T l).1) ((T.active g).foldl (fun x l => x ||| (f T l).2) 0) len := by
  obtain ⟨t, ht, hset, hteam, hmem⟩ := vec_next h len hl fun T => T.lanesF g wide d.toNat (f T)
  refine ⟨t, ht, _, hset, hteam, ?_, ?_, ?_, ?_, hmem⟩
  · exact fun l hl => Team.vrd_eachLane _ wide _ (fun l => (f T l).1) T l d.isLt hl
  · exact fun r l hr hx => Team.vr_eachLane _ wide _ (fun l => (f T l).1) T r l d.isLt hr hx
  · exact fun r l hr => Team.vmarks_eachLane _ wide _ (fun l => (f T l).1) T r l d.isLt hr
  · rw [Team.lanesF, Team.eachLane_only]
    rfl

/-- Settles O15: the lane results and flags of each word are written by `vec_wroteF`. -/
theorem floatConversions : Obligations.FloatConversions := by
  intro s k T o
  refine ⟨fun h hl => ?vfcvt, fun h hl => ?vfi, fun h hl => ?vif⟩
  case vfcvt =>
    rw [exec_vfcvt]
    exact vec_wroteF h 8 hl o.g.toNat (fWide o.td) o.d fun T l =>
      convBits o.td o.ts (rmode T.th.rm o.rnd) o.sat (T.fbits o.ts o.a.toNat l)
  case vfi =>
    simp only [exec_vfi, laneOf, ← extTo_eq_extend]
    exact vec_wroteF h 8 hl o.g.toNat (tyWide o.td) o.d fun T l =>
      let r := toInt o.td (rmode T.th.rm o.rnd) (T.fval o.ts o.a.toNat l)
      ((extTo 64 o.td r.1).toNat, r.2)
  case vif =>
    rw [exec_vif]
    exact vec_wroteF h 8 hl o.g.toNat (fWide o.td) o.d fun T l =>
      (fmtOf o.td).ofInt (rmode T.th.rm o.rnd) o.sat (tyVal o.ts (T.vrd (tyWide o.ts) o.a.toNat l))

end Sys2Proof.Machine.FlaggedLanes
end

section
/-! The bit-plane words (R103, R169 to R173): images and their elements bit by bit, and the pair writes of `vbpsel`. -/

namespace Sys2Proof.Machine.BitPlane

open OneSource VectorInteger FlaggedLanes

/-! ### Planes of an image (R103, R171) -/

/-- Bit `i` of a number assembled from a list, least significant first. -/
theorem testBit_foldr_b2n (b : Nat → Bool) (ls : List Nat) {i : Nat} (hi : i < ls.length) :
    (ls.foldr (fun e n => b2n (b e) + 2 * n) 0).testBit i = b ls[i] := by
  induction ls generalizing i with
  | nil => simp at hi
  | cons e r ih =>
    cases i with
    | zero => cases h : b e <;> simp [h, b2n, Nat.add_mod]
    | succ i =>
      have hhalf : ∀ n, (b2n (b e) + 2 * n) / 2 = n := fun n => by unfold b2n; split <;> omega
      rw [List.foldr_cons, Nat.testBit_succ, hhalf, ih (by simpa using hi), List.getElem_cons_succ]

theorem planeK_cases (k : BitVec 2) : planeK k = 1 ∨ planeK k = 2 ∨ planeK k = 4 ∨ planeK k = 8 := by revert k; decide

/-- The low bits of an exact value do not depend on the width it is wrapped to. -/
theorem bitAt_wrapN {n i : Nat} (v : Int) (hi : i < n) : bitAt (wrapN n v) i = (BitVec.ofInt n v).getLsbD i := by
  rw [bitAt_eq_getLsbD hi, ofNat_wrapN]

theorem setWidth_ofInt {n m : Nat} (v : Int) (hnm : n ≤ m) : (BitVec.ofInt m v).setWidth n = BitVec.ofInt n v := by
  have hpos : ∀ j, 0 ≤ v % ((2 ^ j : Nat) : Int) := fun j => Int.emod_nonneg _ (by positivity)
  have hdvd : ((2 ^ n : Nat) : Int) ∣ ((2 ^ m : Nat) : Int) := Int.natCast_dvd_natCast.mpr (pow_dvd_pow 2 hnm)
  apply BitVec.eq_of_toNat_eq
  rw [BitVec.toNat_setWidth, BitVec.toNat_ofInt, BitVec.toNat_ofInt, ← Int.natCast_inj, Int.natCast_mod,
    Int.toNat_of_nonneg (hpos m), Int.toNat_of_nonneg (hpos n), Int.emod_emod_of_dvd _ hdvd]

theorem getLsbD_ofInt_of_le {n m i : Nat} (v : Int) (hi : i < n) (hnm : n ≤ m) :
    (BitVec.ofInt n v).getLsbD i = (BitVec.ofInt m v).getLsbD i := by
  rw [← setWidth_ofInt v hnm, BitVec.getLsbD_setWidth]
  simp [hi]

/-- The range of BPk (R171). -/
theorem clampBp_eq (signed : Bool) (k : Nat) (v : Int) :
    clampBp signed k v = max (if signed then -(2 ^ (k - 1)) else 0)
      (min ((if signed then 2 ^ (k - 1) else 2 ^ k) - 1) v) := by
  have h1 : (0 : Int) < 2 ^ (k - 1) := by positivity
  have h2 : (0 : Int) < 2 ^ k := by positivity
  cases signed with
  | true =>
    simp only [clampBp, if_true, Nat.cast_pow, Nat.cast_ofNat]
    exact clamp_by_order (by omega) v
  | false =>
    simp only [clampBp, Bool.false_eq_true, if_false, Nat.cast_pow, Nat.cast_ofNat]
    exact clamp_by_order (by omega) v

/-- The weight of plane `i` of `n` (R103). -/
def weight (signed : Bool) (n i : Nat) : Int := if signed = true ∧ i + 1 = n then -(2 ^ i) else 2 ^ i

theorem weight_eq (signed : Bool) {n i : Nat} (hi : i < n) :
    (if signed = true ∧ i = n - 1 then -((2 ^ i : Nat) : Int) else ((2 ^ i : Nat) : Int)) = weight signed n i := by
  have : i = n - 1 ↔ i + 1 = n := by omega
  simp only [weight, this, Nat.cast_pow, Nat.cast_ofNat]

section Words
variable {s : State} {k : Nat} {T : Team}

/-- Bit `e` of a lane of an image (R171). -/
theorem getLsbD_planeHalf (T : Team) (signed : Bool) (n : BitVec 2) (a g i h e : Nat) (he : e < 32) (hi : i < planeK n) :
    (BitVec.ofNat 32 (T.planeHalf signed (planeK n) a g i h)).getLsbD e =
      (let x := 64 * g + 32 * h + e
       let v : Int := if x < 32 * T.words then (if signed then (T.vr a x).toInt else (T.vr a x).toNat) else 0
       let lo : Int := if signed then -(2 ^ (planeK n - 1)) else 0
       let hi : Int := (if signed then 2 ^ (planeK n - 1) else 2 ^ planeK n) - 1
       (BitVec.ofInt 8 (max lo (min hi v))).getLsbD i) := by
  have hk : planeK n ≤ 8 := by rcases planeK_cases n with h | h | h | h <;> omega
  have hbit : ∀ b : Nat → Bool,
      (BitVec.ofNat 32 ((List.range 32).foldr (fun e n => b2n (b e) + 2 * n) 0)).getLsbD e = b e := fun b => by
    rw [BitVec.getLsbD_ofNat, testBit_foldr_b2n b _ (by simpa using he)]
    simp [he]
  rw [Team.planeHalf, hbit]
  simp only [bitAt_wrapN _ hi, getLsbD_ofInt_of_le _ hi hk, clampBp_eq]
  by_cases hx : 64 * g + 32 * h + e < 32 * T.words
  · simp [hx]
  · simp [hx]

theorem vbpl_queued {o : VBp} (h : TeamIssuing s (.vbpl o) k T) (hl : (T.vOk false o.d && T.vOk false o.a) = true) :
    ∃ (t : State) (w : Nat → W32), exec (.vbpl o) s = .next t ∧ Queued s t (.team k) T.th 8 [] (.result
        (((T.active o.g.toNat).filter fun l => decide (l < 2 * planeK o.k * T.maskRegs)).map fun l => .v o.d.toNat l (w l)) 0) ∧
      ∀ l ∈ T.active o.g.toNat, l < 2 * planeK o.k * T.maskRegs →
        ∀ e < 32, (w l).getLsbD e = (let x := 64 * (l / (2 * planeK o.k)) + 32 * (l % 2) + e
          let v : Int := if x < 32 * T.words then (if o.signed then (T.vr o.a.toNat x).toInt else (T.vr o.a.toNat x).toNat) else 0
          let lo : Int := if o.signed then -(2 ^ (planeK o.k - 1)) else 0
          let hi : Int := (if o.signed then 2 ^ (planeK o.k - 1) else 2 ^ planeK o.k) - 1
          (BitVec.ofInt 8 (max lo (min hi v))).getLsbD (l % (2 * planeK o.k) / 2)) := by
  obtain ⟨t, ht, hq⟩ := vecLater_queued h 8 (fun T => T.vOk false o.d && T.vOk false o.a) hl fun T =>
    (((T.active o.g.toNat).filter fun l => decide (l < 2 * planeK o.k * T.maskRegs)).map fun l =>
      .v o.d.toNat l (BitVec.ofNat 32 (T.planeHalf o.signed (planeK o.k) o.a.toNat (l / (2 * planeK o.k))
        (l % (2 * planeK o.k) / 2) (l % 2))), 0)
  refine ⟨t, _, (exec_vbpl o s).trans ht, hq, fun l _ _ e he => getLsbD_planeHalf T o.signed o.k o.a.toNat _ _ _ e he ?_⟩
  have : l % (2 * planeK o.k) < 2 * planeK o.k := Nat.mod_lt _ (by rcases planeK_cases o.k with h | h | h | h <;> omega)
  omega

/-- The value of an element of an image is the sum of the weights of its bits (R103). -/
theorem imageElem_eq (T : Team) (signed : Bool) (n a l : Nat) :
    T.imageElem signed n a (l / 64) (l % 64) = ((List.range n).map fun i =>
      if (T.vr a (2 * n * (l / 64) + 2 * i + l % 64 / 32)).getLsbD (l % 32) then weight signed n i else 0).sum := by
  refine congrArg List.sum (List.map_congr_left fun i hi => ?_)
  have hl : l % 64 % 32 = l % 32 := by omega
  have hlt : l % 32 < 32 := Nat.mod_lt _ (by omega)
  simp only [weight_eq signed (List.mem_range.mp hi), hl, bitAt_eq_getLsbD hlt, BitVec.ofNat_toNat, BitVec.setWidth_eq]

theorem vbpu_queued {o : VBp} (h : TeamIssuing s (.vbpu o) k T) (hl : (T.vOk false o.d && T.vOk false o.a) = true) :
    ∃ t, exec (.vbpu o) s = .next t ∧ Queued s t (.team k) T.th 8 [] (.result
      ((T.active o.g.toNat).map fun l => .v o.d.toNat l (BitVec.ofInt 32 (((List.range (planeK o.k)).map fun i =>
        if (T.vr o.a.toNat (2 * planeK o.k * (l / 64) + 2 * i + l % 64 / 32)).getLsbD (l % 32)
          then weight o.signed (planeK o.k) i else 0).sum))) 0) := by
  simp only [← imageElem_eq]
  exact exec_vbpu o s ▸ vecLater_queued h 8 _ hl _

/-! ### Weighted counts (R172) -/

theorem popN_and (x : Nat) (m : W64) :
    popN 64 (x &&& m.toNat) = (List.range 64).countP fun e => (BitVec.ofNat 64 x &&& m).getLsbD e := by
  rw [popN_eq, BitVec.ofNat_and, BitVec.ofNat_toNat, BitVec.setWidth_eq]

theorem bpSum_eq (T : Team) (o : VBpdot) (l : Nat) : T.bpSum o l = ((List.range (planeK o.k)).map fun i =>
    if planeK o.k ≤ i + (o.m.toNat + 1) then weight o.signed (planeK o.k) i *
      (((List.range 64).countP fun e => (BitVec.ofNat 64 (T.vrd true (o.a.toNat + 2 * i) l) &&& T.th.rd o.b.toNat).getLsbD e : Nat) : Int)
    else 0).sum := by
  refine congrArg List.sum (List.map_congr_left fun i hi => ?_)
  have hread : planeK o.k - (o.m.toNat + 1) ≤ i ↔ planeK o.k ≤ i + (o.m.toNat + 1) := by omega
  simp only [hread, weight_eq o.signed (List.mem_range.mp hi), popN_and]

theorem vbpdot_wrote {o : VBpdot} (h : TeamIssuing s (.vbpdot o) k T) (hl : (T.vOk false o.d && T.groupOk (planeK o.k) o.a) = true) :
    ∃ t, exec (.vbpdot o) s = .next t ∧ WroteV s t k T (T.active o.g.toNat) false o.d.toNat
      (fun l => (T.vr o.d.toNat l + BitVec.ofInt 32 (T.bpSum o l)).toNat) 0 8 := by
  obtain ⟨t, ht, hw⟩ := vec_wrote h 8 (fun T => T.vOk false o.d && T.groupOk (planeK o.k) o.a) hl o.g.toNat false o.d.toNat o.d.isLt
    fun T l => wrapN 32 (((T.vr o.d.toNat l).toNat : Int) + T.bpSum o l)
  refine ⟨t, (exec_vbpdot o s).trans ht, ?_⟩
  simpa only [wrapN_eq, BitVec.ofInt_add, ofInt_nat_mod, BitVec.ofNat_toNat, BitVec.setWidth_eq] using hw

end Words

/-! ### The pair writes of `vbpsel` (R173) -/

section Pairs
variable {d : Nat} {f : Nat → Nat → Nat} {ps : List (Nat × Nat)} {T : Team}

/-- Write of 64-bit values to pairs: in lane `p.1` the pair `d + 2 · p.2` takes `f p.1 p.2`. -/
def writePairs (d : Nat) (f : Nat → Nat → Nat) (ps : List (Nat × Nat)) (T : Team) : Team :=
  ps.foldl (fun U p => U.vwr true (d + 2 * p.2) p.1 (f p.1 p.2)) T

theorem writePairs_cons (p : Nat × Nat) : writePairs d f (p :: ps) T = writePairs d f ps (T.vwr true (d + 2 * p.2) p.1 (f p.1 p.2)) := rfl

theorem vr_vwr_pair (T : Team) {d r : Nat} (hd : d + 1 < 512) (hr : r < 512) (l x l' : Nat) : (T.vwr true d l x).vr r l' =
    if r = d + 1 ∧ l' = l then BitVec.ofNat 32 (x / 2 ^ 32) else if r = d ∧ l' = l then BitVec.ofNat 32 x else T.vr r l' := by
  simp only [Team.vwr, if_true]
  rw [Team.vr_vw _ _ _ _ _ _ hd hr, Team.vr_vw _ _ _ _ _ _ (by omega) hr]

theorem vrd_vwr_pair (T : Team) {d : Nat} (hd : d + 1 < 512) (l x : Nat) : (T.vwr true d l x).vrd true d l = laneBits true x := by
  simp only [Team.vrd, if_true, vr_vwr_pair T hd (show d < 512 by omega), vr_vwr_pair T hd hd, and_self, laneBits, BitVec.toNat_ofNat,
    show ¬ d = d + 1 by omega, false_and, if_false]
  omega

theorem vmarks_vwr_pair (T : Team) {d r : Nat} (hd : d + 1 < 512) (hr : r < 512) (l x l' : Nat) :
    vkey r l' ∈ (T.vwr true d l x).vmarks ↔ vkey r l' ∈ T.vmarks ∧ ¬(l' = l ∧ (r = d ∨ r = d + 1)) := by
  have hk : ∀ e < 512, vkey r l' = vkey e l ↔ r = e ∧ l' = l := fun e he => by simp only [vkey]; omega
  simp [Team.vwr, Team.vw, hk d (by omega), hk (d + 1) hd]
  tauto

/-- A register that no write names keeps its value and its mark. -/
theorem writePairs_frame {r l : Nat} (hr : r < 512) (hps : ∀ p ∈ ps, d + 2 * p.2 + 1 < 512)
    (h : ∀ p ∈ ps, p.1 = l → r ≠ d + 2 * p.2 ∧ r ≠ d + 2 * p.2 + 1) :
    (writePairs d f ps T).vr r l = T.vr r l ∧ (vkey r l ∈ (writePairs d f ps T).vmarks ↔ vkey r l ∈ T.vmarks) := by
  induction ps generalizing T with
  | nil => exact ⟨rfl, Iff.rfl⟩
  | cons p ps ih =>
    obtain ⟨hv, hm⟩ := ih (T := T.vwr true (d + 2 * p.2) p.1 (f p.1 p.2)) (fun q hq => hps q (List.mem_cons_of_mem _ hq))
      fun q hq => h q (List.mem_cons_of_mem _ hq)
    have hp := h p List.mem_cons_self
    rw [writePairs_cons, hv, hm, vr_vwr_pair T (hps p List.mem_cons_self) hr, vmarks_vwr_pair T (hps p List.mem_cons_self) hr,
      if_neg (by tauto), if_neg (by tauto)]
    exact ⟨rfl, by tauto⟩

/-- A pair that is written reads the value that its lane and number give, whichever write came last. -/
theorem vrd_writePairs {l i : Nat} (hps : ∀ p ∈ ps, d + 2 * p.2 + 1 < 512) (h : (l, i) ∈ ps) :
    (writePairs d f ps T).vrd true (d + 2 * i) l = laneBits true (f l i) := by
  induction ps generalizing T with
  | nil => simp at h
  | cons p ps ih =>
    have hps' : ∀ q ∈ ps, d + 2 * q.2 + 1 < 512 := fun q hq => hps q (List.mem_cons_of_mem _ hq)
    rw [writePairs_cons]
    by_cases hin : (l, i) ∈ ps
    · exact ih hps' hin
    · obtain rfl : (l, i) = p := by simpa [hin] using h
      have hd := hps (l, i) List.mem_cons_self
      have hne : ∀ q ∈ ps, q.1 = l → q.2 ≠ i := fun q hq h1 h2 => hin (by rw [← h1, ← h2]; exact hq)
      rw [← vrd_vwr_pair T hd l (f l i), Team.vrd, Team.vrd]
      simp only [if_true]
      rw [(writePairs_frame (by omega) hps' fun q hq h1 => by have := hne q hq h1; omega).1,
        (writePairs_frame hd hps' fun q hq h1 => by have := hne q hq h1; omega).1]

theorem writePairs_only : writePairs d f ps T = { T with v := (writePairs d f ps T).v, vmarks := (writePairs d f ps T).vmarks } := by
  induction ps generalizing T with
  | nil => rfl
  | cons p ps ih =>
    rw [writePairs_cons, ih, Team.vwr_only]

end Pairs

/-- The value that `vbpsel` gives a pair: the elements of A that the mask selects, those of D elsewhere (R173). -/
def selected (T : Team) (o : VBpsel) (l i : Nat) : Nat :=
  (T.vrd true (o.a.toNat + 2 * i) l &&& (T.th.rd o.b.toNat).toNat) |||
    (T.vrd true (o.d.toNat + 2 * i) l &&& (2 ^ 64 - 1 - (T.th.rd o.b.toNat).toNat))

/-- The pairs that `vbpsel` writes, in order. -/
def selectedPairs (T : Team) (o : VBpsel) : List (Nat × Nat) :=
  (T.active o.g.toNat).flatMap fun l => (List.range (planeK o.k)).map fun i => (l, i)

theorem execVbpsel_eq (o : VBpsel) (s : State) :
    execVbpsel o s = vec s (.vbpsel o) 8 (fun T => T.groupOk (planeK o.k) o.d && T.groupOk (planeK o.k) o.a)
      fun T => writePairs o.d.toNat (selected T o) (selectedPairs T o) T := by
  unfold execVbpsel writePairs selectedPairs
  simp only [List.foldl_flatMap, List.foldl_map]
  rfl

theorem mem_selectedPairs {T : Team} {o : VBpsel} {p : Nat × Nat} :
    p ∈ selectedPairs T o ↔ p.1 ∈ T.active o.g.toNat ∧ p.2 < planeK o.k := by
  simp only [selectedPairs, List.mem_flatMap, List.mem_map, List.mem_range]
  exact ⟨fun ⟨l, hl, i, hi, h⟩ => h ▸ ⟨hl, hi⟩, fun ⟨hl, hi⟩ => ⟨p.1, hl, p.2, hi, rfl⟩⟩

theorem ofNat_laneBits (x : Nat) : BitVec.ofNat 64 (laneBits true x) = BitVec.ofNat 64 x := by
  apply BitVec.eq_of_toNat_eq
  simp [laneBits]

theorem getLsbD_selected (T : Team) (o : VBpsel) (l i : Nat) {e : Nat} (he : e < 64) :
    (BitVec.ofNat 64 (laneBits true (selected T o l i))).getLsbD e = if (T.th.rd o.b.toNat).getLsbD e
      then (BitVec.ofNat 64 (T.vrd true (o.a.toNat + 2 * i) l)).getLsbD e
      else (BitVec.ofNat 64 (T.vrd true (o.d.toNat + 2 * i) l)).getLsbD e := by
  have hnot : 2 ^ 64 - 1 - (T.th.rd o.b.toNat).toNat = (~~~(T.th.rd o.b.toNat)).toNat := by rw [BitVec.toNat_not]
  have hsel : BitVec.ofNat 64 (laneBits true (selected T o l i)) =
      (BitVec.ofNat 64 (T.vrd true (o.a.toNat + 2 * i) l) &&& T.th.rd o.b.toNat) |||
        (BitVec.ofNat 64 (T.vrd true (o.d.toNat + 2 * i) l) &&& ~~~(T.th.rd o.b.toNat)) := by
    rw [ofNat_laneBits, selected, hnot, BitVec.ofNat_or, BitVec.ofNat_and, BitVec.ofNat_and, BitVec.ofNat_toNat, BitVec.ofNat_toNat,
      BitVec.setWidth_eq, BitVec.setWidth_eq]
  rw [hsel]
  rw [BitVec.getLsbD_or, BitVec.getLsbD_and, BitVec.getLsbD_and, BitVec.getLsbD_not]
  cases (T.th.rd o.b.toNat).getLsbD e <;> simp only [he, decide_true, Bool.not_true, Bool.not_false, Bool.and_true, Bool.and_false,
    Bool.or_false, Bool.false_or, Bool.false_eq_true, if_true, if_false]

theorem vbpsel_wrote {s : State} {k : Nat} {T : Team} {o : VBpsel} (h : TeamIssuing s (.vbpsel o) k T)
    (hl : (T.groupOk (planeK o.k) o.d && T.groupOk (planeK o.k) o.a) = true) :
    ∃ t T', exec (.vbpsel o) s = .next t ∧ t = s.setTeam k T' ∧ t.team? k = some T' ∧
      (∀ l ∈ T.active o.g.toNat, ∀ i < planeK o.k, ∀ e < 64,
        (BitVec.ofNat 64 (T'.vrd true (o.d.toNat + 2 * i) l)).getLsbD e = if (T.th.rd o.b.toNat).getLsbD e
          then (BitVec.ofNat 64 (T.vrd true (o.a.toNat + 2 * i) l)).getLsbD e
          else (BitVec.ofNat 64 (T.vrd true (o.d.toNat + 2 * i) l)).getLsbD e) ∧
      (∀ r l, r < 256 → l ∉ T.active o.g.toNat ∨ ¬(o.d.toNat ≤ r ∧ r < o.d.toNat + 2 * planeK o.k) →
        T'.vr r l = T.vr r l ∧ (vkey r l ∈ T'.vmarks ↔ vkey r l ∈ T.vmarks)) ∧
      T' = { T with
        v := T'.v, vmarks := T'.vmarks, th := { T.th with pc := T.th.pc + 8 }
        partialMask := if T.hcause = 0 then none else T.partialMask } ∧ SameMem s t := by
  have hps : ∀ p ∈ selectedPairs T o, o.d.toNat + 2 * p.2 + 1 < 512 := fun p hp => by
    have := (mem_selectedPairs.mp hp).2
    rcases planeK_cases o.k with hk | hk | hk | hk <;> omega
  obtain ⟨t, ht, hset, hteam, hmem⟩ := vec_next h 8
    (lim := fun T => T.groupOk (planeK o.k) o.d && T.groupOk (planeK o.k) o.a) hl
    fun T => writePairs o.d.toNat (selected T o) (selectedPairs T o) T
  refine ⟨t, _, (exec_vbpsel o s).trans ((execVbpsel_eq o s).trans ht), hset, hteam, ?values, ?frame, ?only, hmem⟩
  case values =>
    intro l hl i hi e he
    rw [← getLsbD_selected T o l i he, ← vrd_writePairs (T := T) hps (mem_selectedPairs.mpr ⟨hl, hi⟩)]
    rfl
  case frame =>
    intro r l hr hx
    refine writePairs_frame (by omega) hps fun p hp h1 => ?_
    obtain ⟨hact, hi⟩ := mem_selectedPairs.mp hp
    rcases hx with hx | hx
    · exact absurd (h1 ▸ hact) hx
    · omega
  case only =>
    rw [writePairs_only]
    rfl

/-- Settles O24: packing and unpacking bit by bit (`getLsbD_planeHalf`, `imageElem_eq`), the weighted count of `bpSum_eq`, and for
`vbpsel` a list of pair writes (`writePairs`). -/
theorem bitPlanes : Obligations.BitPlanes := by
  intro s k T
  refine ⟨fun o h hl => vbpl_queued h hl, fun o h hl => vbpu_queued h hl, fun o h hl => ?_, fun o h hl => vbpsel_wrote h hl⟩
  simpa only [bpSum_eq, weight] using vbpdot_wrote h hl

end Sys2Proof.Machine.BitPlane
end

section
/-! The floating formats (R92 to R94): which bits encode a finite value, and how a magnitude `m · 2^q` in the format's range is encoded. -/

namespace Sys2Proof.Machine.FloatFormat

open OneSource

/-! ### What the six formats have in common -/

/-- What rounding needs to know of a format of R92: its fields have at least two bits, its largest finite values are integers and its
smallest steps are not, and the square of its largest power of two times its smallest value is at least 1. -/
structure Shape (F : Fmt) : Prop where
  two_le_f : 2 ≤ F.f
  two_le_e : 2 ≤ F.e
  qmin_lt_maxQ : F.qmin + 1 < F.maxQ
  maxQ_pos : 0 < F.maxQ
  qmin_le : F.qmin ≤ 0
  half_range : -F.qmin ≤ 2 * (F.f + F.maxQ)

theorem shape (code : BitVec 3) : Shape (fmtOf code) := by
  have h : ∀ c : BitVec 3, 2 ≤ (fmtOf c).f ∧ 2 ≤ (fmtOf c).e ∧ (fmtOf c).qmin + 1 < (fmtOf c).maxQ ∧ 0 < (fmtOf c).maxQ ∧
      (fmtOf c).qmin ≤ 0 ∧ -(fmtOf c).qmin ≤ 2 * ((fmtOf c).f + (fmtOf c).maxQ) := by decide
  obtain ⟨h1, h2, h3, h4, h5, h6⟩ := h code
  exact ⟨h1, h2, h3, h4, h5, h6⟩

/-! ### The fields of an encoding (R92) -/

/-- The bits of a sign, an exponent field and a fraction field. -/
def pack (F : Fmt) (n : Bool) (ex fr : Nat) : Nat := F.sign n + (ex * 2 ^ F.f + fr)

section Fields
variable {F : Fmt} {n : Bool} {ex fr : Nat}

theorem pack_div (hfr : fr < 2 ^ F.f) : pack F n ex fr / 2 ^ F.f = b2n n * 2 ^ F.e + ex := by
  have h : pack F n ex fr = fr + (b2n n * 2 ^ F.e + ex) * 2 ^ F.f := by rw [pack, Fmt.sign, pow_add]; ring
  rw [h, Nat.add_mul_div_right _ _ (Nat.two_pow_pos _), Nat.div_eq_of_lt hfr, Nat.zero_add]

theorem fraction_pack (hfr : fr < 2 ^ F.f) : bits (pack F n ex fr) 0 F.f = fr := by
  have h : pack F n ex fr = fr + (b2n n * 2 ^ F.e + ex) * 2 ^ F.f := by rw [pack, Fmt.sign, pow_add]; ring
  rw [bits, pow_zero, Nat.div_one, h, Nat.add_mul_mod_self_right, Nat.mod_eq_of_lt hfr]

theorem exponent_pack (hex : ex < 2 ^ F.e) (hfr : fr < 2 ^ F.f) : bits (pack F n ex fr) F.f F.e = ex := by
  rw [bits, pack_div hfr, Nat.add_comm, Nat.add_mul_mod_self_right, Nat.mod_eq_of_lt hex]

theorem pack_div_sign (hex : ex < 2 ^ F.e) (hfr : fr < 2 ^ F.f) : pack F n ex fr / 2 ^ (F.e + F.f) = b2n n := by
  rw [Nat.add_comm, pow_add, ← Nat.div_div_eq_div_mul, pack_div hfr, Nat.add_comm, Nat.add_mul_div_right _ _ (Nat.two_pow_pos _),
    Nat.div_eq_of_lt hex, Nat.zero_add]

theorem sign_pack (hex : ex < 2 ^ F.e) (hfr : fr < 2 ^ F.f) : bitAt (pack F n ex fr) (F.e + F.f) = n := by
  rw [bitAt, pack_div_sign hex hfr]
  cases n <;> rfl

theorem pack_lt (hex : ex < 2 ^ F.e) (hfr : fr < 2 ^ F.f) : pack F n ex fr < 2 ^ F.bits := by
  have h := pack_div_sign (n := n) hex hfr
  have hb : b2n n < 2 := by cases n <;> decide
  rw [Fmt.bits, Nat.add_assoc, pow_add, pow_one]
  exact (Nat.div_lt_iff_lt_mul (Nat.two_pow_pos _)).mp (h ▸ hb)

/-- Bits of the format are the packing of their fields. -/
theorem pack_fields {x : Nat} (hx : x < 2 ^ F.bits) : pack F (bitAt x (F.e + F.f)) (bits x F.f F.e) (bits x 0 F.f) = x := by
  have hs : F.sign (bitAt x (F.e + F.f)) = x / 2 ^ (F.e + F.f) * 2 ^ (F.e + F.f) := by
    have hlt : x / 2 ^ (F.e + F.f) < 2 := by
      rw [Nat.div_lt_iff_lt_mul (Nat.two_pow_pos _), ← Nat.pow_succ', Nat.succ_eq_add_one, Nat.add_comm, ← Nat.add_assoc]
      exact hx
    rcases Nat.le_one_iff_eq_zero_or_eq_one.mp (Nat.lt_succ_iff.mp hlt) with h | h <;> simp [Fmt.sign, bitAt, h, b2n]
  have h1 := Nat.div_add_mod x (2 ^ F.f)
  have h2 := Nat.div_add_mod (x / 2 ^ F.f) (2 ^ F.e)
  rw [pack, hs, bits, bits, pow_zero, Nat.div_one, Nat.add_comm F.e F.f, pow_add, ← Nat.div_div_eq_div_mul]
  calc _ = 2 ^ F.f * (2 ^ F.e * (x / 2 ^ F.f / 2 ^ F.e) + x / 2 ^ F.f % 2 ^ F.e) + x % 2 ^ F.f := by ring
    _ = x := by rw [h2, h1]

/-- Fields that are those of a finite value: all ones in the exponent mean an infinity or a NaN, or in E4M3 only the last one a NaN. -/
def FiniteFields (F : Fmt) (ex fr : Nat) : Prop := ex < 2 ^ F.e - 1 ∨ (F.inf = false ∧ ex = 2 ^ F.e - 1 ∧ fr < 2 ^ F.f - 1)

/-- The value of finite fields (R92). -/
theorem val_pack (hex : ex < 2 ^ F.e) (hfr : fr < 2 ^ F.f) (h : FiniteFields F ex fr) :
    F.val (pack F n ex fr) = if ex = 0 then .fin n fr F.qmin else .fin n (2 ^ F.f + fr) (F.qmin + (ex : Int) - 1) := by
  have h1 : ¬(ex = 2 ^ F.e - 1 ∧ F.inf = true) := by
    rintro ⟨rfl, hinf⟩
    rcases h with h | ⟨h, -, -⟩
    · omega
    · simp [h] at hinf
  have h2 : ¬(ex = 2 ^ F.e - 1 ∧ fr = 2 ^ F.f - 1) := by
    rcases h with h | ⟨-, -, h⟩ <;> omega
  rw [Fmt.val]
  simp only [sign_pack hex hfr, exponent_pack hex hfr, fraction_pack hfr, if_neg h1, if_neg h2]

/-- Bits with a finite value have finite fields. -/
theorem finiteFields_of_val {x : Nat} {m : Nat} {q : Int} (h : F.val x = .fin n m q) :
    FiniteFields F (bits x F.f F.e) (bits x 0 F.f) := by
  have hex := bits_lt x F.f F.e
  have hfr := bits_lt x 0 F.f
  rw [Fmt.val] at h
  split at h
  · split at h <;> cases h
  · next h1 =>
    split at h
    · cases h
    · next h2 =>
      by_cases hlast : bits x F.f F.e = 2 ^ F.e - 1
      · exact .inr ⟨by simpa [hlast] using h1, hlast, by have : bits x 0 F.f ≠ 2 ^ F.f - 1 := fun hc => h2 ⟨hlast, hc⟩; omega⟩
      · exact .inl (by omega)

end Fields

/-! ### Finite values and their encodings -/

/-- `m · 2^q` is a finite magnitude of the format in the form that its bits give: normal, or at the exponent of the subnormals. -/
structure Canonical (F : Fmt) (m : Nat) (q : Int) : Prop where
  lt : m < 2 ^ (F.f + 1)
  qmin_le : F.qmin ≤ q
  normal : q = F.qmin ∨ 2 ^ F.f ≤ m
  le_maxQ : q ≤ F.maxQ
  le_maxM : q = F.maxQ → m ≤ F.maxM

/-- The bits of a finite value: the exponent field is 0 below 2^f. -/
def encodeFin (F : Fmt) (n : Bool) (m : Nat) (q : Int) : Nat :=
  F.sign n + if m < 2 ^ F.f then m else (q - F.qmin + 1).toNat * 2 ^ F.f + (m - 2 ^ F.f)

section Encoding
variable {F : Fmt} {n : Bool} {m : Nat} {q : Int}

/-- The exponent field of a canonical magnitude, and its fraction field. -/
theorem encodeFin_eq_pack (hF : Shape F) (h : Canonical F m q) : ∃ ex fr, encodeFin F n m q = pack F n ex fr ∧ ex < 2 ^ F.e ∧
    fr < 2 ^ F.f ∧ FiniteFields F ex fr ∧ (ex = 0 → m = fr ∧ q = F.qmin) ∧
    (ex ≠ 0 → m = 2 ^ F.f + fr ∧ q = F.qmin + (ex : Int) - 1) := by
  obtain ⟨hlt, hqmin, hnormal, hmaxQ, hmaxM⟩ := h
  have he : 2 ^ 2 ≤ 2 ^ F.e := Nat.pow_le_pow_right (by omega) hF.two_le_e
  rw [pow_succ] at hlt
  by_cases hm : m < 2 ^ F.f
  · have hq : q = F.qmin := hnormal.resolve_right (by omega)
    exact ⟨0, m, by simp [encodeFin, pack, hm], by omega, hm, .inl (by omega), fun _ => ⟨rfl, hq⟩, fun h => absurd rfl h⟩
  · refine ⟨(q - F.qmin + 1).toNat, m - 2 ^ F.f, by rw [encodeFin, if_neg hm, pack], ?_, by omega, ?_, by omega, by omega⟩
    · rw [Fmt.maxQ] at hmaxQ
      split at hmaxQ <;> omega
    · rw [Fmt.maxQ] at hmaxQ hmaxM
      rw [Fmt.maxM] at hmaxM
      cases hinf : F.inf with
      | true =>
        simp only [hinf, if_true] at hmaxQ
        exact .inl (by omega)
      | false =>
        simp only [hinf, Bool.false_eq_true, if_false, pow_succ] at hmaxQ hmaxM
        by_cases hq : q = F.qmin + ((2 ^ F.e : Nat) - 2 : Int)
        · have := hmaxM hq
          exact .inr ⟨hinf, by omega, by omega⟩
        · exact .inl (by omega)

/-- Encoding and reading back. -/
theorem val_encodeFin (hF : Shape F) (h : Canonical F m q) : F.val (encodeFin F n m q) = .fin n m q := by
  obtain ⟨ex, fr, heq, hex, hfr, hfin, h0, h1⟩ := encodeFin_eq_pack (n := n) hF h
  rw [heq, val_pack hex hfr hfin]
  by_cases hz : ex = 0
  · obtain ⟨rfl, rfl⟩ := h0 hz
    rw [if_pos hz]
  · obtain ⟨rfl, rfl⟩ := h1 hz
    rw [if_neg hz]

theorem encodeFin_lt (hF : Shape F) (h : Canonical F m q) : encodeFin F n m q < 2 ^ F.bits := by
  obtain ⟨ex, fr, heq, hex, hfr, -⟩ := encodeFin_eq_pack (n := n) hF h
  exact heq ▸ pack_lt hex hfr

theorem sign_encodeFin (hF : Shape F) (h : Canonical F m q) : bitAt (encodeFin F n m q) (F.e + F.f) = n := by
  obtain ⟨ex, fr, heq, hex, hfr, -⟩ := encodeFin_eq_pack (n := n) hF h
  exact heq ▸ sign_pack hex hfr

theorem encodeFin_mod_two (hF : Shape F) (n : Bool) (m : Nat) (q : Int) : encodeFin F n m q % 2 = m % 2 := by
  have hf : 2 ∣ 2 ^ F.f := dvd_pow_self 2 (by have := hF.two_le_f; omega)
  have hs : 2 ∣ F.sign n := Dvd.dvd.mul_left (dvd_pow_self 2 (by have := hF.two_le_f; omega)) _
  rw [encodeFin]
  split
  · omega
  · have := Dvd.dvd.mul_left hf (q - F.qmin + 1).toNat
    omega

/-- Reading finite bits gives a canonical magnitude, whose encoding they are. -/
theorem canonical_of_val (hF : Shape F) {x : Nat} (hx : x < 2 ^ F.bits) (h : F.val x = .fin n m q) :
    Canonical F m q ∧ x = encodeFin F n m q := by
  have hfin := finiteFields_of_val h
  have hex := bits_lt x F.f F.e
  have hfr := bits_lt x 0 F.f
  have hx' := pack_fields hx
  rw [← hx'] at h
  generalize bits x F.f F.e = ex at h hfin hex hx'
  generalize bits x 0 F.f = fr at h hfin hfr hx'
  rw [val_pack hex hfr hfin] at h
  rw [← hx']
  have hq := hF.qmin_lt_maxQ
  by_cases hz : ex = 0
  · rw [if_pos hz] at h
    obtain ⟨rfl, rfl, rfl⟩ := FV.fin.inj h
    exact ⟨⟨by rw [pow_succ]; omega, le_rfl, .inl rfl, by omega, fun h => by omega⟩, by rw [encodeFin, pack, if_pos hfr, hz]; simp⟩
  · rw [if_neg hz] at h
    obtain ⟨rfl, rfl, rfl⟩ := FV.fin.inj h
    have hnum : (F.qmin + (ex : Int) - 1 - F.qmin + 1).toNat = ex := by omega
    refine ⟨⟨by rw [pow_succ]; omega, by omega, .inr (by omega), ?_, ?_⟩,
      by rw [encodeFin, pack, if_neg (by omega), hnum, Nat.add_sub_cancel_left]⟩
    · rw [Fmt.maxQ]
      rcases hfin with hfin | ⟨hinf, hfin, -⟩
      · split <;> omega
      · rw [hinf]; simp only [Bool.false_eq_true, if_false]; omega
    · rw [Fmt.maxQ, Fmt.maxM, pow_succ]
      cases hinf : F.inf with
      | true => simp only [if_true]; omega
      | false =>
        simp only [Bool.false_eq_true, if_false]
        rcases hfin with hfin | ⟨-, -, hfin⟩ <;> omega

/-- A magnitude lies below the power of two that its digits stay below. -/
theorem mul_zpow_lt {m k : Nat} {q : Int} (h : m < 2 ^ k) : (m : ℝ) * 2 ^ q < 2 ^ ((k : Int) + q) := by
  rw [zpow_add₀ two_ne_zero, zpow_natCast]
  exact mul_lt_mul_of_pos_right (by exact_mod_cast h) (by positivity)

theorem le_mul_zpow {m k : Nat} {q : Int} (h : 2 ^ k ≤ m) : 2 ^ ((k : Int) + q) ≤ (m : ℝ) * 2 ^ q := by
  rw [zpow_add₀ two_ne_zero, zpow_natCast]
  exact mul_le_mul_of_nonneg_right (by exact_mod_cast h) (by positivity)

theorem zpow_two_le {a b : Int} (h : a ≤ b) : (2 : ℝ) ^ a ≤ 2 ^ b := zpow_le_zpow_right₀ one_le_two h

/-- A larger exponent means a larger magnitude. -/
theorem Canonical.mul_zpow_lt_of_lt {m' : Nat} {q' : Int} (h : Canonical F m q) (h' : Canonical F m' q') (hq : q < q') :
    (m : ℝ) * 2 ^ q < m' * 2 ^ q' := by
  have hm' : 2 ^ F.f ≤ m' := h'.normal.resolve_left (by have := h.qmin_le; omega)
  calc (m : ℝ) * 2 ^ q < 2 ^ (((F.f + 1 : Nat) : Int) + q) := mul_zpow_lt h.lt
    _ ≤ 2 ^ ((F.f : Int) + q') := zpow_two_le (by omega)
    _ ≤ m' * 2 ^ q' := le_mul_zpow hm'

/-- A canonical magnitude is the only canonical form of its value. -/
theorem Canonical.unique {m' : Nat} {q' : Int} (h : Canonical F m q) (h' : Canonical F m' q')
    (hv : (m : ℝ) * 2 ^ q = m' * 2 ^ q') : m = m' ∧ q = q' := by
  rcases lt_trichotomy q q' with hq | hq | hq
  · exact absurd hv (h.mul_zpow_lt_of_lt h' hq).ne
  · subst hq
    exact ⟨by exact_mod_cast mul_right_cancel₀ (by positivity : (2 : ℝ) ^ q ≠ 0) hv, rfl⟩
  · exact absurd hv (h'.mul_zpow_lt_of_lt h hq).ne'

/-! ### The real value of bits -/

theorem real_fin (n : Bool) (m : Nat) (q : Int) : (FV.fin n m q).real = (if n then -1 else 1) * (m * (2 : ℝ) ^ q) := by
  rw [FV.real, FV.rat]
  push_cast
  cases n <;> simp

/-- A canonical magnitude is a finite value of the format. -/
theorem finite_encodeFin (hF : Shape F) (h : Canonical F m q) : F.Finite (encodeFin F n m q) (FV.fin n m q).real :=
  ⟨encodeFin_lt hF h, n, m, q, val_encodeFin hF h, rfl⟩

/-- The largest finite value is canonical, and its bits are `maxBits` (R92). -/
theorem canonical_max (hF : Shape F) : Canonical F F.maxM F.maxQ := by
  have hf : 2 ^ 2 ≤ 2 ^ F.f := Nat.pow_le_pow_right (by omega) hF.two_le_f
  have hq := hF.qmin_lt_maxQ
  refine ⟨?_, by omega, .inr ?_, le_rfl, fun _ => le_rfl⟩
  · rw [Fmt.maxM, pow_succ]; split <;> omega
  · rw [Fmt.maxM, pow_succ]; split <;> omega

theorem encodeFin_max (hF : Shape F) (n : Bool) : encodeFin F n F.maxM F.maxQ = F.sign n + F.maxBits := by
  have hf : 2 ^ 2 ≤ 2 ^ F.f := Nat.pow_le_pow_right (by omega) hF.two_le_f
  have he : 2 ^ 2 ≤ 2 ^ F.e := Nat.pow_le_pow_right (by omega) hF.two_le_e
  have hm : ¬F.maxM < 2 ^ F.f := by rw [Fmt.maxM, pow_succ]; split <;> omega
  obtain ⟨k, hk⟩ : ∃ k, 2 ^ F.e = k + 2 := ⟨2 ^ F.e - 2, by omega⟩
  rw [encodeFin, if_neg hm, Fmt.maxBits, Fmt.maxM, Fmt.maxQ, pow_succ, pow_add, hk]
  cases F.inf with
  | true =>
    have hnum : (F.qmin + (((k + 2 : Nat) : Int) - 3) - F.qmin + 1).toNat = k := by omega
    have hmul : (k + 2 - 1) * 2 ^ F.f = k * 2 ^ F.f + 2 ^ F.f := by rw [show k + 2 - 1 = k + 1 by omega, Nat.succ_mul]
    simp only [if_true, hnum]
    omega
  | false =>
    have hnum : (F.qmin + (((k + 2 : Nat) : Int) - 2) - F.qmin + 1).toNat = k + 1 := by omega
    have hmul : (k + 2) * 2 ^ F.f = (k + 1) * 2 ^ F.f + 2 ^ F.f := Nat.succ_mul _ _
    simp only [Bool.false_eq_true, if_false, hnum]
    omega

theorem finite_max (hF : Shape F) (n : Bool) : F.Finite (F.sign n + F.maxBits) ((if n then -1 else 1) * F.largest) :=
  encodeFin_max hF n ▸ real_fin n F.maxM F.maxQ ▸ finite_encodeFin hF (canonical_max hF)

end Encoding

end Sys2Proof.Machine.FloatFormat
end

section
/-! Rounding a magnitude to a multiple of a power of two (R95): `cutAt` rounds to an integer number of steps, and among the values of a
format that integer is the correctly rounded one. -/

namespace Sys2Proof.Machine.Rounding

/-! ### Rounding a magnitude to an integer -/

/-- The mode rounds a magnitude of that sign up. -/
def Away (mode : Nat) (neg : Bool) : Prop := (mode = 2 ∧ neg = false) ∨ (mode = 3 ∧ neg = true)

/-- The integer `n` is the magnitude `x`, of a value of that sign, rounded in the mode. -/
structure NatRounded (mode : Nat) (neg : Bool) (x : ℝ) (n : Nat) : Prop where
  nearest : mode = 0 → |(n : ℝ) - x| ≤ 1 / 2 ∧ (|(n : ℝ) - x| = 1 / 2 → n % 2 = 0)
  up : mode ≠ 0 → Away mode neg → n = ⌈x⌉₊
  down : mode ≠ 0 → ¬Away mode neg → n = ⌊x⌋₊

theorem natRounded_self (mode : Nat) (neg : Bool) (n : Nat) : NatRounded mode neg n n :=
  ⟨fun _ => by norm_num, fun _ _ => (Nat.ceil_natCast n).symm, fun _ _ => (Nat.floor_natCast n).symm⟩

section Integer
variable {mode : Nat} {neg : Bool} {x : ℝ} {n : Nat}

/-- An integer is rounded to itself. -/
theorem NatRounded.eq_of_natCast {K : Nat} (h : NatRounded mode neg K n) : n = K := by
  by_cases hm : mode = 0
  · obtain ⟨hlo, hhi⟩ := abs_le.mp (h.nearest hm).1
    have h1 : (n : ℝ) < K + 1 := by linarith
    have h2 : (K : ℝ) < n + 1 := by linarith
    have h1' : n < K + 1 := by exact_mod_cast h1
    have h2' : K < n + 1 := by exact_mod_cast h2
    omega
  · by_cases ha : Away mode neg
    · rw [h.up hm ha, Nat.ceil_natCast]
    · rw [h.down hm ha, Nat.floor_natCast]

/-- Outside round to nearest a magnitude is increased where the mode rounds away and something is left. -/
theorem roundsUp_iff (hmode : mode < 4) (h0 : mode ≠ 0) {N : Nat} {rem : Bool} {half : Int} :
    roundsUp mode neg N rem half = true ↔ rem = true ∧ Away mode neg := by
  match mode, h0, hmode with
  | 1, _, _ => simp [roundsUp, Away]
  | 2, _, _ => simp [roundsUp, Away]
  | 3, _, _ => simp [roundsUp, Away]

/-- `roundsUp` decides between an integer and the next from the fraction `t` above it. -/
theorem natRounded_roundsUp (hmode : mode < 4) {N : Nat} {t : ℝ} {rem : Bool} {half : Int} (h0 : 0 ≤ t) (h1 : t < 1)
    (hrem : rem = true ↔ t ≠ 0) (hlow : half < 0 ↔ t < 1 / 2) (heq : half = 0 ↔ t = 1 / 2) (hhalf : half ≤ 1) :
    NatRounded mode neg (N + t) (N + b2n (roundsUp mode neg N rem half)) := by
  have hfloor : ⌊(N : ℝ) + t⌋₊ = N := by rw [Nat.floor_eq_iff (by positivity)]; constructor <;> linarith
  refine ⟨?nearest, fun hm ha => ?up, fun hm ha => ?down⟩
  case nearest =>
    rintro rfl
    simp only [roundsUp]
    rcases lt_trichotomy t (1 / 2) with h | h | h
    · have hneg := hlow.mpr h
      have hup : (decide (half = 1) || decide (half = 0) && decide (N % 2 = 1)) = false := by simp; omega
      rw [hup, b2n, if_neg (by simp), Nat.add_zero, show (N : ℝ) - (N + t) = -t by ring, abs_neg, abs_of_nonneg h0]
      exact ⟨h.le, fun hc => absurd hc h.ne⟩
    · have hzero := heq.mpr h
      rcases Nat.mod_two_eq_zero_or_one N with hN | hN
      · simp [hzero, hN, b2n, h, abs_of_nonneg]
      · have hdist : |((N + 1 : Nat) : ℝ) - (N + t)| = 1 / 2 := by rw [h]; push_cast; norm_num
        have hup : (decide (half = 1) || decide (half = 0) && decide (N % 2 = 1)) = true := by simp [hzero, hN]
        rw [hup, b2n, if_pos rfl, hdist]
        exact ⟨le_rfl, fun _ => by omega⟩
    · have hone : half = 1 := by have := mt hlow.mp (by linarith); have := mt heq.mp (by linarith); omega
      have hdist : |((N + 1 : Nat) : ℝ) - (N + t)| = 1 - t := by
        push_cast
        rw [show (N : ℝ) + 1 - (N + t) = 1 - t by ring, abs_of_nonneg (by linarith)]
      have hup : (decide (half = 1) || decide (half = 0) && decide (N % 2 = 1)) = true := by simp [hone]
      rw [hup, b2n, if_pos rfl, hdist]
      exact ⟨by linarith, fun hc => by linarith⟩
  case up =>
    by_cases ht : t = 0
    · have hup : ¬roundsUp mode neg N rem half = true := fun hc => hrem.mp ((roundsUp_iff hmode hm).mp hc).1 ht
      rw [b2n, if_neg hup, ht, add_zero, add_zero, Nat.ceil_natCast]
    · have hup : roundsUp mode neg N rem half = true := (roundsUp_iff hmode hm).mpr ⟨hrem.mpr ht, ha⟩
      have hpos := lt_of_le_of_ne h0 (Ne.symm ht)
      rw [b2n, if_pos hup, eq_comm, Nat.ceil_eq_iff (by omega)]
      push_cast [Nat.add_sub_cancel]
      constructor <;> linarith
  case down =>
    have hup : ¬roundsUp mode neg N rem half = true := fun hc => ha ((roundsUp_iff hmode hm).mp hc).2
    rw [b2n, if_neg hup, hfloor, Nat.add_zero]

/-- Nothing is lost where the rounded magnitude is the magnitude. -/
theorem roundsUp_exact_iff (hmode : mode < 4) {N : Nat} {t : ℝ} {rem : Bool} {half : Int} (h0 : 0 ≤ t) (h1 : t < 1)
    (hrem : rem = true ↔ t ≠ 0) (hlow : half < 0 ↔ t < 1 / 2) (heq : half = 0 ↔ t = 1 / 2) (hhalf : half ≤ 1) :
    rem = false ↔ ((N + b2n (roundsUp mode neg N rem half) : Nat) : ℝ) = N + t := by
  have hround := natRounded_roundsUp (neg := neg) hmode (N := N) h0 h1 hrem hlow heq hhalf
  rw [← Bool.not_eq_true, hrem, not_not]
  generalize b2n (roundsUp mode neg N rem half) = b at hround
  refine ⟨fun ht => ?_, fun hc => ?_⟩
  · rw [ht, add_zero] at hround ⊢
    exact_mod_cast hround.eq_of_natCast
  · have hb : ((N + b : Nat) : ℝ) < (N + 1 : Nat) := by rw [hc]; push_cast; linarith
    obtain rfl : b = 0 := by have := Nat.cast_lt.mp hb; omega
    simpa using hc.symm

/-- The magnitude `x` exceeds the integer `K` once it is rounded in the mode. -/
def Exceeds (mode : Nat) (neg : Bool) (x : ℝ) (K : Nat) : Prop :=
  (mode = 0 ∧ ((K : ℝ) + 1 / 2 < x ∨ (x = K + 1 / 2 ∧ K % 2 = 1))) ∨ (mode ≠ 0 ∧ Away mode neg ∧ (K : ℝ) < x) ∨
    (mode ≠ 0 ∧ ¬Away mode neg ∧ (K : ℝ) + 1 ≤ x)

theorem Exceeds.lt {K : Nat} (h : Exceeds mode neg x K) : (K : ℝ) < x := by
  rcases h with ⟨-, h | ⟨h, -⟩⟩ | ⟨-, -, h⟩ | ⟨-, -, h⟩ <;> linarith

theorem exceeds_of_le {K : Nat} (h : (K : ℝ) + 1 ≤ x) : Exceeds mode neg x K := by
  by_cases hm : mode = 0
  · exact .inl ⟨hm, .inl (by linarith)⟩
  · by_cases ha : Away mode neg
    · exact .inr (.inl ⟨hm, ha, by linarith⟩)
    · exact .inr (.inr ⟨hm, ha, h⟩)

/-- A rounded magnitude exceeds an integer where the magnitude does. -/
theorem NatRounded.lt_iff (h : NatRounded mode neg x n) (hx : 0 ≤ x) (K : Nat) : K < n ↔ Exceeds mode neg x K := by
  rw [Exceeds]
  by_cases hm : mode = 0
  · obtain ⟨hle, htie⟩ := h.nearest hm
    obtain ⟨hlo, hhi⟩ := abs_le.mp hle
    simp only [hm, true_and, ne_eq, not_true_eq_false, false_and, or_false]
    constructor
    · intro hK
      have hK' : (K : ℝ) + 1 ≤ n := by exact_mod_cast hK
      rcases lt_or_eq_of_le (show (K : ℝ) + 1 / 2 ≤ x by linarith) with hlt | heq
      · exact .inl hlt
      · have hn : n = K + 1 := by
          have : (n : ℝ) < K + 2 := by linarith
          have : n < K + 2 := by exact_mod_cast this
          omega
        refine .inr ⟨heq.symm, ?_⟩
        have := htie (by rw [hn, ← heq]; push_cast; norm_num)
        omega
    · rintro (hlt | ⟨heq, hodd⟩)
      · have : (K : ℝ) < n := by linarith
        exact_mod_cast this
      · have hge : (K : ℝ) ≤ n := by linarith
        rcases Nat.lt_or_eq_of_le (Nat.cast_le.mp hge) with hlt | rfl
        · exact hlt
        · have := htie (by rw [heq]; norm_num)
          omega
  · by_cases ha : Away mode neg
    · simp [hm, ha, h.up hm ha, Nat.lt_ceil]
    · rw [h.down hm ha, ← Nat.add_one_le_iff, Nat.le_floor_iff hx]
      simp [hm, ha]

theorem NatRounded.le_of_le (h : NatRounded mode neg x n) (hx : 0 ≤ x) {K : Nat} (hK : x ≤ K) : n ≤ K :=
  not_lt.mp fun hc => absurd ((h.lt_iff hx K).mp hc).lt (not_lt.mpr hK)

theorem NatRounded.ge_of_ge (h : NatRounded mode neg x n) (hx : 0 ≤ x) {K : Nat} (hK : (K : ℝ) ≤ x) : K ≤ n := by
  cases K with
  | zero => exact Nat.zero_le n
  | succ K => exact (h.lt_iff hx K).mpr (exceeds_of_le (by push_cast at hK; exact hK))

/-- With its sign, a rounded magnitude is the rounded value (R95). -/
theorem NatRounded.intRounded (h : NatRounded mode neg x n) (hx : 0 ≤ x) :
    IntRounded mode ((if neg then -1 else 1) * x) ((if neg then -1 else 1) * n) := by
  have hfloor := Int.natCast_floor_eq_floor hx
  have hceil := Int.natCast_ceil_eq_ceil hx
  cases neg with
  | false =>
    have hw : ((if false = true then -1 else 1) * n : Int) = n := by simp
    have hv : ((if false = true then -1 else 1) * x : ℝ) = x := by simp
    rw [hw, hv]
    refine ⟨fun hm => ?_, fun hm => ?_, fun hm => ?_, fun hm => ?_⟩
    · obtain ⟨hle, htie⟩ := h.nearest hm
      exact ⟨by exact_mod_cast hle, fun hc => by exact_mod_cast htie (by exact_mod_cast hc)⟩
    · rw [h.down (by omega) (by simp [Away, hm])]
      exact ⟨fun _ => hfloor, fun hc => absurd hx (not_le.mpr hc)⟩
    · rw [h.up (by omega) (by simp [Away, hm]), hceil]
    · rw [h.down (by omega) (by simp [Away, hm]), hfloor]
  | true =>
    have hw : ((if true = true then -1 else 1) * n : Int) = -n := by simp
    have hv : ((if true = true then -1 else 1) * x : ℝ) = -x := by simp
    rw [hw, hv]
    refine ⟨fun hm => ?_, fun hm => ?_, fun hm => ?_, fun hm => ?_⟩
    · obtain ⟨hle, htie⟩ := h.nearest hm
      have habs : |((-(n : Int) : Int) : ℝ) - -x| = |(n : ℝ) - x| := by push_cast; rw [← abs_neg]; ring_nf
      rw [habs]
      exact ⟨hle, fun hc => by have := htie hc; omega⟩
    · rw [h.down (by omega) (by simp [Away, hm]), hfloor, Int.ceil_neg]
      refine ⟨fun hc => ?_, fun _ => rfl⟩
      rw [le_antisymm (by linarith) hx]
      simp
    · rw [h.down (by omega) (by simp [Away, hm]), hfloor, Int.ceil_neg]
    · rw [h.up (by omega) (by simp [Away, hm]), hceil, Int.floor_neg]

end Integer

/-! ### Cutting a magnitude at a power of two -/

/-- The magnitude `u` is `m · 2^q`, or where `sticky` lies strictly between it and the next multiple of 2^q. -/
structure Sliver (m : Nat) (q : Int) (sticky : Bool) (u : ℝ) : Prop where
  le : (m : ℝ) * 2 ^ q ≤ u
  lt : u < ((m : ℝ) + 1) * 2 ^ q
  exact_iff : sticky = false ↔ u = m * 2 ^ q

theorem sliver_exact (m : Nat) (q : Int) : Sliver m q false (m * 2 ^ q) :=
  ⟨le_rfl, mul_lt_mul_of_pos_right (by linarith) (by positivity), by simp⟩

/-- The part of a step that a sliver adds. -/
theorem Sliver.exists_part {m : Nat} {q : Int} {sticky : Bool} {u : ℝ} (h : Sliver m q sticky u) :
    ∃ p : ℝ, 0 ≤ p ∧ p < 1 ∧ (sticky = false ↔ p = 0) ∧ u = (m + p) * 2 ^ q := by
  have hq : (0 : ℝ) < 2 ^ q := by positivity
  refine ⟨u / 2 ^ q - m, ?_, ?_, ?_, by rw [add_sub_cancel, div_mul_cancel₀ _ hq.ne']⟩
  · rw [sub_nonneg, le_div_iff₀ hq]; exact h.le
  · rw [sub_lt_iff_lt_add', div_lt_iff₀ hq]; exact h.lt
  · rw [h.exact_iff, sub_eq_zero, div_eq_iff hq.ne']

/-- The fraction that a remainder `r` and a part `p` of its last step leave, against 0, 1 and one half. -/
theorem fraction_facts {k r : Nat} {p : ℝ} (hr : r < 2 ^ (k + 1)) (hp0 : 0 ≤ p) (hp1 : p < 1) :
    0 ≤ ((r : ℝ) + p) / 2 ^ (k + 1) ∧ ((r : ℝ) + p) / 2 ^ (k + 1) < 1 ∧
      (((r : ℝ) + p) / 2 ^ (k + 1) = 0 ↔ r = 0 ∧ p = 0) ∧ (((r : ℝ) + p) / 2 ^ (k + 1) < 1 / 2 ↔ r < 2 ^ k) ∧
      (((r : ℝ) + p) / 2 ^ (k + 1) = 1 / 2 ↔ r = 2 ^ k ∧ p = 0) := by
  have hpow : (0 : ℝ) < 2 ^ (k + 1) := by positivity
  have hr0 : (0 : ℝ) ≤ r := Nat.cast_nonneg r
  have hsucc : ∀ n : Nat, r < n → (r : ℝ) + 1 ≤ n := fun n h => by exact_mod_cast h
  have hhalf : (1 : ℝ) / 2 * 2 ^ (k + 1) = ((2 ^ k : Nat) : ℝ) := by push_cast; rw [pow_succ]; ring
  have hlt : (r : ℝ) + p < ((2 ^ k : Nat) : ℝ) ↔ r < 2 ^ k :=
    ⟨fun h => by exact_mod_cast (show (r : ℝ) < ((2 ^ k : Nat) : ℝ) by linarith), fun h => by have := hsucc _ h; linarith⟩
  refine ⟨by positivity, ?_, ?_, ?_, ?_⟩
  · rw [div_lt_one hpow]
    have := hsucc _ hr
    push_cast at this
    linarith
  · rw [div_eq_zero_iff, or_iff_left hpow.ne']
    refine ⟨fun h => ⟨?_, by linarith⟩, fun ⟨h1, h2⟩ => by rw [h1, h2]; simp⟩
    exact_mod_cast (show (r : ℝ) = 0 by linarith)
  · rw [div_lt_iff₀ hpow, hhalf, hlt]
  · rw [div_eq_iff hpow.ne', hhalf]
    refine ⟨fun h => ?_, fun ⟨h1, h2⟩ => by rw [h1, h2, add_zero]⟩
    have hge : ¬r < 2 ^ k := fun hc => (hlt.mpr hc).ne h
    have hle : ¬2 ^ k < r := fun hc => by
      have : (((2 ^ k : Nat) : ℝ)) < r := by exact_mod_cast hc
      linarith
    have heq : r = 2 ^ k := by omega
    rw [heq] at h
    exact ⟨heq, by linarith⟩

/-- The side of one half on which a remainder `r` of k + 1 bits and a sliver lie. -/
def halfSide (k r : Nat) (sticky : Bool) : Int := if r < 2 ^ k then -1 else if r = 2 ^ k ∧ sticky = false then 0 else 1

theorem halfSide_spec (k r : Nat) (sticky : Bool) : (halfSide k r sticky < 0 ↔ r < 2 ^ k) ∧
    (halfSide k r sticky = 0 ↔ r = 2 ^ k ∧ sticky = false) ∧ halfSide k r sticky ≤ 1 := by
  unfold halfSide
  by_cases hlt : r < 2 ^ k
  · simp [hlt, hlt.ne]
  · by_cases heq : r = 2 ^ k ∧ sticky = false
    · simp [heq]
    · simp [hlt, heq]

/-- Cutting at 2^q' rounds to a whole number of steps, and reports whether anything was lost. -/
theorem cutAt_spec {mode : Nat} (hmode : mode < 4) (neg : Bool) {m : Nat} {q q' : Int} {sticky : Bool} {u : ℝ}
    (h : Sliver m q sticky u) (hq : sticky = true → q < q') :
    NatRounded mode neg (u / 2 ^ q') (cutAt mode neg m q q' sticky).1 ∧
      ((cutAt mode neg m q q' sticky).2 = false ↔ ((cutAt mode neg m q q' sticky).1 : ℝ) = u / 2 ^ q') := by
  rw [cutAt]
  split
  · next hle =>
    have hexact : sticky = false := by
      cases hst : sticky with
      | false => rfl
      | true => exact absurd (hq hst) (by omega)
    have hx : u / 2 ^ q' = ((m * 2 ^ (q - q').toNat : Nat) : ℝ) := by
      rw [h.exact_iff.mp hexact, mul_div_assoc, ← zpow_sub₀ two_ne_zero]
      push_cast
      rw [← zpow_natCast, Int.toNat_of_nonneg (by omega)]
    rw [hx]
    exact ⟨natRounded_self _ _ _, by simp [hexact]⟩
  · next hlt =>
    obtain ⟨k, hk⟩ : ∃ k : Nat, (q' - q).toNat = k + 1 := ⟨(q' - q).toNat - 1, by omega⟩
    obtain ⟨p, hp0, hp1, hpz, hu⟩ := h.exists_part
    have hstep : (2 : ℝ) ^ q' = 2 ^ q * 2 ^ (k + 1) := by
      rw [← zpow_natCast, ← zpow_add₀ two_ne_zero]
      congr 1; omega
    simp only [hk, Nat.add_sub_cancel]
    have hx : u / 2 ^ q' = ((m / 2 ^ (k + 1) : Nat) : ℝ) + (((m % 2 ^ (k + 1) : Nat) : ℝ) + p) / 2 ^ (k + 1) := by
      have hm : (m : ℝ) = 2 ^ (k + 1) * ((m / 2 ^ (k + 1) : Nat) : ℝ) + ((m % 2 ^ (k + 1) : Nat) : ℝ) := by
        exact_mod_cast (Nat.div_add_mod m (2 ^ (k + 1))).symm
      rw [hstep, hu, mul_comm, mul_div_mul_left _ _ (by positivity), eq_comm]
      conv_rhs => rw [hm]
      field_simp
      ring
    have hr : m % 2 ^ (k + 1) < 2 ^ (k + 1) := Nat.mod_lt _ (Nat.two_pow_pos _)
    rw [hx]
    generalize m / 2 ^ (k + 1) = N
    generalize m % 2 ^ (k + 1) = r at hr
    obtain ⟨h0, h1, hz, hlow, heq⟩ := fraction_facts hr hp0 hp1
    generalize ((r : ℝ) + p) / 2 ^ (k + 1) = t at h0 h1 hz hlow heq
    have hrem : (decide (r ≠ 0) || sticky) = true ↔ t ≠ 0 := by
      rw [ne_eq t 0, hz, ← hpz]
      cases sticky <;> simp
    obtain ⟨hneg, hzero, hle⟩ := halfSide_spec k r sticky
    rw [hpz, ← heq] at hzero
    rw [← hlow] at hneg
    exact ⟨natRounded_roundsUp hmode h0 h1 hrem hneg hzero hle, roundsUp_exact_iff hmode h0 h1 hrem hneg hzero hle⟩

end Sys2Proof.Machine.Rounding
end

section
/-! One rounding to a format (R95 to R97): `Fmt.roundNZ` gives the correctly rounded value of a magnitude, with its flags, and overflows
exactly where R96 says. -/

namespace Sys2Proof.Machine.Rounding

open FloatFormat

/-! ### The rounded value among others (R95) -/

/-- Against the candidate `z`, the value `y` is `v` rounded in the mode; `even` where two candidates are equally near. -/
structure RoundsTo (mode : Nat) (v y z : ℝ) (even : Prop) : Prop where
  nearest : mode = 0 → |y - v| ≤ |z - v| ∧ (|z - v| = |y - v| → z ≠ y → even)
  zero : mode = 1 → |y| ≤ |v| ∧ (|z| ≤ |v| → |z| ≤ |y|)
  up : mode = 2 → v ≤ y ∧ (v ≤ z → y ≤ z)
  down : mode = 3 → y ≤ v ∧ (z ≤ v → z ≤ y)

/-- A candidate is an integer, or smaller in magnitude than an integer that does not exceed the value's magnitude. -/
def OnGrid (x z : ℝ) : Prop := (∃ j : ℤ, z = j) ∨ ∃ j : ℤ, |z| < j ∧ (j : ℝ) ≤ |x|

theorem RoundsTo.scale {mode : Nat} {v y z c : ℝ} {even : Prop} (hc : 0 < c) (h : RoundsTo mode v y z even) :
    RoundsTo mode (v * c) (y * c) (z * c) even := by
  have habs : ∀ a b : ℝ, |a * c - b * c| = |a - b| * c := fun a b => by rw [← sub_mul, abs_mul, abs_of_pos hc]
  have hmul : ∀ a : ℝ, |a * c| = |a| * c := fun a => by rw [abs_mul, abs_of_pos hc]
  have hle : ∀ a b : ℝ, a * c ≤ b * c ↔ a ≤ b := fun a b => mul_le_mul_iff_left₀ hc
  have heq : ∀ a b : ℝ, a * c = b * c ↔ a = b := fun a b => mul_left_inj' hc.ne'
  refine ⟨fun hm => ?_, fun hm => ?_, fun hm => ?_, fun hm => ?_⟩
  · simpa only [habs, hle, heq, ne_eq] using h.nearest hm
  · simpa only [hmul, hle] using h.zero hm
  · simpa only [hle] using h.up hm
  · simpa only [hle] using h.down hm

section Grid
variable {mode : Nat} {x z : ℝ} {w : ℤ}

/-- An integer within one half is at least as near as any other integer. -/
theorem abs_sub_le_of_half (h : |(w : ℝ) - x| ≤ 1 / 2) (j : ℤ) : |(w : ℝ) - x| ≤ |(j : ℝ) - x| ∧
    (|(j : ℝ) - x| = |(w : ℝ) - x| → j ≠ w → |(w : ℝ) - x| = 1 / 2) := by
  by_cases hj : j = w
  · subst hj; exact ⟨le_rfl, fun _ hc => absurd rfl hc⟩
  · have hdist : (1 : ℝ) ≤ |(j : ℝ) - w| := by exact_mod_cast Int.one_le_abs (sub_ne_zero.mpr hj)
    have htri : |(j : ℝ) - w| ≤ |(j : ℝ) - x| + |(w : ℝ) - x| := by
      have := abs_sub_le (j : ℝ) x w
      rwa [abs_sub_comm x w] at this
    exact ⟨by linarith, fun he _ => by linarith⟩

/-- The integer `w` to which `x` rounds is the rounded value among integers and smaller candidates. -/
theorem roundsTo_of_intRounded (h : IntRounded mode x w) (hz : OnGrid x z) : RoundsTo mode x w z (w % 2 = 0) := by
  obtain ⟨hnear, hzero, hup, hdown⟩ := h
  refine ⟨fun hm => ?_, fun hm => ?_, fun hm => ?_, fun hm => ?_⟩
  · obtain ⟨hle, htie⟩ := hnear hm
    rcases hz with ⟨j, rfl⟩ | ⟨j, hj, hx⟩
    · obtain ⟨h1, h2⟩ := abs_sub_le_of_half hle j
      exact ⟨h1, fun he hne => htie (h2 he fun hc => hne (by rw [hc]))⟩
    · have hlt : |(w : ℝ) - x| < |z - x| := by
        obtain ⟨hz1, hz2⟩ := abs_lt.mp hj
        rcases le_total 0 x with h0 | h0
        · rw [abs_of_nonneg h0] at hx
          refine lt_of_le_of_lt (abs_sub_le_of_half hle j).1 ?_
          rw [abs_of_nonpos (by linarith), abs_of_nonpos (by linarith)]
          linarith
        · rw [abs_of_nonpos h0] at hx
          refine lt_of_le_of_lt (abs_sub_le_of_half hle (-j)).1 ?_
          push_cast
          rw [abs_of_nonneg (by linarith), abs_of_nonneg (by linarith)]
          linarith
      exact ⟨hlt.le, fun he => absurd he hlt.ne'⟩
  · have hw : |(w : ℝ)| = ((⌊|x|⌋ : ℤ) : ℝ) := by
      rcases le_or_gt 0 x with h0 | h0
      · rw [(hzero hm).1 h0, abs_of_nonneg h0, abs_of_nonneg (by exact_mod_cast Int.floor_nonneg.mpr h0)]
      · have hc : ⌈x⌉ ≤ 0 := Int.ceil_le.mpr (by simpa using h0.le)
        rw [(hzero hm).2 h0, abs_of_neg h0, Int.floor_neg, abs_of_nonpos (by exact_mod_cast hc)]
        push_cast; rfl
    rw [hw]
    refine ⟨Int.floor_le _, fun hzx => ?_⟩
    rcases hz with ⟨j, rfl⟩ | ⟨j, hj, hx⟩
    · rw [← Int.cast_abs] at hzx ⊢
      exact_mod_cast Int.le_floor.mpr hzx
    · exact hj.le.trans (by exact_mod_cast Int.le_floor.mpr hx)
  · rw [hup hm]
    refine ⟨Int.le_ceil x, fun hxz => ?_⟩
    rcases hz with ⟨j, rfl⟩ | ⟨j, hj, hx⟩
    · exact_mod_cast Int.ceil_le.mpr hxz
    · obtain ⟨hz1, hz2⟩ := abs_lt.mp hj
      have hxj : x ≤ ((-j : ℤ) : ℝ) := by
        rcases le_abs'.mp hx with h | h
        · push_cast; exact h
        · linarith
      have hle : (⌈x⌉ : ℝ) ≤ ((-j : ℤ) : ℝ) := by exact_mod_cast Int.ceil_le.mpr hxj
      push_cast at hle
      linarith
  · rw [hdown hm]
    refine ⟨Int.floor_le x, fun hxz => ?_⟩
    rcases hz with ⟨j, rfl⟩ | ⟨j, hj, hx⟩
    · exact_mod_cast Int.le_floor.mpr hxz
    · obtain ⟨hz1, hz2⟩ := abs_lt.mp hj
      have hxj : (j : ℝ) ≤ x := by
        rcases le_abs'.mp hx with h | h
        · linarith
        · exact h
      have hle : (j : ℝ) ≤ (⌊x⌋ : ℝ) := by exact_mod_cast Int.le_floor.mpr hxj
      linarith

end Grid

/-! ### The values of a format in steps of the result -/

section Format
variable {F : Fmt}

/-- In steps of 2^q' every finite value is an integer, or smaller than 2^f of them where q' is not the least exponent. -/
theorem finite_onGrid (hF : Shape F) {b : Nat} {z v : ℝ} (h : F.Finite b z) {q' : Int}
    (hv : q' ≠ F.qmin → 2 ^ ((F.f : Int) + q') ≤ |v|) : OnGrid (v / 2 ^ q') (z / 2 ^ q') := by
  obtain ⟨hb, n, m, q, hval, rfl⟩ := h
  obtain ⟨hcan, -⟩ := canonical_of_val hF hb hval
  have hq : (0 : ℝ) < 2 ^ q' := by positivity
  rw [real_fin]
  rcases le_or_gt q' q with hle | hlt
  · left
    refine ⟨(if n then -1 else 1) * (m * 2 ^ (q - q').toNat), ?_⟩
    rw [mul_div_assoc, mul_div_assoc, ← zpow_sub₀ two_ne_zero]
    push_cast
    rw [← zpow_natCast, Int.toNat_of_nonneg (by omega)]
  · right
    refine ⟨2 ^ F.f, ?_, ?_⟩
    · have hm := mul_zpow_lt (q := q) hcan.lt
      have hsign : |(if n then -1 else 1 : ℝ)| = 1 := by cases n <;> simp
      rw [abs_div, abs_of_pos hq, abs_mul, hsign, one_mul, abs_of_nonneg (by positivity), div_lt_iff₀ hq]
      refine hm.trans_le ?_
      push_cast
      rw [← zpow_natCast, ← zpow_add₀ two_ne_zero]
      exact zpow_two_le (by omega)
    · have := hv (by have := hcan.qmin_le; omega)
      push_cast
      rw [abs_div, abs_of_pos hq, le_div_iff₀ hq, ← zpow_natCast, ← zpow_add₀ two_ne_zero]
      exact this

/-! ### Overflow and tininess (R96, R97) -/

section Limits
variable {mode : Nat} {neg : Bool} {u : ℝ}

theorem signed_neg_iff (hu : 0 < u) : (if neg then -1 else 1 : ℝ) * u < 0 ↔ neg = true := by
  cases neg <;> simp [hu, hu.le]

theorem abs_signed (hu : 0 ≤ u) : |(if neg then -1 else 1 : ℝ) * u| = u := by
  cases neg <;> simp [abs_of_nonneg hu]

theorem roundsAway_signed (hu : 0 < u) : roundsAway mode ((if neg then -1 else 1) * u) ↔ Away mode neg := by
  cases neg <;> simp [roundsAway, Away, hu, hu.le]

theorem largest_eq (F : Fmt) : F.largest = (F.maxM : ℝ) * F.topStep := rfl

/-- A magnitude overflows where, in top steps, it rounds beyond the largest significand. -/
theorem overflows_iff (hu : 0 < u) :
    F.Overflows mode ((if neg then -1 else 1) * u) ↔ Exceeds mode neg (u / 2 ^ F.maxQ) F.maxM := by
  have hT : (0 : ℝ) < 2 ^ F.maxQ := by positivity
  have h1 : F.largest + F.topStep / 2 = ((F.maxM : ℝ) + 1 / 2) * 2 ^ F.maxQ := by rw [largest_eq, Fmt.topStep]; ring
  have h2 : F.largest + F.topStep = ((F.maxM : ℝ) + 1) * 2 ^ F.maxQ := by rw [largest_eq, Fmt.topStep]; ring
  rw [Fmt.Overflows, Exceeds, roundsAway_signed hu, abs_signed hu.le, lt_div_iff₀ hT, lt_div_iff₀ hT, le_div_iff₀ hT,
    div_eq_iff hT.ne', h1, h2, largest_eq, Fmt.topStep]

/-- A magnitude is tiny where, in half steps of the subnormals, it does not round to the smallest normal. -/
theorem tiny_iff (hu : 0 < u) :
    F.Tiny mode ((if neg then -1 else 1) * u) ↔ ¬Exceeds mode neg (u / 2 ^ (F.qmin - 1)) (2 ^ (F.f + 1) - 1) := by
  have hS : (0 : ℝ) < 2 ^ (F.qmin - 1) := by positivity
  have hK : ((2 ^ (F.f + 1) - 1 : Nat) : ℝ) = 2 ^ (F.f + 1) - 1 := by
    rw [Nat.cast_sub Nat.one_le_two_pow]; push_cast; rfl
  have hodd : (2 ^ (F.f + 1) - 1) % 2 = 1 := by rw [pow_succ]; have := Nat.two_pow_pos F.f; omega
  have hleast : F.leastNormal = 2 ^ (F.f + 1) * 2 ^ (F.qmin - 1) := by
    rw [Fmt.leastNormal, ← zpow_natCast, ← zpow_add₀ two_ne_zero]; congr 1; push_cast; ring
  have hquarter : (2 : ℝ) ^ (F.qmin - 2) = 2 ^ (F.qmin - 1) / 2 := by
    rw [show F.qmin - 2 = F.qmin - 1 - 1 by ring, zpow_sub_one₀ two_ne_zero, div_eq_mul_inv]
  rw [Fmt.Tiny, Exceeds, roundsAway_signed hu, abs_signed hu.le, hK, hodd, hleast, hquarter]
  generalize (2 : ℝ) ^ (F.qmin - 1) = S at hS
  generalize (2 : ℝ) ^ (F.f + 1) = P
  rw [lt_div_iff₀ hS, lt_div_iff₀ hS, le_div_iff₀ hS, div_eq_iff hS.ne']
  by_cases hm : mode = 0
  · simp only [hm, true_and, and_true, ne_eq, not_true_eq_false, false_and, or_false, ← le_iff_lt_or_eq', not_le]
    rw [show (P - 1 + 1 / 2) * S = P * S - S / 2 by ring]
  · by_cases ha : Away mode neg
    · simp only [hm, ha, ne_eq, not_false_eq_true, true_and, false_and, false_or, or_false, not_true_eq_false, not_lt]
      rw [sub_mul, one_mul]
    · simp only [hm, ha, ne_eq, not_false_eq_true, true_and, false_and, false_or, not_le, sub_add_cancel]

end Limits

/-! ### The steps of a result -/

/-- The exponent of the last bit of a magnitude cut to the format's precision. -/
def unitExp (F : Fmt) (m : Nat) (q : Int) : Int := q + (Nat.log2 m + 1 : Nat) - ((F.f : Int) + 1)

/-- The exponent at which a magnitude is cut: that of the subnormals where the unbounded one lies below it. -/
def stepExp (F : Fmt) (m : Nat) (q : Int) : Int := if unitExp F m q < F.qmin then F.qmin else unitExp F m q

/-- The exponent and fraction fields of `n` steps of 2^q' with a carry into the next exponent. -/
def stepBits (F : Fmt) (n : Nat) (q' : Int) : Nat :=
  if n < 2 ^ F.f then n
  else if n = 2 ^ (F.f + 1) then (q' - F.qmin + 2).toNat * 2 ^ F.f
  else (q' - F.qmin + 1).toNat * 2 ^ F.f + (n - 2 ^ F.f)

/-- The rounding of the model, with its parts named. -/
theorem roundNZ_eq (F : Fmt) (mode : Nat) (sat neg : Bool) (m : Nat) (q : Int) (sticky : Bool) :
    F.roundNZ mode sat neg m q sticky =
      let c := cutAt mode neg m q (stepExp F m q) sticky
      if F.maxQ < stepExp F m q ∨ (stepExp F m q = F.maxQ ∧ F.maxM < c.1) then F.overflow mode sat neg
      else (F.sign neg + stepBits F c.1 (stepExp F m q), (if c.2 then fNX else 0) |||
        (if c.2 && decide (unitExp F m q + (F.f : Int) + (if (cutAt mode neg m q (unitExp F m q) sticky).1 = 2 ^ (F.f + 1) then 1 else 0)
          < F.qmin + (F.f : Int)) then fUF else 0)) := rfl

/-- `n` steps within range are a canonical magnitude. -/
theorem exists_canonical (hF : Shape F) {n : Nat} {q' : Int} (hn : n ≤ 2 ^ (F.f + 1)) (hmin : F.qmin ≤ q')
    (hnormal : q' = F.qmin ∨ 2 ^ F.f ≤ n) (hover : ¬(F.maxQ < q' ∨ (q' = F.maxQ ∧ F.maxM < n))) (neg : Bool) :
    ∃ m q, Canonical F m q ∧ F.sign neg + stepBits F n q' = encodeFin F neg m q ∧ (m : ℝ) * 2 ^ q = n * 2 ^ q' ∧
      m % 2 = n % 2 := by
  rw [not_or, not_lt, not_and, not_lt] at hover
  obtain ⟨hmax, hmaxM⟩ := hover
  have hlast := canonical_max hF
  have hf : 2 ∣ 2 ^ F.f := dvd_pow_self 2 (by have := hF.two_le_f; omega)
  by_cases hcarry : n = 2 ^ (F.f + 1)
  · have hpow : 2 ^ (F.f + 1) = 2 * 2 ^ F.f := by rw [pow_succ, Nat.mul_comm]
    have hpos := Nat.two_pow_pos F.f
    have hlt : q' ≠ F.maxQ := fun hc => by have := hmaxM hc; have := hlast.lt; omega
    refine ⟨2 ^ F.f, q' + 1, ⟨by omega, by omega, .inr le_rfl, by omega, fun _ => ?_⟩, ?_, ?_, by omega⟩
    · exact hlast.normal.resolve_left (by have := hF.qmin_lt_maxQ; omega)
    · rw [stepBits, if_neg (by omega), if_pos hcarry, encodeFin, if_neg (lt_irrefl _), Nat.sub_self, Nat.add_zero]
      congr 3; omega
    · rw [hcarry, zpow_add₀ two_ne_zero]; push_cast; ring
  · refine ⟨n, q', ⟨by omega, hmin, hnormal, hmax, hmaxM⟩, ?_, rfl, rfl⟩
    rw [stepBits, encodeFin, if_neg hcarry]

section Magnitude
variable {m : Nat} {q : Int} {sticky : Bool} {u : ℝ}

theorem le_unit (hm : m ≠ 0) (h : Sliver m q sticky u) : 2 ^ ((F.f : Int) + unitExp F m q) ≤ u := by
  have hle := le_mul_zpow (q := q) (Nat.log2_self_le hm)
  refine le_trans (zpow_two_le ?_) (hle.trans h.le)
  rw [unitExp]; push_cast; omega

theorem lt_unit (h : Sliver m q sticky u) : u < 2 ^ ((F.f : Int) + 1 + unitExp F m q) := by
  have hlt : (m : ℝ) + 1 ≤ 2 ^ (Nat.log2 m + 1) := by exact_mod_cast Nat.lt_log2_self (n := m)
  calc u < ((m : ℝ) + 1) * 2 ^ q := h.lt
    _ ≤ 2 ^ (Nat.log2 m + 1) * 2 ^ q := mul_le_mul_of_nonneg_right hlt (by positivity)
    _ = 2 ^ ((F.f : Int) + 1 + unitExp F m q) := by
      rw [← zpow_natCast, ← zpow_add₀ two_ne_zero, unitExp]
      congr 1; omega

theorem sliver_pos (hm : m ≠ 0) (h : Sliver m q sticky u) : 0 < u :=
  lt_of_lt_of_le (by have : (0 : ℝ) < m := by exact_mod_cast Nat.pos_of_ne_zero hm
                     positivity) h.le

/-- A magnitude with a sliver has digits to spare below its unit. -/
theorem lt_unitExp (h : 2 ^ (F.f + 2) ≤ m) : q < unitExp F m q := by
  have : F.f + 2 ≤ Nat.log2 m := (Nat.le_log2 (by have := Nat.two_pow_pos (F.f + 2); omega)).mpr h
  rw [unitExp]; omega

end Magnitude

/-! ### One rounding -/

section Once
variable {mode : Nat} {neg sat : Bool} {u : ℝ}

/-- The result leaves the range where the magnitude overflows (R96). -/
theorem beyond_max_iff (hF : Shape F) {n : Nat} {q' : Int} (hn : NatRounded mode neg (u / 2 ^ q') n) (hu : 0 < u)
    (hlt : u < 2 ^ ((F.f : Int) + 1 + q')) (hge : q' ≠ F.qmin → 2 ^ ((F.f : Int) + q') ≤ u) :
    (F.maxQ < q' ∨ (q' = F.maxQ ∧ F.maxM < n)) ↔ F.Overflows mode ((if neg then -1 else 1) * u) := by
  have hlast := canonical_max hF
  have hT : (0 : ℝ) < 2 ^ F.maxQ := by positivity
  have hmin := hF.qmin_lt_maxQ
  rw [overflows_iff hu]
  rcases lt_trichotomy q' F.maxQ with hq | rfl | hq
  · have hfull := le_mul_zpow (q := F.maxQ) (hlast.normal.resolve_left (by omega))
    have hsmall : u < F.maxM * 2 ^ F.maxQ := (hlt.trans_le (zpow_two_le (by omega))).trans_le hfull
    refine iff_of_false (by omega) fun hc => ?_
    exact absurd hc.lt (not_lt.mpr ((div_le_iff₀ hT).mpr hsmall.le))
  · rw [← hn.lt_iff (by positivity)]
    simp
  · refine iff_of_true (.inl hq) (exceeds_of_le ?_)
    have hM : ((F.maxM : ℝ) + 1) ≤ 2 ^ (F.f + 1) := by exact_mod_cast hlast.lt
    rw [le_div_iff₀ hT]
    calc ((F.maxM : ℝ) + 1) * 2 ^ F.maxQ ≤ 2 ^ (F.f + 1) * 2 ^ F.maxQ := mul_le_mul_of_nonneg_right hM hT.le
      _ = 2 ^ ((F.f : Int) + 1 + F.maxQ) := by rw [← zpow_natCast, ← zpow_add₀ two_ne_zero]; push_cast; rfl
      _ ≤ 2 ^ ((F.f : Int) + q') := zpow_two_le (by omega)
      _ ≤ u := hge (by omega)

/-- The result at unbounded exponent lies below the smallest normal where the magnitude is tiny (R97). -/
theorem below_normal_iff {n : Nat} {qn : Int} (hn : NatRounded mode neg (u / 2 ^ qn) n) (hu : 0 < u)
    (hlt : u < 2 ^ ((F.f : Int) + 1 + qn)) (hge : 2 ^ ((F.f : Int) + qn) ≤ u) :
    qn + (F.f : Int) + (if n = 2 ^ (F.f + 1) then 1 else 0) < F.qmin + (F.f : Int) ↔ F.Tiny mode ((if neg then -1 else 1) * u) := by
  have hS : (0 : ℝ) < 2 ^ (F.qmin - 1) := by positivity
  have hK : ((2 ^ (F.f + 1) - 1 : Nat) : ℝ) + 1 = 2 ^ ((F.f : Int) + 1) := by
    rw [Nat.cast_sub Nat.one_le_two_pow]; push_cast; rw [sub_add_cancel, ← zpow_natCast]; push_cast; rfl
  have hpow : 2 ^ (F.f + 1) = 2 * 2 ^ F.f := by rw [pow_succ, Nat.mul_comm]
  rw [tiny_iff hu]
  rcases lt_trichotomy qn (F.qmin - 1) with hq | rfl | hq
  · refine iff_of_true (by split <;> omega) fun hc => ?_
    have h1 := hc.lt
    rw [lt_div_iff₀ hS] at h1
    have h2 : 2 ^ ((F.f : Int)) * 2 ^ (F.qmin - 1) ≤ ((2 ^ (F.f + 1) - 1 : Nat) : ℝ) * 2 ^ (F.qmin - 1) := by
      refine mul_le_mul_of_nonneg_right ?_ hS.le
      rw [zpow_natCast]
      exact_mod_cast (show 2 ^ F.f ≤ 2 ^ (F.f + 1) - 1 by have := Nat.two_pow_pos F.f; omega)
    rw [← zpow_add₀ two_ne_zero] at h2
    have h3 : (2 : ℝ) ^ ((F.f : Int) + 1 + qn) ≤ 2 ^ ((F.f : Int) + (F.qmin - 1)) := zpow_two_le (by omega)
    linarith
  · rw [← hn.lt_iff (by positivity)]
    have hle : n ≤ 2 ^ (F.f + 1) := hn.le_of_le (by positivity) (by
      rw [div_le_iff₀ hS]; push_cast; rw [← zpow_natCast, ← zpow_add₀ two_ne_zero]; exact_mod_cast hlt.le)
    have hpos := Nat.two_pow_pos F.f
    by_cases hcarry : n = 2 ^ (F.f + 1)
    · exact iff_of_false (by rw [if_pos hcarry]; omega) (by omega)
    · exact iff_of_true (by rw [if_neg hcarry]; omega) (by omega)
  · refine iff_of_false (by split <;> omega) (not_not.mpr (exceeds_of_le ?_))
    rw [hK, le_div_iff₀ hS, ← zpow_add₀ two_ne_zero]
    exact (zpow_two_le (by omega)).trans hge

theorem overflow_max (hmode : mode < 4) (h : sat = true ∨ (mode ≠ 0 ∧ ¬Away mode neg)) :
    (F.overflow mode sat neg).1 = F.sign neg + F.maxBits := by
  cases sat with
  | true => simp [Fmt.overflow]
  | false =>
    obtain ⟨h0, ha⟩ := h.resolve_left Bool.false_ne_true
    match mode, hmode with
    | 1, _ => rfl
    | 2, _ => cases neg <;> simp [Fmt.overflow, Away] at ha ⊢
    | 3, _ => cases neg <;> simp [Fmt.overflow, Away] at ha ⊢

theorem overflow_inf (h : mode = 0 ∨ Away mode neg) : (F.overflow mode false neg).1 = F.infBits neg := by
  rcases h with rfl | ⟨rfl, rfl⟩ | ⟨rfl, rfl⟩ <;> rfl

/-- What an overflow gives (R96). -/
theorem overflow_spec (hF : Shape F) (hmode : mode < 4) (hu : 0 < u) :
    let v : ℝ := (if neg then -1 else 1) * u
    let r := F.overflow mode sat neg
    r.2 = fOF ||| fNX ∧
      (sat = true ∨ (mode ≠ 0 ∧ ¬roundsAway mode v) → F.Finite r.1 (if v < 0 then -F.largest else F.largest)) ∧
      (sat = false → mode = 0 ∨ roundsAway mode v → (v < 0 → r.1 = F.infBits true) ∧ (0 < v → r.1 = F.infBits false)) := by
  intro v r
  have hv : v < 0 ↔ neg = true := signed_neg_iff hu
  have hfinite : F.Finite (F.sign neg + F.maxBits) (if v < 0 then -F.largest else F.largest) := by
    have := finite_max hF neg
    cases neg <;> simpa [hv] using this
  have hinf : (v < 0 → F.infBits neg = F.infBits true) ∧ (0 < v → F.infBits neg = F.infBits false) := by
    refine ⟨fun h => by rw [hv.mp h], fun h => ?_⟩
    cases neg with
    | false => rfl
    | true => exact absurd (hv.mpr rfl) (not_lt.mpr h.le)
  rw [roundsAway_signed hu]
  refine ⟨rfl, fun h => ?_, fun hsat h => ?_⟩
  · rw [show r.1 = _ from overflow_max hmode h]; exact hfinite
  · subst hsat
    rw [show r.1 = _ from overflow_inf h]; exact hinf

/-- Within range, `n` steps of 2^q' are the rounded value, with the flags of what was lost. -/
theorem rounded_of_steps (hF : Shape F) {n : Nat} {q' : Int} {nx tiny : Bool} (hu : 0 < u) (hn : NatRounded mode neg (u / 2 ^ q') n)
    (hlt : u < 2 ^ ((F.f : Int) + 1 + q')) (hge : q' ≠ F.qmin → 2 ^ ((F.f : Int) + q') ≤ u) (hmin : F.qmin ≤ q')
    (hmax : ¬(F.maxQ < q' ∨ (q' = F.maxQ ∧ F.maxM < n))) (hover : ¬F.Overflows mode ((if neg then -1 else 1) * u))
    (hexact : nx = false ↔ (n : ℝ) = u / 2 ^ q') (htiny : tiny = true ↔ F.Tiny mode ((if neg then -1 else 1) * u)) :
    F.Rounded mode sat ((if neg then -1 else 1) * u)
      (F.sign neg + stepBits F n q', (if nx then fNX else 0) ||| (if nx && tiny then fUF else 0)) := by
  have hc : (0 : ℝ) < 2 ^ q' := by positivity
  have hx : 0 ≤ u / 2 ^ q' := by positivity
  have hnle : n ≤ 2 ^ (F.f + 1) := hn.le_of_le hx (by
    rw [div_le_iff₀ hc]; push_cast; rw [← zpow_natCast, ← zpow_add₀ two_ne_zero]; exact_mod_cast hlt.le)
  have hnormal : q' = F.qmin ∨ 2 ^ F.f ≤ n := or_iff_not_imp_left.mpr fun h => hn.ge_of_ge hx (by
    rw [le_div_iff₀ hc]; push_cast; rw [← zpow_natCast, ← zpow_add₀ two_ne_zero]; exact hge h)
  obtain ⟨m', q'', hcan, hbits, hval, hpar⟩ := exists_canonical hF hnle hmin hnormal hmax neg
  have hy : (FV.fin neg m' q'').real = (if neg then -1 else 1) * (n : ℝ) * 2 ^ q' := by rw [real_fin, hval, mul_assoc]
  have hto : ∀ b z, F.Finite b z → RoundsTo mode ((if neg then -1 else 1) * u) ((if neg then -1 else 1) * (n : ℝ) * 2 ^ q') z
      (n % 2 = 0) := fun b z hz => by
    have hgrid := finite_onGrid hF hz (v := (if neg then -1 else 1) * u) fun h => by rw [abs_signed hu.le]; exact hge h
    have hround := hn.intRounded hx
    have hcast : (((if neg then -1 else 1) * n : ℤ) : ℝ) = (if neg then -1 else 1) * n := by cases neg <;> simp
    have hparity : ((if neg then -1 else 1) * n : ℤ) % 2 = 0 ↔ n % 2 = 0 := by cases neg <;> simp <;> omega
    rw [← mul_div_assoc] at hround
    have hto := (roundsTo_of_intRounded hround hgrid).scale hc
    rwa [div_mul_cancel₀ _ hc.ne', div_mul_cancel₀ _ hc.ne', hcast, hparity] at hto
  have hyv : (if neg then -1 else 1) * (n : ℝ) * 2 ^ q' = (if neg then -1 else 1) * u ↔ nx = false := by
    rw [hexact, eq_div_iff hc.ne', mul_assoc]
    cases neg <;> simp
  have hfin := finite_encodeFin (n := neg) hF hcan
  rw [hy, ← hbits] at hfin
  have heven : (F.sign neg + stepBits F n q') % 2 = n % 2 := by rw [hbits, encodeFin_mod_two hF, hpar]
  refine ⟨fun hc => absurd hc hover, fun _ => ⟨_, hfin, ?sign, ?nearest, ?zero, ?up, ?down, ?exact, ?normal, ?tiny⟩⟩
  case sign => rw [hbits, sign_encodeFin hF hcan, signed_neg_iff hu]
  case nearest =>
    intro hm b z hz
    obtain ⟨h1, h2⟩ := (hto b z hz).nearest hm
    exact ⟨h1, fun he hne => heven.trans (h2 he hne)⟩
  case zero => exact fun hm => ⟨((hto _ _ hfin).zero hm).1, fun b z hz => ((hto b z hz).zero hm).2⟩
  case up => exact fun hm => ⟨((hto _ _ hfin).up hm).1, fun b z hz => ((hto b z hz).up hm).2⟩
  case down => exact fun hm => ⟨((hto _ _ hfin).down hm).1, fun b z hz => ((hto b z hz).down hm).2⟩
  case exact =>
    intro he
    simp [hyv.mp he]
  case normal =>
    intro hne ht
    have hnx : nx = true := by simpa using mt hyv.mpr hne
    have htf : tiny = false := by simpa using mt htiny.mp ht
    simp [hnx, htf]
  case tiny =>
    intro hne ht
    have hnx : nx = true := by simpa using mt hyv.mpr hne
    simp [hnx, htiny.mpr ht]

/-- A non-zero magnitude is rounded once to the format, with its flags (R95 to R97); with a sliver, its digits reach below the result. -/
theorem rounded_roundNZ (hF : Shape F) (hmode : mode < 4) (sat neg : Bool) {m : Nat} {q : Int} {sticky : Bool} (hm : m ≠ 0)
    (hs : Sliver m q sticky u) (hdigits : sticky = true → 2 ^ (F.f + 2) ≤ m) :
    F.Rounded mode sat ((if neg then -1 else 1) * u) (F.roundNZ mode sat neg m q sticky) := by
  have hu := sliver_pos hm hs
  have hle := le_unit (F := F) hm hs
  have hlt := lt_unit (F := F) hs
  have hunit : unitExp F m q ≤ stepExp F m q := by rw [stepExp]; split <;> omega
  have hmin : F.qmin ≤ stepExp F m q := by rw [stepExp]; split <;> omega
  have hstep : stepExp F m q ≠ F.qmin → stepExp F m q = unitExp F m q := by rw [stepExp]; split <;> omega
  have hlt' : u < 2 ^ ((F.f : Int) + 1 + stepExp F m q) := hlt.trans_le (zpow_two_le (by omega))
  have hge' : stepExp F m q ≠ F.qmin → 2 ^ ((F.f : Int) + stepExp F m q) ≤ u := fun h => by rw [hstep h]; exact hle
  have hq := fun hst => lt_unitExp (q := q) (hdigits hst)
  obtain ⟨hnu, -⟩ := cutAt_spec hmode neg hs hq
  obtain ⟨hn, hexact⟩ := cutAt_spec hmode neg hs fun hst => (hq hst).trans_le hunit
  have hover := beyond_max_iff hF hn hu hlt' hge'
  have htiny := below_normal_iff hnu hu hlt hle
  rw [roundNZ_eq]
  simp only
  generalize stepExp F m q = q' at *
  generalize unitExp F m q = qn at *
  generalize cutAt mode neg m q q' sticky = c at *
  generalize cutAt mode neg m q qn sticky = cu at *
  by_cases ho : F.Overflows mode ((if neg then -1 else 1) * u)
  · rw [if_pos (hover.mpr ho)]
    exact ⟨fun _ => overflow_spec hF hmode hu, fun hc => absurd ho hc⟩
  · rw [if_neg (mt hover.mp ho)]
    exact rounded_of_steps hF hu hn hlt' hge' hmin (mt hover.mp ho) ho hexact (by rw [decide_eq_true_iff]; exact htiny)

end Once

end Format

end Sys2Proof.Machine.Rounding
end

section
/-! What the arithmetic functions compute (R95 to R99, R152 to R160): each cuts the exact real result to digits and a sliver, and rounds
once. -/

namespace Sys2Proof.Machine.Arithmetic

open FloatFormat Rounding OneSource VectorInteger

/-! ### Exact values as reals -/

theorem real_eq_zero {n : Bool} {m : Nat} {q : Int} : (FV.fin n m q).real = 0 ↔ m = 0 := by
  have hq : (2 : ℝ) ^ q ≠ 0 := by positivity
  rw [real_fin]
  cases n <;> simp [hq]

theorem sign_xor (na nb : Bool) : (if xor na nb then -1 else 1 : ℝ) = (if na then -1 else 1) * (if nb then -1 else 1) := by
  cases na <;> cases nb <;> simp

theorem sign_inv (n : Bool) : (if n then -1 else 1 : ℝ)⁻¹ = if n then -1 else 1 := by
  cases n <;> simp

theorem real_mul (na nb : Bool) (ma mb : Nat) (qa qb : Int) :
    (FV.fin (xor na nb) (ma * mb) (qa + qb)).real = (FV.fin na ma qa).real * (FV.fin nb mb qb).real := by
  rw [real_fin, real_fin, real_fin, sign_xor, zpow_add₀ two_ne_zero]
  push_cast
  ring

theorem real_of_int (v q : Int) : (FV.fin (decide (v < 0)) v.natAbs q).real = v * 2 ^ q := by
  rw [real_fin, ← mul_assoc]
  congr 1
  rcases lt_or_ge v 0 with h | h
  · simp [h, Nat.cast_natAbs, abs_of_neg]
  · simp [not_lt.mpr h, Nat.cast_natAbs, abs_of_nonneg h]

theorem addDy_real (na nb : Bool) (ma mb : Nat) (qa qb : Int) : ((addDy na ma qa nb mb qb).1 : ℝ) * 2 ^ (addDy na ma qa nb mb qb).2 =
    (FV.fin na ma qa).real + (FV.fin nb mb qb).real := by
  have hpow : ∀ (m : Nat) (q q' : Int), q' ≤ q → ((m * 2 ^ (q - q').toNat : Nat) : ℝ) * 2 ^ q' = m * 2 ^ q := fun m q q' h => by
    push_cast
    rw [mul_assoc, ← zpow_natCast, Int.toNat_of_nonneg (by omega), ← zpow_add₀ two_ne_zero, sub_add_cancel]
  have hsign : ∀ (n : Bool) (x : Nat), (((if n then -(x : Int) else x) : Int) : ℝ) = (if n then -1 else 1) * (x : ℝ) := fun n x => by
    cases n <;> simp
  simp only [addDy]
  generalize hq : (if qa < qb then qa else qb) = q'
  have ha : q' ≤ qa := by rw [← hq]; split <;> omega
  have hb : q' ≤ qb := by rw [← hq]; split <;> omega
  rw [Int.cast_add, hsign, hsign, add_mul, mul_assoc, mul_assoc, hpow ma qa q' ha, hpow mb qb q' hb, real_fin, real_fin]

/-! ### Rounding an exact value -/

section Round
variable {F : Fmt} {mode : Nat} {sat n : Bool} {m : Nat} {q : Int}

theorem round_zero (F : Fmt) (mode : Nat) (sat n : Bool) (q : Int) (sticky : Bool) : F.round mode sat n 0 q sticky = (F.sign n, 0) := rfl

theorem rounded_sliver (hF : Shape F) (hmode : mode < 4) (sat n : Bool) {sticky : Bool} {u : ℝ} (hm : m ≠ 0) (hs : Sliver m q sticky u)
    (hdigits : sticky = true → 2 ^ (F.f + 2) ≤ m) :
    F.Rounded mode sat ((if n then -1 else 1) * u) (F.round mode sat n m q sticky) := by
  rw [Fmt.round, if_neg hm]
  exact rounded_roundNZ hF hmode sat n hm hs hdigits

theorem rounded_exact (hF : Shape F) (hmode : mode < 4) (sat n : Bool) (hm : m ≠ 0) :
    F.Rounded mode sat (FV.fin n m q).real (F.round mode sat n m q false) := by
  rw [real_fin]
  exact rounded_sliver hF hmode sat n hm (sliver_exact m q) fun h => absurd h Bool.false_ne_true

end Round

/-! ### Sums and products (R152) -/

section Ring
variable {F : Fmt} {mode : Nat} {sat : Bool}

theorem addFin_spec (hF : Shape F) (hmode : mode < 4) (sat na nb : Bool) (ma mb : Nat) (qa qb : Int) :
    let v := (FV.fin na ma qa).real + (FV.fin nb mb qb).real
    let r := F.addFin mode sat na ma qa nb mb qb
    (v ≠ 0 → F.Rounded mode sat v r) ∧
      (v = 0 → r = (F.sign (if ma = 0 ∧ mb = 0 ∧ na = nb then na else decide (mode = 3)), 0)) := by
  intro v r
  have hv : ((addDy na ma qa nb mb qb).1 : ℝ) * 2 ^ (addDy na ma qa nb mb qb).2 = v := addDy_real na nb ma mb qa qb
  have hzero : (addDy na ma qa nb mb qb).1 = 0 ↔ v = 0 := by
    rw [← hv, mul_eq_zero, or_iff_left (by positivity), Int.cast_eq_zero]
  have hr : r = let s := addDy na ma qa nb mb qb
      if s.1 = 0 then (F.sign (if ma = 0 ∧ mb = 0 ∧ na = nb then na else decide (mode = 3)), 0)
      else F.round mode sat (decide (s.1 < 0)) s.1.natAbs s.2 false := rfl
  simp only at hr
  refine ⟨fun h => ?_, fun h => by rw [hr, if_pos (hzero.mpr h)]⟩
  rw [hr, if_neg (mt hzero.mp h), ← hv, ← real_of_int]
  exact rounded_exact hF hmode sat _ (Int.natAbs_ne_zero.mpr (mt hzero.mp h))

theorem mul_spec (hF : Shape F) (hmode : mode < 4) (sat na nb : Bool) (ma mb : Nat) (qa qb : Int) :
    let a := FV.fin na ma qa
    let b := FV.fin nb mb qb
    (a.real * b.real ≠ 0 → F.Rounded mode sat (a.real * b.real) (F.mul mode sat a b)) ∧
      (a.real * b.real = 0 → F.mul mode sat a b = (F.sign (xor na nb), 0)) := by
  intro a b
  have hr : F.mul mode sat a b = F.round mode sat (xor na nb) (ma * mb) (qa + qb) false := rfl
  rw [← real_mul, hr, ne_eq, real_eq_zero]
  exact ⟨fun h => rounded_exact hF hmode sat _ h, fun h => by rw [h, round_zero]⟩

/-- A fused product and sum is the sum with the exact product. -/
theorem fma_spec (hF : Shape F) (hmode : mode < 4) (sat na nb nc : Bool) (ma mb mc : Nat) (qa qb qc : Int) :
    let a := FV.fin na ma qa
    let b := FV.fin nb mb qb
    let c := FV.fin nc mc qc
    (a.real * b.real + c.real ≠ 0 → F.Rounded mode sat (a.real * b.real + c.real) (F.fma mode sat a b c)) ∧
      (a.real * b.real + c.real = 0 → F.fma mode sat a b c =
        (F.sign (if ma * mb = 0 ∧ mc = 0 ∧ xor na nb = nc then nc else decide (mode = 3)), 0)) := by
  intro a b c
  obtain ⟨h1, h2⟩ := addFin_spec hF hmode sat (xor na nb) nc (ma * mb) mc (qa + qb) qc
  rw [real_mul] at h1 h2
  refine ⟨h1, fun h => (h2 h).trans ?_⟩
  split
  · next hs => rw [hs.2.2]
  · rfl

end Ring

/-! ### Quotients (R152) -/

/-- A quotient cut to an integer, with what is left as a sliver. -/
theorem sliver_div (a : Nat) {b : Nat} (hb : b ≠ 0) (q : Int) : Sliver (a / b) q (decide (a % b ≠ 0)) ((a : ℝ) / b * 2 ^ q) := by
  have hb0 : (0 : ℝ) < b := by exact_mod_cast Nat.pos_of_ne_zero hb
  have hq : (0 : ℝ) < 2 ^ q := by positivity
  refine ⟨mul_le_mul_of_nonneg_right Nat.cast_div_le hq.le, mul_lt_mul_of_pos_right ?_ hq, ?_⟩
  · rw [div_lt_iff₀ hb0]
    exact_mod_cast Nat.lt_mul_of_div_lt (Nat.lt_succ_self _) (Nat.pos_of_ne_zero hb)
  · rw [decide_eq_false_iff_not, not_not, mul_left_inj' hq.ne', ← Nat.dvd_iff_mod_eq_zero]
    refine ⟨fun h => (Nat.cast_div h hb0.ne').symm, fun h => ⟨a / b, ?_⟩⟩
    rw [div_eq_iff hb0.ne'] at h
    have : a = a / b * b := by exact_mod_cast h
    rw [Nat.mul_comm]; exact this

/-- A quotient with enough digits in its numerator has as many as the rounding needs. -/
theorem digits_div {a b f : Nat} (ha : a ≠ 0) (hb : b ≠ 0) : 2 ^ (f + 2) ≤ a * 2 ^ (f + 4 + Nat.log2 b) / b := by
  rw [Nat.le_div_iff_mul_le (Nat.pos_of_ne_zero hb)]
  calc 2 ^ (f + 2) * b ≤ 2 ^ (f + 2) * 2 ^ (Nat.log2 b + 1) := Nat.mul_le_mul_left _ Nat.lt_log2_self.le
    _ ≤ 2 ^ (f + 4 + Nat.log2 b) := by rw [← pow_add]; exact Nat.pow_le_pow_right (by omega) (by omega)
    _ ≤ a * 2 ^ (f + 4 + Nat.log2 b) := Nat.le_mul_of_pos_left _ (Nat.pos_of_ne_zero ha)

section Quotient
variable {F : Fmt} {mode : Nat}

theorem div_spec (hF : Shape F) (hmode : mode < 4) (sat na nb : Bool) {ma mb : Nat} (qa qb : Int) (ha : ma ≠ 0) (hb : mb ≠ 0) :
    F.Rounded mode sat ((FV.fin na ma qa).real / (FV.fin nb mb qb).real) (F.div mode sat (.fin na ma qa) (.fin nb mb qb)) := by
  have hr : F.div mode sat (.fin na ma qa) (.fin nb mb qb) = F.round mode sat (xor na nb) (ma * 2 ^ (F.f + 4 + Nat.log2 mb) / mb)
      (qa - qb - (F.f + 4 + Nat.log2 mb : Nat)) (decide (ma * 2 ^ (F.f + 4 + Nat.log2 mb) % mb ≠ 0)) := by
    simp only [Fmt.div, ha, hb, if_false]
  have hdigits := digits_div (f := F.f) ha hb
  have hv : (FV.fin na ma qa).real / (FV.fin nb mb qb).real = (if xor na nb then -1 else 1) *
      (((ma * 2 ^ (F.f + 4 + Nat.log2 mb) : Nat) : ℝ) / mb * 2 ^ (qa - qb - ((F.f + 4 + Nat.log2 mb : Nat) : Int))) := by
    have h1 : (mb : ℝ) ≠ 0 := by exact_mod_cast hb
    generalize F.f + 4 + Nat.log2 mb = k
    rw [real_fin, real_fin, div_eq_mul_inv, mul_inv, sign_inv, sign_xor, zpow_sub₀ two_ne_zero, zpow_sub₀ two_ne_zero, zpow_natCast]
    push_cast
    field_simp
  rw [hv, hr]
  exact rounded_sliver hF hmode sat _ (by have := Nat.two_pow_pos (F.f + 2); omega) (sliver_div _ hb _) fun _ => hdigits

end Quotient

/-! ### Square roots (R152) -/

/-- The integer part of a square root, with what is left as a sliver. -/
theorem sliver_sqrt {r : Nat} {y : ℝ} (hle : (r : ℝ) * r ≤ y) (hlt : y < ((r : ℝ) + 1) * (r + 1)) {sticky : Bool}
    (hexact : sticky = false ↔ (r : ℝ) * r = y) (q : Int) : Sliver r q sticky (√y * 2 ^ q) := by
  have hq : (0 : ℝ) < 2 ^ q := by positivity
  have hr : (0 : ℝ) ≤ r := Nat.cast_nonneg r
  refine ⟨mul_le_mul_of_nonneg_right ?_ hq.le, mul_lt_mul_of_pos_right ?_ hq, ?_⟩
  · exact Real.le_sqrt_of_sq_le (by rwa [sq])
  · exact (Real.sqrt_lt' (by linarith)).mpr (by rwa [sq])
  · rw [hexact, mul_left_inj' hq.ne']
    refine ⟨fun h => by rw [← h, Real.sqrt_mul_self hr], fun h => ?_⟩
    rw [← h, Real.mul_self_sqrt ((mul_self_nonneg _).trans hle)]

theorem le_isqrt {K n : Nat} (h : K * K ≤ n) : K ≤ isqrt n :=
  Nat.lt_succ_iff.mp (Nat.mul_self_lt_mul_self_iff.mp (h.trans_lt (isqrt_spec n).2))

/-- The square root of an even power of two times a number. -/
theorem sqrt_mul_zpow {q : Int} (hq : q % 2 = 0) (y : ℝ) : √(y * 2 ^ q) = √y * 2 ^ (q / 2) := by
  have h : (2 : ℝ) ^ q = 2 ^ (q / 2) * 2 ^ (q / 2) := by rw [← zpow_add₀ two_ne_zero]; congr 1; omega
  rw [h, Real.sqrt_mul' _ (mul_self_nonneg _), Real.sqrt_mul_self (by positivity)]

section Root
variable {F : Fmt} {mode : Nat}

/-- The operand of a square root with enough digits and an even exponent. -/
def rootArg (F : Fmt) (m : Nat) (q : Int) : Nat × Int :=
  if q % 2 = 0 then (m * 2 ^ (2 * (F.f + 4)), q - (2 * (F.f + 4) : Nat)) else (m * 2 ^ (2 * (F.f + 4) + 1), q - (2 * (F.f + 4) : Nat) - 1)

theorem rootArg_even (F : Fmt) (m : Nat) (q : Int) : (rootArg F m q).2 % 2 = 0 := by
  rw [rootArg]; split <;> simp only <;> omega

theorem rootArg_real (F : Fmt) (m : Nat) (q : Int) : ((rootArg F m q).1 : ℝ) * 2 ^ (rootArg F m q).2 = m * 2 ^ q := by
  have hpow : ∀ k : Nat, ((m * 2 ^ k : Nat) : ℝ) * 2 ^ (q - (k : Int)) = m * 2 ^ q := fun k => by
    push_cast
    rw [mul_assoc, ← zpow_natCast, ← zpow_add₀ two_ne_zero, add_sub_cancel]
  rw [rootArg]
  split
  · exact hpow _
  · rw [sub_sub]
    exact_mod_cast hpow (2 * (F.f + 4) + 1)

theorem le_rootArg {m : Nat} (hm : m ≠ 0) (q : Int) : 2 ^ (F.f + 4) * 2 ^ (F.f + 4) ≤ (rootArg F m q).1 := by
  have h : ∀ k, 2 * (F.f + 4) ≤ k → 2 ^ (F.f + 4) * 2 ^ (F.f + 4) ≤ m * 2 ^ k := fun k hk => by
    rw [← pow_add, ← Nat.two_mul]
    exact (Nat.pow_le_pow_right (by omega) hk).trans (Nat.le_mul_of_pos_left _ (Nat.pos_of_ne_zero hm))
  rw [rootArg]
  split
  · exact h _ le_rfl
  · exact h _ (Nat.le_succ _)

theorem sqrt_spec (hF : Shape F) (hmode : mode < 4) {m : Nat} (q : Int) (hm : m ≠ 0) :
    F.Rounded mode false (√(FV.fin false m q).real) (F.sqrt mode (.fin false m q)) := by
  have hr : F.sqrt mode (.fin false m q) = F.round mode false false (isqrt (rootArg F m q).1) ((rootArg F m q).2 / 2)
      (decide (isqrt (rootArg F m q).1 * isqrt (rootArg F m q).1 ≠ (rootArg F m q).1)) := by
    simp only [Fmt.sqrt, hm, if_false, Bool.false_eq_true, rootArg]
    split <;> rfl
  have hdigits : 2 ^ (F.f + 2) ≤ isqrt (rootArg F m q).1 :=
    (Nat.pow_le_pow_right (by omega) (by omega)).trans (le_isqrt (le_rootArg hm q))
  obtain ⟨hlo, hhi⟩ := isqrt_spec (rootArg F m q).1
  have hs := sliver_sqrt (r := isqrt (rootArg F m q).1) (y := (rootArg F m q).1) (by exact_mod_cast hlo) (by exact_mod_cast hhi)
    (sticky := decide (isqrt (rootArg F m q).1 * isqrt (rootArg F m q).1 ≠ (rootArg F m q).1))
    (by rw [decide_eq_false_iff_not, not_not]; norm_cast) ((rootArg F m q).2 / 2)
  rw [← sqrt_mul_zpow (rootArg_even F m q), rootArg_real] at hs
  have := rounded_sliver hF hmode false false (by have := Nat.two_pow_pos (F.f + 2); omega) hs fun _ => hdigits
  rw [hr]
  simpa [real_fin] using this

end Root

/-! ### Conversions (R99, R158 to R160) -/

section Convert
variable {F : Fmt} {mode : Nat}

theorem scale_spec (hF : Shape F) (hmode : mode < 4) (sat n : Bool) {m : Nat} (q k : Int) (hm : m ≠ 0) :
    F.Rounded mode sat ((FV.fin n m q).real * 2 ^ k) (F.scale mode sat (.fin n m q) k) := by
  have hv : (FV.fin n m q).real * (2 : ℝ) ^ k = (FV.fin n m (q + k)).real := by
    rw [real_fin, real_fin, zpow_add₀ two_ne_zero, mul_assoc, mul_assoc]
  rw [hv]
  exact rounded_exact hF hmode sat n hm

theorem ofInt_spec (hF : Shape F) (hmode : mode < 4) (sat : Bool) {v : Int} (hv : v ≠ 0) :
    F.Rounded mode sat v (F.ofInt mode sat v) := by
  have h := rounded_exact (n := decide (v < 0)) (q := 0) hF hmode sat (Int.natAbs_ne_zero.mpr hv)
  rwa [real_of_int, zpow_zero, mul_one] at h

/-- Rounding to an integral value (R95, R99, R159). -/
theorem roundInt_spec (hmode : mode < 4) (n : Bool) (m : Nat) (q : Int) :
    IntRounded mode (FV.fin n m q).real (roundInt mode n m q).1 ∧
      ((roundInt mode n m q).2 = false ↔ ((roundInt mode n m q).1 : ℝ) = (FV.fin n m q).real) := by
  obtain ⟨hn, hexact⟩ := cutAt_spec hmode n (sliver_exact m q) (q' := 0) fun h => absurd h Bool.false_ne_true
  rw [zpow_zero, div_one] at hn hexact
  have hint : (roundInt mode n m q).1 = (if n then -1 else 1) * ((cutAt mode n m q 0 false).1 : Int) := by
    simp only [roundInt]; cases n <;> simp
  rw [real_fin, hint]
  refine ⟨hn.intRounded (by positivity), hexact.trans ?_⟩
  cases n <;> simp

theorem toInt_spec (hmode : mode < 4) (n : Bool) (m : Nat) (q : Int) (ty : BitVec 3) :
    let a := FV.fin n m q
    ∃ w : ℤ, IntRounded mode a.real w ∧
      (tyMin ty ≤ w → w ≤ tyMax ty → (toInt ty mode a).1 = (BitVec.ofInt (tyBits ty) w).toNat ∧
        ((w : ℝ) = a.real → (toInt ty mode a).2 = 0) ∧ ((w : ℝ) ≠ a.real → (toInt ty mode a).2 = fNX)) ∧
      (w < tyMin ty → toInt ty mode a = ((BitVec.ofInt (tyBits ty) (tyMin ty)).toNat, fNV)) ∧
      (tyMax ty < w → toInt ty mode a = ((BitVec.ofInt (tyBits ty) (tyMax ty)).toNat, fNV)) := by
  intro a
  obtain ⟨hint, hexact⟩ := roundInt_spec hmode n m q
  have hr : toInt ty mode a = if (roundInt mode n m q).1 < tyMin ty ∨ tyMax ty < (roundInt mode n m q).1
      then (wrapN (tyBits ty) (clamp ty (roundInt mode n m q).1), fNV)
      else (wrapN (tyBits ty) (roundInt mode n m q).1, if (roundInt mode n m q).2 then fNX else 0) := rfl
  have hle := tyMin_le_tyMax ty
  generalize roundInt mode n m q = c at hint hexact hr
  refine ⟨c.1, hint, fun hlo hhi => ?_, fun hlo => ?_, fun hhi => ?_⟩
  · rw [hr, if_neg (by omega), wrapN_eq]
    refine ⟨rfl, fun h => by simp [hexact.mpr h], fun h => ?_⟩
    have : c.2 = true := by simpa using mt hexact.mp h
    simp [this]
  · rw [hr, if_pos (.inl hlo), clamp_eq, wrapN_eq, min_eq_right (by omega), max_eq_left hlo.le]
  · rw [hr, if_pos (.inr hhi), clamp_eq, wrapN_eq, min_eq_left hhi.le, max_eq_right hle]

end Convert

end Sys2Proof.Machine.Arithmetic
end

section
/-! Values that need no rounding, the integral values of a format (R159), and the reciprocals between their brackets (R155). -/

namespace Sys2Proof.Machine.Arithmetic

open FloatFormat Rounding OneSource

/-! ### Representable values -/

section Representable
variable {F : Fmt} {mode : Nat} {sat : Bool} {v : ℝ} {r : FRes}

theorem finite_le_largest (hF : Shape F) {b : Nat} {z : ℝ} (h : F.Finite b z) : |z| ≤ F.largest := by
  obtain ⟨hb, n, m, q, hval, rfl⟩ := h
  obtain ⟨hcan, -⟩ := canonical_of_val hF hb hval
  rw [real_fin, abs_signed (by positivity)]
  rcases lt_or_eq_of_le hcan.le_maxQ with hq | hq
  · exact (hcan.mul_zpow_lt_of_lt (canonical_max hF) hq).le
  · rw [hq]
    exact mul_le_mul_of_nonneg_right (by exact_mod_cast hcan.le_maxM hq) (by positivity)

theorem largest_lt_of_overflows (h : F.Overflows mode v) : F.largest < |v| := by
  have hT : 0 < F.topStep := by rw [Fmt.topStep]; positivity
  rcases h with ⟨-, h | ⟨h, -⟩⟩ | ⟨-, -, h⟩ | ⟨-, -, h⟩ <;> linarith

/-- The sign bit of a finite value that is not zero. -/
theorem sign_of_finite (hF : Shape F) {b : Nat} {z : ℝ} (h : F.Finite b z) (hz : z ≠ 0) : bitAt b (F.e + F.f) = true ↔ z < 0 := by
  obtain ⟨hb, n, m, q, hval, rfl⟩ := h
  obtain ⟨hcan, hbits⟩ := canonical_of_val hF hb hval
  have hm : 0 < (m : ℝ) * 2 ^ q := by
    have := Nat.pos_of_ne_zero (mt real_eq_zero.mpr hz)
    have : (0 : ℝ) < m := by exact_mod_cast this
    positivity
  rw [hbits, sign_encodeFin hF hcan, real_fin, signed_neg_iff hm]

/-- The bits of a finite value that is not zero are unique. -/
theorem finite_unique (hF : Shape F) {b b' : Nat} {z : ℝ} (h : F.Finite b z) (h' : F.Finite b' z) (hz : z ≠ 0) : b = b' := by
  have hs : bitAt b (F.e + F.f) = bitAt b' (F.e + F.f) :=
    Bool.eq_iff_iff.mpr ((sign_of_finite hF h hz).trans (sign_of_finite hF h' hz).symm)
  obtain ⟨hb, n, m, q, hval, rfl⟩ := h
  obtain ⟨hb', n', m', q', hval', hz'⟩ := h'
  obtain ⟨hcan, hbits⟩ := canonical_of_val hF hb hval
  obtain ⟨hcan', hbits'⟩ := canonical_of_val hF hb' hval'
  rw [hbits, hbits', sign_encodeFin hF hcan, sign_encodeFin hF hcan'] at hs
  have habs := congrArg abs hz'
  rw [real_fin, real_fin, abs_signed (by positivity), abs_signed (by positivity)] at habs
  obtain ⟨rfl, rfl⟩ := hcan'.unique hcan habs
  rw [hbits, hbits', hs]

/-- A rounded value that is representable is itself, without a flag, in every mode (R95 to R97). -/
theorem rounded_eq_of_finite (hF : Shape F) (hmode : mode < 4) (h : F.Rounded mode sat v r) {b : Nat} (hb : F.Finite b v) (hv : v ≠ 0) :
    r = (b, 0) := by
  have hover : ¬F.Overflows mode v := fun hc => absurd (finite_le_largest hF hb) (not_le.mpr (largest_lt_of_overflows hc))
  obtain ⟨y, hy, hsign, h0, h1, h2, h3, hflag, -⟩ := h.2 hover
  have hyv : y = v := by
    match mode, hmode with
    | 0, _ =>
      have := (h0 rfl b v hb).1
      rw [sub_self, abs_zero] at this
      exact sub_eq_zero.mp (abs_eq_zero.mp (le_antisymm this (abs_nonneg _)))
    | 1, _ =>
      have habs : |y| = |v| := le_antisymm (h1 rfl).1 ((h1 rfl).2 b v hb le_rfl)
      have hy0 : y ≠ 0 := abs_ne_zero.mp (habs ▸ abs_ne_zero.mpr hv)
      have hneg := (sign_of_finite hF hy hy0).symm.trans hsign
      rcases abs_eq_abs.mp habs with he | he
      · exact he
      · rcases lt_or_gt_of_ne hv with hl | hl
        · have := hneg.mpr hl; linarith
        · have := hneg.mp (by linarith); linarith
    | 2, _ => exact le_antisymm ((h2 rfl).2 b v hb le_rfl) (h2 rfl).1
    | 3, _ => exact le_antisymm (h3 rfl).1 ((h3 rfl).2 b v hb le_rfl)
  rw [hyv] at hy
  exact Prod.ext (finite_unique hF hy hb hv) (hflag hyv)

/-- An integer of at most the format's precision is a finite value. -/
theorem exists_finite_natCast (hF : Shape F) (n : Bool) {N : Nat} (h0 : N ≠ 0) (h : N < 2 ^ (F.f + 1)) :
    ∃ b, F.Finite b ((if n then -1 else 1) * N) := by
  obtain ⟨d, hd⟩ : ∃ d, d = min (F.f - Nat.log2 N) (-F.qmin).toNat := ⟨_, rfl⟩
  have hlog : Nat.log2 N ≤ F.f := Nat.lt_succ_iff.mp ((Nat.log2_lt h0).mpr h)
  have hpos := hF.maxQ_pos
  have hmin := hF.qmin_le
  have hcan : Canonical F (N * 2 ^ d) (-(d : Int)) := by
    refine ⟨?_, by omega, ?_, by omega, fun hc => by omega⟩
    · calc N * 2 ^ d < 2 ^ (Nat.log2 N + 1) * 2 ^ d := Nat.mul_lt_mul_of_pos_right Nat.lt_log2_self (Nat.two_pow_pos d)
        _ ≤ 2 ^ (F.f + 1) := by rw [← pow_add]; exact Nat.pow_le_pow_right (by omega) (by omega)
    · by_cases hle : F.f - Nat.log2 N ≤ (-F.qmin).toNat
      · right
        calc 2 ^ F.f = 2 ^ Nat.log2 N * 2 ^ d := by rw [← pow_add]; congr 1; omega
          _ ≤ N * 2 ^ d := Nat.mul_le_mul_right _ (Nat.log2_self_le h0)
      · left; omega
  have hfin := finite_encodeFin (n := n) hF hcan
  rw [real_fin] at hfin
  push_cast at hfin
  rw [mul_assoc, ← zpow_natCast, ← zpow_add₀ two_ne_zero, add_neg_cancel, zpow_zero, mul_one] at hfin
  exact ⟨_, hfin⟩

end Representable

/-! ### Integral values of the format (R159) -/

section Integral
variable {F : Fmt} {mode : Nat} {x m : Nat} {n : Bool} {q : Int}

theorem canonical_zero (hF : Shape F) : Canonical F 0 F.qmin :=
  ⟨Nat.two_pow_pos _, le_rfl, .inl rfl, by have := hF.qmin_lt_maxQ; omega, fun _ => Nat.zero_le _⟩

theorem encodeFin_zero (F : Fmt) (n : Bool) : encodeFin F n 0 F.qmin = F.sign n := by simp [encodeFin]

/-- The magnitude that a finite value rounds to is a finite value of the format. -/
theorem exists_finite_cut (hF : Shape F) (hmode : mode < 4) (hx : x < 2 ^ F.bits) (hval : F.val x = .fin n m q)
    (hN : (cutAt mode n m q 0 false).1 ≠ 0) : ∃ b, F.Finite b ((if n then -1 else 1) * ((cutAt mode n m q 0 false).1 : ℝ)) := by
  obtain ⟨hcan, -⟩ := canonical_of_val hF hx hval
  rcases le_or_gt 0 q with hq | hq
  · refine ⟨x, hx, n, m, q, hval, ?_⟩
    rw [real_fin, cutAt, if_pos hq, Int.sub_zero]
    push_cast
    rw [← zpow_natCast, Int.toNat_of_nonneg hq]
  · obtain ⟨hn, -⟩ := cutAt_spec hmode n (sliver_exact m q) (q' := 0) fun h => absurd h Bool.false_ne_true
    refine exists_finite_natCast hF n hN (lt_of_le_of_lt (hn.le_of_le (by positivity) (K := 2 ^ F.f) ?_)
      (Nat.pow_lt_pow_right (by omega) (Nat.lt_succ_self _)))
    rw [zpow_zero, div_one]
    calc (m : ℝ) * 2 ^ q ≤ 2 ^ (((F.f + 1 : Nat) : Int) + q) := (mul_zpow_lt hcan.lt).le
      _ ≤ 2 ^ (F.f : Int) := zpow_two_le (by omega)
      _ = ((2 ^ F.f : Nat) : ℝ) := by rw [zpow_natCast]; push_cast; rfl

theorem rnd_spec (hF : Shape F) (hmode : mode < 4) (hx : x < 2 ^ F.bits) (hval : F.val x = .fin n m q) (hm : m ≠ 0) :
    let a := FV.fin n m q
    ∃ w : ℤ, IntRounded mode a.real w ∧ F.Finite (F.rnd mode x).1 w ∧ bitAt (F.rnd mode x).1 (F.e + F.f) = n ∧
      ((w : ℝ) = a.real → (F.rnd mode x).2 = 0) ∧ ((w : ℝ) ≠ a.real → (F.rnd mode x).2 = fNX) := by
  intro a
  obtain ⟨hint, hexact⟩ := roundInt_spec hmode n m q
  have hr : F.rnd mode x =
      ((F.round mode false n (roundInt mode n m q).1.natAbs 0 false).1, if (roundInt mode n m q).2 then fNX else 0) := by
    simp only [Fmt.rnd, hval, hm, if_false]
  have hw : ((roundInt mode n m q).1 : ℝ) = (if n then -1 else 1) * ((cutAt mode n m q 0 false).1 : ℝ) := by
    simp only [roundInt]; cases n <;> simp
  have habs : (roundInt mode n m q).1.natAbs = (cutAt mode n m q 0 false).1 := by
    simp only [roundInt]; cases n <;> simp
  have hbits : F.Finite (F.rnd mode x).1 (roundInt mode n m q).1 ∧ bitAt (F.rnd mode x).1 (F.e + F.f) = n := by
    have hcut := exists_finite_cut hF hmode hx hval
    rw [hr, hw, habs]
    generalize (cutAt mode n m q 0 false).1 = N at hcut
    by_cases hN : N = 0
    · have hz := canonical_zero hF
      rw [hN, round_zero, ← encodeFin_zero, Nat.cast_zero, mul_zero]
      exact ⟨⟨encodeFin_lt hF hz, n, 0, F.qmin, val_encodeFin hF hz, real_eq_zero.mpr rfl⟩, sign_encodeFin hF hz⟩
    · obtain ⟨b, hb⟩ := hcut hN
      have hpos : (0 : ℝ) < N := by exact_mod_cast Nat.pos_of_ne_zero hN
      have hne : (if n then -1 else 1) * (N : ℝ) ≠ 0 := by cases n <;> simp [hN]
      have hround := rounded_exact (m := N) (q := 0) hF hmode false n hN
      rw [real_fin, zpow_zero, mul_one] at hround
      rw [rounded_eq_of_finite hF hmode hround hb hne]
      exact ⟨hb, Bool.eq_iff_iff.mpr ((sign_of_finite hF hb hne).trans (signed_neg_iff hpos))⟩
  refine ⟨_, hint, hbits.1, hbits.2, fun h => ?_, fun h => ?_⟩
  · rw [hr, hexact.mpr h]; rfl
  · have : (roundInt mode n m q).2 = true := by simpa using mt hexact.mp h
    rw [hr, this]; rfl

end Integral

/-! ### Reciprocals (R155) -/

section Bracket
variable {F : Fmt} {sat neg : Bool} {m : Nat} {q : Int} {sticky : Bool} {u : ℝ}

/-- Rounding towards zero is rounding down or up by the sign. -/
theorem round_toward_zero (F : Fmt) (sat neg : Bool) (m : Nat) (q : Int) (sticky : Bool) :
    F.round 1 sat neg m q sticky = F.round (if neg then 2 else 3) sat neg m q sticky := by
  cases neg <;> simp [Fmt.round, Fmt.roundNZ, cutAt, roundsUp, Fmt.overflow]

theorem overflows_of_flag {mode : Nat} {v : ℝ} {r : FRes} (h : F.Rounded mode sat v r) (hfl : r.2 &&& fOF ≠ 0) :
    F.Overflows mode v := by
  by_contra hc
  obtain ⟨y, -, -, -, -, -, -, h0, h1, h2⟩ := h.2 hc
  apply hfl
  by_cases hy : y = v
  · rw [h0 hy]; rfl
  · by_cases ht : F.Tiny mode v
    · rw [h2 hy ht]; rfl
    · rw [h1 hy ht]; rfl

/-- The value taken is one of the two that bracket the exact one; past the largest finite value it overflows (R155). -/
theorem bracket_spec (hF : Shape F) (up : Bool) (hm : m ≠ 0) (hs : Sliver m q sticky u)
    (hdigits : sticky = true → 2 ^ (F.f + 2) ≤ m) :
    let v : ℝ := (if neg then -1 else 1) * u
    let r := F.bracket up sat neg m q sticky
    F.Rounded 2 sat v r ∨ F.Rounded 3 sat v r ∨ (F.largest + F.topStep ≤ |v| ∧ F.Rounded 0 sat v r) := by
  intro v r
  have hround : ∀ mode < 4, F.Rounded mode sat v (F.round mode sat neg m q sticky) := fun mode hmode =>
    rounded_sliver hF hmode sat neg hm hs hdigits
  have hr : r = if up then F.round (if neg then 3 else 2) sat neg m q sticky
    else if (F.round 1 sat neg m q sticky).2 &&& fOF ≠ 0 then F.round 0 sat neg m q sticky else F.round 1 sat neg m q sticky := rfl
  cases up with
  | true =>
    rw [hr, if_pos rfl]
    cases neg with
    | false => exact .inl (hround 2 (by omega))
    | true => exact .inr (.inl (hround 3 (by omega)))
  | false =>
    rw [hr, if_neg Bool.false_ne_true]
    by_cases hfl : (F.round 1 sat neg m q sticky).2 &&& fOF ≠ 0
    · rw [if_pos hfl]
      refine .inr (.inr ⟨?_, hround 0 (by omega)⟩)
      rcases overflows_of_flag (hround 1 (by omega)) hfl with ⟨h, -⟩ | ⟨-, h, -⟩ | ⟨-, -, h⟩
      · omega
      · simp [roundsAway] at h
      · exact h
    · rw [if_neg hfl, round_toward_zero]
      cases neg with
      | false => exact .inr (.inl (hround 3 (by omega)))
      | true => exact .inl (hround 2 (by omega))

theorem rcp_spec (hF : Shape F) (code : BitVec 3) (sat : Bool) {x : Nat} {n : Bool} (hval : F.val x = .fin n m q) (hm : m ≠ 0) :
    let v := (FV.fin n m q).real⁻¹
    F.Rounded 2 sat v (F.rcp code sat x) ∨ F.Rounded 3 sat v (F.rcp code sat x) ∨
      (F.largest + F.topStep ≤ |v| ∧ F.Rounded 0 sat v (F.rcp code sat x)) := by
  intro v
  have hr : F.rcp code sat x = F.bracket (Config.rcpUp code.toNat x) sat n (2 ^ (F.f + 4 + Nat.log2 m) / m)
      (-q - (F.f + 4 + Nat.log2 m : Nat)) (decide (2 ^ (F.f + 4 + Nat.log2 m) % m ≠ 0)) := by
    simp only [Fmt.rcp, hval, hm, if_false]
  have hdigits : 2 ^ (F.f + 2) ≤ 2 ^ (F.f + 4 + Nat.log2 m) / m := by
    have := digits_div (f := F.f) one_ne_zero hm
    rwa [Nat.one_mul] at this
  have hv : v = (if n then -1 else 1) *
      (((2 ^ (F.f + 4 + Nat.log2 m) : Nat) : ℝ) / m * 2 ^ (-q - ((F.f + 4 + Nat.log2 m : Nat) : Int))) := by
    have h1 : (m : ℝ) ≠ 0 := by exact_mod_cast hm
    show (FV.fin n m q).real⁻¹ = _
    generalize F.f + 4 + Nat.log2 m = k
    rw [real_fin, mul_inv, sign_inv, zpow_sub₀ two_ne_zero, zpow_neg, zpow_natCast]
    push_cast
    field_simp
  rw [hr, hv]
  exact bracket_spec hF _ (by have := Nat.two_pow_pos (F.f + 2); omega) (sliver_div _ hm _) fun _ => hdigits

/-- The operand of a reciprocal root with an even exponent. -/
def evenArg (m : Nat) (q : Int) : Nat × Int := if q % 2 = 0 then (m, q) else (2 * m, q - 1)

theorem evenArg_even (m : Nat) (q : Int) : (evenArg m q).2 % 2 = 0 := by
  rw [evenArg]; split <;> simp only <;> omega

theorem evenArg_ne_zero (hm : m ≠ 0) (q : Int) : (evenArg m q).1 ≠ 0 := by
  rw [evenArg]; split <;> simp only <;> omega

theorem evenArg_real (m : Nat) (q : Int) : ((evenArg m q).1 : ℝ) * 2 ^ (evenArg m q).2 = m * 2 ^ q := by
  rw [evenArg]
  split
  · rfl
  · rw [zpow_sub_one₀ two_ne_zero]; push_cast; ring

/-- The root of a power of four over a number, cut to an integer, with what is left as a sliver. -/
theorem sliver_rsq (hm : m ≠ 0) (k : Nat) (q : Int) :
    Sliver (isqrt (2 ^ (2 * k) / m)) q (decide (isqrt (2 ^ (2 * k) / m) * isqrt (2 ^ (2 * k) / m) * m ≠ 2 ^ (2 * k)))
      (√((2 : ℝ) ^ (2 * k) / m) * 2 ^ q) := by
  have hm0 : (0 : ℝ) < m := by exact_mod_cast Nat.pos_of_ne_zero hm
  obtain ⟨hlo, hhi⟩ := isqrt_spec (2 ^ (2 * k) / m)
  refine sliver_sqrt ?_ ?_ ?_ q
  · rw [le_div_iff₀ hm0]
    exact_mod_cast (Nat.le_div_iff_mul_le (Nat.pos_of_ne_zero hm)).mp hlo
  · rw [div_lt_iff₀ hm0]
    exact_mod_cast (Nat.div_lt_iff_lt_mul (Nat.pos_of_ne_zero hm)).mp hhi
  · rw [decide_eq_false_iff_not, not_not, eq_div_iff hm0.ne']
    norm_cast

/-- A reciprocal root stays below the largest finite value. -/
theorem rsq_le_largest (hF : Shape F) {x : Nat} (hx : x < 2 ^ F.bits) (hval : F.val x = .fin false m q) (hm : m ≠ 0) :
    (√(FV.fin false m q).real)⁻¹ ≤ F.largest := by
  obtain ⟨hcan, -⟩ := canonical_of_val hF hx hval
  have hfull := le_mul_zpow (q := F.maxQ) ((canonical_max hF).normal.resolve_left (by have := hF.qmin_lt_maxQ; omega))
  have hroot : (2 : ℝ) ^ (-((F.f : Int) + F.maxQ)) ≤ √(FV.fin false m q).real := by
    refine Real.le_sqrt_of_sq_le ?_
    rw [real_fin, if_neg Bool.false_ne_true, one_mul, ← zpow_natCast, ← zpow_mul]
    calc (2 : ℝ) ^ (-((F.f : Int) + F.maxQ) * (2 : Nat)) ≤ 2 ^ ((0 : Nat) + q) :=
          zpow_two_le (by have := hF.half_range; have := hcan.qmin_le; push_cast; omega)
      _ ≤ m * 2 ^ q := le_mul_zpow (by rw [pow_zero]; exact Nat.pos_of_ne_zero hm)
  calc (√(FV.fin false m q).real)⁻¹ ≤ (2 ^ (-((F.f : Int) + F.maxQ)))⁻¹ := inv_anti₀ (by positivity) hroot
    _ = 2 ^ ((F.f : Int) + F.maxQ) := by rw [zpow_neg, inv_inv]
    _ ≤ F.largest := hfull

theorem digits_rsq {m f : Nat} (hm : m ≠ 0) : 2 ^ (f + 2) ≤ isqrt (2 ^ (2 * (f + 4 + Nat.log2 m)) / m) := by
  apply le_isqrt
  rw [Nat.le_div_iff_mul_le (Nat.pos_of_ne_zero hm)]
  calc 2 ^ (f + 2) * 2 ^ (f + 2) * m ≤ 2 ^ (f + 2) * 2 ^ (f + 2) * 2 ^ (Nat.log2 m + 1) := Nat.mul_le_mul_left _ Nat.lt_log2_self.le
    _ ≤ 2 ^ (2 * (f + 4 + Nat.log2 m)) := by rw [← pow_add, ← pow_add]; exact Nat.pow_le_pow_right (by omega) (by omega)

theorem rsq_spec (hF : Shape F) (code : BitVec 3) {x : Nat} (hx : x < 2 ^ F.bits) (hval : F.val x = .fin false m q) (hm : m ≠ 0) :
    let v := (√(FV.fin false m q).real)⁻¹
    F.Rounded 2 false v (F.rsq code x) ∨ F.Rounded 3 false v (F.rsq code x) := by
  intro v
  have hr : F.rsq code x = let p := evenArg m q
      let k := F.f + 4 + Nat.log2 p.1
      F.bracket (Config.rsqUp code.toNat x) false false (isqrt (2 ^ (2 * k) / p.1)) (-(p.2 / 2) - k)
        (decide (isqrt (2 ^ (2 * k) / p.1) * isqrt (2 ^ (2 * k) / p.1) * p.1 ≠ 2 ^ (2 * k))) := by
    simp only [Fmt.rsq, hval, hm, if_false, Bool.false_eq_true, evenArg]
    split <;> rfl
  have hne := evenArg_ne_zero hm q
  have hv : v = (√((evenArg m q).1 : ℝ))⁻¹ * 2 ^ (-((evenArg m q).2 / 2)) := by
    show (√(FV.fin false m q).real)⁻¹ = _
    rw [real_fin, if_neg Bool.false_ne_true, one_mul, ← evenArg_real, sqrt_mul_zpow (evenArg_even m q), mul_inv, zpow_neg]
  have hbound := rsq_le_largest hF hx hval hm
  simp only at hr
  generalize evenArg m q = p at hr hne hv
  have hdigits := digits_rsq (f := F.f) hne
  generalize F.f + 4 + Nat.log2 p.1 = k at hr hdigits
  have hroot : √((2 : ℝ) ^ (2 * k) / p.1) * 2 ^ (-(p.2 / 2) - (k : Int)) = v := by
    rw [hv, Real.sqrt_div (by positivity), Nat.mul_comm, pow_mul, Real.sqrt_sq (by positivity), zpow_sub₀ two_ne_zero, zpow_natCast]
    field_simp
  have hs := hroot ▸ sliver_rsq hne k (-(p.2 / 2) - (k : Int))
  have := bracket_spec (sat := false) (neg := false) hF (Config.rsqUp code.toNat x)
    (by have := Nat.two_pow_pos (F.f + 2); omega) hs fun _ => hdigits
  rw [hr]
  simp only [if_neg Bool.false_ne_true, one_mul] at this
  rcases this with h | h | ⟨h, -⟩
  · exact .inl h
  · exact .inr h
  · have hT : 0 < F.topStep := by rw [Fmt.topStep]; positivity
    have hpos : 0 ≤ v := by rw [hv]; positivity
    rw [abs_of_nonneg hpos] at h
    linarith

end Bracket

end Sys2Proof.Machine.Arithmetic
end

section
/-! Zeros, infinities and NaNs (R93, R96, R99, R152 to R160), and the statements about what the floating functions compute. -/

namespace Sys2Proof.Machine.Arithmetic

open FloatFormat Rounding FlaggedLanes

/-! ### Special operands -/

section Special
variable {F : Fmt} {mode : Nat} {sat : Bool} {code : BitVec 3} {x : Nat}

/-- Equal halves copy every value that is no NaN, but an infinity with `.sat` (R160). -/
theorem convBits_self (h : ((fmtOf code).val x).isNan = false) (h' : (sat && ((fmtOf code).val x).isInf) = false) :
    convBits code code mode sat x = (x, 0) := by
  simp [convBits, h, h']

theorem convBits_self_inf {n : Bool} (h : (fmtOf code).val x = .inf n) :
    convBits code code mode sat x = if sat then (fmtOf code).passInf sat n else (x, 0) := by
  cases sat <;> simp [convBits, h, FV.isNan, FV.isInf, Fmt.conv]

theorem convBits_self_nan {c : Bool} (h : (fmtOf code).val x = .nan c) :
    convBits code code mode sat x = ((fmtOf code).nan, (FV.nan c).nv) := by
  simp [convBits, h, FV.isNan, Fmt.conv]

/-- Only a signalling NaN raises NV by itself (R97). -/
theorem nv_nan (c : Bool) : (FV.nan c).nv = if c then fNV else 0 := by cases c <;> rfl

theorem exists_nan {a : FV} (h : a.isNan = true) : ∃ c, a = .nan c := by
  cases a with
  | nan c => exact ⟨c, rfl⟩
  | inf n => cases h
  | fin n m q => cases h

/-- A NaN operand of a sum, product or quotient gives the canonical NaN (R93). -/
theorem nan_operand (F : Fmt) (mode : Nat) (sat : Bool) {a b : FV} (h : a.isNan = true ∨ b.isNan = true) (c : FV) :
    F.add mode sat a b = (F.nan, a.nv ||| b.nv) ∧ F.mul mode sat a b = (F.nan, a.nv ||| b.nv) ∧
      F.div mode sat a b = (F.nan, a.nv ||| b.nv) ∧ F.fma mode sat a b c = (F.nan, a.nv ||| b.nv ||| c.nv) := by
  have hor : (a.isNan || b.isNan) = true := by simpa using h
  have hpair : F.add mode sat a b = (F.nan, a.nv ||| b.nv) ∧ F.div mode sat a b = (F.nan, a.nv ||| b.nv) := by
    rcases h with h | h
    · obtain ⟨s, rfl⟩ := exists_nan h
      cases b <;> exact ⟨rfl, rfl⟩
    · obtain ⟨s, rfl⟩ := exists_nan h
      cases a <;> exact ⟨rfl, rfl⟩
  exact ⟨hpair.1, by rw [Fmt.mul, if_pos hor], hpair.2, by rw [Fmt.fma, if_pos hor]⟩

/-- An infinite factor: invalid with a zero, else an infinity that passes through (R96, R152). -/
theorem mul_inf_fin (na nb : Bool) (m : Nat) (q : Int) :
    F.mul mode sat (.inf na) (.fin nb m q) = if m = 0 then (F.nan, fNV) else F.passInf sat (xor na nb) := by
  by_cases hm : m = 0 <;> simp [Fmt.mul, FV.mul, FV.isNan, hm]

theorem mul_fin_inf (na nb : Bool) (m : Nat) (q : Int) :
    F.mul mode sat (.fin na m q) (.inf nb) = if m = 0 then (F.nan, fNV) else F.passInf sat (xor na nb) := by
  by_cases hm : m = 0 <;> simp [Fmt.mul, FV.mul, FV.isNan, hm]

end Special

/-! ### The statements -/

/-- Settles O20: every function cuts the exact result to digits and a sliver (`Sliver`), which one rounding turns into the rounded value
(`rounded_roundNZ`); the special operands by the cases of each function. -/
theorem floatRounding : Obligations.FloatRounding := by
  intro code mode sat hmode F infRes
  have hF : Shape F := shape code
  refine ⟨fun na ma qa nb mb qb => ?arith, fun n m q => ?unary, fun v => ?ofInt, fun x n m q hx hval => ?finite, fun x n hval => ?infBits,
    fun x c hval => ?nanBits, fun na nb m q => ?infinite, fun a b c h => nan_operand F mode sat h c, fun a b c ha hb => ?fma,
    fun a ha => ?nan⟩
  case arith =>
    obtain ⟨hadd, hadd0⟩ := addFin_spec hF hmode sat na nb ma mb qa qb
    obtain ⟨hmul, hmul0⟩ := mul_spec hF hmode sat na nb ma mb qa qb
    simp only [ne_eq, real_eq_zero]
    refine ⟨hadd, hadd0, ?_, ?_, fun ha hb => div_spec hF hmode sat na nb qa qb ha hb, fun ha hb => ?_, fun ha hb => ?_, fun ha hb => ?_,
      fun nc mc qc => fma_spec hF hmode sat na nb nc ma mb mc qa qb qc⟩
    · exact hmul
    · exact hmul0
    · simp [Fmt.div, ha, hb]
    · simp [Fmt.div, ha, hb]
    · simp [Fmt.div, ha, hb]
  case unary =>
    refine ⟨fun hm hn => hn ▸ sqrt_spec hF hmode q hm, fun hm hn => by simp [Fmt.sqrt, hm, hn], fun hm => by simp [Fmt.sqrt, hm],
      fun hm => rounded_exact hF hmode sat n hm, fun hm => by rw [hm]; rfl,
      fun k => ⟨fun hm => scale_spec hF hmode sat n q k hm, fun hm => by rw [hm]; rfl⟩, toInt_spec hmode n m q⟩
  case ofInt =>
    refine ⟨fun hv => ofInt_spec hF hmode sat hv, fun hv => ?_⟩
    rw [hv]
    simp [Fmt.ofInt, Fmt.round, Fmt.sign, b2n]
  case finite =>
    refine ⟨fun hm => by simp [Fmt.rnd, hval, hm], fun hm => rnd_spec hF hmode hx hval hm, ?_, ?_,
      fun hm hn => by simp [Fmt.rsq, hval, hm, hn], fun hm => ⟨by simp [Fmt.rcp, hval, hm], by simp [Fmt.rsq, hval, hm]⟩, ?_⟩
    · rintro hm v rfl
      exact rcp_spec hF code sat hval hm
    · rintro hm rfl v rfl
      exact rsq_spec hF code hx hval hm
    · exact convBits_self (by rw [hval]; rfl) (by rw [hval]; simp [FV.isInf])
  case infBits =>
    refine ⟨by simp [Fmt.rnd, hval], by simp [Fmt.rcp, hval], ?_, convBits_self_inf hval⟩
    simp [Fmt.rsq, hval, Fmt.sign, b2n]
  case nanBits =>
    rw [← nv_nan]
    exact ⟨by simp [Fmt.rnd, hval], by simp [Fmt.rcp, hval], by simp [Fmt.rsq, hval], convBits_self_nan hval⟩
  case infinite =>
    refine ⟨rfl, rfl, rfl, rfl, mul_inf_fin na nb m q, ?_, rfl, ?_, rfl, rfl, rfl, fun _ => rfl, fun ty => ?_⟩
    · exact (mul_fin_inf nb na m q).trans ((mul_inf_fin na nb m q).trans (by rw [Bool.xor_comm])).symm
    · rw [Bool.xor_comm]; rfl
    · rw [toInt, wrapN_eq]
  case fma =>
    rw [Fmt.fma, ha, hb]
    rfl
  case nan =>
    obtain ⟨c, rfl⟩ := exists_nan ha
    exact ⟨rfl, rfl, fun _ => rfl, fun _ => rfl⟩

/-- The words of `FloatNan` write the canonical NaN in a lane with a NaN operand. -/
theorem nan_lane {f : Fmt → Nat → Bool → FV → FV → FRes} {i : VF2 → Instr} (hexec : ∀ o s, exec (i o) s = vecF2 (i o) o f s)
    (hf : ∀ F mode sat a b, a.isNan = true ∨ b.isNan = true → (f F mode sat a b).1 = F.nan) {s : State} {k : Nat} {T : Team} {o : VF2}
    (h : TeamIssuing s (i o) k T) (hl : limVF2 o T = true) : ∃ t T', exec (i o) s = .next t ∧ t.team? k = some T' ∧
      ∀ l ∈ T.active o.g.toNat, (T.fval o.ty o.a.toNat l).isNan = true ∨ (T.fval o.ty o.b.toNat l).isNan = true →
        T'.vrd (fWide o.ty) o.d.toNat l = laneBits (fWide o.ty) (fmtOf o.ty).nan := by
  obtain ⟨t, ht, T', -, hteam, hval, -⟩ := vec_wroteF h 8 hl o.g.toNat (fWide o.ty) o.d fun T l =>
    f (fmtOf o.ty) (rmode T.th.rm o.rnd) o.sat (T.fval o.ty o.a.toNat l) (T.fval o.ty o.b.toNat l)
  exact ⟨t, T', (hexec o s).trans ht, hteam, fun l hlane hnan =>
    (hval l hlane).trans (congrArg (laneBits (fWide o.ty)) (hf _ _ _ _ _ hnan))⟩

/-- The canonical NaN of each format of the floating group (R93), as a lane takes it. -/
theorem laneBits_nan {ty : BitVec 3} (h : ty.toNat ≤ 3) : laneBits (fWide ty) (fmtOf ty).nan =
    [0x7FF8000000000000, 0x7FC00000, 0x7E00, 0x7FC0].getD ty.toNat 0 := by
  revert ty; decide

theorem ty_le_of_wf {o : VF2} {r st : Bool} (h : o.wf r st = true) : o.ty.toNat ≤ 3 := by
  simp only [VF2.wf, Bool.and_eq_true, decide_eq_true_eq] at h
  tauto

/-- Settles O17: all three words are `vecF2` of a function that gives the canonical NaN for a NaN operand (`nan_operand`). -/
theorem floatNan : Obligations.FloatNan := by
  unfold Obligations.FloatNan
  intro canon s k T o i hi hwf h hl
  have hcanon : ∀ {r st : Bool}, o.wf r st = true → canon o.ty = laneBits (fWide o.ty) (fmtOf o.ty).nan := fun h =>
    (laneBits_nan (ty_le_of_wf h)).symm
  have hneg : ∀ a b : FV, a.isNan = true ∨ b.isNan = true → a.isNan = true ∨ b.neg.isNan = true := by
    intro a b hab
    cases b <;> exact hab
  rcases hi with rfl | rfl | rfl
  · rw [show canon o.ty = _ from (laneBits_nan (ty_le_of_wf hwf)).symm]
    exact nan_lane exec_vfadd (fun F mode sat a b hab => by rw [(nan_operand F mode sat hab a).1]) h hl
  · rw [show canon o.ty = _ from (laneBits_nan (ty_le_of_wf hwf)).symm]
    exact nan_lane exec_vfsub (fun F mode sat a b hab => by rw [(nan_operand F mode sat (hneg a b hab) a).1]) h hl
  · rw [show canon o.ty = _ from (laneBits_nan (ty_le_of_wf hwf)).symm]
    exact nan_lane exec_vfmul (fun F mode sat a b hab => by rw [(nan_operand F mode sat hab a).2.1]) h hl

/-! ### Products with 1 -/

/-- The bits of 1 in each format of the floating group. -/
def oneBits (ty : BitVec 3) : Nat := [0x3FF0000000000000, 0x3F800000, 0x3C00, 0x3F80].getD ty.toNat 0

theorem val_oneBits {ty : BitVec 3} (h : ty.toNat ≤ 3) : (fmtOf ty).val (oneBits ty) = .fin false (2 ^ (fmtOf ty).f) (-(fmtOf ty).f) := by
  revert ty; decide

/-- A finite value times 1 is itself (R95 to R97). -/
theorem mul_one_eq {F : Fmt} (hF : Shape F) {mode : Nat} (hmode : mode < 4) (sat : Bool) {x : Nat} (hx : x < 2 ^ F.bits)
    {n : Bool} {m : Nat} {q : Int} (hval : F.val x = .fin n m q) : F.mul mode sat (.fin n m q) (.fin false (2 ^ F.f) (-F.f)) = (x, 0) := by
  have hone : (FV.fin false (2 ^ F.f) (-F.f)).real = 1 := by
    rw [real_fin, if_neg Bool.false_ne_true]
    push_cast
    rw [one_mul, ← zpow_natCast, ← zpow_add₀ two_ne_zero, add_neg_cancel, zpow_zero]
  obtain ⟨hne, hzero⟩ := mul_spec hF hmode sat n false m (2 ^ F.f) q (-F.f)
  rw [hone, mul_one] at hne hzero
  by_cases hm : (FV.fin n m q).real = 0
  · obtain ⟨hcan, hbits⟩ := canonical_of_val hF hx hval
    rw [hzero hm, hbits, real_eq_zero.mp hm]
    simp [encodeFin]
  · exact rounded_eq_of_finite hF hmode (hne hm) ⟨hx, n, m, q, hval, rfl⟩ hm

theorem rmode_lt (rm : BitVec 2) (rnd : BitVec 3) : rmode rm rnd < 4 := by revert rm rnd; decide

theorem fbits_lt (T : Team) (ty : BitVec 3) (r l : Nat) : T.fbits ty r l < 2 ^ (fmtOf ty).bits := Nat.mod_lt _ (Nat.two_pow_pos _)

theorem exists_fin {a : FV} (hn : a.isNan = false) (hi : a.isInf = false) : ∃ n m q, a = .fin n m q := by
  cases a with
  | nan c => cases hn
  | inf n => cases hi
  | fin n m q => exact ⟨n, m, q, rfl⟩

/-- Only what the active lanes take matters. -/
theorem wroteV_congr {s t : State} {k : Nat} {T : Team} {ls : List Nat} {wide : Bool} {d len : Nat} {f g : Nat → Nat} {fl : BitVec 5}
    (h : WroteV s t k T ls wide d f fl len) (hfg : ∀ l ∈ ls, f l = g l) : WroteV s t k T ls wide d g fl len := by
  obtain ⟨T', hset, hteam, hval, hrest⟩ := h
  exact ⟨T', hset, hteam, fun l hl => hfg l hl ▸ hval l hl, hrest⟩

theorem foldl_or_zero {ls : List Nat} {c : Nat → Flg} (h : ∀ l ∈ ls, c l = 0) : ls.foldl (fun x l => x ||| c l) 0 = 0 := by
  induction ls with
  | nil => rfl
  | cons l ls ih =>
    rw [List.foldl_cons, h l List.mem_cons_self]
    exact ih fun j hj => h j (List.mem_cons_of_mem _ hj)

/-- Settles O18: in each lane the exact product is the operand (`mul_one_eq`), a representable value that rounds to itself without a
flag. -/
theorem multiplyByOne : Obligations.MultiplyByOne := by
  unfold Obligations.MultiplyByOne
  intro one s k T o h hwf hl hlanes
  have hty : o.ty.toNat ≤ 3 := ty_le_of_wf hwf
  have hprod : ∀ l ∈ T.active o.g.toNat,
      (fmtOf o.ty).mul (rmode T.th.rm o.rnd) o.sat (T.fval o.ty o.a.toNat l) (T.fval o.ty o.b.toNat l) =
        (T.fbits o.ty o.a.toNat l, 0) := fun l hlane => by
    obtain ⟨hone, hnan, hinf⟩ := hlanes l hlane
    obtain ⟨n, m, q, hval⟩ := exists_fin hnan hinf
    have hb : T.fval o.ty o.b.toNat l = .fin false (2 ^ (fmtOf o.ty).f) (-(fmtOf o.ty).f) := by
      rw [Team.fval, hone]
      exact val_oneBits hty
    rw [hval, hb]
    exact mul_one_eq (shape o.ty) (rmode_lt _ _) o.sat (fbits_lt T o.ty _ l) hval
  obtain ⟨t, ht, hw⟩ := vec_wroteF h 8 hl o.g.toNat (fWide o.ty) o.d fun T l =>
    (fmtOf o.ty).mul (rmode T.th.rm o.rnd) o.sat (T.fval o.ty o.a.toNat l) (T.fval o.ty o.b.toNat l)
  refine ⟨t, (exec_vfmul o s).trans ht, ?_⟩
  rw [foldl_or_zero fun l hlane => by rw [hprod l hlane]] at hw
  exact wroteV_congr hw fun l hlane => by rw [hprod l hlane]

end Sys2Proof.Machine.Arithmetic
end

section
/-! The two-source uniform words (R112, R113, R115, R116): each operation on numbers is the one on n-bit vectors; quotients and
remainders are queued. -/

namespace Sys2Proof.Machine.TwoSource

open OneSource VectorInteger

/-- An operation on numbers that agrees with `f` on n-bit vectors gives a word that writes `f`. -/
theorem uniBinary_of_run {i : UBin → Instr} {op : IOp} {imm : Bool} {f : (n : Nat) → Bool → BitVec n → BitVec n → BitVec n}
    (hexec : ∀ o s, exec (i o) s = uni s (i o) (srcLen o.src) (uniBin op imm o))
    (hf : ∀ ty x y, IOp.run op ty x y = (f (tyBits ty) (tySigned ty) (lowN ty x) (lowN ty y)).toNat) : UniBinary i imm f := by
  intro s a th o h
  obtain ⟨t, ht, hw⟩ := uni_wrote h o.d.toNat
    (fun th => extTo 64 o.ty (op.run o.ty (th.rd o.a.toNat).toNat (th.src imm o.src).toNat)) (srcLen o.src)
  refine ⟨t, (hexec o s).trans ht, ?_⟩
  simpa only [extTo_eq_extend, hf, BitVec.ofNat_toNat, BitVec.setWidth_eq, lowN, low] using hw

/-! ### Shifts and rotates read the low bits of their count unsigned (R115) -/

theorem run_shl (ty : BitVec 3) (x y : Nat) : IOp.run .shl ty x y = (lowN ty x <<< (lowN ty y).toNat).toNat := by
  rw [lowN, lowN, BitVec.toNat_ofNat]
  exact shift_shl ty x _

theorem run_shr (ty : BitVec 3) (x y : Nat) : IOp.run .shr ty x y = (lowN ty x >>> (lowN ty y).toNat).toNat := by
  rw [lowN, lowN, BitVec.toNat_ofNat]
  exact shift_shr ty x _

theorem run_sar (ty : BitVec 3) (x y : Nat) : IOp.run .sar ty x y = ((lowN ty x).sshiftRight (lowN ty y).toNat).toNat := by
  rw [show (lowN ty y).toNat = _ from BitVec.toNat_ofNat ..]
  exact shift_sar ty x _

theorem run_rotl (ty : BitVec 3) (x y : Nat) : IOp.run .rotl ty x y = ((lowN ty x).rotateLeft (lowN ty y).toNat).toNat := by
  rw [show (lowN ty y).toNat = _ from BitVec.toNat_ofNat ..]
  exact shift_rotl ty x _

/-! ### Quotient and remainder (R116) -/

theorem tyVal_eq_zero_iff (ty : BitVec 3) (y : Nat) : tyVal ty y = 0 ↔ lowN ty y = 0 := by
  have hzero : tyVal ty 0 = 0 := by clear y; revert ty; decide
  rw [← hzero]
  exact tyVal_inj ty y 0

theorem ofInt_tdiv_toInt {n : Nat} (x y : BitVec n) : BitVec.ofInt n (x.toInt.tdiv y.toInt) = x.sdiv y := by
  apply BitVec.eq_of_toInt_eq
  rw [BitVec.toInt_ofInt, BitVec.toInt_sdiv]

theorem ofInt_tmod_toInt {n : Nat} (x y : BitVec n) : BitVec.ofInt n (x.toInt.tmod y.toInt) = x.srem y := by
  rw [← BitVec.toInt_srem, BitVec.ofInt_toInt]

theorem ofNat_run_div (ty : BitVec 3) (x y : Nat) : BitVec.ofNat (tyBits ty) (IOp.run .div ty x y) =
    if lowN ty y = 0 then BitVec.allOnes _ else if tySigned ty then (lowN ty x).sdiv (lowN ty y) else (lowN ty x).udiv (lowN ty y) := by
  simp only [IOp.run, IOp.exact, ofNat_wrapN, divN, tyVal_eq_zero_iff]
  split
  · rw [BitVec.ofInt_neg, ← BitVec.neg_one_eq_allOnes]
    rfl
  · rw [tyVal_eq, tyVal_eq]
    cases tySigned ty with
    | true => exact ofInt_tdiv_toInt _ _
    | false =>
      simp only [Bool.false_eq_true, if_false, ← Int.ofNat_tdiv, ofInt_nat_mod, ← BitVec.toNat_udiv, BitVec.ofNat_toNat, BitVec.setWidth_eq, lowN]
      rfl

theorem ofNat_run_rem (ty : BitVec 3) (x y : Nat) : BitVec.ofNat (tyBits ty) (IOp.run .rem ty x y) =
    if lowN ty y = 0 then lowN ty x else if tySigned ty then (lowN ty x).srem (lowN ty y) else (lowN ty x).umod (lowN ty y) := by
  simp only [IOp.run, IOp.exact, ofNat_wrapN, remN, tyVal_eq_zero_iff]
  split
  · exact lowN_tyVal ty x
  · rw [tyVal_eq, tyVal_eq]
    cases tySigned ty with
    | true => exact ofInt_tmod_toInt _ _
    | false =>
      simp only [Bool.false_eq_true, if_false, ← Int.ofNat_tmod, ofInt_nat_mod, ← BitVec.toNat_umod, BitVec.ofNat_toNat, BitVec.setWidth_eq, lowN]
      rfl

/-- A word of `uniDiv` queues the n-bit result of its operation, extended. -/
theorem uniDiv_queued {s : State} {i : Instr} {a : Agent} {th : Thread} (h : Issuing s i a th) (op : IOp) (o : UBin)
    {v : BitVec (tyBits o.ty)} (hv : BitVec.ofNat _ (op.run o.ty (th.rd o.a.toNat).toNat (th.src true o.src).toNat) = v) :
    ∃ t, uniDiv op o i s = .next t ∧ Queued s t a th (srcLen o.src) [] (.result [.s o.d.toNat (extend o.ty v)] 0) := by
  refine ⟨_, issue_go h rfl, ?_⟩
  simp only [h.thread, uniBin, Thread.rd_wr_self, extTo_eq_extend, hv]
  exact later_queued h.thread _ _ _

theorem low_eq_lowN (ty : BitVec 3) (x : W64) : low ty x = lowN ty x.toNat := low_eq_ofNat ty x

/-- Settles O1: each word is `uni` of an operation that agrees with the one on vectors (`uniBinary_of_run`), or queues its result
(`uniDiv_queued`). -/
theorem uniformTwoSource : Obligations.UniformTwoSource := by
  refine ⟨uniBinary_of_run exec_add run_add, uniBinary_of_run exec_sub run_sub, uniBinary_of_run exec_mul run_mul,
    uniBinary_of_run exec_mulh run_mulh, uniBinary_of_run exec_min run_min_tyLt, uniBinary_of_run exec_max run_max_tyLt,
    uniBinary_of_run exec_and run_and, uniBinary_of_run exec_or run_or, uniBinary_of_run exec_xor run_xor,
    uniBinary_of_run exec_andn run_andn, uniBinary_of_run exec_shl run_shl, uniBinary_of_run exec_shr run_shr,
    uniBinary_of_run exec_sar run_sar, uniBinary_of_run exec_rotl run_rotl, fun s a th o => ⟨fun h => ?_, fun h => ?_⟩⟩
  · rw [exec_div, low_eq_lowN, low_eq_lowN]
    exact uniDiv_queued h .div o (ofNat_run_div _ _ _)
  · rw [exec_rem, low_eq_lowN, low_eq_lowN]
    exact uniDiv_queued h .rem o (ofNat_run_rem _ _ _)

end Sys2Proof.Machine.TwoSource
end

section
/-! Little-endian fields (R5): what a read at an offset finds in bytes that are put together field by field. -/

namespace Sys2Proof.Machine.Bytes

open BitPlane

@[simp] theorem length_natLe (n x : Nat) : (natLe n x).length = n := by
  induction n generalizing x with
  | zero => rfl
  | succ n ih => simp [natLe, ih]

@[simp] theorem length_zeros (n : Nat) : (zeros n).length = n := List.length_replicate

@[simp] theorem length_laneBytes (n : Nat) (f : Nat → Bool) : (laneBytes n f).length = n := by simp [laneBytes]

theorem leNat_natLe (n x : Nat) : leNat (natLe n x) = x % 256 ^ n := by
  induction n generalizing x with
  | zero => simp [natLe, leNat, Nat.mod_one]
  | succ n ih =>
    rw [natLe, leNat, ih, BitVec.toNat_ofNat, show 2 ^ 8 = 256 from rfl, pow_succ', Nat.mod_mul]

@[simp] theorem leNat_replicate_zero (n : Nat) : leNat (List.replicate n 0#8) = 0 := by
  induction n with
  | zero => rfl
  | succ n ih => simp [List.replicate_succ, leNat, ih]

theorem leNat_lt (bs : List Byte) : leNat bs < 256 ^ bs.length := by
  induction bs with
  | nil => simp [leNat]
  | cons b r ih =>
    rw [leNat, List.length_cons, Nat.pow_succ]
    omega

theorem leAt_lt (bs : List Byte) (off n : Nat) : leAt bs off n < 256 ^ n :=
  (leNat_lt _).trans_le (Nat.pow_le_pow_right (by omega) (List.length_take_le _ _))

/-- A read past the first bytes is a read of what follows them. -/
theorem leAt_append_right {a : List Byte} {off : Nat} (r : List Byte) (n : Nat) (h : a.length ≤ off) :
    leAt (a ++ r) off n = leAt r (off - a.length) n := by
  rw [leAt, leAt, List.drop_append, List.drop_eq_nil_of_le h, List.nil_append]

theorem leAt_append_left {a : List Byte} {off n : Nat} (r : List Byte) (h : off + n ≤ a.length) :
    leAt (a ++ r) off n = leAt a off n := by
  rw [leAt, leAt, List.drop_append_of_le_length (by omega), List.take_append_of_le_length (by simp; omega)]

@[simp] theorem leAt_natLe (n x : Nat) : leAt (natLe n x) 0 n = x % 256 ^ n := by
  rw [leAt, List.drop_zero, List.take_of_length_le (by simp), leNat_natLe]

theorem getD_zeros (n i : Nat) : (zeros n).getD i 0 = 0 := by simp [zeros, List.getD_eq_getElem?_getD, List.getElem?_replicate]; split <;> rfl

theorem leAt_zeros (n off k : Nat) : leAt (zeros n) off k = 0 := by
  simp [leAt, zeros]

/-- A lane's bit in a field of lanes. -/
theorem byteBit_laneBytes {n i : Nat} (f : Nat → Bool) (h : i < 8 * n) : byteBit (laneBytes n f) i = f i := by
  have hi : i / 8 < n := by omega
  have hb : i % 8 < 8 := by omega
  rw [byteBit, laneBytes, List.getD_eq_getElem?_getD, List.getElem?_map, List.getElem?_range hi, Option.map_some, Option.getD_some,
    ← OneSource.bitAt_eq_getLsbD hb, OneSource.bitAt_eq_testBit, testBit_foldr_b2n _ _ (by simpa using hb), List.getElem_range,
    Nat.div_add_mod]

theorem byteBit_append_left {a : List Byte} {i : Nat} (r : List Byte) (h : i < 8 * a.length) : byteBit (a ++ r) i = byteBit a i := by
  rw [byteBit, byteBit, List.getD_append _ _ _ _ (by omega)]

/-- The part of equal parts put together that holds an offset. -/
theorem leAt_flatMap {α : Type} {g : α → List Byte} {w : Nat} {xs : List α} (hg : ∀ x, (g x).length = w) {i : Nat} {y : α}
    (hi : xs[i]? = some y) {off n : Nat} (h : off + n ≤ w) : leAt (xs.flatMap g) (w * i + off) n = leAt (g y) off n := by
  induction xs generalizing i with
  | nil => simp at hi
  | cons x xs ih =>
    rw [List.flatMap_cons]
    cases i with
    | zero =>
      obtain rfl : x = y := by simpa using hi
      rw [Nat.mul_zero, Nat.zero_add, leAt_append_left _ (by rw [hg]; omega)]
    | succ i =>
      rw [leAt_append_right _ _ (by rw [hg, Nat.mul_succ]; omega), hg, Nat.mul_succ,
        show w * i + w + off - w = w * i + off by omega, ih (by simpa using hi)]

theorem length_flatMap_const {α : Type} {g : α → List Byte} {w : Nat} (hg : ∀ x, (g x).length = w) (xs : List α) :
    (xs.flatMap g).length = w * xs.length := by
  simp [List.length_flatMap, hg, Nat.mul_comm]

end Sys2Proof.Machine.Bytes
end

section
/-! Teams leave their cores and come back (R131, R249, R250, R289, R292, R293, R352, R366, R407 to R409). -/

namespace Sys2Proof.Machine.Switching

open Bytes

variable {s v : State} {k slot : Nat} {T : Team}

/-! ### Memory is left alone -/

@[simp] theorem takeSlot_mem (s : State) (ctx slot : Nat) : (s.takeSlot ctx slot).mem = s.mem := by
  unfold State.takeSlot
  dsimp only
  split <;> rfl

theorem takeSlot_part (s : State) (ctx slot p : Nat) : (s.takeSlot ctx slot).part p = s.part p := by
  unfold State.takeSlot
  dsimp only
  split <;> rfl

/-! ### The record of a service call (R249) -/

/-- Four values of a calling lane. -/
def laneArgs (T : Team) (a n l : Nat) : List Byte := (List.range 4).flatMap fun x => natLe 8 (if x < n then T.vrd true (a + 2 * x) l else 0)

theorem length_laneArgs (T : Team) (a n l : Nat) : (laneArgs T a n l).length = 32 := length_flatMap_const (fun _ => length_natLe _ _) _

theorem vrd_lt (T : Team) (r l : Nat) : T.vrd true r l < 2 ^ 64 := by
  have h1 := (T.vr r l).isLt
  have h2 := (T.vr (r + 1) l).isLt
  simp only [Team.vrd, if_true]
  omega

theorem leAt_laneArgs (T : Team) (a n l : Nat) {x : Nat} (hx : x < 4) :
    leAt (laneArgs T a n l) (8 * x) 8 = if x < n then T.vrd true (a + 2 * x) l else 0 := by
  have hv : (if x < n then T.vrd true (a + 2 * x) l else 0) < 256 ^ 8 := by
    split
    · exact vrd_lt T _ _
    · norm_num
  have h := leAt_flatMap (g := fun x => natLe 8 (if x < n then T.vrd true (a + 2 * x) l else 0)) (w := 8) (fun _ => length_natLe _ _)
    (List.getElem?_range hx) (off := 0) (n := 8) (by omega)
  rw [laneArgs, ← Nat.add_zero (8 * x), h, leAt_natLe, Nat.mod_eq_of_lt hv]

/-- The 64 bytes before the calling lanes. -/
def callHead (T : Team) (k num n : Nat) (lanes : List Nat) (cid tag reply : Nat) : List Byte :=
  natLe 2 num ++ natLe 1 n ++ natLe 1 T.words ++ natLe 4 ((192 + 32 * lanes.length + 63) / 64 * 64) ++ natLe 2 lanes.length ++
    natLe 2 cid ++ natLe 2 (agentLoc (.team k)) ++ natLe 1 (k % 256) ++ zeros 1 ++ natLe 8 T.th.pc.toNat ++ natLe 4 tag ++ zeros 4 ++
    natLe 8 reply ++ zeros 24

section Record
variable {num a n cid tag reply : Nat} {lanes : List Nat}

theorem callRecord_eq : T.callRecord k num a n lanes cid tag reply = callHead T k num n lanes cid tag reply ++
    (laneBytes 128 (fun l => lanes.contains l) ++ (lanes.flatMap (laneArgs T a n) ++
      zeros ((192 + 32 * lanes.length + 63) / 64 * 64 - (192 + 32 * lanes.length)))) := by
  simp only [Team.callRecord, callHead, List.append_assoc]
  rfl

theorem length_callHead : (callHead T k num n lanes cid tag reply).length = 64 := by simp [callHead]

theorem length_laneArgs_all : (lanes.flatMap (laneArgs T a n)).length = 32 * lanes.length :=
  length_flatMap_const (length_laneArgs T a n) _

theorem length_callRecord :
    (T.callRecord k num a n lanes cid tag reply).length = 64 * ((192 + 32 * lanes.length + 63) / 64) := by
  simp only [callRecord_eq, List.length_append, length_callHead, length_laneArgs_all, length_laneBytes, length_zeros]
  omega

/-- The fields before the calling lanes. -/
theorem callRecord_head (off w : Nat) (h : off + w ≤ 64) :
    leAt (T.callRecord k num a n lanes cid tag reply) off w = leAt (callHead T k num n lanes cid tag reply) off w := by
  rw [callRecord_eq, leAt_append_left _ (by rw [length_callHead]; exact h)]

theorem callHead_fields (hlen : lanes.length ≤ 1024) :
    let b := callHead T k num n lanes cid tag reply
    leAt b 0 2 = num % 2 ^ 16 ∧ leAt b 2 1 = n % 256 ∧ leAt b 3 1 = T.words % 256 ∧
      leAt b 4 4 = 64 * ((192 + 32 * lanes.length + 63) / 64) ∧ leAt b 8 2 = lanes.length ∧ leAt b 10 2 = cid % 2 ^ 16 ∧
      leAt b 12 2 = agentLoc (.team k) % 2 ^ 16 ∧ leAt b 14 1 = k % 256 ∧ leAt b 15 1 = 0 ∧ leAt b 16 8 = T.th.pc.toNat ∧
      leAt b 24 4 = tag % 2 ^ 32 ∧ leAt b 28 4 = 0 ∧ leAt b 32 8 = reply % 2 ^ 64 := by
  have hbytes : (192 + 32 * lanes.length + 63) / 64 * 64 % 4294967296 = 64 * ((192 + 32 * lanes.length + 63) / 64) := by omega
  have hlanes : lanes.length < 65536 := by omega
  have hpc : T.th.pc.toNat < 18446744073709551616 := T.th.pc.isLt
  simp only [callHead, List.append_assoc]
  refine ⟨?_, ?_, ?_, ?_, ?_, ?_, ?_, ?_, ?_, ?_, ?_, ?_, ?_⟩ <;>
  · simp [leAt_append_right, leAt_append_left, leAt_zeros, hbytes, hlanes, hpc]


theorem callRecord_pad {x : Nat} (h1 : 40 ≤ x) (h2 : x < 64) : (T.callRecord k num a n lanes cid tag reply).getD x 0 = 0 := by
  have hfields : (natLe 2 num ++ natLe 1 n ++ natLe 1 T.words ++ natLe 4 ((192 + 32 * lanes.length + 63) / 64 * 64) ++
    natLe 2 lanes.length ++ natLe 2 cid ++ natLe 2 (agentLoc (.team k)) ++ natLe 1 (k % 256) ++ zeros 1 ++ natLe 8 T.th.pc.toNat ++
    natLe 4 tag ++ zeros 4 ++ natLe 8 reply).length = 40 := by simp
  rw [callRecord_eq, List.getD_append _ _ _ _ (by rw [length_callHead]; exact h2), callHead,
    List.getD_append_right _ _ _ _ (by omega), getD_zeros]

theorem callRecord_lanes {l : Nat} (h : l < 1024) :
    byteBit ((T.callRecord k num a n lanes cid tag reply).drop 64) l = lanes.contains l := by
  rw [callRecord_eq, List.drop_append_of_le_length (by rw [length_callHead]), List.drop_of_length_le (by rw [length_callHead]),
    List.nil_append, byteBit_append_left _ (by simpa using h), byteBit_laneBytes _ (by omega)]

theorem callRecord_tail {x : Nat} (h : 192 + 32 * lanes.length ≤ x) : (T.callRecord k num a n lanes cid tag reply).getD x 0 = 0 := by
  rw [callRecord_eq, List.getD_append_right _ _ _ _ (by rw [length_callHead]; omega),
    List.getD_append_right _ _ _ _ (by rw [length_callHead, length_laneBytes]; omega),
    List.getD_append_right _ _ _ _ (by rw [length_callHead, length_laneBytes, length_laneArgs_all]; omega), getD_zeros]

theorem callRecord_args {j l x : Nat} (hj : lanes[j]? = some l) (hx : x < 4) :
    leAt (T.callRecord k num a n lanes cid tag reply) (192 + 32 * j + 8 * x) 8 = if x < n then T.vrd true (a + 2 * x) l else 0 := by
  have hlt : j < lanes.length := (List.getElem?_eq_some_iff.1 hj).1
  rw [callRecord_eq, leAt_append_right _ _ (by rw [length_callHead]; omega), leAt_append_right _ _ (by
    rw [length_callHead, length_laneBytes]; omega), leAt_append_left _ (by
    rw [length_callHead, length_laneBytes, length_laneArgs_all]; omega), length_callHead, length_laneBytes,
    show 192 + 32 * j + 8 * x - 64 - 128 = 32 * j + 8 * x by omega,
    leAt_flatMap (length_laneArgs T a n) hj (by omega), leAt_laneArgs T a n l hx]

end Record

/-! ### Switching out (R249, R293, R352, R407, R409) -/

/-- A team with work outstanding, or of a lost context, stays. -/
theorem switchOut_unsettled (hT : s.team? k = some T) (h : ¬(T.th.pend.all (·.finished) = true ∧ (s.ctx T.ctx).mode ≠ .lost)) :
    s.switchOut k slot = s := by
  simp only [State.switchOut, hT]
  exact if_pos (by simpa only [Bool.or_eq_true, Bool.not_eq_true', decide_eq_true_eq, not_and_or, Bool.not_eq_true, ne_eq, not_not] using h)

/-- So does one that waits for nothing that a switch-out serves. -/
theorem switchOut_other (hT : s.team? k = some T) (h : ∀ w, T.status = .parked w → (∀ why, w ≠ .saving why) ∧
    (∀ num d a n lanes, w ≠ .svc num d a n lanes) ∧ ∀ x d lanes r, w ≠ .called x d lanes r) : s.switchOut k slot = s := by
  simp only [State.switchOut, hT]
  split
  · rfl
  split
  · next hst => exact absurd rfl ((h _ hst).2.2 _ _ _ _)
  · next hst => exact absurd rfl ((h _ hst).2.1 _ _ _ _ _)
  · next hst => exact absurd rfl ((h _ hst).1 _)
  · rfl

section Settled
variable (hT : s.team? k = some T) (hfin : T.th.pend.all (·.finished) = true) (hmode : (s.ctx T.ctx).mode ≠ .lost)
include hT hfin hmode

theorem switchOut_svc {num d a n : Nat} {lanes : List Nat} (hst : T.status = .parked (.svc num d a n lanes)) :
    s.switchOut k slot = if s.slotFree T.ctx slot then s.callSvc k slot T num d a n lanes else s := by
  simp [State.switchOut, hT, hfin, hmode, hst]

theorem switchOut_called {x d : Nat} {lanes : List Nat} {replied : Bool} (hst : T.status = .parked (.called x d lanes replied)) :
    s.switchOut k slot = s.saveSvc k x T d lanes replied := by
  simp [State.switchOut, hT, hfin, hmode, hst]

theorem switchOut_full {why : SwitchReason} (hst : T.status = .parked (.saving why)) (hslot : s.slotFree T.ctx slot = false) :
    s.switchOut k slot = s := by
  simp [State.switchOut, hT, hfin, hmode, hst, hslot]

theorem switchOut_fault {addr : W64} {host : Bool} (hst : T.status = .parked (.saving (.fault addr host)))
    (hslot : s.slotFree T.ctx slot = true) : s.switchOut k slot = s.saveFault k slot T addr host := by
  simp [State.switchOut, hT, hfin, hmode, hst, hslot]

theorem switchOut_stallGrow {d g : Nat} (hst : T.status = .parked (.saving (.stallGrow d g))) (hslot : s.slotFree T.ctx slot = true) :
    s.switchOut k slot = s.saveStall k slot T (.stallGrow d g) g := by
  simp [State.switchOut, hT, hfin, hmode, hst, hslot]

theorem switchOut_stallBar {n seen : Nat} (hst : T.status = .parked (.saving (.stallBar n seen)))
    (hslot : s.slotFree T.ctx slot = true) : s.switchOut k slot = s.saveStall k slot T (.stallBar n seen) 0 := by
  simp [State.switchOut, hT, hfin, hmode, hst, hslot]

end Settled

theorem callSvc_drained {num d a n : Nat} {lanes : List Nat} (h : s.drained (.team k) 5 = true) :
    s.callSvc k slot T num d a n lanes =
      ((s.takeSlot T.ctx slot).setTeam k { T with status := .parked (.called slot d lanes false) }).setPart (ctxPart T.ctx)
        { s.part (ctxPart T.ctx) with waiting := (s.part (ctxPart T.ctx)).waiting ++ [⟨0, .team k,
          T.callRecord k num a n lanes (s.ctx T.ctx).run.cid (s.tagAt (k / 256) T.th.pc) ((s.ctx T.ctx).run.area slot + 0x800),
          (s.part (ctxPart T.ctx)).svc⟩] } := by
  simp only [State.callSvc, h, if_true, State.raiseRecord, State.setTeam_part, takeSlot_part]

theorem callSvc_undrained {num d a n : Nat} {lanes : List Nat} (h : s.drained (.team k) 5 = false) :
    s.callSvc k slot T num d a n lanes = s := by
  simp [State.callSvc, h]

/-- A team that has left its core is switched out, and waits there to return. -/
theorem leftCore_spec (v : State) (k : Nat) (T : Team) (slot : Nat) (why : SwitchReason) (replied : Bool) :
    (v.leftCore k T slot why replied).status? (.team k) = some (.switchedOut slot why replied) ∧
      ((v.leftCore k T slot why replied).core (k / 256)).returning = (v.core (k / 256)).returning ++ [k] ∧
      (v.leftCore k T slot why replied).mem = v.mem ∧ (v.leftCore k T slot why replied).parts = v.parts := by
  simp [State.leftCore, State.status?]

/-! ### Coming back (R250, R293, R366) -/

theorem mayReturn_of_returns {why : SwitchReason} (h : s.returns k T why = true) : s.mayReturn k = true := by
  simp only [State.returns, Bool.and_eq_true, decide_eq_true_eq] at h
  exact List.find?_some h.1.1

theorem exists_place_of_returns {why : SwitchReason} (h : s.returns k T why = true) : ∃ ks, s.placeBack k T why = some ks := by
  simp only [State.returns, Bool.and_eq_true] at h
  revert h
  cases s.placeBack k T why with
  | none => simp
  | some ks => exact fun _ => ⟨ks, rfl⟩

theorem returns_unreplied (hT : s.team? k = some T) {slot : Nat} {why : SwitchReason} (hst : T.status = .switchedOut slot why false)
    (hwhy : (∃ d lanes, why = .svc d lanes) ∨ ∃ addr host, why = .fault addr host) : s.returns k T why = false := by
  rw [← Bool.not_eq_true]
  intro h
  have hm := mayReturn_of_returns h
  rcases hwhy with ⟨d, lanes, rfl⟩ | ⟨addr, host, rfl⟩ <;> simp [State.mayReturn, hT, hst] at hm

theorem placeBack_svc {d : Nat} {lanes place : List Nat} (h : s.placeBack k T (.svc d lanes) = some place) :
    place = T.place ∧ ∀ w ∈ T.place, w ∉ s.wordsHeld (k / 256) := by
  simp only [State.placeBack, Option.ite_none_right_eq_some, Option.some.injEq, List.all_eq_true, Bool.not_eq_true',
    List.contains_eq_mem, decide_eq_false_iff_not] at h
  exact ⟨h.2.symm, h.1⟩

theorem returns_words_held {d : Nat} {lanes : List Nat} (h : ∃ w ∈ T.place, w ∈ s.wordsHeld (k / 256)) :
    s.returns k T (.svc d lanes) = false := by
  rw [← Bool.not_eq_true]
  intro hr
  obtain ⟨ks, hks⟩ := exists_place_of_returns hr
  obtain ⟨w, hw, hheld⟩ := h
  exact (placeBack_svc hks).2 w hw hheld

/-- What a load changes beside the team: the slot of its context. -/
theorem loadTeam_state {T' : Team} {h : List Byte} (hload : s.loadTeam T slot = .ok (v, T', h)) : ∃ C, v = s.setCtx T.ctx C := by
  simp only [State.loadTeam, bind, Except.bind] at hload
  repeat' split at hload
  all_goals simp only [pure, Except.pure, reduceCtorEq, Except.ok.injEq, Prod.mk.injEq] at hload
  exact ⟨_, hload.1.symm⟩

theorem comeBack_error {why : SwitchReason} {e : Nat} (hload : s.loadTeam T slot = .error e) (f : Team → List Byte → Team) :
    s.comeBack k T slot why f = s.fatal (.team k) e := by
  simp [State.comeBack, hload]

/-- From `s` to `t` team `k` is back on its core as `U`. -/
def Back (s t : State) (k : Nat) (U : Team) : Prop := t.team? k = some U ∧ k ∉ (t.core (k / 256)).returning ∧ SameMem s t

theorem comeBack_ok {why : SwitchReason} {place : List Nat} {T' : Team} {h : List Byte} (hplace : s.placeBack k T why = some place)
    (hload : s.loadTeam T slot = .ok (v, T', h)) (f : Team → List Byte → Team) :
    Back s (s.comeBack k T slot why f) k (f { T' with status := .ready, place := place } h) := by
  obtain ⟨C, rfl⟩ := loadTeam_state hload
  simp only [State.comeBack, hplace, hload, Option.getD_some]
  refine ⟨by simp, by simp, sameMem_of_mem (by simp)⟩

section Out
variable {why : SwitchReason} {replied : Bool} (hT : s.team? k = some T) (hst : T.status = .switchedOut slot why replied)
include hT hst

theorem returnOut_stays (h : s.returns k T why = false ∨ ∃ d lanes, why = .svc d lanes) : s.returnOut k = s := by
  simp only [State.returnOut, hT, hst]
  rcases h with h | ⟨d, lanes, rfl⟩
  · simp [h]
  · simp

theorem resumeSvc_stays (h : s.returns k T why = false) : s.resumeSvc k = s := by
  simp only [State.resumeSvc, hT, hst]
  split
  · next heq =>
    injection heq with _ hwhy _
    rw [← hwhy, h]
    rfl
  · rfl


section Returning
variable (hr : s.returns k T why = true)
include hr

theorem returnOut_stallGrow {d g : Nat} (hwhy : why = .stallGrow d g) :
    s.returnOut k = s.comeBack k T slot why fun T _ => T.grown d g := by
  subst hwhy
  simp [State.returnOut, hT, hst, hr]

theorem returnOut_stallBar {n seen : Nat} (hwhy : why = .stallBar n seen) : s.returnOut k = s.comeBack k T slot why fun U _ =>
    if s.barPassed T n seen then { U with tokens := merase U.tokens n } else { U with status := .parked (.bar n seen) } := by
  subst hwhy
  simp [State.returnOut, hT, hst, hr]

theorem returnOut_fault {addr : W64} {host : Bool} (hwhy : why = .fault addr host) :
    s.returnOut k = s.comeBack k T slot why fun T _ => T := by
  subst hwhy
  simp [State.returnOut, hT, hst, hr]

theorem resumeSvc_returns {d : Nat} {lanes : List Nat} (hwhy : why = .svc d lanes) :
    s.resumeSvc k = s.comeBack k T slot why fun T head =>
      ((List.range lanes.length).zip lanes).foldl (fun T x => T.vwr true d x.2 (leAt head (0x800 + 8 * x.1) 8)) T := by
  subst hwhy
  simp [State.resumeSvc, hT, hst, hr]

theorem returnOut_error {e : Nat} (hload : s.loadTeam T slot = .error e) (hsvc : ∀ d lanes, why ≠ .svc d lanes) (hins : why ≠ .inspect) :
    s.returnOut k = s.fatal (.team k) e := by
  cases why with
  | svc d lanes => exact absurd rfl (hsvc d lanes)
  | inspect => exact absurd rfl hins
  | fault addr host => rw [returnOut_fault hT hst hr rfl, comeBack_error hload]
  | stallGrow d g => rw [returnOut_stallGrow hT hst hr rfl, comeBack_error hload]
  | stallBar n seen => rw [returnOut_stallBar hT hst hr rfl, comeBack_error hload]

end Returning

end Out

theorem not_switchedOut (hT : s.team? k = some T) (h : ∀ slot why replied, T.status ≠ .switchedOut slot why replied) :
    s.returnOut k = s ∧ s.resumeSvc k = s := by
  constructor
  · simp only [State.returnOut, hT]
  · simp only [State.resumeSvc, hT]
    split
    · next hst => exact absurd hst (h _ _ _)
    · rfl

theorem barPassed_iff {n seen : Nat} {B : Block} {ph : Bool} (hB : s.block? T.blk = some B) (hph : lget T.tokens n = some ph) :
    s.barPassed T n seen = true ↔ (B.bar n).ph ≠ ph ∨ (B.bar n).flips ≠ seen := by
  simp [State.barPassed, hB, hph]

/-! ### The results of a service call (R250) -/

/-- Lanes that differ are numbered by their places. -/
theorem zip_range_eq_map_idxOf {lanes : List Nat} (h : lanes.Nodup) :
    (List.range lanes.length).zip lanes = lanes.map fun l => (lanes.idxOf l, l) := by
  apply List.ext_getElem
  · simp
  · intro i hi _
    simp only [List.getElem_zip, List.getElem_range, List.getElem_map]
    rw [h.idxOf_getElem]

/-- Each calling lane's pair takes its value. -/
theorem results_written (U : Team) {d : Nat} {lanes : List Nat} (h : lanes.Nodup) (f : Nat → Nat) :
    ((List.range lanes.length).zip lanes).foldl (fun T x => T.vwr true d x.2 (f x.1)) U =
      U.eachLane lanes fun V l => V.vwr true d l (f (lanes.idxOf l)) := by
  rw [zip_range_eq_map_idxOf h, List.foldl_map]
  rfl

/-! ### Register growth and stalls (R254, R292, R293) -/

theorem grantGrow_eq {rest : List Nat} {d n : Nat} (hT : s.team? k = some T) (hgrow : (s.core (k / 256)).grow = k :: rest)
    (hst : T.status = .parked (.vgrow d n) ∨ T.status = .parked (.saving (.stallGrow d n))) :
    let u := (s.setCore (k / 256) { s.core (k / 256) with grow := rest }).setTeam k (T.grown d n)
    s.grantGrow (k / 256) = if (s.core (k / 256)).returning.any s.mayReturn || !s.ctxRuns T.ctx then s
      else if (s.coreUse (k / 256)).2 + 128 * T.words * (8 * n) ≤ 2097152 ∧ u.placesFit (k / 256 / 8) T.ctx then u else s := by
  rcases hst with hst | hst <;> simp only [State.grantGrow, hgrow, hT, hst]

/-- A fold of choices that always takes `x` over what it has, and keeps it, ends with `x`. -/
theorem foldl_selects {α β : Type} {f : β → α → β} {ok : β → Prop} {x : α} {b : β} {worse : α → Prop} (hx : ∀ c, ok c → f c x = b)
    (hw : ∀ c y, ok c → worse y → ok (f c y)) (hbx : f b x = b) (hby : ∀ y, worse y → f b y = b) {l : List α}
    (hl : ∀ y ∈ l, y = x ∨ worse y) (hmem : x ∈ l) {c : β} (hc : ok c) : l.foldl f c = b := by
  have hkeeps : ∀ {l : List α}, (∀ y ∈ l, y = x ∨ worse y) → l.foldl f b = b := by
    intro l hl
    induction l with
    | nil => rfl
    | cons y l ih =>
      have hy : f b y = b := by
        rcases hl y List.mem_cons_self with rfl | hy
        · exact hbx
        · exact hby y hy
      rw [List.foldl_cons, hy, ih fun z hz => hl z (List.mem_cons_of_mem _ hz)]
  induction l generalizing c with
  | nil => cases hmem
  | cons y l ih =>
    have hl' : ∀ z ∈ l, z = x ∨ worse z := fun z hz => hl z (List.mem_cons_of_mem _ hz)
    rw [List.foldl_cons]
    rcases hl y List.mem_cons_self with rfl | hy
    · rw [hx c hc, hkeeps hl']
    · rcases List.mem_cons.1 hmem with rfl | hmem
      · rw [hx c hc, hkeeps hl']
      · exact ih hl' hmem (hw c y hc hy)

/-- The team stands on core `c`. -/
def Here (s : State) (c : Nat) (q : Nat × Team) : Prop := q ∈ s.teams ∧ q.1 / 256 = c ∧ q.2.status.resident = true

/-- Every team of the core waits for registers or at a barrier, one of them for registers (R293). -/
def Stalled (s : State) (c : Nat) : Prop :=
  (∀ q, Here s c q → q.2.status.stall ≠ none) ∧ ∃ q d n, Here s c q ∧ q.2.status.stall = some (.stallGrow d n)

theorem mem_here {c : Nat} {q : Nat × Team} :
    q ∈ (s.teams.filter fun q => decide (q.1 / 256 = c) && q.2.status.resident) ↔ Here s c q := by
  simp [Here]

theorem stallCore_stays {c : Nat} (h : ¬Stalled s c) : s.stallCore c = s := by
  unfold State.stallCore
  dsimp only
  rw [if_neg]
  intro hg
  simp only [Bool.and_eq_true, List.any_eq_true, List.all_eq_true, mem_here] at hg
  obtain ⟨⟨q, hq, hgrow⟩, hall⟩ := hg
  refine h ⟨fun q hq => Option.isSome_iff_ne_none.1 (hall q hq), q, ?_⟩
  split at hgrow
  · next d n hst => exact ⟨d, n, hq, hst⟩
  · exact absurd hgrow (by simp)

theorem resident_of_stall {st : Status} {why : SwitchReason} (h : st.stall = some why) : st.resident = true := by
  cases st with
  | switchedOut => cases h
  | exited => cases h
  | _ => rfl

theorem mem_of_lget {α : Type} {m : SMap α} {k : Nat} {v : α} (h : lget m k = some v) : (k, v) ∈ m := by
  induction m with
  | nil => cases h
  | cons e m ih =>
    obtain ⟨a, w⟩ := e
    rw [lget] at h
    split at h
    · next ha =>
      obtain rfl := Option.some.inj h
      simp [ha]
    · exact List.mem_cons_of_mem _ (ih h)

/-- The team that is younger than all others but the holder of the oldest request, or that stands alone, is to be switched out. -/
theorem stallCore_youngest {why : SwitchReason} (hT : s.team? k = some T) (hst : T.status.stall = some why)
    (huniq : ∀ q ∈ s.teams, q.1 = k → q.2 = T) (hstalled : Stalled s (k / 256))
    (hk : ((s.core (k / 256)).grow.head? ≠ some k ∧
        ∀ q, Here s (k / 256) q → q.1 ≠ k → (s.core (k / 256)).grow.head? ≠ some q.1 → q.2.age < T.age) ∨
      ((s.core (k / 256)).grow.head? = some k ∧ ∀ q, Here s (k / 256) q → q.1 = k)) :
    s.stallCore (k / 256) = s.setTeam k { T with status := .parked (.saving why) } := by
  have hself : Here s (k / 256) (k, T) := ⟨mem_of_lget hT, rfl, resident_of_stall hst⟩
  have heq : ∀ q, Here s (k / 256) q → q.1 = k → q = (k, T) := fun q hq h1 => Prod.ext h1 (huniq q hq.1 h1)
  obtain ⟨hall, q, d, n, hq, hgrow⟩ := hstalled
  unfold State.stallCore
  dsimp only
  rw [if_pos]
  swap
  · simp only [Bool.and_eq_true, List.any_eq_true, List.all_eq_true, mem_here]
    exact ⟨⟨q, hq, by rw [hgrow]⟩, fun q hq => Option.isSome_iff_ne_none.2 (hall q hq)⟩
  rw [foldl_selects (x := (k, T)) (b := some (k, T)) (worse := fun q => q.2.age < T.age)
    (ok := fun c => c = none ∨ ∃ x : Nat × Team, c = some x ∧ x.2.age < T.age)]
  · simp only [hst]
  · rintro c (rfl | ⟨x, rfl, hx⟩)
    · rfl
    · exact if_pos hx
  · rintro c y (rfl | ⟨x, rfl, hx⟩) hy
    · exact .inr ⟨y, rfl, hy⟩
    · refine .inr ?_
      dsimp only
      split
      · exact ⟨y, rfl, hy⟩
      · exact ⟨x, rfl, hx⟩
  · exact if_neg (lt_irrefl _)
  · intro y hy
    exact if_neg (by simpa using hy.le)
  · intro y hy
    rcases hk with ⟨hold, hyoung⟩ | ⟨hold, halone⟩
    · split at hy
      · next hnil =>
        have : (k, T) ∈ ([] : List (Nat × Team)) := by
          rw [← hnil, List.mem_filter]
          exact ⟨mem_here.2 hself, by simpa using hold⟩
        cases this
      · rw [List.mem_filter, mem_here, decide_eq_true_eq] at hy
        by_cases h1 : y.1 = k
        · exact .inl (heq y hy.1 h1)
        · exact .inr (hyoung y hy.1 h1 hy.2)
    · have hy' : Here s (k / 256) y := by
        split at hy
        · exact mem_here.1 hy
        · exact mem_here.1 (List.mem_filter.1 hy).1
      exact .inl (heq y hy' (halone y hy'))
  · rcases hk with ⟨hold, -⟩ | ⟨hold, halone⟩
    · have hmem : (k, T) ∈ (s.teams.filter fun q => decide (q.1 / 256 = k / 256) && q.2.status.resident).filter
          fun q => decide ((s.core (k / 256)).grow.head? ≠ some q.1) :=
        List.mem_filter.2 ⟨mem_here.2 hself, by simpa using hold⟩
      rw [if_neg (List.ne_nil_of_mem hmem)]
      exact hmem
    · rw [if_pos]
      · exact mem_here.2 hself
      · rw [List.filter_eq_nil_iff]
        intro q hq
        simp [halone q (mem_here.1 hq), hold]
  · exact .inl rfl

/-! ### Retiring a team (R131) -/

theorem retireTeam_exit {B : Block} (hT : s.team? k = some T) (hB : s.block? T.blk = some B) (hst : T.status = .parked .exit)
    (hfin : T.th.pend.all (·.finished) = true) :
    s.retireTeam k = ({ s with teams := merase s.teams k } : State).setBlock T.blk { B with
      teams := merase B.teams T.idx, gone := T.idx :: B.gone } := by
  have hB' : ({ s with teams := merase s.teams k } : State).block? T.blk = some B := hB
  simp only [State.retireTeam, hT, hst, hfin, and_self, if_true, hB']

theorem retireTeam_stays (hT : s.team? k = some T) (h : T.status ≠ .parked .exit ∨ ∃ q ∈ T.th.pend, q.finished = false) :
    s.retireTeam k = s := by
  simp only [State.retireTeam, hT]
  refine if_neg ?_
  rintro ⟨hst, hfin⟩
  rcases h with h | ⟨q, hq, hqf⟩
  · exact h hst
  · have := List.all_eq_true.1 hfin q hq
    rw [hqf] at this
    cases this

/-! ### The events -/

/-- A team of a stalled core leaves it (R293). -/
theorem stall_saved {why : SwitchReason} {grow : Nat} (hso : s.switchOut k slot = s.saveStall k slot T why grow) :
    let head := T.header k 2 (s.tagAt (k / 256) T.th.pc) grow T.th.pc [] (List.replicate 5 0)
    (∀ v : State, s.saveTeam T slot head = (v, none) → ∃ t, exec (.teamSwitchOutSave k slot) s = .next t ∧
      t.status? (.team k) = some (.switchedOut slot why false) ∧
      (t.core (k / 256)).returning = (v.core (k / 256)).returning ++ [k] ∧ SameMem v t ∧ t.parts = v.parts) ∧
    (∀ (v : State) (e : Nat), s.saveTeam T slot head = (v, some e) →
      exec (.teamSwitchOutSave k slot) s = .next (v.loseContext T.ctx e (agentLoc (.team k)) (s.tagAt (k / 256) T.th.pc))) := by
  simp only [exec_teamSwitchOutSave, execTeamSwitchOutSave, hso, State.saveStall]
  refine ⟨fun v hv => ?_, fun v e hv => ?_⟩ <;> rw [hv]
  · obtain ⟨h1, h2, h3, h4⟩ := leftCore_spec v k T slot why false
    exact ⟨_, rfl, h1, h2, sameMem_of_mem h3, h4⟩
  · rfl

/-- A team with a first-touch fault leaves its core, and its record goes to the servicer (R352). -/
theorem fault_saved {addr : W64} {host : Bool} (hso : s.switchOut k slot = s.saveFault k slot T addr host) :
    let tag := s.tagAt (k / 256) T.th.pc
    let head := T.header k 3 tag 0 T.th.pc (T.partialMask.getD []) (List.replicate 5 0)
    (∀ v : State, s.saveTeam T slot head = (v, none) → ∃ t, exec (.teamSwitchOutSave k slot) s = .next t ∧
      t.status? (.team k) = some (.switchedOut slot (.fault addr host) false) ∧
      (t.core (k / 256)).returning = (v.core (k / 256)).returning ++ [k] ∧ SameMem v t ∧
      (t.part (ctxPart T.ctx)).waiting = (v.part (ctxPart T.ctx)).waiting ++ [⟨1, .team k,
        shortRecord 1 (v.cid T.ctx) (agentLoc (.team k)) (k % 256) T.th.pc.toNat tag addr.toNat 1 0 0, host⟩]) ∧
    (∀ (v : State) (e : Nat), s.saveTeam T slot head = (v, some e) →
      exec (.teamSwitchOutSave k slot) s = .next (v.loseContext T.ctx e (agentLoc (.team k)) tag)) := by
  simp only [exec_teamSwitchOutSave, execTeamSwitchOutSave, hso, State.saveFault]
  refine ⟨fun v hv => ?_, fun v e hv => ?_⟩ <;> rw [hv]
  · obtain ⟨h1, h2, h3, h4⟩ := leftCore_spec v k T slot (.fault addr host) false
    have hpart : (v.leftCore k T slot (.fault addr host) false).part (ctxPart T.ctx) = v.part (ctxPart T.ctx) := by
      simp only [State.part, h4]
    refine ⟨_, rfl, h1, h2, sameMem_of_mem h3, ?_⟩
    simp [orLost, State.raiseRecord, hpart]
  · rfl

section Events
variable (hT : s.team? k = some T)
include hT

/-- A service call raises its record once its stores are performed and a slot is free (R249). -/
theorem svc_called {num d a n : Nat} {lanes : List Nat} (hst : T.status = .parked (.svc num d a n lanes))
    (hstill : T.th.pend.all (·.finished) = true ∧ (s.ctx T.ctx).mode ≠ .lost) :
    let reply := (s.ctx T.ctx).run.area slot + 0x800
    let b := T.callRecord k num a n lanes (s.ctx T.ctx).run.cid (s.tagAt (k / 256) T.th.pc) reply
    (s.slotFree T.ctx slot = true → s.drained (.team k) 5 = true → ∃ t, exec (.teamSwitchOutSave k slot) s = .next t ∧ SameMem s t ∧
      t = ((s.takeSlot T.ctx slot).setTeam k { T with status := .parked (.called slot d lanes false) }).setPart (ctxPart T.ctx)
        { s.part (ctxPart T.ctx) with
          waiting := (s.part (ctxPart T.ctx)).waiting ++ [⟨0, .team k, b, (s.part (ctxPart T.ctx)).svc⟩] }) ∧
    (s.slotFree T.ctx slot = false ∨ s.drained (.team k) 5 = false → exec (.teamSwitchOutSave k slot) s = .next s) := by
  obtain ⟨hfin, hmode⟩ := hstill
  simp only [exec_teamSwitchOutSave, execTeamSwitchOutSave, switchOut_svc hT hfin hmode hst]
  refine ⟨fun hslot hdr => ⟨_, rfl, ?_, ?_⟩, ?_⟩
  · rw [if_pos hslot, callSvc_drained hdr]
    exact sameMem_of_mem (by simp)
  · rw [if_pos hslot, callSvc_drained hdr]
  · rintro (h | h)
    · rw [h]
      rfl
    · rw [callSvc_undrained h, ite_self]

/-- A service call whose record is raised leaves its core, with the PC of the next word (R249). -/
theorem called_saved {x d : Nat} {lanes : List Nat} {replied : Bool} (hmode : (s.ctx T.ctx).mode ≠ .lost)
    (hfin : T.th.pend.all (·.finished) = true) (hst : T.status = .parked (.called x d lanes replied)) :
    let tag := s.tagAt (k / 256) T.th.pc
    let head := (T.adv 8).header k 1 tag 0 (T.adv 8).th.pc [] (List.replicate 5 0)
    (∀ v : State, s.saveTeam (T.adv 8) x head = (v, none) → ∃ t, exec (.teamSwitchOutSave k slot) s = .next t ∧
      t.status? (.team k) = some (.switchedOut x (.svc d lanes) replied) ∧
      (t.core (k / 256)).returning = (v.core (k / 256)).returning ++ [k] ∧ SameMem v t) ∧
    (∀ (v : State) (e : Nat), s.saveTeam (T.adv 8) x head = (v, some e) →
      exec (.teamSwitchOutSave k slot) s = .next (v.loseContext T.ctx e (agentLoc (.team k)) tag)) := by
  simp only [exec_teamSwitchOutSave, execTeamSwitchOutSave, switchOut_called hT hfin hmode hst, State.saveSvc]
  refine ⟨fun v hv => ?_, fun v e hv => ?_⟩ <;> rw [hv]
  · obtain ⟨h1, h2, h3, -⟩ := leftCore_spec v k (T.adv 8) x (.svc d lanes) replied
    exact ⟨_, rfl, h1, h2, sameMem_of_mem h3⟩
  · rfl

section Out
variable {why : SwitchReason} {replied : Bool} (hst : T.status = .switchedOut slot why replied)
include hst

/-- A team that may not come back yet stays where it is (R292, R293, R366). -/
theorem out_stays :
    (s.returns k T why = false → exec (.switchedOutReturn k) s = .next s ∧ exec (.svcResume k) s = .next s) ∧
    (∀ d lanes, why = .svc d lanes → exec (.switchedOutReturn k) s = .next s ∧
      (replied = false ∨ (∃ w ∈ T.place, w ∈ s.wordsHeld (k / 256)) → exec (.svcResume k) s = .next s)) ∧
    (∀ addr host, why = .fault addr host → replied = false → exec (.switchedOutReturn k) s = .next s) := by
  simp only [exec_switchedOutReturn, execSwitchedOutReturn, exec_svcResume, execSvcResume]
  refine ⟨fun h => ?_, fun d lanes hwhy => ⟨?_, ?_⟩, fun addr host hwhy hrep => ?_⟩
  · rw [returnOut_stays hT hst (.inl h), resumeSvc_stays hT hst h]
    exact ⟨rfl, rfl⟩
  · rw [returnOut_stays hT hst (.inr ⟨d, lanes, hwhy⟩)]
  · rintro (rfl | h)
    · rw [resumeSvc_stays hT hst (returns_unreplied hT hst (.inl ⟨d, lanes, hwhy⟩))]
    · rw [resumeSvc_stays hT hst (hwhy ▸ returns_words_held h)]
  · subst hrep
    rw [returnOut_stays hT hst (.inl (returns_unreplied hT hst (.inr ⟨addr, host, hwhy⟩)))]

theorem out_error {e : Nat} (hr : s.returns k T why = true) (hload : s.loadTeam T slot = .error e) :
    ((∀ d lanes, why ≠ .svc d lanes) → why ≠ .inspect → exec (.switchedOutReturn k) s = .next (s.fatal (.team k) e)) ∧
    (∀ d lanes, why = .svc d lanes → exec (.svcResume k) s = .next (s.fatal (.team k) e)) := by
  simp only [exec_switchedOutReturn, execSwitchedOutReturn, exec_svcResume, execSvcResume]
  refine ⟨fun hsvc hins => ?_, fun d lanes hwhy => ?_⟩
  · rw [returnOut_error hT hst hr hload hsvc hins]
  · rw [resumeSvc_returns hT hst hr hwhy, comeBack_error hload]

section Loaded
variable {T' : Team} {h : List Byte} {place : List Nat} (hr : s.returns k T why = true) (hplace : s.placeBack k T why = some place)
  (hload : s.loadTeam T slot = .ok (v, T', h))
include hr hplace hload

theorem back_stallGrow {d g : Nat} (hwhy : why = .stallGrow d g) : Back s (s.returnOut k) k { T' with
    place := place, vregs := T'.vregs + 8 * g, th := T'.th.wr d (BitVec.ofNat 64 (T'.vregs + 8 * g)), status := .ready } := by
  rw [returnOut_stallGrow hT hst hr hwhy]
  exact comeBack_ok hplace hload _

theorem back_stallBar_passed {n seen : Nat} {B : Block} {ph : Bool} (hwhy : why = .stallBar n seen) (hB : s.block? T.blk = some B)
    (hph : lget T.tokens n = some ph) (hp : (B.bar n).ph ≠ ph ∨ (B.bar n).flips ≠ seen) :
    Back s (s.returnOut k) k { T' with place := place, tokens := merase T'.tokens n, status := .ready } := by
  rw [returnOut_stallBar hT hst hr hwhy, (barPassed_iff hB hph).2 hp]
  exact comeBack_ok hplace hload _

theorem back_stallBar_waits {n seen : Nat} {B : Block} {ph : Bool} (hwhy : why = .stallBar n seen) (hB : s.block? T.blk = some B)
    (hph : lget T.tokens n = some ph) (hp : (B.bar n).ph = ph) (hf : (B.bar n).flips = seen) :
    Back s (s.returnOut k) k { T' with place := place, status := .parked (.bar n seen) } := by
  have hpassed : s.barPassed T n seen = false := by
    rw [← Bool.not_eq_true, barPassed_iff hB hph, hp, hf]
    simp
  rw [returnOut_stallBar hT hst hr hwhy, hpassed]
  exact comeBack_ok hplace hload _

theorem back_fault {addr : W64} {host : Bool} (hwhy : why = .fault addr host) :
    Back s (s.returnOut k) k { T' with place := place, status := .ready } := by
  rw [returnOut_fault hT hst hr hwhy]
  exact comeBack_ok hplace hload _

/-- R250, R366: after a service call each calling lane's pair holds its result, and all else is as it was saved. -/
theorem back_svc {d : Nat} {lanes : List Nat} (hwhy : why = .svc d lanes) (hnd : lanes.Nodup) (hd : d + 1 < 256) :
    ∃ U, Back s (s.resumeSvc k) k U ∧ (∀ (j l : Nat), lanes[j]? = some l → U.vrd true d l = leAt h (0x800 + 8 * j) 8) ∧
      (∀ r l, r < 256 → (l ∉ lanes ∨ (r ≠ d ∧ r ≠ d + 1)) → U.vr r l = T'.vr r l) ∧
      U = { T' with v := U.v, vmarks := U.vmarks, place := place, status := .ready } := by
  have hback := comeBack_ok hplace hload fun T head =>
    ((List.range lanes.length).zip lanes).foldl (fun T x => T.vwr true d x.2 (leAt head (0x800 + 8 * x.1) 8)) T
  rw [resumeSvc_returns hT hst hr hwhy]
  refine ⟨_, hback, ?_⟩
  rw [results_written _ hnd fun j => leAt h (0x800 + 8 * j) 8]
  refine ⟨fun j l hj => ?_, fun r l hr hl => ?_, Team.eachLane_only _ _ _ _ _⟩
  · obtain ⟨hlt, rfl⟩ := List.getElem?_eq_some_iff.1 hj
    rw [Team.vrd_eachLane _ _ _ _ _ _ (by omega) (List.getElem_mem hlt), hnd.idxOf_getElem]
    exact Nat.mod_eq_of_lt (leAt_lt _ _ _)
  · exact Team.vr_eachLane _ _ _ _ _ _ _ (by omega) hr (hl.imp_right fun h => ⟨h.1, fun h' => h.2 h'.2⟩)

end Loaded

end Out

/-- The oldest request is granted when it fits (R292). -/
theorem vgrow_granted {rest : List Nat} {d n : Nat} (hgrow : (s.core (k / 256)).grow = k :: rest)
    (hst : T.status = .parked (.vgrow d n) ∨ T.status = .parked (.saving (.stallGrow d n))) :
    let u := (s.setCore (k / 256) { s.core (k / 256) with grow := rest }).setTeam k (T.grown d n)
    let may : Prop := (∀ x ∈ (s.core (k / 256)).returning, s.mayReturn x = false) ∧ s.ctxRuns T.ctx = true ∧
      (s.coreUse (k / 256)).2 + 128 * T.words * (8 * n) ≤ 2097152 ∧ u.placesFit (k / 256 / 8) T.ctx = true
    (may → ∃ t, exec (.vgrowGrant (k / 256)) s = .next t ∧ t = u ∧ SameMem s t) ∧
      (¬may → exec (.vgrowGrant (k / 256)) s = .next s) := by
  have hblocked : ((s.core (k / 256)).returning.any s.mayReturn || !s.ctxRuns T.ctx) = true ↔
      ¬((∀ x ∈ (s.core (k / 256)).returning, s.mayReturn x = false) ∧ s.ctxRuns T.ctx = true) := by
    simp [imp_iff_not_or]
  simp only [exec_vgrowGrant, execVgrowGrant, grantGrow_eq hT hgrow hst]
  refine ⟨fun ⟨h1, h2, h3, h4⟩ => ⟨_, rfl, ?_⟩, fun h => ?_⟩
  · rw [if_neg fun hb => hblocked.1 hb ⟨h1, h2⟩, if_pos ⟨h3, h4⟩]
    exact ⟨rfl, sameMem_of_mem rfl⟩
  · split
    · rfl
    · next hb =>
      obtain ⟨h1, h2⟩ := not_not.1 (mt hblocked.2 hb)
      rw [if_neg fun h34 => h ⟨h1, h2, h34⟩]

theorem team_retired {B : Block} (hB : s.block? T.blk = some B) :
    (T.status = .parked .exit → T.th.pend.all (·.finished) = true →
      ∃ t, exec (.teamRetire k) s = .next t ∧ t.team? k = none ∧ (∀ j, j ≠ k → t.team? j = s.team? j) ∧
        t = ({ s with teams := merase s.teams k } : State).setBlock T.blk { B with
          teams := merase B.teams T.idx, gone := T.idx :: B.gone } ∧ SameMem s t) ∧
    (T.status ≠ .parked .exit ∨ (∃ q ∈ T.th.pend, q.finished = false) → exec (.teamRetire k) s = .next s) := by
  simp only [exec_teamRetire, execTeamRetire]
  refine ⟨fun hst hfin => ⟨_, rfl, ?_⟩, fun h => by rw [retireTeam_stays hT h]⟩
  rw [retireTeam_exit hT hB hst hfin]
  refine ⟨?_, fun j hj => ?_, rfl, fun _ => rfl⟩
  · exact (lget_merase s.teams k k).trans (if_pos rfl)
  · exact (lget_merase s.teams k j).trans (if_neg hj)

end Events

/-- Settles O48, event by event: each state that an event reaches is one of the model's own operations, which the lemmas above describe. -/
theorem switchEvents : Obligations.SwitchEvents := by
  intro s k T hT
  refine ⟨fun slot h => ?_, fun slot num d a n lanes hst hstill => ⟨(svc_called hT hst hstill).1, (svc_called hT hst hstill).2, ?_⟩,
    fun slot hmode hfin => ⟨fun x d lanes replied hst => called_saved hT hmode hfin hst, ?_⟩, fun slot why replied hst => ?_,
    fun h => ?_, fun rest d n hgrow hst => vgrow_granted hT hgrow hst, fun hgrow => ?_, fun why hst huniq => ⟨fun hstalled hk => ?_, fun h => ?_⟩,
    fun B hB => team_retired hT hB⟩
  · rw [exec_teamSwitchOutSave, execTeamSwitchOutSave]
    rcases h with h | h
    · rw [switchOut_unsettled hT h]
    · rw [switchOut_other hT h]
  · intro hlen
    obtain ⟨h0, h2, h3, h4, h8, h10, h12, h14, h15, h16, h24, h28, h32⟩ := callHead_fields (k := k) (T := T) (num := num) (n := n)
      (cid := (s.ctx T.ctx).run.cid) (tag := s.tagAt (k / 256) T.th.pc) (reply := (s.ctx T.ctx).run.area slot + 0x800) hlen
    have hlength := length_callRecord (T := T) (k := k) (num := num) (a := a) (n := n) (cid := (s.ctx T.ctx).run.cid)
      (tag := s.tagAt (k / 256) T.th.pc) (reply := (s.ctx T.ctx).run.area slot + 0x800) (lanes := lanes)
    simp (disch := omega) only [callRecord_head, hlength]
    exact ⟨trivial, h0, h2, h3, h4, h8, h10, h12, h14, h15, h16, h24, h28, h32, fun x => callRecord_pad, fun l => callRecord_lanes,
      fun x => callRecord_tail, fun j l x => callRecord_args⟩
  · intro why reason grow mask hst hwhy
    refine ⟨fun hslot => ?_, ?_⟩
    · rw [exec_teamSwitchOutSave, execTeamSwitchOutSave, switchOut_full hT hfin hmode hst hslot]
    rcases hwhy with ⟨d, rfl, rfl, rfl⟩ | ⟨n, seen, rfl, rfl, rfl, rfl⟩ | ⟨addr, host, rfl, rfl, rfl, rfl⟩
    · refine ⟨fun v hslot hv => ?_, fun v e hslot => (stall_saved (switchOut_stallGrow hT hfin hmode hst hslot)).2 v e⟩
      obtain ⟨t, ht, h1, h2, h3, h4⟩ := (stall_saved (switchOut_stallGrow hT hfin hmode hst hslot)).1 v hv
      exact ⟨t, ht, h1, h2, h3, nofun, fun _ => h4⟩
    · refine ⟨fun v hslot hv => ?_, fun v e hslot => (stall_saved (switchOut_stallBar hT hfin hmode hst hslot)).2 v e⟩
      obtain ⟨t, ht, h1, h2, h3, h4⟩ := (stall_saved (switchOut_stallBar hT hfin hmode hst hslot)).1 v hv
      exact ⟨t, ht, h1, h2, h3, nofun, fun _ => h4⟩
    · refine ⟨fun v hslot hv => ?_, fun v e hslot => (fault_saved (switchOut_fault hT hfin hmode hst hslot)).2 v e⟩
      obtain ⟨t, ht, h1, h2, h3, h4⟩ := (fault_saved (switchOut_fault hT hfin hmode hst hslot)).1 v hv
      refine ⟨t, ht, h1, h2, h3, ?_, nofun⟩
      rintro _ _ ⟨⟩
      exact h4
  · obtain ⟨h1, h2, h3⟩ := out_stays hT hst
    refine ⟨h1, h2, h3, fun e hr hload => out_error hT hst hr hload, fun v T' h place hr hplace hload => ⟨fun d g hwhy => ?_,
      fun n seen B ph hwhy hB hph => ⟨fun hp => ?_, fun hp hf => ?_⟩, fun addr host hwhy => ?_, fun d lanes hwhy => ⟨?_, fun hnd hd => ?_⟩⟩⟩
    · exact ⟨_, rfl, back_stallGrow hT hst hr hplace hload hwhy⟩
    · exact ⟨_, rfl, back_stallBar_passed hT hst hr hplace hload hwhy hB hph hp⟩
    · exact ⟨_, rfl, back_stallBar_waits hT hst hr hplace hload hwhy hB hph hp hf⟩
    · exact ⟨_, rfl, back_fault hT hst hr hplace hload hwhy⟩
    · exact (placeBack_svc (hwhy ▸ hplace)).1
    · obtain ⟨U, hU, hres, hframe, hrest⟩ := back_svc hT hst hr hplace hload hwhy hnd hd
      exact ⟨U, ⟨_, rfl, hU⟩, hres, hframe, hrest⟩
  · rw [exec_switchedOutReturn, exec_svcResume, execSwitchedOutReturn, execSvcResume, (not_switchedOut hT h).1, (not_switchedOut hT h).2]
    exact ⟨rfl, rfl⟩
  · simp only [exec_vgrowGrant, execVgrowGrant, State.grantGrow, hgrow]
  · exact ⟨_, congrArg Host.Outcome.next (stallCore_youngest hT hst huniq hstalled hk), rfl, fun _ => rfl⟩
  · exact congrArg Host.Outcome.next (stallCore_stays h)

end Sys2Proof.Machine.Switching
end

section
/-! Engine jobs (R126, R127, R208, R217 to R221, R224, R226 to R232, R340, R356). -/

namespace Sys2Proof.Machine.Engines

variable {s : State} {c k : Nat} {j : Job}

/-! ### Arrivals (R126, R127) -/

/-- A barrier after an arrival that brings its count to `cnt`. -/
def arrived (b : BarSt) (cnt : Nat) : BarSt :=
  if b.exp ≠ 0 ∧ b.exp ≤ cnt then ⟨!b.ph, cnt - b.exp, 0, b.flips + 1⟩ else { b with cnt := cnt }

/-- A barrier without an expected count completes no phase. -/
theorem complete_unset {b : BarSt} (h : b.exp = 0) (f : Nat) : b.complete f = b := by
  cases f with
  | zero => rfl
  | succ f => exact if_neg fun hc => hc.1 h

theorem arrive_eq (b : BarSt) (free : Nat) : b.arrive free = arrived b (cntUp b.cnt free) := by
  unfold BarSt.arrive BarSt.complete arrived
  exact if_congr Iff.rfl (complete_unset rfl _) rfl

theorem arrive_counted {b : BarSt} (free : Nat) (h : b.cnt < 255) : b.arrive free = arrived b (b.cnt + 1) := by
  rw [arrive_eq, cntUp, if_pos h]

theorem arrive_full {b : BarSt} (free : Nat) (h : 255 ≤ b.cnt) : ∃ cnt < 256, b.arrive free = arrived b cnt :=
  ⟨free % 256, Nat.mod_lt _ (by omega), by rw [arrive_eq, cntUp, if_neg (by omega)]⟩

theorem engineArrive_eq {blk bar : Nat} {B : Block} (hB : s.block? blk = some B) :
    s.engineArrive blk bar = s.setBlock blk (B.setBar bar ((B.bar bar).arrive s.choice)) := by
  simp only [State.engineArrive, hB]

@[simp] theorem arriveLater_arrivals (s : State) (cl blk bar : Nat) :
    ((s.arriveLater cl blk bar).cluster cl).arrivals = (s.cluster cl).arrivals ++ [(blk, bar)] := by
  simp [State.arriveLater]

theorem countArrival_eq {blk bar : Nat} {B : Block} (hB : s.block? blk = some B)
    (h : (blk, bar) ∈ (s.cluster B.cluster).arrivals) : s.countArrival blk bar =
      (s.setCluster B.cluster { s.cluster B.cluster with arrivals := (s.cluster B.cluster).arrivals.erase (blk, bar) }).setBlock blk
        (B.setBar bar ((B.bar bar).arrive s.choice)) := by
  simp only [State.countArrival, hB, List.contains_iff_mem, h, if_true]
  exact engineArrive_eq (by simpa using hB)

theorem countArrival_absent {blk bar : Nat} {B : Block} (hB : s.block? blk = some B)
    (h : (blk, bar) ∉ (s.cluster B.cluster).arrivals) : s.countArrival blk bar = s := by
  simp only [State.countArrival, hB, List.contains_iff_mem, h, if_false]

/-! ### Changes that leave memory, basins and jobs alone -/

/-- Device memory, the clusters and the cores are as before. -/
structure Still (s t : State) : Prop where
  mem : t.mem = s.mem
  clusters : t.clusters = s.clusters
  cores : t.cores = s.cores

theorem Still.refl (s : State) : Still s s := ⟨rfl, rfl, rfl⟩

theorem Still.trans {s t u : State} (h : Still s t) (h' : Still t u) : Still s u :=
  ⟨h'.mem.trans h.mem, h'.clusters.trans h.clusters, h'.cores.trans h.cores⟩

theorem still_foldl {α : Type} {f : State → α → State} (hf : ∀ s x, Still s (f s x)) (l : List α) (s : State) : Still s (l.foldl f s) := by
  induction l generalizing s with
  | nil => exact .refl s
  | cons x l ih => exact (hf s x).trans (ih _)

theorem Still.basin8 {s t : State} (h : Still s t) (cl b x : Nat) : t.basin8 cl b x = s.basin8 cl b x := by
  simp only [State.basin8, State.cluster, h.clusters]

theorem Still.mem8 {s t : State} (h : Still s t) (x : Nat) : t.mem8 x = s.mem8 x := by simp only [State.mem8, h.mem]

theorem Still.core {s t : State} (h : Still s t) (c : Nat) : t.core c = s.core c := by simp only [State.core, h.cores]

theorem still_basinMark (s : State) (cl b off n : Nat) (bad : Bool) : Still s (s.basinMark cl b off n bad) := by
  unfold State.basinMark
  cases bad <;> exact ⟨rfl, rfl, rfl⟩

theorem still_sectorMark (s : State) (pa : Nat) (bad : Bool) : Still s (s.sectorMark pa bad) := by
  unfold State.sectorMark
  split <;> exact ⟨rfl, rfl, rfl⟩

theorem still_cacheLeaf (s : State) (ctx va page leaf : Nat) : Still s (s.cacheLeaf ctx va page leaf) := by
  unfold State.cacheLeaf
  dsimp only
  split <;> exact ⟨rfl, rfl, rfl⟩

theorem still_noteLeaf (s₀ s : State) (ctx va : Nat) : Still s (State.noteLeaf s₀ s ctx va) := by
  unfold State.noteLeaf
  split
  · exact (still_cacheLeaf s _ _ _ _).trans ⟨rfl, rfl, rfl⟩
  · exact .refl s

theorem still_noteSpan (s₀ s : State) (ctx va n : Nat) : Still s (s₀.noteSpan s ctx va n) :=
  still_foldl (fun s x => still_noteLeaf s₀ s ctx x) _ s

theorem still_touch (s : State) (h l : Nat) : Still s (s.touch h l) := by
  unfold State.touch
  split <;> exact ⟨rfl, rfl, rfl⟩

theorem still_backWrite (s : State) (l : Nat) : Still s (s.backWrite l) := by
  unfold State.backWrite
  split <;> exact ⟨rfl, rfl, rfl⟩

theorem still_sliceDrop (s : State) (l : Nat) : Still s (s.sliceDrop l) := by
  refine (still_backWrite s l).trans ?_
  unfold State.sliceDrop
  dsimp only
  split <;> exact ⟨rfl, rfl, rfl⟩

/-- A home slice takes a line. -/
theorem still_sliceTake (s : State) (l : Nat) (dirty : Bool) : Still s (s.sliceTake l dirty) := by
  unfold State.sliceTake
  dsimp only
  split
  · exact .refl s
  generalize hu : (if _ < sliceLines then s else _ : State) = u
  have h1 : Still s u := by
    subst hu
    split
    · exact .refl s
    · split
      · exact still_sliceDrop s _
      · exact .refl s
  refine h1.trans ?_
  split <;>
  · refine .trans ?_ (still_touch _ _ _)
    exact ⟨rfl, rfl, rfl⟩

theorem still_readSlices (s₀ s : State) (ctx : Nat) (g : W64) (n : Nat) : Still s (State.readSlices s₀ s ctx g n) := by
  unfold State.readSlices
  split
  · exact still_foldl (fun s l => still_sliceTake s l false) _ s
  · exact .refl s

theorem still_tripAll (s : State) (l : Nat) (f : Agent → Bool) : Still s (s.tripAll l f) := ⟨rfl, rfl, rfl⟩

/-- Bytes performed at device scope change memory and leave clusters and cores. -/
theorem perform_clusters_cores (s : State) (pa : Nat) (bs : List Byte) :
    (s.perform pa bs).clusters = s.clusters ∧ (s.perform pa bs).cores = s.cores := by
  have h : Still ((s.memWr pa bs).overwrite pa bs.length) (s.perform pa bs) :=
    (still_foldl (fun s l => still_tripAll s l _) _ _).trans (still_foldl (fun s l => still_sliceTake s l true) _ _)
  exact ⟨h.clusters, h.cores⟩

theorem mem8_perform (s : State) (pa q : Nat) (bs : List Byte) :
    (s.perform pa bs).mem8 q = if pa ≤ q ∧ q < pa + bs.length then bs.getD (q - pa) 0 else s.mem8 q := by
  rw [← s.mem8_memWr, State.mem8, State.perform_mem]
  rfl

end Sys2Proof.Machine.Engines
end

section
/-! Engine jobs read their elements (R219, R221, R227, R231, R342). -/

namespace Sys2Proof.Machine.Engines

variable {s : State} {c k : Nat} {j : Job}

/-! ### Folds that write one place after another -/

section Fold
variable {σ β ρ : Type} {get : σ → ρ} {f : σ → β → σ} {l : List β}

theorem foldl_keep (h : ∀ m, ∀ b ∈ l, get (f m b) = get m) (m : σ) : get (l.foldl f m) = get m := by
  induction l generalizing m with
  | nil => rfl
  | cons b l ih => rw [List.foldl_cons, ih fun m b' hb => h m b' (List.mem_cons_of_mem _ hb), h m b List.mem_cons_self]

/-- What is written with one value only, whenever it is written, has it in the end. -/
theorem foldl_set {v : ρ} {a : β} (ha : a ∈ l) (hit : ∀ m, get (f m a) = v)
    (h : ∀ m, ∀ b ∈ l, get (f m b) = v ∨ get (f m b) = get m) (m : σ) : get (l.foldl f m) = v := by
  have hset (l : List β) (h : ∀ m, ∀ b ∈ l, get (f m b) = v ∨ get (f m b) = get m) (m : σ) (hm : get m = v) : get (l.foldl f m) = v := by
    induction l generalizing m with
    | nil => exact hm
    | cons b l ih =>
      refine ih (fun m b' hb => h m b' (List.mem_cons_of_mem _ hb)) _ ?_
      rcases h m b List.mem_cons_self with hv | hv
      · exact hv
      · exact hv.trans hm
  obtain ⟨l₁, l₂, rfl⟩ := List.append_of_mem ha
  rw [List.foldl_append, List.foldl_cons]
  exact hset l₂ (fun m b hb => h m b (List.mem_append_right _ (List.mem_cons_of_mem _ hb))) _ (hit _)

/-- What one element of the list changes, and no other, is changed once. -/
theorem foldl_once {F : ρ → ρ} {a : β} (hn : l.Nodup) (ha : a ∈ l) (hit : ∀ m, get (f m a) = F (get m))
    (h : ∀ m, ∀ b ∈ l, b ≠ a → get (f m b) = get m) (m : σ) : get (l.foldl f m) = F (get m) := by
  induction l generalizing m with
  | nil => simp at ha
  | cons b l ih =>
    obtain ⟨hb, hn⟩ := List.nodup_cons.1 hn
    rw [List.foldl_cons]
    rcases List.mem_cons.1 ha with rfl | hl
    · rw [foldl_keep (fun m b' hb' => h m b' (List.mem_cons_of_mem _ hb') fun e => hb (e ▸ hb')), hit]
    · rw [ih hn hl fun m b' hb' => h m b' (List.mem_cons_of_mem _ hb'), h m b List.mem_cons_self fun e => hb (e ▸ hl)]

end Fold

/-! ### Jobs that may not act -/

theorem engineRead_none (h : s.jobFree c k = none) (part : List Nat) : s.engineRead c k part = s := by
  simp only [State.engineRead, h]

theorem copyStep_none (h : s.jobFree c k = none) (q n : Nat) : s.copyStep c k q n = s := by
  simp only [State.copyStep, h]

theorem engineComplete_none (h : s.jobFree c k = none) : s.engineComplete c k = s := by
  simp only [State.engineComplete, h]

theorem engineRead_waits (hj : s.jobFree c k = some j) (h : j.readDone = true ∨ s.weirMay c j = false) (part : List Nat) :
    s.engineRead c k part = s := by
  have hb : (j.readDone || !s.weirMay c j) = true := by simpa using h
  simp only [State.engineRead, hj, hb, if_true]

/-! ### The state after a change of a core's jobs -/

@[simp] theorem setJob_jobs (s : State) (c n : Nat) (j : Job) : ((s.setJob c n j).core c).jobs = (s.core c).jobs.set n j := by
  simp [State.setJob]

@[simp] theorem setJob_cluster (s : State) (c n : Nat) (j : Job) (cl : Nat) : (s.setJob c n j).cluster cl = s.cluster cl := rfl

@[simp] theorem setJob_mem (s : State) (c n : Nat) (j : Job) : (s.setJob c n j).mem = s.mem := rfl

@[simp] theorem setJob_basin8 (s : State) (c n : Nat) (j : Job) (cl b x : Nat) : (s.setJob c n j).basin8 cl b x = s.basin8 cl b x := rfl

@[simp] theorem setJob_mem8 (s : State) (c n : Nat) (j : Job) (x : Nat) : (s.setJob c n j).mem8 x = s.mem8 x := rfl

@[simp] theorem arriveLater_core (s : State) (cl blk bar c : Nat) : (s.arriveLater cl blk bar).core c = s.core c := rfl

@[simp] theorem arriveLater_mem (s : State) (cl blk bar : Nat) : (s.arriveLater cl blk bar).mem = s.mem := rfl

@[simp] theorem arriveLater_block (s : State) (cl blk bar b : Nat) : (s.arriveLater cl blk bar).block? b = s.block? b := rfl

@[simp] theorem arriveLater_weir (s : State) (cl blk bar c : Nat) : ((s.arriveLater cl blk bar).cluster c).weir = (s.cluster c).weir := by
  simp only [State.arriveLater, State.setCluster_cluster]
  split
  · next h => rw [h]
  · rfl

/-- A job's arrival on a barrier, or none, is on its way. -/
def arrivesOn (s : State) (cl blk : Nat) : Option Nat → State
  | some b => s.arriveLater cl blk b
  | none => s

theorem arrivesOn_arrivals (s : State) (cl blk : Nat) (bar : Option Nat) :
    ((arrivesOn s cl blk bar).cluster cl).arrivals = (s.cluster cl).arrivals ++ (bar.map fun b => (blk, b)).toList := by
  cases bar <;> simp [arrivesOn]

@[simp] theorem arrivesOn_core (s : State) (cl blk : Nat) (bar : Option Nat) (c : Nat) : (arrivesOn s cl blk bar).core c = s.core c := by
  cases bar <;> rfl

@[simp] theorem arrivesOn_mem (s : State) (cl blk : Nat) (bar : Option Nat) : (arrivesOn s cl blk bar).mem = s.mem := by
  cases bar <;> rfl

@[simp] theorem arrivesOn_block (s : State) (cl blk : Nat) (bar : Option Nat) (b : Nat) :
    (arrivesOn s cl blk bar).block? b = s.block? b := by
  cases bar <;> rfl

@[simp] theorem arrivesOn_weir (s : State) (cl blk : Nat) (bar : Option Nat) (c : Nat) :
    ((arrivesOn s cl blk bar).cluster c).weir = (s.cluster c).weir := by
  cases bar
  · rfl
  · exact arriveLater_weir s _ _ _ _

/-! ### All that is left at once -/

theorem readElems_ok {f : Nat → Nat} {es : List Nat} (h : ∀ e ∈ es, s.jobElem c j e = .ok (s, f e)) :
    s.readElems c j es = .ok (s, es.map fun e => (e, f e + 1)) := by
  induction es with
  | nil => rfl
  | cons e es ih =>
    simp only [State.readElems, h e List.mem_cons_self, bind, Except.bind, ih fun e' he => h e' (List.mem_cons_of_mem _ he),
      pure, Except.pure, List.map_cons]

/-- The elements a job has read after `es`. -/
def gotAll (got : SMap Nat) (f : Nat → Nat) (es : List Nat) : SMap Nat :=
  (es.map fun e => (e, f e + 1)).foldl (fun m v => mput 0 m v.1 v.2) got

theorem mget_gotAll {f : Nat → Nat} {es : List Nat} {e : Nat} (he : e ∈ es) (got : SMap Nat) : mget 0 (gotAll got f es) e = f e + 1 := by
  refine foldl_set (get := fun m => mget 0 m e) (List.mem_map_of_mem he) (fun m => mget_mput_self _ _ _ _) (fun m b hb => ?_) got
  obtain ⟨x, -, rfl⟩ := List.mem_map.1 hb
  by_cases hx : e = x
  · subst hx
    exact .inl (mget_mput_self _ _ _ _)
  · exact .inr (mget_mput_other 0 m _ hx)

theorem engineRead_all (hj : s.jobFree c k = some j) (hr : j.readDone = false) (hm : s.weirMay c j = true) (hg : j.got = [])
    {f : Nat → Nat} (hf : ∀ e ∈ j.elems, s.jobElem c j e = .ok (s, f e)) :
    s.engineRead c k [] = arrivesOn (s.setJob c k { j with got := gotAll [] f j.elems, readDone := true }) (c / 8) j.blk j.rdBar := by
  have htodo : j.elems.filter (fun e => decide (mget 0 [] e = 0)) = j.elems := List.filter_eq_self.2 fun _ _ => rfl
  simp only [State.engineRead, hj, hr, hm, Bool.not_true, Bool.or_false, Bool.false_eq_true, if_false, if_true, hg, htodo, readElems_ok hf]
  cases j.rdBar <;> rfl

theorem engineRead_all_result (hj : s.jobFree c k = some j) (hr : j.readDone = false) (hm : s.weirMay c j = true) (f : Nat → Nat)
    (hg : j.got = []) (hf : ∀ e ∈ j.elems, s.jobElem c j e = .ok (s, f e)) :
    ∃ t j', exec (.engineReadDone c k []) s = .next t ∧ (t.core c).jobs = (s.core c).jobs.set k j' ∧ j'.readDone = true ∧
      (∀ e ∈ j.elems, mget 0 j'.got e = f e + 1) ∧ { j' with got := j.got, readDone := false } = j ∧
      (t.cluster (c / 8)).arrivals = (s.cluster (c / 8)).arrivals ++ (j.rdBar.map fun b => (j.blk, b)).toList ∧ SameMem s t := by
  refine ⟨_, { j with got := gotAll [] f j.elems, readDone := true }, congrArg Host.Outcome.next (engineRead_all hj hr hm hg hf), ?_, rfl,
    fun e he => mget_gotAll he [], ?_, ?_, sameMem_of_mem ?_⟩
  · simp
  · rw [← hr]
  · simp [arrivesOn_arrivals]
  · simp

/-! ### One element -/

/-- The state after the read of one element, with what it gave. -/
theorem engineRead_one (hj : s.jobFree c k = some j) (hr : j.readDone = false) (hm : s.weirMay c j = true) {e : Nat} (he : e ∈ j.elems)
    (hg : mget 0 j.got e = 0) : s.engineRead c k [e] = match s.jobElem c j e with
      | .ok (u, v) => u.setJob c k { j with got := mput 0 j.got e (v + 1) }
      | .error x => (s.stopMatrix c j).1.jobFault c (s.stopMatrix c j).2 x := by
  have htodo : ([e].eraseDups.filter j.elems.contains).filter (fun e => decide (mget 0 j.got e = 0)) = [e] := by
    have : [e].eraseDups = [e] := by simp [List.eraseDups_cons]
    rw [this]
    simp [he, hg]
  simp only [State.engineRead, hj, hr, hm, Bool.not_true, Bool.or_false, Bool.false_eq_true, if_false, List.cons_ne_nil, htodo,
    State.readElems, bind, Except.bind]
  cases s.jobElem c j e with
  | error x => rfl
  | ok p => simp [pure, Except.pure, ← hr]

end Sys2Proof.Machine.Engines
end

section
/-! Elements that engine jobs move to a basin (R221, R231, R300). -/

namespace Sys2Proof.Machine.Engines

variable {s : State} {c k : Nat} {j : Job}

/-! ### Basin writes that go on at the beginning of their basin (R300) -/

theorem basin8_basinWr_at (s : State) (cl b : Nat) {off : Nat} {bs : List Byte} {i : Nat} (hi : i < bs.length) (hl : bs.length ≤ 65536) :
    (s.basinWr cl b off bs).basin8 cl b (off + i) = bs.getD i 0 := by
  unfold State.basinWr
  dsimp only
  split
  · rw [State.basin8_basinPut, if_pos (by omega), show b * 65536 + (off + i) % 65536 - (b * 65536 + off % 65536) = i by omega]
  · have hd : (bs.drop (65536 - off % 65536)).length = bs.length - (65536 - off % 65536) := List.length_drop
    have ht : (bs.take (65536 - off % 65536)).length = 65536 - off % 65536 := List.length_take_of_le (by omega)
    rw [State.basin8_basinPut, State.basin8_basinPut, hd, ht]
    rcases Nat.lt_or_ge i (65536 - off % 65536) with h | h
    · rw [if_neg (by omega), if_pos (by omega), show b * 65536 + (off + i) % 65536 - (b * 65536 + off % 65536) = i by omega,
        List.getD_eq_getElem?_getD, List.getElem?_take_of_lt h, ← List.getD_eq_getElem?_getD]
    · rw [if_pos (by omega), List.getD_eq_getElem?_getD, List.getElem?_drop, ← List.getD_eq_getElem?_getD]
      congr 1
      omega

theorem basin8_basinWr_else (s : State) (cl b : Nat) {off : Nat} {bs : List Byte} {cl' b' y : Nat} (hl : bs.length ≤ 65536)
    (hy : y < 65536) (h : ¬(cl' = cl ∧ b' = b ∧ ∃ i < bs.length, y = (off + i) % 65536)) :
    (s.basinWr cl b off bs).basin8 cl' b' y = s.basin8 cl' b' y := by
  have hput (s : State) (o : Nat) (l : List Byte) (ho : o + l.length ≤ 65536)
      (hmiss : ¬(cl' = cl ∧ b' = b ∧ o ≤ y ∧ y < o + l.length)) : (s.basinPut cl b o l).basin8 cl' b' y = s.basin8 cl' b' y := by
    rw [State.basin8_basinPut, if_neg]
    intro hc
    exact hmiss (by omega)
  unfold State.basinWr
  dsimp only
  split
  · exact hput s _ _ (by omega) fun hc => h ⟨hc.1, hc.2.1, y - off % 65536, by omega, by omega⟩
  · have hd : (bs.drop (65536 - off % 65536)).length = bs.length - (65536 - off % 65536) := List.length_drop
    have ht : (bs.take (65536 - off % 65536)).length = 65536 - off % 65536 := List.length_take_of_le (by omega)
    rw [hput _ 0 _ (by omega) fun hc => h ⟨hc.1, hc.2.1, y + (65536 - off % 65536), by omega, by omega⟩,
      hput _ _ _ (by omega) fun hc => h ⟨hc.1, hc.2.1, y - off % 65536, by omega, by omega⟩]

theorem basinWr_mod (s : State) (cl b off : Nat) (bs : List Byte) : s.basinWr cl b (off % 65536) bs = s.basinWr cl b off bs := by
  simp only [State.basinWr, Nat.mod_mod]

/-! ### `accst` (R221) and `wcapture` (R231) -/

theorem fmtBytes_le (fmt : Nat) : fmtBytes fmt ≤ 8 := by
  unfold fmtBytes
  rcases Nat.lt_or_ge fmt 10 with h | h
  · interval_cases fmt <;> decide
  · rw [List.getD_eq_default _ _ (by simpa using h)]
    omega

theorem elems_accst {o : QAcc} (hk : j.kind = .accMove (.accst o)) : j.elems = List.range 4096 := by simp only [Job.elems, hk, accElems]

theorem weirMay_accMove {i : Instr} (hk : j.kind = .accMove i) : s.weirMay c j = true := by simp only [State.weirMay, hk]

/-- The value of an accumulator element in the format of a tile (R221). -/
def storedBits (B : Block) (c : Nat) (o : QAcc) (e : Nat) : Nat :=
  ((fmtOf o.m5).conv 0 false ((accFmt (decide (o.m2 = 0#3))).val
    (accBits B.acc c o.d.toNat (e / 64) (e % 64) (decide (o.m2 = 0#3))))).1

/-- The basin byte of an element of the tile that a job writes, which may pass the end of the basin (R300). -/
def tilePlace (d : TDesc) (e : Nat) : Nat :=
  TDesc.off d + e / 64 * TDesc.pitch d + (fmtBytes (TDesc.fmt d) * (e % 64) ^^^ 16 * (e / 64 % TDesc.n d))

section Store
variable {o : QAcc} {B : Block} {b e : Nat} (hk : j.kind = .accMove (.accst o)) (hB : s.block? j.blk = some B)
include hk hB

theorem jobElem_accst_bad (h : B.accBad c o.d.toNat (decide (o.m2 = 0#3)) (some e) = true) : s.jobElem c j e = .error 0xD := by
  simp only [State.jobElem, hk, State.accStore, hB, Option.any_some, h, if_true, bind, Except.bind, throw, throwThe,
    MonadExceptOf.throw]

theorem jobElem_accst (hb : j.basinOf (TDesc.slot j.da) = .ok b)
    (h : B.accBad c o.d.toNat (decide (o.m2 = 0#3)) (some e) = false) : s.jobElem c j e =
      .ok (s.basinWr (c / 8) b (tilePlace j.da e) (natLe (fmtBytes (TDesc.fmt j.da)) (storedBits B c o e)), 0) := by
  rw [← basinWr_mod]
  simp only [State.jobElem, hk, State.accStore, hB, Option.any_some, h, Bool.false_eq_true, if_false, bind, Except.bind, hb,
    pure, Except.pure]
  rfl

end Store

theorem engineRead_accst {o : QAcc} {B : Block} {b e : Nat} (hj : s.jobFree c k = some j) (hr : j.readDone = false)
    (hk : j.kind = .accMove (.accst o)) (hb : j.basinOf (TDesc.slot j.da) = .ok b) (he : e < 4096) (hg : mget 0 j.got e = 0)
    (hB : s.block? j.blk = some B) (h : B.accBad c o.d.toNat (decide (o.m2 = 0#3)) (some e) = false) :
    ∃ t, exec (.engineReadDone c k [e]) s = .next t ∧ SameMem s t ∧
      (∀ i < fmtBytes (TDesc.fmt j.da), t.basin8 (c / 8) b (tilePlace j.da e + i) =
        (natLe (fmtBytes (TDesc.fmt j.da)) (storedBits B c o e)).getD i 0) ∧
      ∀ b' y, y < 65536 → ¬(b' = b ∧ ∃ i < fmtBytes (TDesc.fmt j.da), y = (tilePlace j.da e + i) % 65536) →
        t.basin8 (c / 8) b' y = s.basin8 (c / 8) b' y := by
  have hz := fmtBytes_le (TDesc.fmt j.da)
  have hstep := engineRead_one hj hr (weirMay_accMove hk) (by simpa [elems_accst hk] using he) hg
  rw [jobElem_accst hk hB hb h] at hstep
  refine ⟨_, congrArg Host.Outcome.next hstep, sameMem_of_mem (by simp), fun i hi => ?_, fun b' y hy hne => ?_⟩
  · exact basin8_basinWr_at s _ _ (by rwa [Bytes.length_natLe]) (by rw [Bytes.length_natLe]; omega)
  · exact basin8_basinWr_else s _ _ (by rw [Bytes.length_natLe]; omega) hy fun hc =>
      hne ⟨hc.2.1, by simpa only [Bytes.length_natLe] using hc.2.2⟩

theorem engineRead_wcapture {o : QWrow} {b e : Nat} (hj : s.jobFree c k = some j) (hr : j.readDone = false) (hm : s.weirMay c j = true)
    (hk : j.kind = .weir (.wcapture o)) (hb : j.basinOf o.slot.toNat = .ok b) (ho : o.off.toNat + 256 ≤ 65536) (he : e < 256)
    (hg : mget 0 j.got e = 0) :
    ∃ t, exec (.engineReadDone c k [e]) s = .next t ∧
      t.basin8 (c / 8) b (o.off.toNat + e) = mget 255 (s.cluster (c / 8)).weir.out e ∧ SameMem s t ∧
      ∀ b' x, x < 65536 → ¬(b' = b ∧ x = o.off.toNat + e) → t.basin8 (c / 8) b' x = s.basin8 (c / 8) b' x := by
  have helem : j.elems = List.range 256 := by simp only [Job.elems, hk, weirReads, weirWrites]
  have hval : s.jobElem c j e = .ok (s.basinWr (c / 8) b (o.off.toNat + e) [mget 255 (s.cluster (c / 8)).weir.out e], 0) := by
    simp only [State.jobElem, hk, weirReads, weirWrites, bind, Except.bind, hb, pure, Except.pure]
  have hstep := engineRead_one hj hr hm (by simpa [helem] using he) hg
  rw [hval] at hstep
  refine ⟨_, congrArg Host.Outcome.next hstep, ?_, sameMem_of_mem (by simp), fun b' x hx hne => ?_⟩
  · exact basin8_basinWr_at s _ _ (i := 0) (bs := [mget 255 (s.cluster (c / 8)).weir.out e]) (by simp) (by simp)
  · refine basin8_basinWr_else s _ _ (by simp) hx ?_
    rintro ⟨-, hb', i, hi, rfl⟩
    have : i = 0 := by simpa using hi
    exact hne ⟨hb', by omega⟩

end Sys2Proof.Machine.Engines
end

section
/-! Copies move bytes and count them down (R207, R208, R211, R220). -/

namespace Sys2Proof.Machine.Engines

variable {s : State} {c k : Nat} {j j' : Job} {d : CopyDesc}

/-! ### Bytes that an engine writes -/

/-- The rest of `engineWrite` marks units. -/
theorem still_writeMarks (s : State) (c : Nat) (ws : List ((Nat ⊕ (Nat × Nat)) × Byte × Bool)) :
    Still s (ws.foldl (fun s w => match w.1 with
      | .inl pa => s.sectorMark pa w.2.2
      | .inr (b, off) => s.basinMark (c / 8) b off 1 w.2.2) s) := by
  refine still_foldl (fun s w => ?_) ws s
  rcases w with ⟨pa | ⟨b, off⟩, w⟩
  · exact still_sectorMark s pa _
  · exact still_basinMark s _ _ _ _ _

/-- Bytes that go to places `w` in turn. -/
def copyWrites (w : Nat → Nat ⊕ (Nat × Nat)) (bs : Nat → Byte) (n : Nat) : List ((Nat ⊕ (Nat × Nat)) × Byte × Bool) :=
  (List.range n).map fun x => (w x, bs x, false)

section Writes
variable {n : Nat} {w : Nat → Nat ⊕ (Nat × Nat)} {bs : Nat → Byte}

theorem copyWrites_places : (copyWrites w bs n).map (fun x => x.1) = (List.range n).map w := by simp [copyWrites, Function.comp_def]

theorem copyWrites_bytes : (copyWrites w bs n).map (fun x => x.2.1) = (List.range n).map bs := by simp [copyWrites, Function.comp_def]

theorem copyWrites_cons (hn : 0 < n) : ∃ r, copyWrites w bs n = (w 0, bs 0, false) :: r := by
  obtain ⟨m, rfl⟩ := Nat.exists_eq_succ_of_ne_zero hn.ne'
  exact ⟨_, by rw [copyWrites, List.range_succ_eq_map, List.map_cons]⟩

theorem engineWrite_basin {b off : Nat} (hn : 0 < n) (hw : ∀ x < n, w x = .inr (b, off + x)) :
    Still (s.basinWr (c / 8) b off ((List.range n).map bs)) (s.engineWrite c (copyWrites w bs n)) := by
  obtain ⟨r, hr⟩ := copyWrites_cons (w := w) (bs := bs) hn
  have hp : (copyWrites w bs n).map (fun x => x.1) = (List.range (copyWrites w bs n).length).map fun i => .inr (b, off + i) := by
    rw [copyWrites_places, copyWrites, List.length_map, List.length_range]
    exact List.map_congr_left fun x hx => hw x (List.mem_range.1 hx)
  have h := still_writeMarks (s.basinWr (c / 8) b off ((List.range n).map bs)) c (copyWrites w bs n)
  rw [← copyWrites_bytes (w := w)] at h ⊢
  rw [hr, show w 0 = _ from hw 0 hn] at hp h ⊢
  simp only [Nat.add_zero] at hp h ⊢
  simp only [State.engineWrite]
  rw [if_pos hp]
  exact h

theorem engineWrite_global {pa : Nat} (hn : 0 < n) (hw : ∀ x < n, w x = .inl (pa + x)) :
    Still (s.perform pa ((List.range n).map bs)) (s.engineWrite c (copyWrites w bs n)) := by
  obtain ⟨r, hr⟩ := copyWrites_cons (w := w) (bs := bs) hn
  have hp : (copyWrites w bs n).map (fun x => x.1) = (List.range (copyWrites w bs n).length).map fun i => .inl (pa + i) := by
    rw [copyWrites_places, copyWrites, List.length_map, List.length_range]
    exact List.map_congr_left fun x hx => hw x (List.mem_range.1 hx)
  have h := still_writeMarks (s.perform pa ((List.range n).map bs)) c (copyWrites w bs n)
  rw [← copyWrites_bytes (w := w)] at h ⊢
  rw [hr, show w 0 = _ from hw 0 hn] at hp h ⊢
  simp only [Nat.add_zero] at hp h ⊢
  simp only [State.engineWrite]
  rw [if_pos hp]
  exact h

end Writes

/-! ### One move -/

/-- Row `r` of a strided side of a copy. -/
def rowAt (base : W64) (stride : W32) (r : Nat) : W64 := base + BitVec.ofInt 64 (stride.toInt * (r : Int))

/-- Where row `r` of a copy comes from, or none where its index says zeros; a gather keeps the index in its job. -/
def CopySource (s : State) (c : Nat) (j : Job) (d : CopyDesc) (r : Nat) (src : Option W64) (j' : Job) : Prop :=
  (d.kind ≠ 2 ∧ src = some (rowAt d.src d.sstride r) ∧ j' = j) ∨
    (d.kind = 2 ∧ ∃ x, s.copyIndex c j d r = .ok (x, j') ∧ ((x = 2 ^ (if d.iw then 16 else 32) - 1 ∧ src = none) ∨
      (x ≠ 2 ^ (if d.iw then 16 else 32) - 1 ∧ x < d.glim ∧ src = some (rowAt d.src d.sstride x))))

theorem mapM_ok {α β : Type} {f : α → Except Nat β} {g : α → β} {l : List α} (h : ∀ x ∈ l, f x = .ok (g x)) :
    l.mapM f = .ok (l.map g) := by
  induction l with
  | nil => rfl
  | cons x l ih =>
    rw [List.mapM_cons, h x List.mem_cons_self, ih fun y hy => h y (List.mem_cons_of_mem _ hy)]
    rfl

theorem still_note (s s' : State) (ctx n : Nat) (g : W64) :
    Still s' (match steer g with
      | .global va => s.noteSpan s' ctx va n
      | _ => s') := by
  split
  · exact still_noteSpan s s' ctx _ n
  · exact .refl s'

/-- A byte of the source of a row, or zero. -/
def SourceByte (s : State) (c : Nat) (j : Job) (src : Option W64) (y : Nat) (v : Byte) : Prop :=
  match src with
  | some g => s.engineRd c j (g + BitVec.ofNat 64 y) = .ok (v, false)
  | none => v = 0

/-- The bytes of a row whose source is known. -/
def rowWrites (s : State) (c : Nat) (j : Job) (src : Option W64) (dst : W64) (o n : Nat) :
    Except Nat (List ((Nat ⊕ (Nat × Nat)) × Byte × Bool)) :=
  (List.range n).mapM fun i => do
    let b ← (match src with
      | some g => s.engineRd c j (g + BitVec.ofNat 64 (o + i))
      | none => .ok (0#8, false))
    let w ← s.engineWrAt j (dst + BitVec.ofNat 64 (o + i))
    return (w, b.1, b.2)

theorem rowWrites_ok {o n : Nat} {src : Option W64} {dst : W64} {bs : Nat → Byte} {w : Nat → Nat ⊕ (Nat × Nat)}
    (hrd : ∀ x < n, SourceByte s c j src (o + x) (bs x))
    (hwr : ∀ x < n, s.engineWrAt j (dst + BitVec.ofNat 64 (o + x)) = .ok (w x)) :
    rowWrites s c j src dst o n = .ok (copyWrites w bs n) := by
  refine mapM_ok fun x hx => ?_
  have hr := hrd x (List.mem_range.1 hx)
  cases src with
  | some g =>
    simp only [show s.engineRd c j (g + BitVec.ofNat 64 (o + x)) = _ from hr, hwr x (List.mem_range.1 hx), bind, Except.bind, pure,
      Except.pure]
  | none => simp only [show bs x = 0 from hr, hwr x (List.mem_range.1 hx), bind, Except.bind, pure, Except.pure]; rfl

/-- What remains of a move once its row's source is known. -/
theorem copyMove_row {r o n : Nat} {src : Option W64} {ws : List ((Nat ⊕ (Nat × Nat)) × Byte × Bool)}
    (hsrc : CopySource s c j d r src j') (hdst : rowFits (rowAt d.dst d.dstride r) d.rowlen = true)
    (hfit : ∀ g, src = some g → rowFits g d.rowlen = true)
    (hws : rowWrites s c j' src (rowAt d.dst d.dstride r) o n = .ok ws) :
    ∃ u, s.copyMove c j d r o n = .ok (u, j') ∧ Still (s.engineWrite c ws) u := by
  unfold State.copyMove
  rcases hsrc with ⟨hk, rfl, rfl⟩ | ⟨hk, x, hx, ⟨he, rfl⟩ | ⟨he, hl, rfl⟩⟩
  · have hf := hfit _ rfl
    simp only [rowAt, rowWrites, bind, Except.bind, pure, Except.pure] at hdst hf hws
    simp only [if_neg hk, bind, Except.bind, pure, Except.pure, hdst, hf, Bool.true_eq_false, or_self, if_false, hws]
    exact ⟨_, rfl, ((still_note s _ _ n _).trans (still_note s _ _ n _)).trans (still_readSlices s _ _ _ _)⟩
  · simp only [rowAt, rowWrites, bind, Except.bind, pure, Except.pure] at hdst hws
    simp only [if_pos hk, hx, if_pos he, bind, Except.bind, pure, Except.pure, hdst, Bool.true_eq_false, or_self, if_false, hws]
    exact ⟨_, rfl, still_note s _ _ n _⟩
  · have hf := hfit _ rfl
    simp only [rowAt, rowWrites, bind, Except.bind, pure, Except.pure] at hdst hf hws
    simp only [if_pos hk, hx, if_neg he, if_neg (Nat.not_le.2 hl), bind, Except.bind, pure, Except.pure, hdst, hf, Bool.true_eq_false,
      or_self, if_false, hws]
    exact ⟨_, rfl, ((still_note s _ _ n _).trans (still_note s _ _ n _)).trans (still_readSlices s _ _ _ _)⟩

/-! ### One step of a copy (R208, R220) -/

/-- A copy job with runs `left` still to move and `n` more bytes moved. -/
def movedJob (j : Job) (d : CopyDesc) (left : List (Nat × Nat)) (unc n : Nat) : Job :=
  { j with kind := .copy d left (unc + if d.ben then n else 0), readDone := decide (left = []) }

section Step
variable {left left' : List (Nat × Nat)} {unc q n : Nat} (hj : s.jobFree c k = some j) (hk : j.kind = .copy d left unc)
include hj hk

section Move
variable (hn : 0 < n) (hq : q % d.rowlen + n ≤ d.rowlen)
include hn hq

theorem copyStep_taken (ht : takeRun q n left = none) : s.copyStep c k q n = s := by
  simp only [State.copyStep, hj, hk, if_neg hn.ne', if_neg (Nat.not_lt.2 hq), ht]

theorem copyStep_moves {u : State} (ht : takeRun q n left = some left')
    (hu : s.copyMove c j d (q / d.rowlen) (q % d.rowlen) n = .ok (u, j')) :
    s.copyStep c k q n = u.setJob c k (movedJob j' d left' unc n) := by
  simp only [State.copyStep, hj, hk, if_neg hn.ne', if_neg (Nat.not_lt.2 hq), ht, hu]
  rfl

section Source
variable {src : Option W64} {bs : Nat → Byte} {w : Nat → Nat ⊕ (Nat × Nat)} (ht : takeRun q n left = some left')
  (hsrc : CopySource s c j d (q / d.rowlen) src j')
  (hdst : rowFits (rowAt d.dst d.dstride (q / d.rowlen)) d.rowlen = true) (hfit : ∀ g, src = some g → rowFits g d.rowlen = true)
  (hrd : ∀ x < n, SourceByte s c j' src (q % d.rowlen + x) (bs x))
include ht hsrc hdst hfit hrd

theorem copyStep_writes
    (hwr : ∀ x < n, s.engineWrAt j' (rowAt d.dst d.dstride (q / d.rowlen) + BitVec.ofNat 64 (q % d.rowlen + x)) = .ok (w x)) :
    ∃ u, exec (.copyBytesCounted c k q n) s = .next (u.setJob c k (movedJob j' d left' unc n)) ∧
      Still (s.engineWrite c (copyWrites w bs n)) u := by
  obtain ⟨u, hu, hs⟩ := copyMove_row hsrc hdst hfit (rowWrites_ok hrd hwr)
  exact ⟨u, congrArg Host.Outcome.next (copyStep_moves hj hk hn hq ht hu), hs⟩

theorem copyStep_basin {b off : Nat} (ho : off + n ≤ 65536)
    (hwr : ∀ x < n, s.engineWrAt j' (rowAt d.dst d.dstride (q / d.rowlen) + BitVec.ofNat 64 (q % d.rowlen + x)) =
      .ok (.inr (b, off + x))) :
    ∃ t, (exec (.copyBytesCounted c k q n) s = .next t ∧ (t.core c).jobs = (s.core c).jobs.set k (movedJob j' d left' unc n)) ∧
      (∀ x < n, t.basin8 (c / 8) b (off + x) = bs x) ∧ SameMem s t ∧
      (∀ cl b' x, x < 65536 → ¬(cl = c / 8 ∧ b' = b ∧ off ≤ x ∧ x < off + n) → t.basin8 cl b' x = s.basin8 cl b' x) := by
  obtain ⟨u, hexec, hs⟩ := copyStep_writes hj hk hn hq ht hsrc hdst hfit hrd hwr
  have hu := (engineWrite_basin (s := s) (c := c) (bs := bs) hn fun x _ => rfl).trans hs
  refine ⟨_, ⟨hexec, ?_⟩, fun x hx => ?_, sameMem_of_mem ?_, fun cl b' x hx hne => ?_⟩
  · rw [setJob_jobs, hu.core, State.core, State.basinWr_cores]
    rfl
  · rw [setJob_basin8, hu.basin8, basin8_basinWr_at s _ _ (by simpa using hx) (by simp; omega)]
    simp [List.getD_eq_getElem?_getD, hx]
  · simp [hu.mem]
  · rw [setJob_basin8, hu.basin8, basin8_basinWr_else s _ _ (by simp; omega) hx]
    rintro ⟨hcl, hb, i, hi, rfl⟩
    rw [List.length_map, List.length_range] at hi
    exact hne ⟨hcl, hb, by omega, by omega⟩

theorem copyStep_global {pa : Nat}
    (hwr : ∀ x < n, s.engineWrAt j' (rowAt d.dst d.dstride (q / d.rowlen) + BitVec.ofNat 64 (q % d.rowlen + x)) = .ok (.inl (pa + x))) :
    ∃ t, (exec (.copyBytesCounted c k q n) s = .next t ∧ (t.core c).jobs = (s.core c).jobs.set k (movedJob j' d left' unc n)) ∧
      (∀ x < n, t.mem8 (pa + x) = bs x) ∧ ∀ x, ¬(pa ≤ x ∧ x < pa + n) → t.mem8 x = s.mem8 x := by
  obtain ⟨u, hexec, hs⟩ := copyStep_writes hj hk hn hq ht hsrc hdst hfit hrd hwr
  have hu := (engineWrite_global (s := s) (c := c) (bs := bs) hn fun x _ => rfl).trans hs
  refine ⟨_, ⟨hexec, ?_⟩, fun x hx => ?_, fun x hx => ?_⟩
  · rw [setJob_jobs, hu.core, State.core, (perform_clusters_cores s _ _).2]
    rfl
  · rw [setJob_mem8, hu.mem8, mem8_perform, if_pos (by simp; omega)]
    simp [List.getD_eq_getElem?_getD, hx]
  · rw [setJob_mem8, hu.mem8, mem8_perform, if_neg (by simpa using hx)]

end Source
end Move

/-! ### Counting down (R208, R211) -/

section Count
variable {b : Nat} (h0 : 0 < q) (hq : q ≤ unc) (hb : j.basinOf (d.bco / 65536) = .ok b)
include h0 hq hb

theorem copyStep_poisoned (h : s.basinPoisoned (c / 8) b (d.bco % 65536) 4 = true) :
    s.copyStep c k q 0 = s.jobFault c j 0xD := by
  have hgo : ¬(q = 0 ∨ unc < q) := by omega
  simp only [State.copyStep, hj, hk, if_true, if_neg hgo, hb, h]

theorem copyStep_counts (h : s.basinPoisoned (c / 8) b (d.bco % 65536) 4 = false) :
    s.copyStep c k q 0 = (s.basinWr (c / 8) b (d.bco % 65536) (natLe 4 (BitVec.ofNat 32 (leNat (s.basinRd (c / 8) b (d.bco % 65536) 4)) -
      BitVec.ofNat 32 q).toNat)).setJob c k { j with kind := .copy d left (unc - q) } := by
  have hgo : ¬(q = 0 ∨ unc < q) := by omega
  simp only [State.copyStep, hj, hk, if_true, if_neg hgo, hb, h, Bool.false_eq_true, if_false]

end Count
end Step

/-- A basin read gives back the little-endian value of the bytes just written there. -/
theorem basinRd_basinWr {cl b off : Nat} {bs : List Byte} (hl : bs.length ≤ 65536) :
    (s.basinWr cl b off bs).basinRd cl b off bs.length = bs := by
  refine List.ext_getElem (by simp [State.basinRd]) fun i _ hi => ?_
  simp only [State.basinRd, List.getElem_map, List.getElem_range]
  rw [basin8_basinWr_at s cl b hi hl, List.getD_eq_getElem?_getD, List.getElem?_eq_getElem hi, Option.getD_some]

theorem countAt_basinWr (s : State) (cl b off : Nat) (v : W32) : (s.basinWr cl b off (natLe 4 v.toNat)).countAt cl b off = v.toInt := by
  have h := basinRd_basinWr (s := s) (cl := cl) (b := b) (off := off) (bs := natLe 4 v.toNat) (by simp)
  rw [Bytes.length_natLe] at h
  rw [State.countAt, h, Bytes.leNat_natLe, show 256 ^ 4 = 2 ^ 32 from rfl, Nat.mod_eq_of_lt v.isLt, BitVec.ofNat_toNat, BitVec.setWidth_eq]

/-- A count that stays in range is the difference. -/
theorem toInt_sub_small {v : W32} {q : Nat} (hq : q < 2 ^ 31) (h : -(2 ^ 31) ≤ v.toInt - (q : Int)) :
    (v - BitVec.ofNat 32 q).toInt = v.toInt - q := by
  have hv := BitVec.toInt_lt (x := v)
  have hqi : (BitVec.ofNat 32 q).toInt = q := by
    rw [BitVec.toInt_ofNat', Int.bmod_eq_of_le (by omega) (by omega)]
  rw [BitVec.toInt_sub, hqi, Int.bmod_eq_of_le (by omega) (by omega)]

theorem copyStep_counts_result {left : List (Nat × Nat)} {unc q b : Nat} (hj : s.jobFree c k = some j) (hk : j.kind = .copy d left unc)
    (h0 : 0 < q) (hq : q ≤ unc) (hb : j.basinOf (d.bco / 65536) = .ok b) (h : s.basinPoisoned (c / 8) b (d.bco % 65536) 4 = false) :
    ∃ t, exec (.copyBytesCounted c k q 0) s = .next t ∧
      (q < 2 ^ 31 → -(2 ^ 31) ≤ s.countAt (c / 8) b (d.bco % 65536) - q →
        t.countAt (c / 8) b (d.bco % 65536) = s.countAt (c / 8) b (d.bco % 65536) - q) ∧
      (t.core c).jobs = (s.core c).jobs.set k { j with kind := .copy d left (unc - q) } ∧ SameMem s t := by
  refine ⟨_, congrArg Host.Outcome.next (copyStep_counts hj hk h0 hq hb h), fun hs hr => ?_, ?_, sameMem_of_mem (by simp)⟩
  · exact (countAt_basinWr s _ _ _ _).trans (toInt_sub_small hs hr)
  · rw [setJob_jobs, State.core, State.basinWr_cores]
    rfl

end Sys2Proof.Machine.Engines
end

section
/-! Engine jobs complete: accumulators (R218, R219, R221, R356). -/

namespace Sys2Proof.Machine.Engines

variable {s : State} {c k : Nat} {j : Job}

/-! ### A job leaves its core -/

@[simp] theorem dropJob_jobs (s : State) (c n : Nat) : ((s.dropJob c n).core c).jobs = (s.core c).jobs.eraseIdx n := by
  simp [State.dropJob]

@[simp] theorem dropJob_cluster (s : State) (c n cl : Nat) : (s.dropJob c n).cluster cl = s.cluster cl := rfl

@[simp] theorem dropJob_mem (s : State) (c n : Nat) : (s.dropJob c n).mem = s.mem := rfl

@[simp] theorem dropJob_block (s : State) (c n b : Nat) : (s.dropJob c n).block? b = s.block? b := rfl

theorem engineComplete_eq {u : State} (hj : s.jobFree c k = some j) (hu : s.jobEffect c j = some u) :
    s.engineComplete c k = arrivesOn (u.dropJob c k) (c / 8) j.blk j.endBar := by
  simp only [State.engineComplete, hj, hu]
  cases j.endBar <;> rfl

theorem engineComplete_waits (hj : s.jobFree c k = some j) (hu : s.jobEffect c j = none) : s.engineComplete c k = s := by
  simp only [State.engineComplete, hj, hu]

section Copy
variable {d : CopyDesc} {left : List (Nat × Nat)} {unc : Nat} (hj : s.jobFree c k = some j) (hk : j.kind = .copy d left unc)
include hj hk

theorem complete_copy (hl : left = []) (hu : unc = 0) :
    s.engineComplete c k = s.setCore c { s.core c with jobs := (s.core c).jobs.eraseIdx k } := by
  have hend : j.endBar = none := by simp only [Job.endBar, hk]
  rw [engineComplete_eq (u := s) hj (by simp only [State.jobEffect, hk, hl, hu, and_self, if_true]), hend]
  rfl

theorem complete_copy_waits (h : left ≠ [] ∨ unc ≠ 0) : s.engineComplete c k = s :=
  engineComplete_waits hj (by simp only [State.jobEffect, hk, if_neg (not_and_or.2 h)])

end Copy

theorem complete_unread (hj : s.jobFree c k = some j) (hr : j.readDone = false)
    (hk : ∃ i, j.kind = .matrix i ∨ j.kind = .accMove i ∨ j.kind = .weir i) : s.engineComplete c k = s := by
  refine engineComplete_waits hj ?_
  obtain ⟨i, hk | hk | hk⟩ := hk
  · simp only [State.jobEffect, hk, hr, if_true]
  · simp only [State.jobEffect, hk, hr, if_true]
  · simp only [State.jobEffect, hk, hr, true_or, if_true]

/-! ### Accumulators (R9) -/

section Acc
variable {acc : SMap W32} {c d m n m' n' x : Nat} {f64 : Bool}

theorem accKey_pair (c d m n : Nat) : accKey c (d + 1) m n = accKey c d m n + 4096 := by
  unfold accKey
  omega

/-- How many values an element of an accumulator has. -/
def accMod (f64 : Bool) : Nat := if f64 then 2 ^ 64 else 2 ^ 32

theorem accBits_setAcc (acc : SMap W32) (c d m n : Nat) (f64 : Bool) (x : Nat) :
    accBits (setAcc acc c d m n f64 x) c d m n f64 = x % accMod f64 := by
  have hne : accKey c d m n ≠ accKey c d m n + 4096 := by omega
  cases f64
  · simp [accBits, setAcc, accMod]
  · simp only [accBits, setAcc, accMod, if_true, accKey_pair, mget_mput_self, mget_mput_other _ _ _ hne, BitVec.toNat_ofNat]
    omega

theorem mget_setAcc_other {y : Nat} (h : y ≠ accKey c d m n) (h' : f64 = true → y ≠ accKey c (d + 1) m n) :
    mget 0 (setAcc acc c d m n f64 x) y = mget 0 acc y := by
  cases f64
  · exact mget_mput_other _ _ _ h
  · simp only [setAcc, if_true]
    rw [mget_mput_other _ _ _ (h' rfl), mget_mput_other _ _ _ h]

theorem accBits_setAcc_other (hm : m < 64) (hn : n < 64) (hm' : m' < 64) (hn' : n' < 64) (h : ¬(m' = m ∧ n' = n)) :
    accBits (setAcc acc c d m n f64 x) c d m' n' f64 = accBits acc c d m' n' f64 := by
  have hkey : ∀ e ≤ 1, accKey c (d + e) m' n' ≠ accKey c d m n ∧ accKey c (d + e) m' n' ≠ accKey c (d + 1) m n := by
    intro e he
    unfold accKey
    omega
  obtain ⟨hl, hl'⟩ := hkey 0 (by omega)
  obtain ⟨hh, hh'⟩ := hkey 1 (by omega)
  rw [Nat.add_zero] at hl hl'
  rw [accBits, accBits, mget_setAcc_other hl fun _ => hl', mget_setAcc_other hh fun _ => hh']

/-- Every element of an accumulator, or pair, takes a value. -/
def fillAcc (acc : SMap W32) (c d : Nat) (f64 : Bool) (f : Nat → Nat) : SMap W32 :=
  accElems.foldl (fun acc e => setAcc acc c d (e / 64) (e % 64) f64 (f e)) acc

/-- From `acc` to `acc'` only an accumulator, or pair, changed. -/
def OnlyAcc (acc acc' : SMap W32) (c d : Nat) (f64 : Bool) : Prop := ∀ x,
  (∀ m n, m < 64 → n < 64 → x ≠ accKey c d m n ∧ (f64 = true → x ≠ accKey c (d + 1) m n)) → mget 0 acc' x = mget 0 acc x

theorem accBits_fillAcc (acc : SMap W32) (c d : Nat) (f64 : Bool) (f : Nat → Nat) (hm : m < 64) (hn : n < 64) :
    accBits (fillAcc acc c d f64 f) c d m n f64 = f (64 * m + n) % accMod f64 := by
  refine foldl_once (get := fun acc => accBits acc c d m n f64) (F := fun _ => f (64 * m + n) % accMod f64) (a := 64 * m + n)
    List.nodup_range (List.mem_range.2 (by omega)) (fun a => ?_) (fun a e he hne => ?_) acc
  · rw [show (64 * m + n) / 64 = m by omega, show (64 * m + n) % 64 = n by omega]
    exact accBits_setAcc a c d m n f64 _
  · have := List.mem_range.1 he
    exact accBits_setAcc_other (by omega) (by omega) hm hn (by omega)

theorem onlyAcc_fillAcc (acc : SMap W32) (c d : Nat) (f64 : Bool) (f : Nat → Nat) : OnlyAcc acc (fillAcc acc c d f64 f) c d f64 := by
  intro x hx
  refine foldl_keep (get := fun acc => mget 0 acc x) (fun a e he => ?_) acc
  have := List.mem_range.1 he
  obtain ⟨h1, h2⟩ := hx (e / 64) (e % 64) (by omega) (by omega)
  exact mget_setAcc_other h1 h2

end Acc

/-! ### Matrix jobs (R107, R216, R217, R356) -/

/-- The scale byte of A row `m` in block `b`. -/
def scaleA (j : Job) (o : QMma) (m b : Nat) : Nat :=
  if o.ext.vscl ≠ 0#8 then bits (j.scl.getD m 0).toNat (8 * (o.ext.sbs.toNat + b)) 8
  else if TDesc.sen j.da then mget 0 j.got (elemSA b m) - 1 else 127

/-- The scale byte of B column `n` in block `b`. -/
def scaleB (j : Job) (n b : Nat) : Nat := if TDesc.sen j.db then mget 0 j.got (elemSB b n) - 1 else 127

/-- What the K steps up to `hi` make of an accumulator element. -/
def matrixEntry (j : Job) (i : Instr) (o : QMma) (hi m n old : Nat) : Nat :=
  j.matrixAcc o j.steps hi
    ((j.rowTerms i (QMma.kv i o) m).map fun x => (x.2, mget 0 j.got x.1 - 1, mget 0 j.got (elemB x.2 n) - 1)) (scaleA j o m) (scaleB j n) old

/-- The terms of a row take logical positions below K. -/
theorem rowTerms_lt {i : Instr} {kv m : Nat} {t : Nat × Nat} (h : t ∈ j.rowTerms i kv m) : t.2 < kv := by
  unfold Job.rowTerms at h
  split at h
  · obtain ⟨g, -, hg⟩ := List.mem_flatMap.1 h
    exact of_decide_eq_true (List.mem_filter.1 hg).2
  · split at h
    · obtain ⟨x, hx, rfl⟩ := List.mem_map.1 h
      exact List.mem_range.1 hx
    · simp at h
  · obtain ⟨x, hx, rfl⟩ := List.mem_map.1 h
    exact List.mem_range.1 hx

theorem matrixRun_eq (j : Job) (i : Instr) (o : QMma) (c hi : Nat) (acc : SMap W32) :
    j.matrixRun i o c hi acc = (List.range 64).foldl (fun acc m => (List.range 64).foldl (fun acc n =>
      setAcc acc c o.d.toNat m n (decide (o.ty = 0#3))
        (matrixEntry j i o hi m n (accBits acc c o.d.toNat m n (decide (o.ty = 0#3))))) acc) acc := by
  refine List.foldl_ext _ _ _ fun acc m _ => List.foldl_ext _ _ _ fun acc n hn => ?_
  have hterms : (((j.rowTerms i (QMma.kv i o) m).map fun t => (t.2, mget 0 j.got t.1 - 1)).map fun t => (t.1, t.2,
      (((List.range 64).map fun n => (List.range (QMma.kv i o)).map fun k => mget 0 j.got (elemB k n) - 1).getD n []).getD t.1 0)) =
      (j.rowTerms i (QMma.kv i o) m).map fun x => (x.2, mget 0 j.got x.1 - 1, mget 0 j.got (elemB x.2 n) - 1) := by
    rw [List.map_map]
    refine List.map_congr_left fun t ht => ?_
    simp [List.getD_eq_getElem?_getD, List.getElem?_map, List.getElem?_range (List.mem_range.1 hn), List.getElem?_range (rowTerms_lt ht)]
  unfold matrixEntry
  rw [← hterms]
  rfl

theorem accBits_matrixRun (j : Job) (i : Instr) (o : QMma) (c hi : Nat) (acc : SMap W32) {m n : Nat} (hm : m < 64) (hn : n < 64) :
    accBits (j.matrixRun i o c hi acc) c o.d.toNat m n (decide (o.ty = 0#3)) =
      matrixEntry j i o hi m n (accBits acc c o.d.toNat m n (decide (o.ty = 0#3))) % accMod (decide (o.ty = 0#3)) := by
  rw [matrixRun_eq]
  refine foldl_once (get := fun acc => accBits acc c o.d.toNat m n (decide (o.ty = 0#3)))
    (F := fun old => matrixEntry j i o hi m n old % accMod (decide (o.ty = 0#3))) List.nodup_range (List.mem_range.2 hm)
    (fun a => ?_) (fun a m' hm' hne => ?_) acc
  · refine foldl_once (get := fun acc => accBits acc c o.d.toNat m n (decide (o.ty = 0#3)))
      (F := fun old => matrixEntry j i o hi m n old % accMod (decide (o.ty = 0#3))) List.nodup_range (List.mem_range.2 hn)
      (fun a => accBits_setAcc a c _ m n _ _) (fun a n' hn' hne => ?_) a
    exact accBits_setAcc_other hm (List.mem_range.1 hn') hm hn fun h => hne h.2.symm
  · refine foldl_keep (get := fun acc => accBits acc c o.d.toNat m n (decide (o.ty = 0#3))) (fun a n' hn' => ?_) a
    exact accBits_setAcc_other (List.mem_range.1 hm') (List.mem_range.1 hn') hm hn fun h => hne h.1.symm

theorem onlyAcc_matrixRun (j : Job) (i : Instr) (o : QMma) (c hi : Nat) (acc : SMap W32) :
    OnlyAcc acc (j.matrixRun i o c hi acc) c o.d.toNat (decide (o.ty = 0#3)) := by
  intro x hx
  rw [matrixRun_eq]
  refine foldl_keep (get := fun acc => mget 0 acc x) (fun a m hm => ?_) acc
  refine foldl_keep (get := fun acc => mget 0 acc x) (fun a n hn => ?_) a
  obtain ⟨h1, h2⟩ := hx m n (List.mem_range.1 hm) (List.mem_range.1 hn)
  exact mget_setAcc_other h1 h2

/-! ### What completes -/

theorem onAcc_eq {blk : Nat} {B : Block} (hB : s.block? blk = some B) (c d : Nat) (f64 : Bool) (f : SMap W32 → SMap W32) :
    s.onAcc blk c d f64 f = s.setBlock blk { B with acc := f B.acc, accMarks := B.marksBut c d f64 } := by
  simp only [State.onAcc, hB]

/-- Job `k` of core `c` has completed: its block's accumulators and their poison marks are these, and its arrival is on its way. -/
def Completed (s t : State) (c k : Nat) (j : Job) (B : Block) (acc : SMap W32) (marks : List Nat) : Prop :=
  exec (.engineJobComplete c k) s = .next t ∧ t.block? j.blk = some { B with acc := acc, accMarks := marks } ∧
    (t.core c).jobs = (s.core c).jobs.eraseIdx k ∧
    (t.cluster (c / 8)).arrivals = (s.cluster (c / 8)).arrivals ++ (j.endBar.map fun b => (j.blk, b)).toList ∧ SameMem s t

theorem completed_setBlock {B : Block} {acc : SMap W32} {marks : List Nat} (hj : s.jobFree c k = some j)
    (hu : s.jobEffect c j = some (s.setBlock j.blk { B with acc := acc, accMarks := marks })) :
    ∃ t, Completed s t c k j B acc marks := by
  refine ⟨_, congrArg Host.Outcome.next (engineComplete_eq hj hu), ?_, ?_, ?_, sameMem_of_mem (by simp)⟩
  · simp
  · simp
  · simp [arrivesOn_arrivals]

section Effect
variable {B : Block} (hj : s.jobFree c k = some j) (hr : j.readDone = true) (hB : s.block? j.blk = some B)
include hj hr hB

theorem complete_acczero {o : QAccz} (hk : j.kind = .accMove (.acczero o)) :
    ∃ t, Completed s t c k j B (fillAcc B.acc c o.d.toNat (decide (o.ta = 0#3)) fun _ => 0) (B.marksBut c o.d.toNat (decide (o.ta = 0#3))) := by
  refine completed_setBlock hj ?_
  simp only [State.jobEffect, hk, hr, Bool.true_eq_false, if_false, onAcc_eq hB]
  rfl

/-- The value that an `accld` gives element `e` of an accumulator (R221). -/
def loadedBits (j : Job) (o : QAcc) (e : Nat) : Nat :=
  ((accFmt (decide (o.m5 = 0#3))).conv 0 false ((fmtOf o.m2).val (mget 0 j.got e - 1))).1

theorem complete_accld {o : QAcc} (hk : j.kind = .accMove (.accld o)) :
    ∃ t, Completed s t c k j B (fillAcc B.acc c o.d.toNat (decide (o.m5 = 0#3)) (loadedBits j o))
      (B.marksBut c o.d.toNat (decide (o.m5 = 0#3))) := by
  refine completed_setBlock hj ?_
  simp only [State.jobEffect, hk, hr, Bool.true_eq_false, if_false, onAcc_eq hB]
  rfl

theorem complete_accst {o : QAcc} (hk : j.kind = .accMove (.accst o)) : ∃ t, Completed s t c k j B B.acc B.accMarks := by
  have hu : s.jobEffect c j = some s := by simp only [State.jobEffect, hk, hr, Bool.true_eq_false, if_false]
  refine ⟨_, congrArg Host.Outcome.next (engineComplete_eq hj hu), ?_, ?_, ?_, sameMem_of_mem (by simp)⟩
  · simpa using hB
  · simp
  · simp [arrivesOn_arrivals]

theorem complete_matrix {o : QMma} {i : Instr} (hk : j.kind = .matrix i) (hi : i = .mma o ∨ i = .mmas o ∨ i = .mmag o) :
    ∃ t, Completed s t c k j B (j.matrixRun i o c (kSteps i o) B.acc) (B.marksBut c o.d.toNat (decide (o.ty = 0#3))) := by
  refine completed_setBlock hj ?_
  rcases hi with rfl | rfl | rfl
  · simp only [State.jobEffect, hk, hr, Bool.true_eq_false, if_false, onAcc_eq hB]
  · simp only [State.jobEffect, hk, hr, Bool.true_eq_false, if_false, onAcc_eq hB]
  · simp only [State.jobEffect, hk, hr, Bool.true_eq_false, if_false, onAcc_eq hB]

end Effect

/-! ### A stopped matrix job (R356) -/

theorem stopMatrix_other (hm : j.mat? = none) : s.stopMatrix c j = (s, j) := by simp only [State.stopMatrix, hm]

theorem stopMatrix_matrix {B : Block} {i : Instr} {o : QMma} (hB : s.block? j.blk = some B) (hm : j.mat? = some (i, o))
    (hs : j.steps ≤ j.stepsRead i o) : ∃ t, j.steps ≤ t ∧ t ≤ j.stepsRead i o ∧ (s.stopMatrix c j).2 = { j with steps := t } ∧
      (s.stopMatrix c j).1.block? j.blk =
        some { B with acc := j.matrixRun i o c t B.acc, accMarks := B.marksBut c o.d.toNat (decide (o.ty = 0#3)) } := by
  have hlt := Nat.mod_lt s.choice (show 0 < j.stepsRead i o + 1 - j.steps by omega)
  refine ⟨j.steps + s.choice % (j.stepsRead i o + 1 - j.steps), by omega, by omega, ?_, ?_⟩
  · simp only [State.stopMatrix, hm]
  · simp only [State.stopMatrix, hm]
    rw [onAcc_eq (s := s.chosen) hB]
    simp

end Sys2Proof.Machine.Engines
end

section
/-! The Weir array (R224, R226 to R232), and what the events of the engines do. -/

namespace Sys2Proof.Machine.Engines

variable {s : State} {c k : Nat} {j : Job}

/-! ### Weir jobs -/

section Weir
variable {i : Instr} (hj : s.jobFree c k = some j) (hr : j.readDone = true) (hk : j.kind = .weir i)
include hj hr hk

omit hr in
theorem complete_weir_waits (ht : s.weirTurn c j = false) : s.engineComplete c k = s :=
  engineComplete_waits hj (by simp only [State.jobEffect, hk, ht, or_true, if_true])

/-- A Weir job whose turn it is leaves its core with its effect on the array. -/
theorem complete_weir (ht : s.weirTurn c j = true) : ∃ t, exec (.engineJobComplete c k) s = .next t ∧
    (t.core c).jobs = (s.core c).jobs.eraseIdx k ∧ SameMem s t ∧
    (t.cluster (c / 8)).arrivals = (s.cluster (c / 8)).arrivals ++ (j.endBar.map fun b => (j.blk, b)).toList ∧
    (t.cluster (c / 8)).weir = (s.cluster (c / 8)).weir.apply i fun x => mget 0 j.got x - 1 := by
  have hu : s.jobEffect c j = some (s.setCluster (c / 8) { s.cluster (c / 8) with
      weir := (s.cluster (c / 8)).weir.apply i fun x => mget 0 j.got x - 1 }) := by
    simp only [State.jobEffect, hk, hr, ht, Bool.true_eq_false, or_self, if_false]
  refine ⟨_, congrArg Host.Outcome.next (engineComplete_eq hj hu), ?_, sameMem_of_mem (by simp), ?_, ?_⟩
  · simp
  · simp [arrivesOn_arrivals]
  · simp

end Weir

/-- The delays after a `wload` of `n` bytes from delay `lo` (R226). -/
theorem mget_loaded (w : SMap Byte) (got : Nat → Nat) (lo n x : Nat) :
    mget 255 ((List.range n).foldl (fun m k => mput 255 m (lo + k) (BitVec.ofNat 8 (got k))) w) x =
      if lo ≤ x ∧ x < lo + n then BitVec.ofNat 8 (got (x - lo)) else mget 255 w x := by
  split
  · next h =>
    refine foldl_once (get := fun m => mget 255 m x) (F := fun _ => BitVec.ofNat 8 (got (x - lo))) (a := x - lo) List.nodup_range
      (List.mem_range.2 (by omega)) (fun m => ?_) (fun m b _ hb => mget_mput_other _ _ _ (by omega)) w
    rw [show lo + (x - lo) = x by omega]
    exact mget_mput_self _ _ _ _
  · next h =>
    refine foldl_keep (get := fun m => mget 255 m x) (fun m b hb => mget_mput_other _ _ _ ?_) w
    have := List.mem_range.1 hb
    omega

theorem weirLease_next {cl b : Nat} {r : List Nat} (hl : (s.cluster cl).weir.lease = none) (hw : (s.cluster cl).weir.waiting = b :: r) :
    s.weirLease cl = s.setCluster cl { s.cluster cl with weir := { Weir.zero with lease := some b, waiting := r } } := by
  simp only [State.weirLease, hl, hw, Weir.leased]

theorem weirLease_idle {cl : Nat} (h : (s.cluster cl).weir.lease ≠ none ∨ (s.cluster cl).weir.waiting = []) : s.weirLease cl = s := by
  unfold State.weirLease
  dsimp only
  split
  · next hl hw => exact absurd h (by simp [hl, hw])
  · rfl

/-! ### The obligation -/

theorem arrivals (s : State) (blk bar : Nat) (B : Block) (hB : s.block? blk = some B) :
    ((blk, bar) ∈ (s.cluster B.cluster).arrivals → ∃ t, exec (.engineArrival blk bar) s = .next t ∧ SameMem s t ∧
      t = (s.setCluster B.cluster { s.cluster B.cluster with arrivals := (s.cluster B.cluster).arrivals.erase (blk, bar) }).setBlock blk
        (B.setBar bar ((B.bar bar).arrive s.choice))) ∧
    ((blk, bar) ∉ (s.cluster B.cluster).arrivals → exec (.engineArrival blk bar) s = .next s) :=
  ⟨fun h => ⟨_, congrArg Host.Outcome.next (countArrival_eq hB h), sameMem_of_mem rfl, rfl⟩,
    fun h => congrArg Host.Outcome.next (countArrival_absent hB h)⟩

/-- Settles O45: each event of the engines in turn, job kind by job kind. -/
theorem engineEvents : Obligations.EngineEvents := by
  unfold Obligations.EngineEvents
  intro s
  refine ⟨fun b free => ⟨fun h => arrive_counted free h, fun h => arrive_full free h⟩, fun blk bar B hB => arrivals s blk bar B hB,
    ?_, ?_, fun cl => ⟨fun b r hl hw => ⟨_, congrArg Host.Outcome.next (weirLease_next hl hw), rfl, sameMem_of_mem rfl⟩,
      fun h => congrArg Host.Outcome.next (weirLease_idle h)⟩⟩
  · rintro c k n q part i hj (rfl | rfl | rfl)
    · exact congrArg Host.Outcome.next (engineRead_none hj part)
    · exact congrArg Host.Outcome.next (copyStep_none hj q n)
    · exact congrArg Host.Outcome.next (engineComplete_none hj)
  intro c k j hj
  refine ⟨fun part h => congrArg Host.Outcome.next (engineRead_waits hj h part), ?reads, ?moves, ?counts, ?copyEnds,
    fun hk hr => congrArg Host.Outcome.next (complete_unread hj hr hk), ?ends, ?stops, ?weir⟩
  case reads =>
    intro hr hm
    refine ⟨fun f hg hf => engineRead_all_result hj hr hm f hg hf, fun e u v he hg hv => ?_, fun e x he hg hx => ?_, ?_, ?_⟩
    · exact congrArg Host.Outcome.next ((engineRead_one hj hr hm he hg).trans (by rw [hv]))
    · exact congrArg Host.Outcome.next ((engineRead_one hj hr hm he hg).trans (by rw [hx]))
    · intro o b e hk hb he hg B hB
      exact ⟨jobElem_accst_bad hk hB, engineRead_accst hj hr hk hb he hg hB⟩
    · intro o b e hk hb ho he hg
      exact engineRead_wcapture hj hr hm hk hb ho he hg
  case moves =>
    intro d left left' unc q n hk hn hq
    refine ⟨fun ht => congrArg Host.Outcome.next (copyStep_taken hj hk hn hq ht), fun src j' bs ht hsrc hdst hfit hrd => ?_⟩
    have hbyte : ∀ x < n, SourceByte s c j' src (q % d.rowlen + x) (bs x) := fun x hx => by
      have h := hrd x hx
      cases src <;> exact h
    exact ⟨fun b off ho hwr => copyStep_basin hj hk hn hq ht hsrc hdst hfit hbyte ho hwr,
      fun pa hwr => copyStep_global hj hk hn hq ht hsrc hdst hfit hbyte hwr⟩
  case counts =>
    intro d left unc q b hk h0 hq hb _
    exact ⟨fun h => congrArg Host.Outcome.next (copyStep_poisoned hj hk h0 hq hb h), copyStep_counts_result hj hk h0 hq hb⟩
  case copyEnds =>
    intro d left unc hk
    exact ⟨fun hl hu => ⟨_, congrArg Host.Outcome.next (complete_copy hj hk hl hu), rfl, sameMem_of_mem rfl⟩,
      fun h => congrArg Host.Outcome.next (complete_copy_waits hj hk h)⟩
  case ends =>
    intro hr B hB
    refine ⟨fun o hk => ?_, fun o hk => ?_, fun o hk => complete_accst hj hr hB hk, fun o i hk hi => ?_⟩
    · obtain ⟨t, ht⟩ := complete_acczero hj hr hB hk
      refine ⟨t, _, ht, onlyAcc_fillAcc _ _ _ _ _, fun m n hm hn => ?_⟩
      rw [accBits_fillAcc _ _ _ _ _ hm hn, Nat.zero_mod]
    · obtain ⟨t, ht⟩ := complete_accld hj hr hB hk
      refine ⟨t, _, ht, onlyAcc_fillAcc _ _ _ _ _, fun m n hm hn => ?_⟩
      rw [accBits_fillAcc _ _ _ _ _ hm hn]
      simp [accMod, loadedBits]
    · obtain ⟨t, ht⟩ := complete_matrix hj hr hB hk hi
      exact ⟨t, _, ht, onlyAcc_matrixRun j i o c _ _, fun m n hm hn => accBits_matrixRun j i o c _ _ hm hn⟩
  case stops =>
    intro B hB
    refine ⟨stopMatrix_other, fun i o hm hs => ?_⟩
    obtain ⟨t, hlo, hhi, hjob, hblk⟩ := stopMatrix_matrix (c := c) hB hm hs
    exact ⟨t, _, hlo, hhi, hjob, hblk, rfl⟩
  case weir =>
    intro i hk hr
    refine ⟨fun ht => congrArg Host.Outcome.next (complete_weir_waits hj hk ht), fun ht => ?_⟩
    obtain ⟨t, hexec, hjobs, hmem, harr, hweir⟩ := complete_weir hj hr hk ht
    refine ⟨t, hexec, hjobs, hmem, harr, ?_, ?_, ?_, ?_, ?_, ?_⟩
    · rintro o rfl
      exact hweir
    · rintro o rfl
      exact hweir
    · rintro o rfl
      exact ⟨_, hweir, mget_loaded _ _ _ _⟩
    · rintro rfl
      exact hweir
    · rintro o rfl
      exact hweir
    · rintro o rfl
      exact hweir

end Sys2Proof.Machine.Engines
end

section
/-! Held words are performed (R127, R188, R198, R246, R248): what the state keeps, fences, arrivals, `trig` and `spawn`. -/

namespace Sys2Proof.Machine.Held

open Engines

variable {s t u : State} {a : Agent} {th : Thread} {n : Nat} {p : Pend} {o : HeldOp} {word : Option Nat}

/-! ### What an agent's own change leaves alone -/

/-- Memory and the threads of the other agents are as before. -/
def Others (a : Agent) (s t : State) : Prop := SameMem s t ∧ ∀ b, b ≠ a → t.thread? b = s.thread? b

/-- Cores, clusters and blocks are as before too. -/
def Quiet (a : Agent) (s t : State) : Prop := Others a s t ∧ t.cores = s.cores ∧ t.clusters = s.clusters ∧ t.blocks = s.blocks

theorem Others.trans (h : Others a s t) (h' : Others a t u) : Others a s u :=
  ⟨fun pa => (h'.1 pa).trans (h.1 pa), fun b hb => (h'.2 b hb).trans (h.2 b hb)⟩

/-- A change of tables that hold no thread. -/
theorem others_of_threads (hm : t.mem = s.mem) (ht : t.teams = s.teams) (hg : t.gens = s.gens) : Others a s t := by
  refine ⟨sameMem_of_mem hm, fun b _ => ?_⟩
  cases b <;> simp [State.thread?, State.team?, State.gen?, ht, hg]

section SetThread

theorem setThread_eq (s : State) (a : Agent) (th : Thread) : ∃ ts gs, s.setThread a th = { s with teams := ts, gens := gs } := by
  unfold State.setThread
  split
  · split
    · exact ⟨_, _, rfl⟩
    · exact ⟨_, _, rfl⟩
  · split
    · exact ⟨_, _, rfl⟩
    · exact ⟨_, _, rfl⟩
  · exact ⟨_, _, rfl⟩

variable (s : State) (a : Agent) (th : Thread)

@[simp] theorem setThread_cores : (s.setThread a th).cores = s.cores := by obtain ⟨_, _, h⟩ := setThread_eq s a th; rw [h]

@[simp] theorem setThread_clusters : (s.setThread a th).clusters = s.clusters := by obtain ⟨_, _, h⟩ := setThread_eq s a th; rw [h]

@[simp] theorem setThread_blocks : (s.setThread a th).blocks = s.blocks := by obtain ⟨_, _, h⟩ := setThread_eq s a th; rw [h]

@[simp] theorem setThread_uid : (s.setThread a th).uid = s.uid := by obtain ⟨_, _, h⟩ := setThread_eq s a th; rw [h]

@[simp] theorem setThread_core (c : Nat) : (s.setThread a th).core c = s.core c := by obtain ⟨_, _, h⟩ := setThread_eq s a th; rw [h]; rfl

@[simp] theorem setThread_cluster (c : Nat) : (s.setThread a th).cluster c = s.cluster c := by
  obtain ⟨_, _, h⟩ := setThread_eq s a th; rw [h]; rfl

@[simp] theorem setThread_block_ (b : Nat) : (s.setThread a th).block? b = s.block? b := by
  obtain ⟨_, _, h⟩ := setThread_eq s a th; rw [h]; rfl

@[simp] theorem setThread_ctx (c : Nat) : (s.setThread a th).ctx c = s.ctx c := by obtain ⟨_, _, h⟩ := setThread_eq s a th; rw [h]; rfl

@[simp] theorem setThread_vi (v : Nat) : (s.setThread a th).vi v = s.vi v := by obtain ⟨_, _, h⟩ := setThread_eq s a th; rw [h]; rfl

@[simp] theorem setThread_basin8 (cl b x : Nat) : (s.setThread a th).basin8 cl b x = s.basin8 cl b x := by
  simp only [State.basin8, setThread_cluster]

end SetThread

theorem thread?_setThread_self (h : s.thread? a = some th) (th' : Thread) : (s.setThread a th').thread? a = some th' := by
  rw [State.thread?_setThread s a a th' (by simp [h]), if_pos rfl]

/-- A change of the agent's thread. -/
theorem quiet_setThread (h : s.thread? a = some th) (th' : Thread) : Quiet a s (s.setThread a th') :=
  ⟨⟨sameMem_of_mem (by simp), fun b hb => by rw [State.thread?_setThread s a b th' (by simp [h]), if_neg hb]⟩, by simp, by simp, by simp⟩

/-! ### Answers and ends -/

section Item
variable (h : s.thread? a = some th)
include h

theorem setItem_eq (n : Nat) (p : Pend) : s.setItem a n p = s.setThread a (th.setItem n p) := State.onThread_some s a _ h

theorem thread?_setItem (n : Nat) (p : Pend) : (s.setItem a n p).thread? a = some (th.setItem n p) := by
  rw [setItem_eq h, thread?_setThread_self h]

theorem quiet_setItem (n : Nat) (p : Pend) : Quiet a s (s.setItem a n p) := by
  rw [setItem_eq h]
  exact quiet_setThread h _

theorem finishItem_eq (n : Nat) (p : Pend) : s.finishItem a n p =
    (s.setThread a (th.setItem n { p with finished := true })).setThread a (th.setItem n { p with finished := true }).sweep := by
  rw [State.finishItem, setItem_eq h, State.onThread_some _ _ _ (thread?_setThread_self h _)]

theorem thread?_finishItem (n : Nat) (p : Pend) : (s.finishItem a n p).thread? a = some (th.setItem n { p with finished := true }).sweep := by
  rw [finishItem_eq h, thread?_setThread_self (thread?_setThread_self h _)]

theorem quiet_finishItem (n : Nat) (p : Pend) : Quiet a s (s.finishItem a n p) := by
  obtain ⟨ho, hc, hcl, hb⟩ := quiet_setThread h (th.setItem n { p with finished := true })
  obtain ⟨ho', hc', hcl', hb'⟩ := quiet_setThread (thread?_setThread_self h (th.setItem n { p with finished := true }))
    (th.setItem n { p with finished := true }).sweep
  rw [finishItem_eq h]
  exact ⟨ho.trans ho', hc'.trans hc, hcl'.trans hcl, hb'.trans hb⟩

end Item

@[simp] theorem finishItem_uid (s : State) (a : Agent) (n : Nat) (p : Pend) : (s.finishItem a n p).uid = s.uid := by
  unfold State.finishItem State.setItem State.onThread
  dsimp only
  split <;> split <;> simp

/-- The word's thread after its result, value `v` for s(d), is ready. -/
def Gives (a : Agent) (th : Thread) (n : Nat) (p : Pend) (t : State) (d : Nat) (v : W64) : Prop :=
  t.thread? a = some (th.setItem n { p with work := .result [.s d v] 0 })

/-- The word answers with a status and does nothing else. -/
def Answers (s : State) (a : Agent) (th : Thread) (n : Nat) (p : Pend) (word : Option Nat) (d v : Nat) : Prop :=
  ∃ t, exec (.variableLatencyResult a n word) s = .next t ∧ Gives a th n p t d (BitVec.ofNat 64 v) ∧ Quiet a s t

/-- A result ready in a state that changed nothing of the agent's thread. -/
theorem gives_answer (h : u.thread? a = some th) (d : Nat) (v : W64) : Gives a th n p (u.answer a n p [.s d v]) d v :=
  thread?_setItem h _ _

theorem quiet_answer (h : u.thread? a = some th) (ws : List RegWrite) : Quiet a u (u.answer a n p ws) := quiet_setItem h _ _

theorem answers_of_exec (h : s.thread? a = some th) {d v : Nat} (he : exec (.variableLatencyResult a n word) s = .next (s.answerS a n p d v)) :
    Answers s a th n p word d v :=
  ⟨_, he, gives_answer h d _, quiet_answer h _⟩

/-! ### What a word waits for (R188, R198, R262) -/

/-- No older access can fault. -/
def Checked (older : List Pend) : Prop := ∀ q ∈ older, q.checkedAll = true

/-- What a release at a scope releases is performed there (R188). -/
def Released (s : State) (a : Agent) (older : List Pend) (scope : Nat) : Prop :=
  (∀ q ∈ older, q.performed = true) ∧ (2 ≤ scope → ∀ e ∈ s.sbuf (agentHolder a), a ∉ e.owners) ∧
    (3 ≤ scope → (s.cluster (agentCluster a)).cistern = [])

/-- A fence of the thread is not complete. -/
def Fenced (older : List Pend) : Prop := ∃ q ∈ older, q.finished = false ∧ ∃ scope ord, q.work = .held (.fence scope ord)

theorem checked_iff (older : List Pend) : older.all Pend.checkedAll = true ↔ Checked older := List.all_eq_true

theorem releaseOk_iff (older : List Pend) (scope : Nat) : s.releaseOk a older scope = true ↔ Released s a older scope := by
  have h2 : (scope < 2 ∨ ∀ e ∈ s.sbuf (agentHolder a), a ∉ e.owners) ↔ (2 ≤ scope → ∀ e ∈ s.sbuf (agentHolder a), a ∉ e.owners) := by
    rw [← Nat.not_le, imp_iff_not_or]
  have h3 : (scope < 3 ∨ (s.cluster (agentCluster a)).cistern = []) ↔ (3 ≤ scope → (s.cluster (agentCluster a)).cistern = []) := by
    rw [← Nat.not_le, imp_iff_not_or]
  rw [Released, ← h2, ← h3]
  simp [State.releaseOk, State.drained, List.all_eq_true]

theorem releaseOk_false {older : List Pend} {scope : Nat} (h : ¬Released s a older scope) : s.releaseOk a older scope = false := by
  rwa [← releaseOk_iff, Bool.not_eq_true] at h

theorem fencedBefore_iff (older : List Pend) : fencedBefore older = true ↔ Fenced older := by
  simp only [fencedBefore, Fenced, List.any_eq_true, Bool.and_eq_true, Bool.not_eq_true']
  refine exists_congr fun q => and_congr_right fun _ => and_congr_right fun _ => ?_
  constructor
  · intro h
    split at h
    · next scope ord he => exact ⟨scope, ord, he⟩
    · cases h
  · rintro ⟨scope, ord, he⟩
    rw [he]

theorem fencedBefore_false {older : List Pend} (h : ¬Fenced older) : fencedBefore older = false := by
  rwa [← fencedBefore_iff, Bool.not_eq_true] at h

/-! ### The event -/

/-- Item `n` of agent `a` is a held word that is still to be performed. -/
structure Stands (s : State) (a : Agent) (th : Thread) (n : Nat) (p : Pend) (o : HeldOp) : Prop where
  thread : s.thread? a = some th
  item : th.pend[n]? = some p
  unfinished : p.finished = false
  work : p.work = .held o

theorem exec_held (H : Stands s a th n p o) : exec (.variableLatencyResult a n word) s = .next (s.doHeld a n p th o word) := by
  refine congrArg Host.Outcome.next ?_
  simp only [State.goOn, H.thread, H.item, H.unfinished, H.work, Bool.false_eq_true, if_false]

/-- Nothing but a fence is performed behind a fence, or in a stopped context. -/
theorem doHeld_barred (ho : ∀ scope ord, o ≠ .fence scope ord)
    (h : Fenced (th.pend.take n) ∨ s.ctxRuns ((s.agentCtx? a).getD 0) = false) : s.doHeld a n p th o word = s := by
  have hb : (fencedBefore (th.pend.take n) || !s.ctxRuns ((s.agentCtx? a).getD 0)) = true := by
    rcases h with h | h
    · rw [(fencedBefore_iff _).2 h, Bool.true_or]
    · rw [h, Bool.not_false, Bool.or_true]
  unfold State.doHeld
  split
  · next scope ord => exact absurd rfl (ho scope ord)
  · exact if_pos hb

/-- A held word of a team that no fence and no stop holds back. -/
structure TeamHeld (s : State) (k : Nat) (T : Team) (n : Nat) (p : Pend) (o : HeldOp) : Prop where
  team : s.team? k = some T
  stands : Stands s (.team k) T.th n p o
  unfenced : ¬Fenced (T.th.pend.take n)
  runs : s.ctxRuns T.ctx = true

theorem TeamHeld.agentCtx {k : Nat} {T : Team} (H : TeamHeld s k T n p o) : s.agentCtx? (.team k) = some T.ctx := by
  simp only [State.agentCtx?, H.team, Option.map_some]

theorem TeamHeld.goes {k : Nat} {T : Team} (H : TeamHeld s k T n p o) :
    (fencedBefore (T.th.pend.take n) || !s.ctxRuns ((s.agentCtx? (.team k)).getD 0)) = false := by
  rw [fencedBefore_false H.unfenced, H.agentCtx, Option.getD_some, H.runs]
  rfl

/-- The same of a generator thread. -/
structure GenHeld (s : State) (g : Nat) (G : Gen) (n : Nat) (p : Pend) (o : HeldOp) : Prop where
  gen : s.gen? g = some G
  stands : Stands s (.gen g) G.th n p o
  unfenced : ¬Fenced (G.th.pend.take n)
  runs : s.ctxRuns G.ctx = true

theorem GenHeld.agentCtx {g : Nat} {G : Gen} (H : GenHeld s g G n p o) : s.agentCtx? (.gen g) = some G.ctx := by
  simp only [State.agentCtx?, H.gen, Option.map_some]

theorem GenHeld.goes {g : Nat} {G : Gen} (H : GenHeld s g G n p o) :
    (fencedBefore (G.th.pend.take n) || !s.ctxRuns ((s.agentCtx? (.gen g)).getD 0)) = false := by
  rw [fencedBefore_false H.unfenced, H.agentCtx, Option.getD_some, H.runs]
  rfl

/-! ### Fences (R188) -/

/-- What a fence of an order waits for. -/
def FenceReady (s : State) (a : Agent) (older : List Pend) (scope ord : Nat) : Prop :=
  (acqOrd ord = true → ∀ q ∈ older, q.finished = true ∨ ∀ m, q.work = .mem m → m.dst = .none) ∧
    (relOrd ord = true → Released s a older scope)

theorem fenceAcq_iff (older : List Pend) :
    fenceAcq older = true ↔ ∀ q ∈ older, q.finished = true ∨ ∀ m, q.work = .mem m → m.dst = .none := by
  simp only [fenceAcq, List.all_eq_true, Bool.or_eq_true]
  refine forall_congr' fun q => imp_congr_right fun _ => or_congr Iff.rfl ?_
  split
  · next m hm => simp [hm]
  · next hno => exact iff_of_true rfl fun m hm => absurd hm (hno m)

theorem fenceDone_iff (scope ord : Nat) : s.fenceDone a th n scope ord = true ↔ FenceReady s a (th.pend.take n) scope ord := by
  rw [FenceReady, ← fenceAcq_iff, ← releaseOk_iff]
  simp only [State.fenceDone, State.fenceRel, State.releaseOk, Bool.and_eq_true, Bool.or_eq_true, Bool.not_eq_true', imp_iff_not_or,
    Bool.not_eq_true]

theorem fence_performed {scope ord : Nat} (H : Stands s a th n p (.fence scope ord)) :
    (FenceReady s a (th.pend.take n) scope ord → ∃ t, exec (.variableLatencyResult a n word) s = .next t ∧
      t.thread? a = some (th.setItem n { p with finished := true }).sweep ∧ Quiet a s t) ∧
    (¬FenceReady s a (th.pend.take n) scope ord → exec (.variableLatencyResult a n word) s = .next s) := by
  rw [← fenceDone_iff, exec_held H]
  refine ⟨fun h => ⟨_, congrArg Host.Outcome.next (if_pos h), thread?_finishItem H.thread n p, quiet_finishItem H.thread n p⟩,
    fun h => congrArg Host.Outcome.next (if_neg h)⟩

end Sys2Proof.Machine.Held
end

section
/-! Held words of a team: `trig`, arrivals and `spawn` (R127, R246, R248). -/

namespace Sys2Proof.Machine.Held

open Engines

variable {s t u : State} {a : Agent} {th : Thread} {n : Nat} {p : Pend} {o : HeldOp} {word : Option Nat} {k : Nat} {T : Team}

/-- A word of the team's own is not performed before every older access is checked (R198, R262). -/
theorem unchecked_waits (H : TeamHeld s k T n p o) (hc : ¬Checked (T.th.pend.take n)) (hb : ∀ b e, o ≠ .barArrive b e)
    (hs : ∀ d args pc, o ≠ .spawn d args pc) (hf : ∀ x y, o ≠ .fence x y) : exec (.variableLatencyResult (.team k) n word) s = .next s := by
  have hck : (T.th.pend.take n).all Pend.checkedAll = false := by rwa [← checked_iff, Bool.not_eq_true] at hc
  rw [exec_held H.stands]
  refine congrArg Host.Outcome.next ?_
  have hgoes := H.goes
  have hteam := H.team
  clear H
  cases o with
  | barArrive b e => exact absurd rfl (hb b e)
  | spawn d args pc => exact absurd rfl (hs d args pc)
  | fence x y => exact absurd rfl (hf x y)
  | trig => simp only [State.doHeld, hgoes, hteam, State.doTrig, hck, Bool.false_and, Bool.false_eq_true, if_false]
  | dlaunch d x q => simp only [State.doHeld, hgoes, hteam, State.doDlaunch, hck, true_or, if_true, Bool.false_eq_true, if_false]
  | _ => simp only [State.doHeld, hgoes, hteam, hck, Bool.false_eq_true, if_false]

/-! ### `trig` (R248) -/

theorem exec_trig (H : TeamHeld s k T n p .trig) : exec (.variableLatencyResult (.team k) n word) s = .next (s.doTrig k n p T) := by
  rw [exec_held H.stands]
  simp only [State.doHeld, H.goes, H.team, Bool.false_eq_true, if_false]

theorem thread_of_team (h : s.team? k = some T) : s.thread? (.team k) = some T.th := by rw [State.thread?_team, h]; rfl

theorem setThread_team (h : s.team? k = some T) (th : Thread) : s.setThread (.team k) th = s.setTeam k { T with th := th } := by
  simp only [State.setThread, h]

/-- A change of the team. -/
theorem quiet_setTeam (s : State) (k : Nat) (U : Team) : Quiet (.team k) s (s.setTeam k U) := by
  refine ⟨⟨sameMem_of_mem rfl, fun b hb => ?_⟩, rfl, rfl, rfl⟩
  cases b with
  | team x => simp [State.thread?, show x ≠ k from fun e => hb (by rw [e])]
  | gen g => rfl
  | queue c => rfl

theorem Quiet.trans (h : Quiet a s t) (h' : Quiet a t u) : Quiet a s u := by
  obtain ⟨ho, hc, hcl, hb⟩ := h
  obtain ⟨ho', hc', hcl', hb'⟩ := h'
  exact ⟨ho.trans ho', hc'.trans hc, hcl'.trans hcl, hb'.trans hb⟩

theorem team_finishItem (h : s.team? k = some T) (n : Nat) (p : Pend) :
    (s.finishItem (.team k) n p).team? k = some { T with th := (T.th.setItem n { p with finished := true }).sweep } := by
  rw [finishItem_eq (thread_of_team h), setThread_team h,
    setThread_team (T := { T with th := T.th.setItem n { p with finished := true } }) (by simp)]
  simp

theorem trig_performed (H : TeamHeld s k T n p .trig) (hc : Checked (T.th.pend.take n)) :
    (¬Released s (.team k) (T.th.pend.take n) 4 → exec (.variableLatencyResult (.team k) n word) s = .next s) ∧
    (Released s (.team k) (T.th.pend.take n) 4 → ∃ t, exec (.variableLatencyResult (.team k) n word) s = .next t ∧
      t.thread? (.team k) = some (T.th.setItem n { p with finished := true }).sweep ∧ Quiet (.team k) s t ∧
      t.team? k = some { T with trig := true, th := (T.th.setItem n { p with finished := true }).sweep }) := by
  rw [exec_trig H]
  constructor
  · intro h
    simp only [State.doTrig, releaseOk_false h, Bool.and_false, Bool.false_eq_true, if_false]
  · intro h
    have hteam : (s.setTeam k { T with trig := true }).team? k = some { T with trig := true } := by simp
    refine ⟨(s.setTeam k { T with trig := true }).finishItem (.team k) n p, ?_, thread?_finishItem (thread_of_team hteam) n p,
      (quiet_setTeam s k _).trans (quiet_finishItem (thread_of_team hteam) n p), team_finishItem hteam n p⟩
    simp only [State.doTrig, (checked_iff _).2 hc, (releaseOk_iff _ _).2 h, Bool.and_self, if_true, State.onTeam, H.team]

/-! ### Arrivals (R127) -/

/-- An earlier arrival of the team at the barrier is to come. -/
def Behind (older : List Pend) (b : Nat) : Prop := ∃ q ∈ older, q.finished = false ∧ ∃ e, q.work = .held (.barArrive b e)

/-- The same as the model tests it. -/
def behindBefore (older : List Pend) (b : Nat) : Bool :=
  older.any fun q => !q.finished && (match q.work with
    | .held (.barArrive k _) => decide (k = b)
    | _ => false)

/-- The status of a team that waits at a barrier, once its own arrival has read the phases. -/
def reseen (st : Status) (bar flips : Nat) : Status :=
  match st with
  | .parked (.bar k seen) => .parked (.bar k (if k = bar then flips else seen))
  | .parked (.saving (.stallBar k seen)) => .parked (.saving (.stallBar k (if k = bar then flips else seen)))
  | st => st

theorem reseen_bar (bar seen flips : Nat) : reseen (.parked (.bar bar seen)) bar flips = .parked (.bar bar flips) := by
  simp only [reseen, if_true]

theorem reseen_other {st : Status} {bar : Nat} (flips : Nat)
    (h : ∀ seen, st ≠ .parked (.bar bar seen) ∧ st ≠ .parked (.saving (.stallBar bar seen))) : reseen st bar flips = st := by
  unfold reseen
  split
  · next k seen =>
    have hk : k ≠ bar := fun e => (h seen).1 (by rw [e])
    rw [if_neg hk]
  · next k seen =>
    have hk : k ≠ bar := fun e => (h seen).2 (by rw [e])
    rw [if_neg hk]
  · rfl

section Arrive
variable {b e : Nat} (H : TeamHeld s k T n p (.barArrive b e))
include H

theorem exec_barArrive : exec (.variableLatencyResult (.team k) n word) s = .next (s.doArrive k n p T b e) := by
  rw [exec_held H.stands]
  simp only [State.doHeld, H.goes, H.team, Bool.false_eq_true, if_false]

omit H in
theorem behindBefore_iff (older : List Pend) : behindBefore older b = true ↔ Behind older b := by
  simp only [behindBefore, Behind, List.any_eq_true, Bool.and_eq_true, Bool.not_eq_true']
  refine exists_congr fun q => and_congr_right fun _ => and_congr_right fun _ => ?_
  constructor
  · intro h
    split at h
    · next x e he => exact ⟨e, by rw [he, of_decide_eq_true h]⟩
    · cases h
  · rintro ⟨e, he⟩
    rw [he]
    exact decide_eq_true rfl

theorem arrive_waits (h : Behind (T.th.pend.take n) b ∨ ¬Released s (.team k) (T.th.pend.take n) 2) :
    exec (.variableLatencyResult (.team k) n word) s = .next s := by
  rw [exec_barArrive H]
  refine congrArg Host.Outcome.next (if_pos ?_)
  rcases h with h | h
  · rw [Bool.or_eq_true]
    exact .inl ((behindBefore_iff _).2 h)
  · rw [releaseOk_false h, Bool.not_false, Bool.or_true]

variable {B : Block} (hb : ¬Behind (T.th.pend.take n) b) (hr : Released s (.team k) (T.th.pend.take n) 2) (hB : s.block? T.blk = some B)
include hb hr hB

omit H in
/-- The arrival itself. -/
theorem doArrive_eq : s.doArrive k n p T b e = match (B.bar b).settle e with
    | none => s.heldFault (.team k) n p 0xB 0
    | some v => ((s.setBlock T.blk (B.setBar b (v.arrive s.choice))).setTeam k { T with
        tokens := lset T.tokens b v.ph, status := reseen T.status b v.flips }).finishItem (.team k) n p := by
  have hgo : ¬(behindBefore (T.th.pend.take n) b || !s.releaseOk (.team k) (T.th.pend.take n) 2) = true := by
    rw [(releaseOk_iff _ _).2 hr, Bool.not_true, Bool.or_false, behindBefore_iff]
    exact hb
  refine (if_neg hgo).trans ?_
  rw [hB]
  rfl

theorem arrive_mismatch (h0 : (B.bar b).exp ≠ 0) (he : (B.bar b).exp ≠ e) : exec (.variableLatencyResult (.team k) n word) s =
    .next ((s.setThread (.team k) (T.th.toCheckpoint n p.pc)).teamFault k 0xB 0 []) := by
  have hv : (B.bar b).settle e = none := by rw [BarSt.settle, if_neg h0, if_neg he]
  rw [exec_barArrive H, doArrive_eq hb hr hB, hv]
  simp only [State.heldFault, State.onThread_some _ _ _ (thread_of_team H.team)]

theorem arrive_counts (he : (B.bar b).exp = 0 ∨ (B.bar b).exp = e) :
    ∃ t T', exec (.variableLatencyResult (.team k) n word) s = .next t ∧
      t.thread? (.team k) = some (T.th.setItem n { p with finished := true }).sweep ∧ Others (.team k) s t ∧
      t.block? T.blk = some (B.setBar b (({ B.bar b with exp := e } : BarSt).arrive s.choice)) ∧ t.team? k = some T' ∧
      T'.tokens = lset T.tokens b (B.bar b).ph ∧ T'.status = reseen T.status b (B.bar b).flips := by
  have hv : (B.bar b).settle e = some { B.bar b with exp := e } := by
    unfold BarSt.settle
    split
    · rfl
    · next h0 =>
      obtain rfl := he.resolve_left h0
      exact if_pos rfl
  have hteam : ((s.setBlock T.blk (B.setBar b (({ B.bar b with exp := e } : BarSt).arrive s.choice))).setTeam k { T with
      tokens := lset T.tokens b (B.bar b).ph, status := reseen T.status b (B.bar b).flips }).team? k = some { T with
      tokens := lset T.tokens b (B.bar b).ph, status := reseen T.status b (B.bar b).flips } := by simp
  obtain ⟨ho, -⟩ := quiet_setTeam (s.setBlock T.blk (B.setBar b (({ B.bar b with exp := e } : BarSt).arrive s.choice))) k { T with
    tokens := lset T.tokens b (B.bar b).ph, status := reseen T.status b (B.bar b).flips }
  obtain ⟨ho', hc, hcl, hbl⟩ := quiet_finishItem (thread_of_team hteam) n p
  refine ⟨_, _, by rw [exec_barArrive H, doArrive_eq hb hr hB, hv], thread?_finishItem (thread_of_team hteam) n p,
    (others_of_threads rfl rfl rfl).trans (ho.trans ho'), ?_, team_finishItem hteam n p, rfl, rfl⟩
  rw [State.block?, hbl]
  exact lget_lset_self _ _ _

end Arrive

end Sys2Proof.Machine.Held
end

section
/-! Teams that held words start: `spawn` (R246), and the state of a team at its start (R36). -/

namespace Sys2Proof.Machine.Held

open Engines

variable {s t u : State} {a : Agent} {th : Thread} {n : Nat} {p : Pend} {o : HeldOp} {word : Option Nat} {k : Nat} {T : Team}

/-! ### A team at its start (R36) -/

theorem maskWord_bit (lanes : List Nat) (i : Nat) {b : Nat} (hb : b < 64) : (maskWord lanes i).getLsbD b = lanes.contains (64 * i + b) := by
  rw [maskWord, ← OneSource.bitAt_eq_getLsbD hb, OneSource.bitAt_eq_testBit,
    BitPlane.testBit_foldr_b2n (fun b => lanes.contains (64 * i + b)) _ (by simpa using hb), List.getElem_range]

/-- A started team has every lane in its execution mask. -/
theorem start_maskLanes (T : Team) (pc : W64) (args : List W64) (age : Nat) :
    (T.start pc args age).maskLanes = List.range (32 * T.words) := by
  refine List.filter_eq_self.2 fun l hl => ?_
  have hl' : l < 32 * T.words := List.mem_range.1 hl
  have hw : l / 32 / 2 < T.maskRegs := by
    unfold Team.maskRegs
    omega
  have hreg : (T.start pc args age).th.rd (144 + l / 32 / 2) = maskWord (List.range (32 * T.words)) (l / 32 / 2) := by
    simp only [Team.start, Thread.rd_wrs]
    rw [if_pos ⟨by omega, by simpa [maskSet] using hw⟩, Nat.add_sub_cancel_left, maskSet, List.getD_eq_getElem?_getD, List.getElem?_map,
      List.getElem?_range hw, Option.map_some, Option.getD_some]
  have hlane : 64 * (l / 32 / 2) + (32 * (l / 32 % 2) + l % 32) = l := by omega
  change ((T.start pc args age).th.rd (144 + l / 32 / 2)).getLsbD (32 * (l / 32 % 2) + l % 32) = true
  rw [hreg, maskWord_bit _ _ (by omega), hlane]
  simpa using hl'

theorem start_rd (T : Team) (pc : W64) {args : List W64} (age : Nat) (ha : args.length = 8) {x : Nat} (hx : x < 8) :
    (T.start pc args age).th.rd x = args.getD x 0 := by
  simp only [Team.start, Thread.rd_wrs]
  rw [if_neg (by omega), if_pos (by omega), Nat.sub_zero]

/-! ### Free numbers (R246, R289) -/

theorem freeTeamId_eq {c id : Nat} (hid : id < 256) (hbelow : ∀ x < id, (s.team? (256 * c + x)).isSome = true)
    (hnone : s.team? (256 * c + id) = none) : s.freeTeamId c = some id := by
  refine List.find?_range_eq_some.2 ⟨by rw [hnone]; rfl, List.mem_range.2 hid, fun x hx => ?_⟩
  obtain ⟨U, hU⟩ := Option.isSome_iff_exists.1 (hbelow x hx)
  rw [hU]
  rfl

theorem freeTeamId_none {c : Nat} (h : ∀ id < 256, (s.team? (256 * c + id)).isSome = true) : s.freeTeamId c = none := by
  refine List.find?_eq_none.2 fun x hx => ?_
  obtain ⟨U, hU⟩ := Option.isSome_iff_exists.1 (h x (List.mem_range.1 hx))
  simp [hU]

theorem freeKey_eq {α : Type} {m : SMap α} {lo i f : Nat} (hlo : lo ≤ i) (hf : i < lo + f)
    (hbelow : ∀ x, lo ≤ x → x < i → (lget m x).isSome = true) (hnone : lget m i = none) : freeKey m lo f = some i := by
  induction f generalizing lo with
  | zero => omega
  | succ f ih =>
    unfold freeKey
    by_cases h : lo = i
    · subst h
      rw [hnone]
      rfl
    · rw [if_pos (hbelow lo (Nat.le_refl _) (by omega))]
      exact ih (by omega) (by omega) fun x hx => hbelow x (by omega)

/-! ### `spawn` (R246) -/

/-- The registers of a team that a team of block `B` spawns. -/
def spawnRegs (s : State) (T : Team) (B : Block) : Nat := (s.launch? B.launch).elim T.vregs fun L => L.rcd.vregs

/-- The team that it creates. -/
def spawnTeam (s : State) (k : Nat) (T : Team) (B : Block) (idx : Nat) (args : List W64) (pc : W64) : Team :=
  (Team.fresh 1 (spawnRegs s T B) T.prio T.stack idx T.blk T.ctx (s.wordsFree (k / 256) 1)).start pc args s.uid

/-- The state in which team `new` has been created at index `idx` of its block. -/
def spawned (s : State) (k : Nat) (T : Team) (B : Block) (new idx : Nat) (args : List W64) (pc : W64) : State :=
  ((s.setBlock T.blk { B with teams := lset B.teams idx new, gone := B.gone.filter fun x => decide (x ≠ idx) }).shareStores k new).startTeam new
    (Team.fresh 1 (spawnRegs s T B) T.prio T.stack idx T.blk T.ctx (s.wordsFree (k / 256) 1)) pc args

section Spawn
variable {d : Nat} {args : List W64} {pc : W64} (H : TeamHeld s k T n p (.spawn d args pc))
include H

theorem exec_spawn : exec (.variableLatencyResult (.team k) n word) s = .next (s.doSpawn k n p T d args pc) := by
  rw [exec_held H.stands]
  simp only [State.doHeld, H.goes, H.team, Bool.false_eq_true, if_false]

theorem spawn_waits (h : ¬Released s (.team k) (T.th.pend.take n) 1) : exec (.variableLatencyResult (.team k) n word) s = .next s := by
  rw [exec_spawn H]
  simp only [State.doSpawn, releaseOk_false h, if_true]

variable {B : Block} (hB : s.block? T.blk = some B) (hr : Released s (.team k) (T.th.pend.take n) 1)
include hB hr

omit hB hr in
/-- `spawn` answers all ones and creates nothing. -/
theorem spawn_refused (h : s.doSpawn k n p T d args pc = s.answer (.team k) n p [.s d (BitVec.allOnes 64)]) :
    ∃ t, exec (.variableLatencyResult (.team k) n word) s = .next t ∧ Gives (.team k) T.th n p t d (BitVec.allOnes 64) ∧ Quiet (.team k) s t :=
  ⟨_, by rw [exec_spawn H, h], gives_answer H.stands.thread d _, quiet_answer H.stands.thread _⟩

theorem spawn_full (h : (∀ id < 256, (s.team? (256 * (k / 256) + id)).isSome = true) ∨ 32 ≤ B.teams.length ∨
    s.newFits (k / 256) 1 (spawnRegs s T B) = false) :
    ∃ t, exec (.variableLatencyResult (.team k) n word) s = .next t ∧ Gives (.team k) T.th n p t d (BitVec.allOnes 64) ∧ Quiet (.team k) s t := by
  refine spawn_refused H ?_
  unfold State.doSpawn
  dsimp only
  rw [if_neg (by rw [(releaseOk_iff _ _).2 hr]; decide)]
  cases hid : s.freeTeamId (k / 256) with
  | none => simp only [hB]
  | some id =>
    cases hkey : freeKey B.teams 0 32 with
    | none => simp only [hB, hkey]
    | some idx =>
      simp only [hB, hkey]
      refine if_neg fun hc => ?_
      obtain ⟨-, hlen, hfit, -⟩ := hc
      rcases h with h | h | h
      · rw [freeTeamId_none h] at hid
        cases hid
      · omega
      · exact absurd (h.symm.trans hfit) (by decide)

variable {id idx : Nat} (hid : id < 256) (hids : ∀ x < id, (s.team? (256 * (k / 256) + x)).isSome = true)
  (hnew : s.team? (256 * (k / 256) + id) = none) (hidx : idx < 32) (hidxs : ∀ x < idx, (lget B.teams x).isSome = true)
  (hnidx : lget B.teams idx = none) (hlen : B.teams.length < 32) (hfit : s.newFits (k / 256) 1 (spawnRegs s T B) = true)
include hid hids hnew hidx hidxs hnidx hlen hfit

omit H in
theorem doSpawn_free : s.doSpawn k n p T d args pc =
    if (spawned s k T B (256 * (k / 256) + id) idx args pc).placesFit (k / 2048) T.ctx = true then
      (spawned s k T B (256 * (k / 256) + id) idx args pc).answerS (.team k) n p d id
    else s.answer (.team k) n p [.s d (BitVec.allOnes 64)] := by
  unfold State.doSpawn
  dsimp only
  rw [if_neg (by rw [(releaseOk_iff _ _).2 hr]; decide)]
  have hkey : freeKey B.teams 0 32 = some idx := freeKey_eq (Nat.zero_le idx) (by omega) (fun x _ => hidxs x) hnidx
  simp only [hB, freeTeamId_eq hid hids hnew, hkey]
  refine if_congr ?_ rfl rfl
  constructor
  · rintro ⟨-, -, -, h⟩
    exact h
  · exact fun h => ⟨hidx, hlen, hfit, h⟩

end Spawn

section Spawned
variable {B : Block} {new idx : Nat} {args : List W64} {pc : W64}

theorem spawned_team (s : State) (k : Nat) (T : Team) (B : Block) (new idx : Nat) (args : List W64) (pc : W64) (x : Nat) :
    (spawned s k T B new idx args pc).team? x = if x = new then some (spawnTeam s k T B idx args pc) else s.team? x := by
  simp only [spawned, State.startTeam, State.fresh_team_, State.setTeam_team?]
  rfl

theorem spawned_block : (spawned s k T B new idx args pc).block? T.blk =
    some { B with teams := lset B.teams idx new, gone := B.gone.filter fun x => decide (x ≠ idx) } :=
  lget_lset_self _ _ _

theorem spawned_mem : (spawned s k T B new idx args pc).mem = s.mem := rfl

theorem spawned_clusters : (spawned s k T B new idx args pc).clusters = s.clusters := rfl

theorem spawned_cores : (spawned s k T B new idx args pc).cores = s.cores := rfl

end Spawned

theorem spawn_free {d : Nat} {args : List W64} {pc : W64} (H : TeamHeld s k T n p (.spawn d args pc)) {B : Block}
    (hB : s.block? T.blk = some B) (id idx : Nat) (hr : Released s (.team k) (T.th.pend.take n) 1) (hid : id < 256)
    (hids : ∀ x < id, (s.team? (256 * (k / 256) + x)).isSome = true) (hnew : s.team? (256 * (k / 256) + id) = none) (hidx : idx < 32)
    (hidxs : ∀ x < idx, (lget B.teams x).isSome = true) (hnidx : lget B.teams idx = none) (hlen : B.teams.length < 32)
    (hfit : s.newFits (k / 256) 1 (spawnRegs s T B) = true) :
    let new := 256 * (k / 256) + id
    ∃ u U, u.team? new = some U ∧ U.status = .ready ∧ U.th.pc = pc ∧ U.words = 1 ∧ U.vregs = spawnRegs s T B ∧ U.prio = T.prio ∧ U.idx = idx ∧
      U.blk = T.blk ∧ U.ctx = T.ctx ∧ U.maskLanes = List.range 32 ∧ (args.length = 8 → ∀ x < 8, U.th.rd x = args.getD x 0) ∧
      (u.block? T.blk).map (fun B' => lget B'.teams idx) = some (some new) ∧ SameMem s u ∧ u.clusters = s.clusters ∧ u.cores = s.cores ∧
      (∀ x, x ≠ new → u.team? x = s.team? x) ∧
      (u.placesFit (k / 2048) T.ctx = false → ∃ t, exec (.variableLatencyResult (.team k) n word) s = .next t ∧
        Gives (.team k) T.th n p t d (BitVec.allOnes 64) ∧ Quiet (.team k) s t) ∧
      (u.placesFit (k / 2048) T.ctx = true → exec (.variableLatencyResult (.team k) n word) s =
        .next (u.setThread (.team k) (T.th.setItem n { p with work := .result [.s d (BitVec.ofNat 64 id)] 0 }))) := by
  intro new
  have hkn : k ≠ new := fun e => by
    have hT := H.team
    rw [e, hnew] at hT
    cases hT
  have hdo := doSpawn_free (p := p) (d := d) (args := args) (pc := pc) hB hr hid hids hnew hidx hidxs hnidx hlen hfit
  refine ⟨spawned s k T B new idx args pc, spawnTeam s k T B idx args pc, by rw [spawned_team, if_pos rfl], rfl, rfl, rfl, rfl, rfl, rfl, rfl, rfl, ?_, ?_, ?_,
    sameMem_of_mem spawned_mem, spawned_clusters, spawned_cores, fun x hx => by rw [spawned_team, if_neg hx], fun hp => ?_, fun hp => ?_⟩
  · exact start_maskLanes _ _ _ _
  · exact fun ha x hx => start_rd _ _ _ ha hx
  · rw [spawned_block, Option.map_some, lget_lset_self]
  · exact spawn_refused H (hdo.trans (if_neg (by rw [hp]; decide)))
  · rw [exec_spawn H, hdo, if_pos hp, State.answerS, State.answer, setItem_eq (th := T.th)]
    rw [State.thread?_team, spawned_team, if_neg hkn, H.team]
    rfl

end Sys2Proof.Machine.Held
end

section
/-! Kicked copy lists (R207 to R209). -/

namespace Sys2Proof.Machine.Held

open Engines

variable {s t u f : State} {a : Agent} {n : Nat} {p : Pend} {word : Option Nat} {k : Nat} {T : Team}
  {c b off ctx m : Nat} {e : Emitted}

/-! ### Descriptors become jobs, one behind another -/

theorem mput_mput {α : Type} [DecidableEq α] (d : α) (m : SMap α) (k : Nat) (v w : α) : mput d (mput d m k v) k w = mput d m k w := by
  have hbase : merase (merase m k) k = merase m k := merase_of_no_key _ _ (merase_no_key m k)
  have herase : merase (mput d m k v) k = merase m k := by
    by_cases hv : v = d
    · simp only [mput, hv, if_true, hbase]
    · simp only [mput, hv, if_false, merase_mins _ _ _ (merase_no_key m k)]
  by_cases hw : w = d
  · simp only [mput, hw, if_true]
    exact herase
  · simp only [mput, hw, if_false]
    exact congrArg _ herase

/-- The job of descriptor `m` of a list, as it is added. -/
def listJob (f : State) (c b off ctx blk prov m : Nat) : Job := { f.copyJob c b off ctx m with blk := blk, prov := prov }

theorem copied_core (f : State) (c b off : Nat) (e : Emitted) (ctx m : Nat) : (f.copied c b off e ctx m).core c = { f.core c with
    jobs := (f.core c).jobs ++ (List.range m).map fun n => { listJob f c b off ctx e.blk e.tag n with id := f.uid + n } } := by
  cases m with
  | zero => simp [State.copied]
  | succ m =>
    simp only [State.copied, Nat.succ_ne_zero, if_false]
    exact State.setCore_core f c c _ |>.trans (if_pos rfl)

theorem copied_uid (f : State) (c b off : Nat) (e : Emitted) (ctx m : Nat) : (f.copied c b off e ctx m).uid = f.uid + m := by
  cases m with
  | zero => rfl
  | succ m => simp [State.copied]

@[simp] theorem copied_ctx (f : State) (c b off : Nat) (e : Emitted) (ctx m x : Nat) : (f.copied c b off e ctx m).ctx x = f.ctx x := by
  unfold State.copied
  split <;> rfl

@[simp] theorem copied_basinRd (f : State) (c b off : Nat) (e : Emitted) (ctx m cl x y z : Nat) :
    (f.copied c b off e ctx m).basinRd cl x y z = f.basinRd cl x y z := by
  unfold State.copied
  split <;> rfl

theorem slotBasin_copied (f : State) (c b off : Nat) (e : Emitted) (ctx m : Nat) :
    (f.copied c b off e ctx m).slotBasin c = f.slotBasin c := by
  funext slot x
  simp only [State.slotBasin, copied_core, State.cid, copied_ctx]
  rfl

theorem copyRegions_copied (f : State) (c b off : Nat) (e : Emitted) (ctx m : Nat) (d : CopyDesc) :
    (f.copied c b off e ctx m).copyRegions c ctx d = f.copyRegions c ctx d := by
  simp only [State.copyRegions, State.rangeRegions, State.rowRegions, slotBasin_copied]

theorem resolve_copied (f : State) (c b off : Nat) (e : Emitted) (ctx m x : Nat) :
    (f.copied c b off e ctx m).resolve c x ctx = f.resolve c x ctx := by
  simp only [State.resolve, slotBasin_copied]

/-- One more descriptor of the list. -/
theorem copied_succ (f : State) (c b off : Nat) (e : Emitted) (ctx m : Nat) :
    f.copied c b off e ctx (m + 1) = (f.copied c b off e ctx m).addJob c (listJob f c b off ctx e.blk e.tag m) := by
  have hjobs : (f.core c).jobs ++ (List.range (m + 1)).map (fun n => ({ listJob f c b off ctx e.blk e.tag n with id := f.uid + n } : Job)) =
      ((f.copied c b off e ctx m).core c).jobs ++ [{ listJob f c b off ctx e.blk e.tag m with id := (f.copied c b off e ctx m).uid }] := by
    rw [copied_core, copied_uid, List.range_succ, List.map_append, ← List.append_assoc]
    rfl
  have hcores : ∀ C, mput .zero (f.copied c b off e ctx m).cores c C = mput .zero f.cores c C := by
    intro C
    cases m with
    | zero => rfl
    | succ m => exact mput_mput _ _ _ _ _
  have hrest : (f.copied c b off e ctx m) = { f with cores := (f.copied c b off e ctx m).cores, uid := (f.copied c b off e ctx m).uid } := by
    unfold State.copied
    split <;> rfl
  unfold State.addJob State.fresh State.setCore
  dsimp only
  rw [← hjobs, hcores, copied_core, copied_uid, hrest]
  simp only [State.copied, Nat.succ_ne_zero, if_false]
  rfl

/-! ### One descriptor (R208) -/

section Issue
variable {v : State} {blk prov : Nat} {bs : List Byte}

/-- The job of an illegal or overlapping descriptor, as its record reads it. -/
def bareJob (d : CopyDesc) (blk prov ctx m : Nat) : Job := { Job.base (.copy d [(0, d.rows * d.rowlen)] 0) prov blk ctx with num := m }

theorem issueCopy_illegal (h : (parseCopy bs).2 = false) :
    v.issueCopy c blk ctx prov m bs = v.jobFault c (bareJob (parseCopy bs).1 blk prov ctx m) 0xC := by
  simp only [State.issueCopy, h, if_true]
  rfl

/-- The footprints of a descriptor keep apart, as the model tests it. -/
def meetsAny (r : List Region × List Region × List Region) : Bool :=
  r.1.any (fun x => (r.2.1 ++ r.2.2).any x.meets) || r.2.2.any fun o => r.2.1.any o.meets

theorem issueCopy_overlap (h : (parseCopy bs).2 = true) (hm : meetsAny (v.copyRegions c ctx (parseCopy bs).1) = true) :
    v.issueCopy c blk ctx prov m bs = v.jobFault c (bareJob (parseCopy bs).1 blk prov ctx m) 6 := by
  simp only [State.issueCopy, h, Bool.true_eq_false, if_false]
  exact if_pos hm

theorem issueCopy_job (h : (parseCopy bs).2 = true) (hm : meetsAny (v.copyRegions c ctx (parseCopy bs).1) = false) :
    v.issueCopy c blk ctx prov m bs = v.addJob c { bareJob (parseCopy bs).1 blk prov ctx m with
      reads := (v.copyRegions c ctx (parseCopy bs).1).1
      writes := (v.copyRegions c ctx (parseCopy bs).1).2.1 ++ (v.copyRegions c ctx (parseCopy bs).1).2.2
      slots := (parseCopy bs).1.slotNums.map fun k => v.resolve c k ctx } := by
  simp only [State.issueCopy, h, Bool.true_eq_false, if_false]
  exact if_neg (ne_true_of_eq_false hm)

end Issue

theorem copyApart_iff (f : State) (c b off ctx m : Nat) : f.copyApart c b off ctx m ↔
    meetsAny (f.copyRegions c ctx (parseCopy (f.basinRd (c / 8) b (off + 64 * m) 64)).1) = false := by
  simp only [State.copyApart, meetsAny, Bool.or_eq_false_iff, List.any_eq_false, Bool.not_eq_true, List.any_eq_true, not_exists, not_and]

/-- A fault of a job halts its context. -/
theorem jobFault_halts {v : State} (hrun : v.ctxRuns ctx = true) {j : Job} (hj : j.ctx = ctx) {cause : Nat} (hc : cause ≠ 0) :
    ((v.jobFault c j cause).ctx ctx).mode = .halted := by
  have hmode : ¬((v.ctx ctx).mode = .halted ∨ (v.ctx ctx).mode = .lost) := by
    rintro (h | h) <;> simp [State.ctxRuns, h] at hrun
  have hline : ((v.haltLine ctx cause (agentLoc (.queue c)) j.prov).ctx ctx).mode = .halted := by
    simp only [State.haltLine, if_neg hmode, if_neg hc]
    split <;> simp
  simp only [State.jobFault, State.engineStop, hj, State.setCore_ctx, State.setCtx_ctx, if_true]
  exact hline

/-! ### The list -/

section List
variable (hrun : f.ctxRuns ctx = true) (hok : ∀ j < m, f.copyLegal c b off j = true ∧ f.copyApart c b off ctx j)
include hrun hok

omit hok in
theorem copied_runs : (f.copied c b off e ctx m).ctxRuns ctx = true := by
  simpa only [State.ctxRuns, copied_ctx] using hrun

theorem issueCopies_copied {r : Nat} : f.issueCopies c e.blk ctx e.tag (c / 8) b off 0 (m + r) =
    (f.copied c b off e ctx m).issueCopies c e.blk ctx e.tag (c / 8) b (off + 64 * m) m r := by
  induction m generalizing r with
  | zero => simp [State.copied]
  | succ m ih =>
    obtain ⟨hl, ha⟩ := hok m (by omega)
    have hmode : ((f.copied c b off e ctx (m + 1)).ctx ctx).mode ≠ .halted := fun h => by
      rw [copied_ctx] at h
      simp [State.ctxRuns, h] at hrun
    have hstep : (f.copied c b off e ctx m).issueCopy c e.blk ctx e.tag m
        ((f.copied c b off e ctx m).basinRd (c / 8) b (off + 64 * m) 64) = f.copied c b off e ctx (m + 1) := by
      rw [copyApart_iff] at ha
      rw [copied_basinRd, issueCopy_job hl (by rw [copyRegions_copied]; exact ha), copied_succ]
      simp only [copyRegions_copied, resolve_copied]
      rfl
    rw [show m + 1 + r = m + (r + 1) by omega, ih (fun j hj => hok j (by omega)), State.issueCopies]
    rw [hstep, if_neg hmode, show off + 64 * m + 64 = off + 64 * (m + 1) by omega]

theorem issueCopies_all : f.issueCopies c e.blk ctx e.tag (c / 8) b off 0 m = f.copied c b off e ctx m := by
  have h := issueCopies_copied (e := e) hrun hok (r := 0)
  rwa [Nat.add_zero] at h

/-- The job that the record of a fault of descriptor `m` reads. -/
def faultJob (f : State) (c b off ctx blk prov m : Nat) : Job :=
  { f.copyJob c b off ctx m with blk := blk, prov := prov, reads := [], writes := [], slots := [] }

theorem issueCopies_stops {cnt cause : Nat} (hm : m < cnt) (hc : cause ≠ 0)
    (hstop : (f.copied c b off e ctx m).issueCopy c e.blk ctx e.tag m (f.basinRd (c / 8) b (off + 64 * m) 64) =
      (f.copied c b off e ctx m).jobFault c (faultJob f c b off ctx e.blk e.tag m) cause) :
    f.issueCopies c e.blk ctx e.tag (c / 8) b off 0 cnt =
      (f.copied c b off e ctx m).jobFault c (faultJob f c b off ctx e.blk e.tag m) cause := by
  obtain ⟨r, rfl⟩ : ∃ r, cnt = m + (r + 1) := ⟨cnt - m - 1, by omega⟩
  rw [issueCopies_copied hrun hok, State.issueCopies]
  rw [copied_basinRd, hstop, if_pos (jobFault_halts (copied_runs hrun) rfl hc)]

theorem issueCopies_illegal {cnt : Nat} (hm : m < cnt) (hl : f.copyLegal c b off m = false) :
    f.issueCopies c e.blk ctx e.tag (c / 8) b off 0 cnt =
      (f.copied c b off e ctx m).jobFault c (faultJob f c b off ctx e.blk e.tag m) 0xC :=
  issueCopies_stops hrun hok hm (by decide) (issueCopy_illegal hl)

theorem issueCopies_overlap {cnt : Nat} (hm : m < cnt) (hl : f.copyLegal c b off m = true) (ha : ¬f.copyApart c b off ctx m) :
    f.issueCopies c e.blk ctx e.tag (c / 8) b off 0 cnt =
      (f.copied c b off e ctx m).jobFault c (faultJob f c b off ctx e.blk e.tag m) 6 := by
  rw [copyApart_iff, Bool.not_eq_false] at ha
  exact issueCopies_stops hrun hok hm (by decide) (issueCopy_overlap hl (by rw [copyRegions_copied]; exact ha))

end List

/-! ### `kick` (R209) -/

/-- A store of an older word to a basin is to be performed. -/
def StoresWait (older : List Pend) : Prop :=
  ∃ q ∈ older, q.finished = false ∧ ∃ m, q.work = .mem m ∧ m.kind = .st ∧ ∃ l ∈ m.lanes, l.inBasin = true ∧ l.stage.done = false

/-- The same as the model tests it. -/
def storesWait (older : List Pend) : Bool :=
  older.any fun q => !q.finished && (match q.work with
    | .mem m => decide (m.kind = .st) && m.lanes.any fun l => l.inBasin && !l.stage.done
    | _ => false)

theorem storesWait_iff (older : List Pend) : storesWait older = true ↔ StoresWait older := by
  simp only [storesWait, StoresWait, List.any_eq_true, Bool.and_eq_true, Bool.not_eq_true']
  refine exists_congr fun q => and_congr_right fun _ => and_congr_right fun _ => ?_
  constructor
  · intro h
    split at h
    · next m hm =>
      simp only [Bool.and_eq_true, decide_eq_true_eq, List.any_eq_true, Bool.not_eq_true'] at h
      exact ⟨m, hm, h.1, h.2⟩
    · cases h
  · rintro ⟨m, hm, hk, hl⟩
    rw [hm]
    simp only [Bool.and_eq_true, decide_eq_true_eq, List.any_eq_true, Bool.not_eq_true']
    exact ⟨hk, hl⟩

/-- The fault of a kick: the team stands at it again, and nothing younger is outstanding. -/
def kickFault (s : State) (k : Nat) (T : Team) (n : Nat) (p : Pend) (cause : Nat) : State :=
  (s.setTeam k { T with th := { T.th with pc := p.pc, pend := T.th.pend.take n } }).teamFault k cause 0 []

section Kick
variable {x : W64} {cnt slot : Nat} (H : TeamHeld s k T n p (.kick x cnt)) (hc : Checked (T.th.pend.take n))
include H hc

theorem exec_kick : exec (.variableLatencyResult (.team k) n word) s = .next (s.doKick k n p T x cnt) := by
  rw [exec_held H.stands]
  simp only [State.doHeld, H.goes, H.team, (checked_iff _).2 hc, if_true, Bool.false_eq_true, if_false]

theorem kick_misplaced (h : ∀ slot off, steer x = .basin slot off → off % 64 ≠ 0 ∨ 1024 < cnt ∨ 65536 < off + 64 * cnt) :
    exec (.variableLatencyResult (.team k) n word) s = .next (kickFault s k T n p 2) := by
  rw [exec_kick H hc]
  unfold State.doKick
  dsimp only
  split
  · next slot off hx =>
    rw [if_pos (h slot off hx)]
    rfl
  · rfl

variable (hx : steer x = .basin slot off) (hplace : off % 64 = 0) (hcnt : cnt ≤ 1024) (hend : off + 64 * cnt ≤ 65536)
include hx hplace hcnt hend

omit H hc in
theorem doKick_placed : s.doKick k n p T x cnt = match s.slotBasin (k / 256) slot T.ctx with
    | .error e => kickFault s k T n p e
    | .ok b => if storesWait (T.th.pend.take n) then s
      else (s.finishItem (.team k) n p).issueCopies (k / 256) T.blk T.ctx p.prov (k / 2048) b off 0 cnt := by
  have hfit : ¬(off % 64 ≠ 0 ∨ 1024 < cnt ∨ 65536 < off + 64 * cnt) := by omega
  simp only [State.doKick, hx, if_neg hfit]
  rfl

theorem kick_detached {e : Nat} (he : s.slotBasin (k / 256) slot T.ctx = .error e) :
    exec (.variableLatencyResult (.team k) n word) s = .next (kickFault s k T n p e) := by
  rw [exec_kick H hc, doKick_placed hx hplace hcnt hend, he]

variable (hb : s.slotBasin (k / 256) slot T.ctx = .ok b)
include hb

theorem kick_waits (hw : StoresWait (T.th.pend.take n)) : exec (.variableLatencyResult (.team k) n word) s = .next s := by
  rw [exec_kick H hc, doKick_placed hx hplace hcnt hend, hb]
  exact congrArg Host.Outcome.next (if_pos ((storesWait_iff _).2 hw))

theorem kick_goes (hw : ¬StoresWait (T.th.pend.take n)) : exec (.variableLatencyResult (.team k) n word) s =
    .next ((s.finishItem (.team k) n p).issueCopies (k / 256) T.blk T.ctx p.prov (k / 256 / 8) b off 0 cnt) := by
  rw [exec_kick H hc, doKick_placed hx hplace hcnt hend, hb, Nat.div_div_eq_div_mul]
  exact congrArg Host.Outcome.next (if_neg (mt (storesWait_iff _).1 hw))

/-- The descriptors of the list become jobs in turn, until one faults. -/
theorem kick_lists (hw : ¬StoresWait (T.th.pend.take n)) :
    ∃ f : State, f.thread? (.team k) = some (T.th.setItem n { p with finished := true }).sweep ∧ Quiet (.team k) s f ∧ f.uid = s.uid ∧
      ∀ e : Emitted, e.blk = T.blk → e.tag = p.prov →
        ((∀ j < cnt, f.copyLegal (k / 256) b off j = true ∧ f.copyApart (k / 256) b off T.ctx j) →
          exec (.variableLatencyResult (.team k) n word) s = .next (f.copied (k / 256) b off e T.ctx cnt)) ∧
        ∀ m < cnt, (∀ j < m, f.copyLegal (k / 256) b off j = true ∧ f.copyApart (k / 256) b off T.ctx j) →
          (f.copyLegal (k / 256) b off m = false → exec (.variableLatencyResult (.team k) n word) s =
            .next ((f.copied (k / 256) b off e T.ctx m).jobFault (k / 256) (faultJob f (k / 256) b off T.ctx T.blk p.prov m) 0xC)) ∧
          (f.copyLegal (k / 256) b off m = true → ¬f.copyApart (k / 256) b off T.ctx m → exec (.variableLatencyResult (.team k) n word) s =
            .next ((f.copied (k / 256) b off e T.ctx m).jobFault (k / 256) (faultJob f (k / 256) b off T.ctx T.blk p.prov m) 6)) := by
  have hrun : (s.finishItem (.team k) n p).ctxRuns T.ctx = true := by
    rw [finishItem_eq H.stands.thread]
    simpa only [State.ctxRuns, setThread_ctx] using H.runs
  refine ⟨s.finishItem (.team k) n p, thread?_finishItem H.stands.thread n p, quiet_finishItem H.stands.thread n p, finishItem_uid _ _ _ _,
    fun e hblk htag => ?_⟩
  rw [kick_goes H hc hx hplace hcnt hend hb hw, ← hblk, ← htag]
  exact ⟨fun hok => congrArg Host.Outcome.next (issueCopies_all hrun hok), fun m hm hok =>
    ⟨fun hl => congrArg Host.Outcome.next (issueCopies_illegal hrun hok hm hl),
      fun hl ha => congrArg Host.Outcome.next (issueCopies_overlap hrun hok hm hl ha)⟩⟩

end Kick

end Sys2Proof.Machine.Held
end

section
/-! Basin words are performed (R198 to R206). -/

namespace Sys2Proof.Machine.Held

open Engines

variable {s t u : State} {a : Agent} {n : Nat} {p : Pend} {o : HeldOp} {word : Option Nat} {k : Nat} {T : Team}
  {c b d slot : Nat}

/-! ### Slots (R26, R197) -/

theorem slot_setSlot (s : State) (c slot : Nat) (v : Slot) (c' x : Nat) :
    ((s.setSlot c slot v).core c').slot x = if c' = c ∧ x = slot then v else (s.core c').slot x := by
  by_cases hc : c' = c
  · subst hc
    simp [State.setSlot, Core.setSlot, Core.slot, mget_mput]
  · simp [State.setSlot, hc]

/-- From `s` to `t` slot `slot` of core `c` became `v`, and no other slot changed. -/
def SlotSet (s t : State) (c slot : Nat) (v : Slot) : Prop :=
  ∀ c' x, (t.core c').slot x = (if c' = c ∧ x = slot then some v else none).getD ((s.core c').slot x)

theorem slotSet_setSlot (s : State) (c slot : Nat) (v : Slot) : SlotSet s (s.setSlot c slot v) c slot v := by
  intro c' x
  rw [slot_setSlot]
  split <;> rfl

/-- A source slot that a context may use (R197). -/
def SlotOk (s : State) (c slot ctx : Nat) (alone : Bool) : Prop :=
  (((s.core c).slot slot).mode = 1 ∨ (alone = false ∧ ((s.core c).slot slot).mode = 2)) ∧ ((s.core c).slot slot).owner = s.cid ctx ∧
    ((s.core c).slot slot).busy = false

theorem srcOk_iff (c slot ctx : Nat) (alone : Bool) : s.srcOk c slot ctx alone = true ↔ SlotOk s c slot ctx alone := by
  simp [State.srcOk, SlotOk, and_assoc]

theorem srcOk_false {ctx : Nat} {alone : Bool} (h : ¬SlotOk s c slot ctx alone) : s.srcOk c slot ctx alone = false := by
  rwa [← srcOk_iff, Bool.not_eq_true] at h

/-- A slot that can take a basin. -/
def SlotEmpty (s : State) (c slot : Nat) : Prop := ((s.core c).slot slot).mode = 0 ∧ ((s.core c).slot slot).busy = false

theorem isFree_iff (c slot : Nat) : ((s.core c).slot slot).isFree = true ↔ SlotEmpty s c slot := by simp [Slot.isFree, SlotEmpty]

theorem isFree_false (h : ¬SlotEmpty s c slot) : ((s.core c).slot slot).isFree = false := by
  rwa [← isFree_iff, Bool.not_eq_true] at h

/-- A core runs a context. -/
def CoreRuns (s : State) (ctx c : Nat) : Prop := ∃ b ∈ s.blocks, b.2.ctx = ctx ∧ b.2.cluster = c / 8 ∧ c ∈ b.2.cores

theorem coreRuns_iff (c ctx : Nat) : s.coreRuns c ctx = true ↔ CoreRuns s ctx c := by
  simp [State.coreRuns, CoreRuns, and_assoc]

theorem coreRuns_false {ctx : Nat} (h : ¬CoreRuns s ctx c) : s.coreRuns c ctx = false := by
  rwa [← coreRuns_iff, Bool.not_eq_true] at h

/-! ### The event -/

/-- The words of the basin group that are held. -/
def basinOp : HeldOp → Bool
  | .balloc _ _ | .bfree _ _ _ | .give _ _ _ _ _ | .takeTest _ _ | .bshare _ _ _ | .bmap _ _ | .bzero _ _ _ => true
  | _ => false

theorem exec_basin (H : TeamHeld s k T n p o) (hc : Checked (T.th.pend.take n)) (ho : basinOp o = true) :
    exec (.variableLatencyResult (.team k) n word) s = .next (s.basinHeld k n p T o word) := by
  rw [exec_held H.stands]
  have hgoes := H.goes
  have hteam := H.team
  have hck := (checked_iff _).2 hc
  clear H
  cases o with
  | balloc | bfree | give | takeTest | bshare | bmap | bzero =>
    simp only [State.doHeld, hgoes, hteam, hck, if_true, Bool.false_eq_true, if_false]
  | _ => cases ho

/-- A state with the agent's thread as it stood, in which its word has drained or answered. -/
theorem others_setItem {th : Thread} (hs : Others a s u) (h : u.thread? a = some th) (q : Pend) : Others a s (u.setItem a n q) :=
  hs.trans (quiet_setItem h n q).1

theorem others_setSlot (s : State) (c slot : Nat) (v : Slot) : Others a s (s.setSlot c slot v) := others_of_threads rfl rfl rfl

theorem thread?_setSlot (s : State) (c slot : Nat) (v : Slot) (a : Agent) : (s.setSlot c slot v).thread? a = s.thread? a := by
  cases a <;> rfl

theorem slotSet_setItem {th : Thread} (h : u.thread? a = some th) (q : Pend) {v : Slot} (hs : SlotSet s u c slot v) :
    SlotSet s (u.setItem a n q) c slot v := by
  intro c' x
  rw [setItem_eq h, setThread_core]
  exact hs c' x

theorem value_eq (v : Slot) : v.value = (if v.busy = true then 2 ^ 20 else 0) + v.owner * 256 + v.mode * 32 + v.basin := by
  cases h : v.busy <;> simp [Slot.value, h, b2n]

theorem quiet_acquire (s : State) (a : Agent) : Quiet a s (s.acquire a) := ⟨others_of_threads rfl rfl rfl, rfl, rfl, rfl⟩

theorem info_setInfo (C : Cluster) (b : Nat) (i : BInfo) (b' : Nat) : (C.setInfo b i).info b' = if b' = b then i else C.info b' := by
  simp [Cluster.setInfo, Cluster.info, mget_mput]

/-- A basin of a block's share that is not allocated (R287). -/
def ShareFree (s : State) (cl blk b : Nat) : Prop :=
  b < 32 ∧ ((s.cluster cl).info b).blk = some blk ∧ ((s.cluster cl).info b).allocated = false

theorem mem_shareFree (cl blk b : Nat) : b ∈ (s.cluster cl).shareFree blk ↔ ShareFree s cl blk b := by
  simp [Cluster.shareFree, ShareFree]

/-- The state in which basin `b` has been allocated to a team and mapped at a slot. -/
def ballocated (s : State) (k : Nat) (T : Team) (slot b : Nat) : State :=
  let C := s.cluster (k / 2048)
  let s' := s.setCluster (k / 2048) ((C.fadeBasin b s.free).setInfo b { C.info b with allocated := true })
  let s' := match s'.block? T.blk with
    | some B => s'.setBlock T.blk { B with held := B.held + 1 }
    | none => s'
  s'.chosen.setSlot (k / 256) slot ⟨false, s'.cid T.ctx, 1, b⟩

theorem ballocated_cluster (s : State) (k : Nat) (T : Team) (slot b c : Nat) : (ballocated s k T slot b).cluster c = if c = k / 2048 then
    ((s.cluster (k / 2048)).fadeBasin b s.free).setInfo b { (s.cluster (k / 2048)).info b with allocated := true } else s.cluster c := by
  rw [← State.setCluster_cluster]
  unfold ballocated
  dsimp only
  split <;> rfl

theorem ballocated_core (s : State) (k : Nat) (T : Team) (slot b c : Nat) :
    (ballocated s k T slot b).core c = (s.setSlot (k / 256) slot ⟨false, s.cid T.ctx, 1, b⟩).core c := by
  unfold ballocated
  dsimp only
  split <;> rfl

theorem others_ballocated (s : State) (k : Nat) (T : Team) (slot b : Nat) : Others a s (ballocated s k T slot b) := by
  unfold ballocated
  dsimp only
  split <;> exact others_of_threads rfl rfl rfl

theorem ballocated_thread (s : State) (k : Nat) (T : Team) (slot b : Nat) (a : Agent) :
    (ballocated s k T slot b).thread? a = s.thread? a := by
  unfold ballocated
  dsimp only
  split <;> cases a <;> rfl

theorem ballocated_block {B : Block} (hB : s.block? T.blk = some B) : (ballocated s k T slot b).block? T.blk = some { B with held := B.held + 1 } := by
  simp only [ballocated, State.setCluster_block_, hB]
  exact lget_lset_self _ _ _

theorem slotSet_ballocated (s : State) (k : Nat) (T : Team) (slot b : Nat) :
    SlotSet s (ballocated s k T slot b) (k / 256) slot ⟨false, s.cid T.ctx, 1, b⟩ := by
  intro c' x
  rw [ballocated_core]
  exact slotSet_setSlot s _ _ _ c' x

/-- Words of the basin keep their value or read zero, those of other basins are as before. -/
theorem basin8_ballocated (s : State) (k : Nat) (T : Team) (slot b b' x : Nat) : (ballocated s k T slot b).basin8 (k / 2048) b' x =
    if b' ≠ b ∨ Config.keepWord s.free (x % 65536 / 4) = true then s.basin8 (k / 2048) b' x else 0 := by
  have hdiv : (b' * 65536 + x % 65536) / 65536 = b' := by omega
  have hmod : (b' * 65536 + x % 65536) % 65536 = x % 65536 := by omega
  rw [State.basin8, ballocated_cluster, if_pos rfl]
  simp only [Cluster.setInfo, Cluster.fadeBasin, mget_mkeep, hdiv, hmod, Bool.or_eq_true, decide_eq_true_eq]
  rfl

/-- Each word of the basin keeps its value or reads zero (R199). -/
theorem words_ballocated (s : State) (k : Nat) (T : Team) (slot b : Nat) {w : Nat} (hw : w < 16384) :
    (∀ x < 4, (ballocated s k T slot b).basin8 (k / 2048) b (4 * w + x) = s.basin8 (k / 2048) b (4 * w + x)) ∨
      ∀ x < 4, (ballocated s k T slot b).basin8 (k / 2048) b (4 * w + x) = 0 := by
  have hword (x : Nat) (hx : x < 4) : (4 * w + x) % 65536 / 4 = w := by omega
  by_cases hkeep : Config.keepWord s.free w = true
  · exact .inl fun x hx => by rw [basin8_ballocated, hword x hx, if_pos (.inr hkeep)]
  · exact .inr fun x hx => by rw [basin8_ballocated, hword x hx, if_neg (by simp [hkeep])]

/-- The number whose bits below `n` are given. -/
theorem testBit_sum_pow (f : Nat → Bool) (n : Nat) : (((List.range n).filter f).map fun n => 2 ^ n).sum < 2 ^ n ∧
    ∀ x < n, ((((List.range n).filter f).map fun n => 2 ^ n).sum).testBit x = f x := by
  induction n with
  | zero => simp
  | succ n ih =>
    obtain ⟨hlt, hbits⟩ := ih
    have hsum : (((List.range (n + 1)).filter f).map fun n => 2 ^ n).sum =
        (if f n then 2 ^ n else 0) + (((List.range n).filter f).map fun n => 2 ^ n).sum := by
      rw [List.range_succ, List.filter_append, List.map_append, List.sum_append, Nat.add_comm]
      cases h : f n <;> simp [h]
    rw [hsum, Nat.pow_succ]
    refine ⟨by split <;> omega, fun x hx => ?_⟩
    rcases Nat.lt_succ_iff_lt_or_eq.1 hx with hx' | rfl
    · rw [← hbits x hx']
      split
      · exact Nat.testBit_two_pow_add_gt hx' _
      · rw [Nat.zero_add]
    · cases h : f x
      · simpa using Nat.testBit_lt_two_pow hlt
      · simp [Nat.testBit_two_pow_add_eq, Nat.testBit_lt_two_pow hlt]

section Basin
variable (hc : Checked (T.th.pend.take n))
include hc

/-! ### `bfree` and `give` begin to drain their slot (R200, R201) -/

/-- The slot of the word drains, and the word stands as `o'`. -/
def Drains (s : State) (k : Nat) (T : Team) (n : Nat) (p : Pend) (word : Option Nat) (slot : Nat) (o' : HeldOp) : Prop :=
  ∃ t, exec (.variableLatencyResult (.team k) n word) s = .next t ∧ Others (.team k) s t ∧ t.clusters = s.clusters ∧
    SlotSet s t (k / 256) slot { (s.core (k / 256)).slot slot with busy := true } ∧
    t.thread? (.team k) = some (T.th.setItem n { p with work := .held o' })

omit hc in
theorem drains_of_exec (hth : s.thread? (.team k) = some T.th) {o' : HeldOp} (h : exec (.variableLatencyResult (.team k) n word) s =
    .next (s.startDrain (.team k) n p (k / 256) slot o')) : Drains s k T n p word slot o' := by
  have hth' : (s.setSlot (k / 256) slot { (s.core (k / 256)).slot slot with busy := true }).thread? (.team k) = some T.th :=
    (thread?_setSlot _ _ _ _ _).trans hth
  obtain ⟨-, -, hcl, -⟩ := quiet_setItem hth' n { p with work := .held o' }
  exact ⟨_, h, others_setItem (others_setSlot _ _ _ _) hth' _, hcl, slotSet_setItem hth' _ (slotSet_setSlot _ _ _ _), thread?_setItem hth' _ _⟩

theorem bfree_performed (H : TeamHeld s k T n p (.bfree d slot .idle)) :
    (¬SlotOk s (k / 256) slot T.ctx false → Answers s (.team k) T.th n p word d 2) ∧
    (SlotOk s (k / 256) slot T.ctx false → Drains s k T n p word slot (.bfree d slot .draining)) := by
  refine ⟨fun h => answers_of_exec H.stands.thread ?_, fun h => drains_of_exec H.stands.thread ?_⟩
  · rw [exec_basin H hc rfl]
    exact congrArg Host.Outcome.next (if_neg (by rw [srcOk_false h]; decide))
  · rw [exec_basin H hc rfl]
    exact congrArg Host.Outcome.next (if_pos ((srcOk_iff _ _ _ _).2 h))

theorem give_performed {core' dslot : Nat} (H : TeamHeld s k T n p (.give d slot core' dslot .idle)) :
    (¬SlotOk s (k / 256) slot T.ctx true → Answers s (.team k) T.th n p word d 2) ∧
    (SlotOk s (k / 256) slot T.ctx true → ¬CoreRuns s T.ctx (8 * (k / 2048) + core') → Answers s (.team k) T.th n p word d 4) ∧
    (SlotOk s (k / 256) slot T.ctx true → CoreRuns s T.ctx (8 * (k / 2048) + core') →
      Drains s k T n p word slot (.give d slot core' dslot .draining)) := by
  refine ⟨fun h => answers_of_exec H.stands.thread ?_, fun h hr => answers_of_exec H.stands.thread ?_,
    fun h hr => drains_of_exec H.stands.thread ?_⟩
  · rw [exec_basin H hc rfl]
    simp only [State.basinHeld, srcOk_false h, if_true]
  · rw [exec_basin H hc rfl]
    simp only [State.basinHeld, (srcOk_iff _ _ _ _).2 h, coreRuns_false hr, Bool.true_eq_false, if_true, if_false]
  · rw [exec_basin H hc rfl]
    simp only [State.basinHeld, (srcOk_iff _ _ _ _).2 h, (coreRuns_iff _ _).2 hr, Bool.true_eq_false, if_false]

/-! ### `take.test` and `bmap` (R203, R205) -/

theorem takeTest_performed (H : TeamHeld s k T n p (.takeTest d slot)) :
    Answers s (.team k) T.th n p word d ((s.core (k / 256)).slot slot).value := by
  have hth : (s.acquire (.team k)).thread? (.team k) = some T.th := H.stands.thread
  exact ⟨_, exec_basin H hc rfl, gives_answer hth _ _, (quiet_acquire s _).trans (quiet_answer hth _)⟩

/-- The number that names the cores whose bank maps hold a basin (R205). -/
def mapped (s : State) (c b : Nat) : Nat := ((s.mappers (c / 8) b).map fun n => 2 ^ n).sum

omit hc in
theorem testBit_mapped (s : State) (c b : Nat) {x : Nat} (hx : x < 8) : (mapped s c b).testBit x = true ↔
    ∃ y < 16, ((s.core (8 * (c / 8) + x)).slot y).mode ≠ 0 ∧ ((s.core (8 * (c / 8) + x)).slot y).basin = b := by
  rw [mapped, State.mappers, (testBit_sum_pow _ 8).2 x hx]
  simp [List.any_eq_true]

theorem bmap_performed (H : TeamHeld s k T n p (.bmap d slot)) :
    (((s.core (k / 256)).slot slot).mode = 0 → Answers s (.team k) T.th n p word d 0) ∧
    (((s.core (k / 256)).slot slot).mode ≠ 0 → ∃ m < 256, Answers s (.team k) T.th n p word d (((s.core (k / 256)).slot slot).value + 2 ^ 24 * m) ∧
      ∀ x < 8, m.testBit x = true ↔ ∃ y < 16, ((s.core (8 * (k / 256 / 8) + x)).slot y).mode ≠ 0 ∧
        ((s.core (8 * (k / 256 / 8) + x)).slot y).basin = ((s.core (k / 256)).slot slot).basin) := by
  refine ⟨fun h => answers_of_exec H.stands.thread ?_, fun h => ⟨mapped s (k / 256) ((s.core (k / 256)).slot slot).basin,
    (testBit_sum_pow _ 8).1, answers_of_exec H.stands.thread ?_, fun x hx => testBit_mapped _ _ _ hx⟩⟩
  · rw [exec_basin H hc rfl]
    simp only [State.basinHeld, State.bmapValue, if_pos h]
  · rw [exec_basin H hc rfl]
    simp only [State.basinHeld, State.bmapValue, if_neg h]
    rfl

/-! ### `bshare` (R204) -/

/-- The other cores that a share names. -/
def shareTargets (k cmask : Nat) : List Nat :=
  ((List.range 8).filter fun x => bitAt cmask x && decide (8 * (k / 2048) + x ≠ k / 256)).map (8 * (k / 2048) + ·)

omit hc in
theorem mem_shareTargets (k cmask c : Nat) : c ∈ shareTargets k cmask ↔
    ∃ x < 8, cmask.testBit x = true ∧ c = 8 * (k / 2048) + x ∧ c ≠ k / 256 := by
  simp only [shareTargets, List.mem_map, List.mem_filter, List.mem_range, Bool.and_eq_true, decide_eq_true_eq, OneSource.bitAt_eq_testBit]
  constructor
  · rintro ⟨x, ⟨hx, hb, hne⟩, rfl⟩
    exact ⟨x, hx, hb, rfl, hne⟩
  · rintro ⟨x, hx, hb, rfl, hne⟩
    exact ⟨x, ⟨hx, hb, hne⟩, rfl⟩

omit hc in
/-- One slot of several cores takes a value. -/
theorem slot_setSlots (v : Slot) (slot : Nat) (cs : List Nat) (s : State) (c x : Nat) :
    ((cs.foldl (fun s c => s.setSlot c slot v) s).core c).slot x = if c ∈ cs ∧ x = slot then v else (s.core c).slot x := by
  induction cs generalizing s with
  | nil => simp
  | cons y cs ih =>
    rw [List.foldl_cons, ih, slot_setSlot]
    by_cases hx : x = slot
    · by_cases hc : c ∈ cs
      · simp [hx, hc]
      · by_cases hy : c = y <;> simp [hx, hc, hy]
    · simp [hx]

omit hc in
theorem setSlots_rest (v : Slot) (slot : Nat) (cs : List Nat) (s : State) :
    Others a s (cs.foldl (fun s c => s.setSlot c slot v) s) ∧ (cs.foldl (fun s c => s.setSlot c slot v) s).clusters = s.clusters ∧
      (cs.foldl (fun s c => s.setSlot c slot v) s).thread? a = s.thread? a := by
  induction cs generalizing s with
  | nil => exact ⟨⟨sameMem_refl s, fun _ _ => rfl⟩, rfl, rfl⟩
  | cons y cs ih =>
    obtain ⟨ho, hcl, hth⟩ := ih (s.setSlot y slot v)
    exact ⟨(others_setSlot s y slot v).trans ho, hcl, hth.trans (thread?_setSlot s y slot v a)⟩

/-- The state in which a slot is shared with the cores that a mask names. -/
def shared (s : State) (k slot cmask : Nat) : State :=
  let v := (s.core (k / 256)).slot slot
  (k / 256 :: shareTargets k cmask).foldl (fun s c => s.setSlot c slot ⟨false, v.owner, 2, v.basin⟩) s

section Share
variable {cmask : Nat} (H : TeamHeld s k T n p (.bshare d slot cmask))
include H

theorem bshare_waits (h : ¬Released s (.team k) (T.th.pend.take n) 2) : exec (.variableLatencyResult (.team k) n word) s = .next s := by
  rw [exec_basin H hc rfl]
  exact congrArg Host.Outcome.next (if_neg (by rw [releaseOk_false h]; decide))

variable (hr : Released s (.team k) (T.th.pend.take n) 2)
include hr

theorem exec_bshare : exec (.variableLatencyResult (.team k) n word) s = .next (s.doBshare k n p T d slot cmask) := by
  rw [exec_basin H hc rfl]
  exact congrArg Host.Outcome.next (if_pos ((releaseOk_iff _ _).2 hr))

omit hc hr H in
theorem doBshare_eq : s.doBshare k n p T d slot cmask =
    if s.srcOk (k / 256) slot T.ctx true = false then s.answerS (.team k) n p d 2
    else if (shareTargets k cmask).all (fun c => s.coreRuns c T.ctx) = false then s.answerS (.team k) n p d 4
    else if (shareTargets k cmask).all (fun c => ((s.core c).slot slot).isFree) = false then s.answerS (.team k) n p d 1
    else (shared s k slot cmask).answerS (.team k) n p d 0 := rfl

theorem bshare_source (h : ¬SlotOk s (k / 256) slot T.ctx true) : Answers s (.team k) T.th n p word d 2 :=
  answers_of_exec H.stands.thread (by rw [exec_bshare hc H hr, doBshare_eq, if_pos (srcOk_false h)])

variable (hok : SlotOk s (k / 256) slot T.ctx true)
include hok

theorem bshare_idle {c : Nat} (ht : c ∈ shareTargets k cmask) (h : ¬CoreRuns s T.ctx c) : Answers s (.team k) T.th n p word d 4 := by
  have hall : (shareTargets k cmask).all (fun c => s.coreRuns c T.ctx) = false := List.all_eq_false.2 ⟨c, ht, by rw [coreRuns_false h]; decide⟩
  refine answers_of_exec H.stands.thread ?_
  rw [exec_bshare hc H hr, doBshare_eq, if_neg (ne_false_of_eq_true ((srcOk_iff _ _ _ _).2 hok)), if_pos hall]

variable (hruns : ∀ c ∈ shareTargets k cmask, CoreRuns s T.ctx c)
include hruns

theorem bshare_taken {c : Nat} (ht : c ∈ shareTargets k cmask) (h : ¬SlotEmpty s c slot) : Answers s (.team k) T.th n p word d 1 := by
  have hall : (shareTargets k cmask).all (fun c => s.coreRuns c T.ctx) = true := List.all_eq_true.2 fun c hc => (coreRuns_iff _ _).2 (hruns c hc)
  have hfree : (shareTargets k cmask).all (fun c => ((s.core c).slot slot).isFree) = false :=
    List.all_eq_false.2 ⟨c, ht, by rw [isFree_false h]; decide⟩
  refine answers_of_exec H.stands.thread ?_
  rw [exec_bshare hc H hr, doBshare_eq, if_neg (ne_false_of_eq_true ((srcOk_iff _ _ _ _).2 hok)), if_neg (ne_false_of_eq_true hall),
    if_pos hfree]

theorem bshare_shared (hempty : ∀ c ∈ shareTargets k cmask, SlotEmpty s c slot) :
    ∃ t, exec (.variableLatencyResult (.team k) n word) s = .next t ∧ Gives (.team k) T.th n p t d 0 ∧ Others (.team k) s t ∧
      t.clusters = s.clusters ∧ ∀ c x, (t.core c).slot x = if (c = k / 256 ∨ c ∈ shareTargets k cmask) ∧ x = slot then
        ⟨false, ((s.core (k / 256)).slot slot).owner, 2, ((s.core (k / 256)).slot slot).basin⟩ else (s.core c).slot x := by
  have hall : (shareTargets k cmask).all (fun c => s.coreRuns c T.ctx) = true := List.all_eq_true.2 fun c hc => (coreRuns_iff _ _).2 (hruns c hc)
  have hfree : (shareTargets k cmask).all (fun c => ((s.core c).slot slot).isFree) = true :=
    List.all_eq_true.2 fun c hc => (isFree_iff _ _).2 (hempty c hc)
  obtain ⟨ho, hcl, hth⟩ := setSlots_rest (a := .team k) ⟨false, ((s.core (k / 256)).slot slot).owner, 2, ((s.core (k / 256)).slot slot).basin⟩
    slot (k / 256 :: shareTargets k cmask) s
  have hth' : (shared s k slot cmask).thread? (.team k) = some T.th := hth.trans H.stands.thread
  refine ⟨(shared s k slot cmask).answerS (.team k) n p d 0, ?_, gives_answer hth' d _, others_setItem ho hth' _, ?_, fun c x => ?_⟩
  · rw [exec_bshare hc H hr, doBshare_eq, if_neg (ne_false_of_eq_true ((srcOk_iff _ _ _ _).2 hok)), if_neg (ne_false_of_eq_true hall),
      if_neg (ne_false_of_eq_true hfree)]
  · rw [State.answerS, State.answer, setItem_eq hth', setThread_clusters]
    exact hcl
  · rw [State.answerS, State.answer, setItem_eq hth', setThread_core, shared, slot_setSlots]
    simp only [List.mem_cons]

end Share

/-! ### `bzero` (R206) -/

/-- An older access to a slot's basin is outstanding. -/
def SlotTouched (s : State) (k : Nat) (older : List Pend) (slot : Nat) : Prop := ∃ q ∈ older, s.touchesSlot k q slot false = true

section Zero
variable {b? : Option Nat} (H : TeamHeld s k T n p (.bzero d slot b?))
include H

theorem exec_bzero : exec (.variableLatencyResult (.team k) n word) s = .next (s.doBzero k n p T (T.th.pend.take n) d slot b? word) :=
  exec_basin H hc rfl

theorem bzero_source (hb : b? = none) (h : ¬SlotOk s (k / 256) slot T.ctx false) : Answers s (.team k) T.th n p word d 2 := by
  refine answers_of_exec H.stands.thread ?_
  rw [exec_bzero hc H]
  exact congrArg Host.Outcome.next (if_pos (by rw [hb, srcOk_false h]; rfl))

variable (hb : b? ≠ none ∨ SlotOk s (k / 256) slot T.ctx false)
include hb

omit hc H in
theorem bzero_goes : ¬(b?.isNone && !s.srcOk (k / 256) slot T.ctx false) = true := by
  rcases hb with hb | hb
  · simp [Option.isNone_iff_eq_none, hb]
  · simp [(srcOk_iff _ _ _ _).2 hb]

theorem bzero_waits (h : SlotTouched s k (T.th.pend.take n) slot) : exec (.variableLatencyResult (.team k) n word) s = .next s := by
  rw [exec_bzero hc H]
  unfold State.doBzero
  dsimp only
  rw [if_neg (bzero_goes hb), if_pos (List.any_eq_true.2 h)]

variable (hw : ¬SlotTouched s k (T.th.pend.take n) slot)
include hw

/-- The basin whose words are cleared. -/
def zeroed (s : State) (k slot : Nat) (b? : Option Nat) : Nat := b?.getD ((s.core (k / 256)).slot slot).basin

theorem bzero_word {w : Nat} (hword : word = some w) :
    ∃ t, exec (.variableLatencyResult (.team k) n word) s = .next t ∧ Others (.team k) s t ∧ t.cores = s.cores ∧
      t.thread? (.team k) = some (T.th.setItem n { p with work := .held (.bzero d slot (some (zeroed s k slot b?))) }) ∧
      (∀ x < 4, t.basin8 (k / 2048) (zeroed s k slot b?) (4 * (w % 16384) + x) = 0) ∧
      ∀ c' b' x, x < 65536 → ¬(c' = k / 2048 ∧ b' = zeroed s k slot b? ∧ x / 4 = w % 16384) → t.basin8 c' b' x = s.basin8 c' b' x := by
  have hth : (s.basinWr (k / 2048) (zeroed s k slot b?) (4 * (w % 16384)) (zeros 4)).thread? (.team k) = some T.th := by
    rw [State.thread?_team, State.team?, State.basinWr_teams]
    exact H.stands.thread
  have hlen : (zeros 4).length = 4 := rfl
  refine ⟨_, ?_, others_setItem (others_of_threads (by simp) (by simp) (by simp)) hth _, ?_, thread?_setItem hth _ _, fun x hx => ?_,
    fun c' b' x hx hne => ?_⟩
  · rw [exec_bzero hc H]
    unfold State.doBzero
    dsimp only
    rw [if_neg (bzero_goes hb), if_neg (mt List.any_eq_true.1 hw), hword]
    rfl
  · rw [setItem_eq hth, setThread_cores, State.basinWr_cores]
  · rw [setItem_eq hth, setThread_basin8, basin8_basinWr_at s _ _ (by omega) (by omega), Bytes.getD_zeros]
  · rw [setItem_eq hth, setThread_basin8, basin8_basinWr_else s _ _ (by omega) hx]
    rintro ⟨hcl, hb', i, hi, rfl⟩
    exact hne ⟨hcl, hb', by omega⟩

theorem bzero_whole (hword : word = none) :
    ∃ t, exec (.variableLatencyResult (.team k) n word) s = .next t ∧ Gives (.team k) T.th n p t d 0 ∧ Others (.team k) s t ∧ t.cores = s.cores ∧
      (∀ x, t.basin8 (k / 2048) (zeroed s k slot b?) x = 0) ∧
      (∀ b' x, b' ≠ zeroed s k slot b? → t.basin8 (k / 2048) b' x = s.basin8 (k / 2048) b' x) ∧
      ∀ c', c' ≠ k / 2048 → t.cluster c' = s.cluster c' := by
  have hth : ((s.setCluster (k / 2048) ((s.cluster (k / 2048)).clearBasin (zeroed s k slot b?))).unpoisonBasin (k / 2048)
      (zeroed s k slot b?)).thread? (.team k) = some T.th := H.stands.thread
  have hbasin (b' x : Nat) : ((s.setCluster (k / 2048) ((s.cluster (k / 2048)).clearBasin (zeroed s k slot b?))).unpoisonBasin (k / 2048)
      (zeroed s k slot b?)).basin8 (k / 2048) b' x = if b' ≠ zeroed s k slot b? then s.basin8 (k / 2048) b' x else 0 := by
    have hdiv : (b' * 65536 + x % 65536) / 65536 = b' := by omega
    change mget 0 ((s.setCluster (k / 2048) _).cluster (k / 2048)).basin _ = _
    rw [State.setCluster_cluster, if_pos rfl, Cluster.clearBasin, mget_mkeep, hdiv]
    simp only [decide_eq_true_eq]
    rfl
  refine ⟨_, ?_, gives_answer hth d _, others_setItem (others_of_threads rfl rfl rfl) hth _, ?_, fun x => ?_, fun b' x hne => ?_, fun c' hc' => ?_⟩
  · rw [exec_bzero hc H]
    unfold State.doBzero
    dsimp only
    rw [if_neg (bzero_goes hb), if_neg (mt List.any_eq_true.1 hw), hword]
    rfl
  · rw [State.answer, setItem_eq hth, setThread_cores]
    rfl
  · rw [State.answer, setItem_eq hth, setThread_basin8, hbasin, if_neg (not_not.2 rfl)]
  · rw [State.answer, setItem_eq hth, setThread_basin8, hbasin, if_pos hne]
  · rw [State.answer, setItem_eq hth, setThread_cluster]
    exact (State.setCluster_cluster _ _ _ _).trans (if_neg hc')

end Zero

/-! ### `balloc` (R199) -/

section Alloc
variable (H : TeamHeld s k T n p (.balloc d slot))
include H

theorem exec_balloc : exec (.variableLatencyResult (.team k) n word) s = .next (s.doBalloc k n p T d slot) := exec_basin H hc rfl

theorem balloc_taken (h : ¬SlotEmpty s (k / 256) slot) : Answers s (.team k) T.th n p word d 1 :=
  answers_of_exec H.stands.thread (by
    rw [exec_balloc hc H]
    exact congrArg Host.Outcome.next (if_pos (isFree_false h)))

variable (he : SlotEmpty s (k / 256) slot)
include he

theorem balloc_none (h : ∀ b, ¬ShareFree s (k / 2048) T.blk b) : Answers s (.team k) T.th n p word d 3 := by
  have hnil : (s.cluster (k / 2048)).shareFree T.blk = [] := List.eq_nil_iff_forall_not_mem.2 fun b hb => h b ((mem_shareFree _ _ _).1 hb)
  refine answers_of_exec H.stands.thread ?_
  rw [exec_balloc hc H]
  simp only [State.doBalloc, (isFree_iff _ _).2 he, Bool.true_eq_false, if_false, hnil]

omit hc H in
/-- Which basin of the share is taken is free. -/
theorem doBalloc_share (h : ∃ b, ShareFree s (k / 2048) T.blk b) : ∃ b, ShareFree s (k / 2048) T.blk b ∧ s.doBalloc k n p T d slot =
    if ((s.cluster (k / 2048)).info b).last ≠ some T.ctx then
      s.setCluster (k / 2048) ((s.cluster (k / 2048)).setInfo b { (s.cluster (k / 2048)).info b with clearing := true })
    else (ballocated s k T slot b).answerS (.team k) n p d 0 := by
  obtain ⟨b, hb⟩ := h
  have hb' := (mem_shareFree _ _ _).2 hb
  obtain ⟨b0, bs, hl⟩ := List.exists_cons_of_ne_nil (List.ne_nil_of_mem hb')
  have hlt : s.choice % (bs.length + 1) < (b0 :: bs).length := Nat.mod_lt _ (Nat.succ_pos _)
  refine ⟨(b0 :: bs).getD (s.choice % (bs.length + 1)) b0, (mem_shareFree _ _ _).1 ?_, ?_⟩
  · rw [hl, List.getD_eq_getElem _ _ hlt]
    exact List.getElem_mem hlt
  · simp only [State.doBalloc, (isFree_iff _ _).2 he, Bool.true_eq_false, if_false, hl]
    rfl

/-- A share-free basin is taken: one that another context held is cleared first, one of the same context is mapped. -/
theorem balloc_takes (h : ∃ b, ShareFree s (k / 2048) T.blk b) :
    ∃ b t, ShareFree s (k / 2048) T.blk b ∧ exec (.variableLatencyResult (.team k) n word) s = .next t ∧
      (∀ b', b' ≠ b → (t.cluster (k / 2048)).info b' = (s.cluster (k / 2048)).info b') ∧
      (∀ c', c' ≠ k / 2048 → t.cluster c' = s.cluster c') ∧
      (((s.cluster (k / 2048)).info b).last ≠ some T.ctx →
        (t.cluster (k / 2048)).info b = { (s.cluster (k / 2048)).info b with clearing := true } ∧
        (t.cluster (k / 2048)).basin = (s.cluster (k / 2048)).basin ∧ t.cores = s.cores ∧ t.teams = s.teams ∧ SameMem s t) ∧
      (((s.cluster (k / 2048)).info b).last = some T.ctx → Gives (.team k) T.th n p t d 0 ∧ Others (.team k) s t ∧
        SlotSet s t (k / 256) slot ⟨false, s.cid T.ctx, 1, b⟩ ∧
        (t.cluster (k / 2048)).info b = { (s.cluster (k / 2048)).info b with allocated := true } ∧
        (∀ B, s.block? T.blk = some B → t.block? T.blk = some { B with held := B.held + 1 }) ∧
        (∀ b' x, b' ≠ b → t.basin8 (k / 2048) b' x = s.basin8 (k / 2048) b' x) ∧
        ∀ w < 16384, (∀ x < 4, t.basin8 (k / 2048) b (4 * w + x) = s.basin8 (k / 2048) b (4 * w + x)) ∨
          ∀ x < 4, t.basin8 (k / 2048) b (4 * w + x) = 0) := by
  obtain ⟨b, hb, hdo⟩ := doBalloc_share (n := n) (p := p) (d := d) he h
  by_cases hlast : ((s.cluster (k / 2048)).info b).last = some T.ctx
  · rw [if_neg (not_not.2 hlast)] at hdo
    have hth : (ballocated s k T slot b).thread? (.team k) = some T.th := (ballocated_thread s k T slot b _).trans H.stands.thread
    have hset := setItem_eq hth n { p with work := .result [.s d (BitVec.ofNat 64 0)] 0 }
    refine ⟨b, (ballocated s k T slot b).answerS (.team k) n p d 0, hb, by rw [exec_balloc hc H, hdo], fun b' hb' => ?_, fun c' hc' => ?_,
      fun hne => absurd hlast hne, fun _ => ⟨gives_answer hth d _, others_setItem (others_ballocated s k T slot b) hth _,
        slotSet_setItem hth _ (slotSet_ballocated s k T slot b), ?_, fun B hB => ?_, fun b' x hb' => ?_, fun w hw => ?_⟩⟩
    · rw [State.answerS, State.answer, hset, setThread_cluster, ballocated_cluster, if_pos rfl, info_setInfo, if_neg hb']
      rfl
    · rw [State.answerS, State.answer, hset, setThread_cluster, ballocated_cluster, if_neg hc']
    · rw [State.answerS, State.answer, hset, setThread_cluster, ballocated_cluster, if_pos rfl, info_setInfo, if_pos rfl]
    · rw [State.answerS, State.answer, hset, setThread_block_, ballocated_block hB]
    · rw [State.answerS, State.answer, hset, setThread_basin8, basin8_ballocated, if_pos (.inl hb')]
    · simp only [State.answerS, State.answer, hset, setThread_basin8]
      exact words_ballocated s k T slot b hw
  · rw [if_pos hlast] at hdo
    refine ⟨b, _, hb, (exec_balloc hc H).trans (congrArg Host.Outcome.next hdo), fun b' hb' => ?_, fun c' hc' => ?_, fun _ => ⟨?_, ?_, rfl, rfl, sameMem_of_mem rfl⟩,
      fun he => absurd he hlast⟩
    · rw [State.setCluster_cluster, if_pos rfl, info_setInfo, if_neg hb']
    · rw [State.setCluster_cluster, if_neg hc']
    · rw [State.setCluster_cluster, if_pos rfl, info_setInfo, if_pos rfl]
    · rw [State.setCluster_cluster, if_pos rfl]
      rfl

end Alloc

end Basin

end Sys2Proof.Machine.Held
end

section
/-! Launches from the device and held words of generator threads (R212, R241, R243, R247). -/

namespace Sys2Proof.Machine.Held

open Engines

variable {s t u : State} {a : Agent} {th : Thread} {n : Nat} {p : Pend} {o : HeldOp} {word : Option Nat} {d ctx : Nat}

/-! ### `dlaunch` (R247) -/

theorem exec_dlaunch {x q : W64} (H : Stands s a th n p (.dlaunch d x q)) (hctx : s.agentCtx? a = some ctx)
    (hf : ¬Fenced (th.pend.take n)) (hr : s.ctxRuns ctx = true) :
    exec (.variableLatencyResult a n word) s = .next (s.doDlaunch a n p th d x q) := by
  have hgo : (fencedBefore (th.pend.take n) || !s.ctxRuns ((s.agentCtx? a).getD 0)) = false := by
    rw [fencedBefore_false hf, hctx, Option.getD_some, hr]
    rfl
  have hth := H.thread
  rw [exec_held H]
  cases a with
  | team k =>
    obtain ⟨T, hT, -⟩ := Option.map_eq_some_iff.1 hth
    simp only [State.doHeld, hgo, hT, Bool.false_eq_true, if_false]
  | gen g =>
    obtain ⟨G, hG, -⟩ := Option.map_eq_some_iff.1 hth
    simp only [State.doHeld, hgo, hG, Bool.false_eq_true, if_false]
  | queue c => cases hth

/-- The word's agent takes a fault, its thread back at the word. -/
def FaultTaken (s : State) (a : Agent) (th : Thread) (n : Nat) (p : Pend) (addr cause : Nat) (t : State) : Prop :=
  (∀ k, a = .team k → t = (s.setThread a (th.toCheckpoint n p.pc)).teamFault k cause addr []) ∧
    ∀ g, a = .gen g → t = (s.setThread a (th.toCheckpoint n p.pc)).genFault g cause

theorem faultTaken_heldFault (h : s.thread? a = some th) (addr cause : Nat) : FaultTaken s a th n p addr cause (s.heldFault a n p cause addr) := by
  constructor
  · rintro k rfl
    simp only [State.heldFault, State.onThread_some _ _ _ h]
  · rintro g rfl
    simp only [State.heldFault, State.onThread_some _ _ _ h]

/-- The bytes of a launch record as they are read. -/
def recordRead (s : State) (a : Agent) (ctx : Nat) (x : W64) : Except Nat (List (Nat × Nat)) :=
  s.translateAll ctx (s.sup a) .read ((List.range 256).map (x.toNat + ·))

/-- A generator thread's read waits for a page that the pool can fill (R353). -/
def ReadFills (s : State) (a : Agent) (ctx e : Nat) : Prop :=
  (∃ g, a = .gen g) ∧ e = 1 ∧ (s.part (ctxPart ctx)).ft = false ∧ s.poolHas (ctxPart ctx) = true

/-- A launch queue number names no queue that a context may use (R247). -/
def QueueBad (s : State) (ctx : Nat) (q : W64) : Prop :=
  2048 ≤ q.toNat ∨ (s.vi (bits q.toNat 5 6 + 1)).part ≠ some (ctxPart ctx) ∨
    ((s.vi (bits q.toNat 5 6 + 1)).queue (bits q.toNat 0 5)).en = false ∨ ((s.vi (bits q.toNat 5 6 + 1)).queue (bits q.toNat 0 5)).ctx ≠ ctx % 16

theorem devQueue_bad {q : W64} (h : QueueBad s ctx q) : s.devQueue ctx q = (2, bits q.toNat 5 6 + 1, bits q.toNat 0 5) := if_pos h

theorem devQueue_full {q : W64} (h : ¬QueueBad s ctx q) (hl : 64 ≤ ((s.vi (bits q.toNat 5 6 + 1)).queue (bits q.toNat 0 5)).dev.length) :
    s.devQueue ctx q = (1, bits q.toNat 5 6 + 1, bits q.toNat 0 5) :=
  (if_neg h).trans (if_pos hl)

theorem devQueue_room {q : W64} (h : ¬QueueBad s ctx q) (hl : ((s.vi (bits q.toNat 5 6 + 1)).queue (bits q.toNat 0 5)).dev.length < 64) :
    s.devQueue ctx q = (0, bits q.toNat 5 6 + 1, bits q.toNat 0 5) :=
  (if_neg h).trans (if_neg (Nat.not_le.2 hl))

section Dlaunch
variable {x q : W64} (H : Stands s a th n p (.dlaunch d x q)) (hctx : s.agentCtx? a = some ctx)
  (hf : ¬Fenced (th.pend.take n)) (hr : s.ctxRuns ctx = true)
include H hctx hf hr

theorem dlaunch_waits (h : ¬Checked (th.pend.take n) ∨ ¬Released s a (th.pend.take n) 4) :
    exec (.variableLatencyResult a n word) s = .next s := by
  rw [exec_dlaunch H hctx hf hr]
  refine congrArg Host.Outcome.next (if_pos ?_)
  rwa [← checked_iff, ← releaseOk_iff, Bool.not_eq_true, Bool.not_eq_true] at h

variable (hc : Checked (th.pend.take n)) (hrel : Released s a (th.pend.take n) 4)
include hc hrel

theorem dlaunch_fills {e : Nat} (hread : recordRead s a ctx x = .error e) (h : ReadFills s a ctx e) :
    exec (.variableLatencyResult a n word) s = .next s := by
  obtain ⟨⟨g, rfl⟩, he, hft, hpool⟩ := h
  rw [exec_dlaunch H hctx hf hr]
  simp only [State.doDlaunch, (checked_iff _).2 hc, (releaseOk_iff _ _).2 hrel, Bool.true_eq_false, or_self, if_false, hctx, Option.getD_some,
    show s.translateAll ctx _ _ _ = _ from hread, he, hft, hpool, and_self, if_true]

theorem dlaunch_faults {e : Nat} (hread : recordRead s a ctx x = .error e) (h : ¬ReadFills s a ctx e) :
    ∃ t, exec (.variableLatencyResult a n word) s = .next t ∧ FaultTaken s a th n p x.toNat e t := by
  refine ⟨s.heldFault a n p e x.toNat, ?_, faultTaken_heldFault H.thread _ _⟩
  rw [exec_dlaunch H hctx hf hr]
  simp only [State.doDlaunch, (checked_iff _).2 hc, (releaseOk_iff _ _).2 hrel, Bool.true_eq_false, or_self, if_false, hctx, Option.getD_some,
    show s.translateAll ctx _ _ _ = _ from hread]
  refine congrArg Host.Outcome.next (if_neg ?_)
  rintro ⟨hg, he⟩
  refine h ⟨?_, he⟩
  split at hg
  · exact ⟨_, rfl⟩
  · cases hg

variable {pas : List (Nat × Nat)} (hread : recordRead s a ctx x = .ok pas)
include hread

theorem dlaunch_poisoned (h : ∃ pa ∈ pas, s.poisoned pa.1 1 = true) :
    ∃ t, exec (.variableLatencyResult a n word) s = .next t ∧ FaultTaken s a th n p x.toNat 0xD t := by
  refine ⟨s.heldFault a n p 0xD x.toNat, ?_, faultTaken_heldFault H.thread _ _⟩
  rw [exec_dlaunch H hctx hf hr]
  simp only [State.doDlaunch, (checked_iff _).2 hc, (releaseOk_iff _ _).2 hrel, Bool.true_eq_false, or_self, if_false, hctx, Option.getD_some,
    show s.translateAll ctx _ _ _ = _ from hread, List.any_eq_true.2 h, if_true]

variable (hclean : ∀ pa ∈ pas, s.poisoned pa.1 1 = false)
include hclean

/-- What the word does once its record is read. -/
theorem exec_dlaunch_read : exec (.variableLatencyResult a n word) s = .next (
    if (s.devQueue ctx q).1 = 0 then
      (s.setVi (s.devQueue ctx q).2.1 ((s.vi (s.devQueue ctx q).2.1).setQueue (s.devQueue ctx q).2.2
        { (s.vi (s.devQueue ctx q).2.1).queue (s.devQueue ctx q).2.2 with
          dev := ((s.vi (s.devQueue ctx q).2.1).queue (s.devQueue ctx q).2.2).dev ++ [pas.map fun pa => s.mem8 pa.1] })).answerS a n p d 0
    else s.answerS a n p d (s.devQueue ctx q).1) := by
  have hany : (pas.any fun pa => s.poisoned pa.1 1) = false := List.any_eq_false.2 fun pa hpa => by rw [hclean pa hpa]; decide
  rw [exec_dlaunch H hctx hf hr]
  simp only [State.doDlaunch, (checked_iff _).2 hc, (releaseOk_iff _ _).2 hrel, Bool.true_eq_false, or_self, if_false, hctx, Option.getD_some,
    show s.translateAll ctx _ _ _ = _ from hread, hany, Bool.false_eq_true]

theorem dlaunch_bad (h : QueueBad s ctx q) : Answers s a th n p word d 2 :=
  answers_of_exec H.thread (by
    rw [exec_dlaunch_read H hctx hf hr hc hrel hread hclean, devQueue_bad h]
    exact congrArg Host.Outcome.next (if_neg (Nat.succ_ne_zero _)))

theorem dlaunch_full (h : ¬QueueBad s ctx q) (hl : 64 ≤ ((s.vi (bits q.toNat 5 6 + 1)).queue (bits q.toNat 0 5)).dev.length) :
    Answers s a th n p word d 1 :=
  answers_of_exec H.thread (by
    rw [exec_dlaunch_read H hctx hf hr hc hrel hread hclean, devQueue_full h hl]
    exact congrArg Host.Outcome.next (if_neg (Nat.succ_ne_zero _)))

theorem dlaunch_queued (h : ¬QueueBad s ctx q) (hl : ((s.vi (bits q.toNat 5 6 + 1)).queue (bits q.toNat 0 5)).dev.length < 64) :
    ∃ t, exec (.variableLatencyResult a n word) s = .next t ∧ Gives a th n p t d 0 ∧ Quiet a s t ∧
      (∀ v, v ≠ bits q.toNat 5 6 + 1 → t.vi v = s.vi v) ∧ t.vi (bits q.toNat 5 6 + 1) = (s.vi (bits q.toNat 5 6 + 1)).setQueue (bits q.toNat 0 5)
        { (s.vi (bits q.toNat 5 6 + 1)).queue (bits q.toNat 0 5) with
          dev := ((s.vi (bits q.toNat 5 6 + 1)).queue (bits q.toNat 0 5)).dev ++ [pas.map fun pa => s.mem8 pa.1] } := by
  have hexec := exec_dlaunch_read (word := word) H hctx hf hr hc hrel hread hclean
  rw [devQueue_room h hl, if_pos rfl] at hexec
  have hvi (V : VI) (v : Nat) : Quiet a s (s.setVi v V) := ⟨others_of_threads rfl rfl rfl, rfl, rfl, rfl⟩
  have hth (V : VI) (v : Nat) : (s.setVi v V).thread? a = some th := by
    rw [← H.thread]
    cases a <;> rfl
  refine ⟨_, hexec, gives_answer (hth _ _) d _, (hvi _ _).trans (quiet_answer (hth _ _) _), fun v hv => ?_, ?_⟩
  · rw [State.answerS, State.answer, setItem_eq (hth _ _), setThread_vi, State.setVi_vi, if_neg hv]
  · rw [State.answerS, State.answer, setItem_eq (hth _ _), setThread_vi, State.setVi_vi, if_pos rfl]

end Dlaunch

/-! ### `tgo` (R243) -/

variable {g : Nat} {G : Gen}

theorem thread_of_gen (h : s.gen? g = some G) : s.thread? (.gen g) = some G.th := by rw [State.thread?_gen, h]; rfl

section Tgo
variable {team : Nat} {handle pc : W64} {args : List W64} (H : GenHeld s g G n p (.tgo d team handle pc args))
include H

theorem exec_tgo : exec (.variableLatencyResult (.gen g) n word) s = .next (s.doTgo g n p G d team pc args) := by
  rw [exec_held H.stands]
  simp only [State.doHeld, H.goes, H.gen, Bool.false_eq_true, if_false]

theorem tgo_waits (h : ¬Released s (.gen g) (G.th.pend.take n) 2) : exec (.variableLatencyResult (.gen g) n word) s = .next s := by
  rw [exec_tgo H]
  exact congrArg Host.Outcome.next (if_pos (releaseOk_false h))

variable {B : Block} (hr : Released s (.gen g) (G.th.pend.take n) 2) (hB : s.block? G.blk = some B)
include hr hB

theorem tgo_refused (h : ∀ k U, lget B.teams team = some k → s.team? k = some U → U.status ≠ .allocated) :
    Answers s (.gen g) G.th n p word d 1 := by
  refine answers_of_exec H.stands.thread ?_
  rw [exec_tgo H]
  unfold State.doTgo
  dsimp only
  rw [if_neg (ne_false_of_eq_true ((releaseOk_iff _ _).2 hr)), hB, Option.bind_some]
  cases hk : lget B.teams team with
  | none => rfl
  | some k =>
    cases hU : s.team? k with
    | none => simp only [hU]
    | some U => simp only [hU, if_neg (h k U hk hU)]

theorem tgo_starts {k : Nat} {U : Team} (hk : lget B.teams team = some k) (hU : s.team? k = some U) (hst : U.status = .allocated) :
    ∃ t U', exec (.variableLatencyResult (.gen g) n word) s = .next t ∧ Gives (.gen g) G.th n p t d 0 ∧
      SameMem s t ∧ t.cores = s.cores ∧ t.clusters = s.clusters ∧ (∀ b, b ≠ .gen g → b ≠ .team k → t.thread? b = s.thread? b) ∧
      t.team? k = some U' ∧ U'.status = .ready ∧ U'.th.pc = pc ∧ (args.length = 8 → ∀ x < 8, U'.th.rd x = args.getD x 0) ∧
      U'.words = U.words ∧ U'.vregs = U.vregs ∧ U'.maskLanes = List.range (32 * U.words) := by
  have hth : (s.startTeam k U pc args).thread? (.gen g) = some G.th := H.stands.thread
  obtain ⟨⟨hmem, hothers⟩, hcores, hclusters, -⟩ := quiet_setItem hth n { p with work := .result [.s d (BitVec.ofNat 64 0)] 0 }
  refine ⟨(s.startTeam k U pc args).answerS (.gen g) n p d 0, U.start pc args s.uid, ?_, gives_answer hth d _, hmem, hcores, hclusters,
    fun b hb hbk => (hothers b hb).trans ?_, ?_, rfl, rfl, fun ha x hx => start_rd _ _ _ ha hx, rfl, rfl, start_maskLanes _ _ _ _⟩
  · rw [exec_tgo H]
    unfold State.doTgo
    dsimp only
    rw [if_neg (ne_false_of_eq_true ((releaseOk_iff _ _).2 hr)), hB, Option.bind_some, hk]
    simp only [hU, if_pos hst]
  · cases b with
    | team x =>
      have hx : x ≠ k := fun e => hbk (by rw [e])
      simp [State.startTeam, State.thread?, hx]
    | gen x => rfl
    | queue x => rfl
  · have hteam : (s.startTeam k U pc args).team? k = some (U.start pc args s.uid) := by simp [State.startTeam]
    rw [← hteam, State.answerS, State.answer, setItem_eq hth]
    simp only [State.setThread, show (s.startTeam k U pc args).gen? g = some G from H.gen]
    rfl

end Tgo

/-! ### `tdset` (R212) -/

/-- A word that the thread emitted to an engine queue before the item, or a `tdset` of the same descriptor, is still to come. -/
def TdAhead (s : State) (g : Nat) (older : List Pend) (before d : Nat) : Prop :=
  (∃ x < 8, (∃ e ∈ (s.core (8 * (g / 16) + x)).flue, e.gen = g % 16 ∧ e.dest = .queue ∧ e.run < before) ∨
      ∃ e ∈ (s.core (8 * (g / 16) + x)).queue, e.gen = g % 16 ∧ e.run < before) ∨
    ∃ q ∈ older, q.finished = false ∧ ∃ v, q.work = .held (.tdset d v)

theorem setsTd_iff (q : Pend) (d : Nat) : q.setsTd d = true ↔ q.finished = false ∧ ∃ v, q.work = .held (.tdset d v) := by
  simp only [Pend.setsTd, Bool.and_eq_true, Bool.not_eq_true']
  refine and_congr_right fun _ => ?_
  constructor
  · intro h
    split at h
    · next x v he => exact ⟨v, by rw [he, of_decide_eq_true h]⟩
    · cases h
  · rintro ⟨v, he⟩
    rw [he]
    exact decide_eq_true rfl

theorem tdAhead_iff (older : List Pend) (before d : Nat) :
    TdAhead s g older before d ↔ ¬(s.emittedGone g before = true ∧ older.any (Pend.setsTd · d) = false) := by
  have hgone : s.emittedGone g before = true ↔ ¬∃ x < 8, (∃ e ∈ (s.core (8 * (g / 16) + x)).flue, e.gen = g % 16 ∧ e.dest = .queue ∧ e.run < before) ∨
      ∃ e ∈ (s.core (8 * (g / 16) + x)).queue, e.gen = g % 16 ∧ e.run < before := by
    simp only [State.emittedGone, List.all_eq_true, List.mem_range, Bool.and_eq_true, Bool.or_eq_true, decide_eq_true_eq]
    push Not
    refine forall_congr' fun x => imp_congr_right fun _ => and_congr (forall_congr' fun e => imp_congr_right fun _ => ?_)
      (forall_congr' fun e => imp_congr_right fun _ => ?_)
    · tauto
    · tauto
  have hany : older.any (Pend.setsTd · d) = false ↔ ¬∃ q ∈ older, q.finished = false ∧ ∃ v, q.work = .held (.tdset d v) := by
    rw [← Bool.not_eq_true, List.any_eq_true]
    simp only [setsTd_iff]
  rw [hgone, hany, ← not_or, not_not]
  rfl

theorem exec_tdset {img : BitVec 128} (H : GenHeld s g G n p (.tdset d img)) :
    exec (.variableLatencyResult (.gen g) n word) s = .next (s.doTdset g n p G d img) := by
  rw [exec_held H.stands]
  simp only [State.doHeld, H.goes, H.gen, Bool.false_eq_true, if_false]

theorem tdset_performed {img : BitVec 128} (H : GenHeld s g G n p (.tdset d img)) :
    (TdAhead s g (G.th.pend.take n) p.id d → exec (.variableLatencyResult (.gen g) n word) s = .next s) ∧
    (¬TdAhead s g (G.th.pend.take n) p.id d → ∀ B, s.block? G.blk = some B → ∃ t, exec (.variableLatencyResult (.gen g) n word) s = .next t ∧
      t.thread? (.gen g) = some (G.th.setItem n { p with finished := true }).sweep ∧ Others (.gen g) s t ∧ t.cores = s.cores ∧
      t.clusters = s.clusters ∧ t.block? G.blk = some { B with td := mput 0 B.td d img }) := by
  rw [exec_tdset H]
  refine ⟨fun h => congrArg Host.Outcome.next (if_neg ((tdAhead_iff _ _ _).1 h)), fun h B hB => ?_⟩
  rw [tdAhead_iff, not_not] at h
  have hth : (s.setBlock G.blk { B with td := mput 0 B.td d img }).thread? (.gen g) = some G.th := H.stands.thread
  obtain ⟨ho, hc, hcl, hbl⟩ := quiet_finishItem hth n p
  refine ⟨(s.setBlock G.blk { B with td := mput 0 B.td d img }).finishItem (.gen g) n p, ?_, thread?_finishItem hth n p,
    (others_of_threads rfl rfl rfl).trans ho, hc, hcl, ?_⟩
  · unfold State.doTdset
    rw [if_pos h, hB]
  · rw [State.block?, hbl]
    exact lget_lset_self _ _ _

end Sys2Proof.Machine.Held
end

section
/-! A segment is filled and sealed (R52, R241). -/

namespace Sys2Proof.Machine.Held

open Engines

variable {s t u : State} {a : Agent} {n : Nat} {p : Pend} {word : Option Nat} {d g : Nat} {G : Gen} {x : OpenSeg}

/-! ### Fill words (R52) -/

/-- The words of a fill: none, one, or one behind the other. -/
theorem fillWords_shape (e : Nat) : fillWords e = [] ∨ (∃ a, (a = 8 ∨ a = 12 ∨ a = 16) ∧ fillWords e = [(e, a)]) ∨
    ∃ a b, (a = 8 ∨ a = 12 ∨ a = 16) ∧ (b = 8 ∨ b = 12 ∨ b = 16) ∧ fillWords e = [(e, a), (e + a, b)] := by
  unfold fillWords fillLens
  split
  · exact .inr (.inl ⟨8, by simp, rfl⟩)
  · exact .inr (.inl ⟨12, by simp, rfl⟩)
  · exact .inr (.inl ⟨16, by simp, rfl⟩)
  · exact .inr (.inr ⟨12, 8, by simp, by simp, rfl⟩)
  · exact .inr (.inr ⟨16, 8, by simp, by simp, rfl⟩)
  · exact .inr (.inr ⟨16, 12, by simp, by simp, rfl⟩)
  · exact .inl rfl

theorem length_nopBytes {k : Nat} (h : k = 8 ∨ k = 12 ∨ k = 16) : (nopBytes k).length = k := by
  rcases h with rfl | rfl | rfl
  · rfl
  · rfl
  · rfl

theorem length_fillWord {e : Nat} {f : Nat × Nat} (h : f ∈ fillWords e) : (nopBytes f.2).length = f.2 := by
  rcases fillWords_shape e with hs | ⟨a, ha, hs⟩ | ⟨a, b, ha, hb, hs⟩
  · rw [hs] at h
    cases h
  · rw [hs, List.mem_singleton] at h
    subst h
    exact length_nopBytes ha
  · rw [hs, List.mem_pair] at h
    rcases h with rfl | rfl
    · exact length_nopBytes ha
    · exact length_nopBytes hb

/-- Two fill words share no byte. -/
theorem fillWords_apart {e : Nat} {f f' : Nat × Nat} (h : f ∈ fillWords e) (h' : f' ∈ fillWords e) (hne : f' ≠ f) :
    f.1 + f.2 ≤ f'.1 ∨ f'.1 + f'.2 ≤ f.1 := by
  rcases fillWords_shape e with hs | ⟨a, ha, hs⟩ | ⟨a, b, ha, hb, hs⟩
  · rw [hs] at h
    cases h
  · rw [hs, List.mem_singleton] at h h'
    exact absurd (h'.trans h.symm) hne
  · rw [hs, List.mem_pair] at h h'
    rcases h with rfl | rfl <;> rcases h' with rfl | rfl
    · exact absurd rfl hne
    · exact .inl (Nat.le_refl _)
    · exact .inr (Nat.le_refl _)
    · exact absurd rfl hne

/-! ### The code stores -/

/-- A core with a word in its code store. -/
def storedIn (C : Core) (off : Nat) (bs : List Byte) (tag : Nat) : Core :=
  { C.codeMarked (off / 4) (bs.length / 4) false with
    code := mputs 0 C.code off bs
    ctag := (List.range (bs.length / 4)).foldl (fun m k => mput 0 m (off / 4 + k) tag) C.ctag }

theorem storeWord_eq (s : State) (c off : Nat) (bs : List Byte) (tag : Nat) :
    s.storeWord c off bs tag = s.setCore c (storedIn (s.core c) off bs tag) := rfl

/-- A core whose code store is filled behind the words of a segment. -/
def filledIn (x : OpenSeg) (C : Core) : Core :=
  (fillWords x.emitted).foldl (fun C f => storedIn C (x.off + f.1) (nopBytes f.2) x.lastTag) C

/-- The same in the state. -/
def fillCore (x : OpenSeg) (s : State) (c : Nat) : State :=
  (fillWords x.emitted).foldl (fun s f => s.storeWord c (x.off + f.1) (nopBytes f.2) x.lastTag) s

theorem fillCore_core (x : OpenSeg) (s : State) (c c' : Nat) : (fillCore x s c).core c' = if c' = c then filledIn x (s.core c) else s.core c' := by
  unfold fillCore filledIn
  generalize fillWords x.emitted = fs
  induction fs generalizing s with
  | nil =>
    simp only [List.foldl_nil]
    split
    · next h => rw [h]
    · rfl
  | cons f fs ih =>
    simp only [List.foldl_cons]
    rw [ih, storeWord_eq, State.setCore_core, State.setCore_core, if_pos rfl]
    split
    · rfl
    · rfl

/-- What a stored word leaves alone, the fill leaves alone. -/
theorem filledIn_keep {ρ : Type} (get : Core → ρ) (h : ∀ C off bs tag, get (storedIn C off bs tag) = get C) (x : OpenSeg) (C : Core) :
    get (filledIn x C) = get C := by
  unfold filledIn
  exact foldl_keep (fun C f _ => h C _ _ _) C

theorem filledIn_rest (x : OpenSeg) (C : Core) :
    (filledIn x C).bmap = C.bmap ∧ (filledIn x C).flue = C.flue ∧ (filledIn x C).queue = C.queue :=
  ⟨filledIn_keep Core.bmap (fun _ _ _ _ => rfl) x C, filledIn_keep Core.flue (fun _ _ _ _ => rfl) x C,
    filledIn_keep Core.queue (fun _ _ _ _ => rfl) x C⟩

theorem code_storedIn (C : Core) (off : Nat) (bs : List Byte) (tag y : Nat) :
    mget 0 (storedIn C off bs tag).code y = if off ≤ y ∧ y < off + bs.length then bs.getD (y - off) 0 else mget 0 C.code y :=
  mget_mputs _ _ _ _ _

theorem code_filledIn (C : Core) {f : Nat × Nat} (hf : f ∈ fillWords x.emitted) {y : Nat} (hy : y < f.2) :
    mget 0 (filledIn x C).code (x.off + f.1 + y) = (nopBytes f.2).getD y 0 := by
  have hhit (C : Core) : mget 0 (storedIn C (x.off + f.1) (nopBytes f.2) x.lastTag).code (x.off + f.1 + y) = (nopBytes f.2).getD y 0 := by
    rw [code_storedIn, length_fillWord hf, if_pos (by omega), Nat.add_sub_cancel_left]
  refine foldl_set (get := fun C : Core => mget 0 C.code (x.off + f.1 + y)) hf hhit (fun C f' hf' => ?_) C
  by_cases hne : f' = f
  · subst hne
    exact .inl (hhit C)
  · refine .inr ?_
    have := fillWords_apart hf hf' hne
    rw [code_storedIn, length_fillWord hf', if_neg (by omega)]

theorem code_filledIn_other (C : Core) {y : Nat} (h : ∀ f ∈ fillWords x.emitted, ¬(x.off + f.1 ≤ y ∧ y < x.off + f.1 + f.2)) :
    mget 0 (filledIn x C).code y = mget 0 C.code y := by
  refine foldl_keep (get := fun C : Core => mget 0 C.code y) (fun C f hf => ?_) C
  rw [code_storedIn, length_fillWord hf, if_neg (h f hf)]

/-! ### The cores of a segment -/

/-- The cores that a segment's mask names. -/
def Target (g : Nat) (x : OpenSeg) (c : Nat) : Prop := ∃ y < 8, x.cmask.testBit y = true ∧ c = 8 * (g / 16) + y

theorem mem_maskCores (g : Nat) (x : OpenSeg) (c : Nat) : c ∈ maskCores (g / 16) x.cmask ↔ Target g x c := by
  simp only [maskCores, Target, List.mem_map, List.mem_filter, List.mem_range, OneSource.bitAt_eq_testBit, and_assoc, eq_comm (a := c)]

theorem nodup_maskCores (cl cmask : Nat) : (maskCores cl cmask).Nodup :=
  (List.nodup_range.filter _).map fun _ _ h => Nat.add_left_cancel h

/-- The state in which every core of a segment is filled behind its words. -/
def filledAll (s : State) (g : Nat) (x : OpenSeg) : State := (maskCores (g / 16) x.cmask).foldl (fillCore x) s

theorem filledAll_core {c : Nat} (h : Target g x c) : (filledAll s g x).core c = filledIn x (s.core c) :=
  foldl_once (get := fun s : State => s.core c) (nodup_maskCores _ _) ((mem_maskCores _ _ _).2 h)
    (fun s => (fillCore_core x s c c).trans (if_pos rfl)) (fun s c' _ hne => (fillCore_core x s c' c).trans (if_neg hne.symm)) s

theorem filledAll_core_other {c : Nat} (h : ¬Target g x c) : (filledAll s g x).core c = s.core c :=
  foldl_keep (get := fun s : State => s.core c) (fun s c' hc' => (fillCore_core x s c' c).trans (if_neg fun e : c = c' =>
    h ((mem_maskCores _ _ _).1 (by rw [e]; exact hc')))) s

/-- What a core's change leaves alone, the fill leaves alone. -/
theorem filledAll_keep {ρ : Type} (get : State → ρ) (h : ∀ s c C, get (State.setCore s c C) = get s) (s : State) (g : Nat) (x : OpenSeg) :
    get (filledAll s g x) = get s := by
  unfold filledAll
  refine foldl_keep (fun s c _ => ?_) s
  unfold fillCore
  exact foldl_keep (fun s f _ => h s _ _) s

theorem filledAll_rest (s : State) (g : Nat) (x : OpenSeg) : (filledAll s g x).mem = s.mem ∧ (filledAll s g x).teams = s.teams ∧
    (filledAll s g x).gens = s.gens ∧ (filledAll s g x).clusters = s.clusters :=
  ⟨filledAll_keep State.mem (fun _ _ _ => rfl) s g x, filledAll_keep State.teams (fun _ _ _ => rfl) s g x,
    filledAll_keep State.gens (fun _ _ _ => rfl) s g x, filledAll_keep State.clusters (fun _ _ _ => rfl) s g x⟩

/-! ### Sealing -/

/-- The open segment of an `eseal`, as the cluster lists it. -/
def sealsIt (x : OpenSeg) (y : Seg) : Bool := !y.sealed && decide (y.off = x.off) && decide (y.cmask = x.cmask)

/-- A sealed segment. -/
def sealedSeg (x : OpenSeg) (y : Seg) : Seg :=
  { y with size := (x.emitted + 31) / 32 * 32, starts := x.starts ++ (fillWords x.emitted).map Prod.fst, sealed := true }

/-- The state in which the cluster lists the segment as sealed. -/
def listed (s : State) (g : Nat) (x : OpenSeg) : State :=
  match (s.cluster (g / 16)).segs.find? (sealsIt x) with
  | some y => s.setCluster (g / 16) { s.cluster (g / 16) with segs := (s.cluster (g / 16)).segs.erase y ++ [sealedSeg x y] }
  | none => s

theorem listed_core (s : State) (g : Nat) (x : OpenSeg) (c : Nat) : (listed s g x).core c = s.core c := by
  unfold listed
  split <;> rfl

theorem others_listed (s : State) (g : Nat) (x : OpenSeg) : Others a s (listed s g x) := by
  unfold listed
  split <;> exact others_of_threads rfl rfl rfl

theorem listed_thread (s : State) (g : Nat) (x : OpenSeg) (a : Agent) : (listed s g x).thread? a = s.thread? a := by
  unfold listed
  split <;> cases a <;> rfl

theorem sealsIt_iff (y : Seg) : sealsIt x y = true ↔ y.sealed = false ∧ y.off = x.off ∧ y.cmask = x.cmask := by
  simp [sealsIt, and_assoc]

/-- The first open segment with the offset and mask is the one sealed. -/
theorem listed_segs {pre post : List Seg} {y : Seg} (hs : (s.cluster (g / 16)).segs = pre ++ y :: post) (hy : sealsIt x y = true)
    (hpre : ∀ z ∈ pre, ¬sealsIt x z = true) : ((listed s g x).cluster (g / 16)).segs = pre ++ post ++ [sealedSeg x y] := by
  have hfind : (s.cluster (g / 16)).segs.find? (sealsIt x) = some y :=
    List.find?_eq_some_iff_append.2 ⟨hy, pre, post, hs, fun z hz => by simpa using hpre z hz⟩
  have herase : (s.cluster (g / 16)).segs.erase y = pre ++ post := by
    rw [hs, List.erase_append_right _ fun h => hpre y h hy, List.erase_cons_head]
  rw [listed, hfind]
  simp only [State.setCluster_cluster, if_true, herase]

/-! ### `eseal` (R241) -/

/-- A word of the segment is still in a flue of its cores. -/
def SegBusy (s : State) (g : Nat) (x : OpenSeg) : Prop :=
  ∃ c, Target g x c ∧ ∃ e ∈ (s.core c).flue, e.gen = g % 16 ∧ ∃ y, e.dest = .code y ∧ x.off ≤ y ∧ y < x.off + x.size

theorem segInFlue_iff : s.segInFlue g x.cmask x.off x.size = true ↔ SegBusy s g x := by
  simp only [State.segInFlue, SegBusy, List.any_eq_true, mem_maskCores, Bool.and_eq_true, decide_eq_true_eq]
  refine exists_congr fun c => and_congr_right fun _ => exists_congr fun e => and_congr_right fun _ => and_congr_right fun _ => ?_
  constructor
  · intro h
    split at h
    · next y he => exact ⟨y, he, by simpa using h⟩
    · cases h
  · rintro ⟨y, he, h⟩
    rw [he]
    simpa using h

section Eseal
variable (H : GenHeld s g G n p (.eseal d x))
include H

theorem exec_eseal : exec (.variableLatencyResult (.gen g) n word) s = .next (s.doSeal g n p d x) := by
  rw [exec_held H.stands]
  simp only [State.doHeld, H.goes, H.gen, Bool.false_eq_true, if_false]

theorem eseal_waits (h : SegBusy s g x) : exec (.variableLatencyResult (.gen g) n word) s = .next s := by
  rw [exec_eseal H]
  exact congrArg Host.Outcome.next (if_pos (segInFlue_iff.2 h))

omit H in
theorem doSeal_eq (h : ¬SegBusy s g x) :
    s.doSeal g n p d x = (listed (filledAll s g x) g x).answer (.gen g) n p [.s d (segHandle x.cmask x.tid x.off)] :=
  if_neg (mt segInFlue_iff.1 h)

theorem eseal_seals (h : ¬SegBusy s g x) :
    ∃ t, exec (.variableLatencyResult (.gen g) n word) s = .next t ∧ Gives (.gen g) G.th n p t d (segHandle x.cmask x.tid x.off) ∧
      Others (.gen g) s t ∧ (∀ c, ¬Target g x c → t.core c = s.core c) ∧ (∀ c, Target g x c → t.core c = filledIn x (s.core c)) ∧
      ∀ pre y post, (s.cluster (g / 16)).segs = pre ++ y :: post → sealsIt x y = true → (∀ z ∈ pre, ¬sealsIt x z = true) →
        (t.cluster (g / 16)).segs = pre ++ post ++ [sealedSeg x y] := by
  obtain ⟨hmem, hteams, hgens, hclusters⟩ := filledAll_rest s g x
  have hth : (listed (filledAll s g x) g x).thread? (.gen g) = some G.th := by
    rw [listed_thread, State.thread?_gen, State.gen?, hgens]
    exact H.stands.thread
  have ho : Others (.gen g) s (listed (filledAll s g x) g x) := (others_of_threads hmem hteams hgens).trans (others_listed _ _ _)
  have hset := setItem_eq hth n { p with work := .result [.s d (segHandle x.cmask x.tid x.off)] 0 }
  refine ⟨_, by rw [exec_eseal H, doSeal_eq h], gives_answer hth d _, others_setItem ho hth _, fun c hc => ?_, fun c hc => ?_,
    fun pre y post hs hy hpre => ?_⟩
  · rw [State.answer, hset, setThread_core, listed_core, filledAll_core_other hc]
  · rw [State.answer, hset, setThread_core, listed_core, filledAll_core hc]
  · rw [State.answer, hset, setThread_cluster]
    exact listed_segs (by rw [State.cluster, hclusters]; exact hs) hy hpre

end Eseal

end Sys2Proof.Machine.Held
end

section
/-! What held words do when they are performed: the obligation, agent by agent and word by word. -/

namespace Sys2Proof.Machine.Held

variable {s : State} {n : Nat} {p : Pend} {word : Option Nat} {k g : Nat} {T : Team} {G : Gen}

/-- A shared slot goes to every core named, where each runs the context and has the slot free (R204). -/
theorem bshare_performed {d slot cmask : Nat} (hc : Checked (T.th.pend.take n)) (H : TeamHeld s k T n p (.bshare d slot cmask)) :
    let target (c : Nat) : Prop := ∃ x < 8, cmask.testBit x = true ∧ c = 8 * (k / 2048) + x ∧ c ≠ k / 256
    let v := (s.core (k / 256)).slot slot
    (¬Released s (.team k) (T.th.pend.take n) 2 → exec (.variableLatencyResult (.team k) n word) s = .next s) ∧
    (Released s (.team k) (T.th.pend.take n) 2 →
      (¬SlotOk s (k / 256) slot T.ctx true → Answers s (.team k) T.th n p word d 2) ∧
      (SlotOk s (k / 256) slot T.ctx true → (∃ c, target c ∧ ¬CoreRuns s T.ctx c) → Answers s (.team k) T.th n p word d 4) ∧
      (SlotOk s (k / 256) slot T.ctx true → (∀ c, target c → CoreRuns s T.ctx c) → (∃ c, target c ∧ ¬SlotEmpty s c slot) →
        Answers s (.team k) T.th n p word d 1) ∧
      (SlotOk s (k / 256) slot T.ctx true → (∀ c, target c → CoreRuns s T.ctx c ∧ SlotEmpty s c slot) →
        ∃ t, exec (.variableLatencyResult (.team k) n word) s = .next t ∧ Gives (.team k) T.th n p t d 0 ∧ Others (.team k) s t ∧
          t.clusters = s.clusters ∧ (∀ c, c = k / 256 ∨ target c → (t.core c).slot slot = ⟨false, v.owner, 2, v.basin⟩) ∧
          ∀ c x, ¬((c = k / 256 ∨ target c) ∧ x = slot) → (t.core c).slot x = (s.core c).slot x)) := by
  intro target v
  have htarget (c : Nat) : c ∈ shareTargets k cmask ↔ target c := mem_shareTargets k cmask c
  refine ⟨bshare_waits hc H, fun hr => ⟨bshare_source hc H hr, fun hok ⟨c, ht, h⟩ => bshare_idle hc H hr hok ((htarget c).2 ht) h,
    fun hok hruns ⟨c, ht, h⟩ => bshare_taken hc H hr hok (fun c hc => hruns c ((htarget c).1 hc)) ((htarget c).2 ht) h, fun hok hall => ?_⟩⟩
  obtain ⟨t, hexec, hgives, hothers, hcl, hslot⟩ := bshare_shared (word := word) hc H hr hok (fun c hc => (hall c ((htarget c).1 hc)).1)
    fun c hc => (hall c ((htarget c).1 hc)).2
  simp only [htarget] at hslot
  exact ⟨t, hexec, hgives, hothers, hcl, fun c h => (hslot c slot).trans (if_pos ⟨h, rfl⟩), fun c x h => (hslot c x).trans (if_neg h)⟩

/-- Settles O43: the words of a team, `dlaunch` of either agent, and the words of a generator thread, each by its own lemma. -/
theorem heldPerformed : Obligations.HeldPerformed := by
  unfold Obligations.HeldPerformed
  intro s a th n p o word hth hitem hopen hwork
  have S : Stands s a th n p o := ⟨hth, hitem, hopen, hwork⟩
  refine ⟨?fence, fun ho h => (exec_held S).trans (congrArg Host.Outcome.next (doHeld_barred ho h)), ?team, ?dlaunch, ?gen⟩
  case fence =>
    rintro scope ord rfl
    exact fence_performed S
  case team =>
    rintro k T rfl hT hf hr
    obtain rfl : T.th = th := Option.some.inj ((thread_of_team hT).symm.trans hth)
    have H : TeamHeld s k T n p o := ⟨hT, S, hf, hr⟩
    refine ⟨unchecked_waits H, ?bar, ?trig, ?spawn, ?kick, fun hc => ⟨?balloc, ?bfree, ?give, ?takeTest, ?bshare, ?bmap, ?bzero⟩⟩
    case bar =>
      rintro b e rfl
      refine ⟨arrive_waits H, fun B hb hrel hB => ⟨arrive_mismatch H hb hrel hB, fun he => ?_⟩⟩
      obtain ⟨t, T', hexec, hdone, hothers, hblk, hteam, htok, hst⟩ := arrive_counts (word := word) H hb hrel hB he
      exact ⟨t, T', hexec, hdone, hothers, hblk, hteam, htok, fun seen h => by rw [hst, h, reseen_bar],
        fun h => hst.trans (reseen_other _ h)⟩
    case trig =>
      rintro hc rfl
      exact trig_performed H hc
    case spawn =>
      rintro d args pc B rfl hB
      exact ⟨spawn_waits H, fun hrel h => spawn_full H hB hrel h, spawn_free H hB⟩
    case kick =>
      rintro x cnt hc rfl
      exact ⟨kick_misplaced H hc, fun slot off hx hplace hcnt hend => ⟨fun e he => kick_detached H hc hx hplace hcnt hend he,
        fun b hb => ⟨kick_waits H hc hx hplace hcnt hend hb, kick_lists H hc hx hplace hcnt hend hb⟩⟩⟩
    case balloc =>
      rintro d slot rfl
      exact ⟨balloc_taken hc H, balloc_none hc H, balloc_takes hc H⟩
    case bfree =>
      rintro d slot rfl
      exact bfree_performed hc H
    case give =>
      rintro d slot core' dslot rfl
      exact give_performed hc H
    case takeTest =>
      rintro d slot rfl
      have h := takeTest_performed (word := word) hc H
      rwa [value_eq] at h
    case bshare =>
      rintro d slot cmask rfl
      exact bshare_performed hc H
    case bmap =>
      rintro d slot rfl
      have h := bmap_performed (word := word) hc H
      rwa [value_eq] at h
    case bzero =>
      rintro d slot b? rfl
      exact ⟨bzero_source hc H, bzero_waits hc H, fun hb hw => ⟨bzero_whole hc H hb hw, fun w hword => bzero_word hc H hb hw hword⟩⟩
  case dlaunch =>
    rintro d x q ctx rfl hctx - hf hr
    refine ⟨dlaunch_waits S hctx hf hr, fun hc hrel => ⟨fun e hread => ⟨dlaunch_fills S hctx hf hr hc hrel hread,
      dlaunch_faults S hctx hf hr hc hrel hread⟩, fun pas hread => ⟨dlaunch_poisoned S hctx hf hr hc hrel hread, fun hclean =>
      ⟨dlaunch_bad S hctx hf hr hc hrel hread hclean, dlaunch_full S hctx hf hr hc hrel hread hclean,
        dlaunch_queued S hctx hf hr hc hrel hread hclean⟩⟩⟩⟩
  case gen =>
    rintro g G rfl hG hf hr
    obtain rfl : G.th = th := Option.some.inj ((thread_of_gen hG).symm.trans hth)
    have H : GenHeld s g G n p o := ⟨hG, S, hf, hr⟩
    refine ⟨?eseal, ?tgo, ?tdset⟩
    case eseal =>
      rintro d x rfl
      refine ⟨eseal_waits H, fun hb => ?_⟩
      obtain ⟨t, hexec, hgives, hothers, hrest, hcores, hsegs⟩ := eseal_seals (word := word) H hb
      refine ⟨t, hexec, hgives, hothers, hrest, fun c hc => ?_, fun pre y post hs h1 h2 h3 hpre =>
        hsegs pre y post hs ((sealsIt_iff y).2 ⟨h1, h2, h3⟩) fun z hz h => hpre z hz ((sealsIt_iff z).1 h)⟩
      rw [hcores c hc]
      exact ⟨fun f hf y hy => code_filledIn _ hf hy, fun y hy => code_filledIn_other _ hy, filledIn_rest x _⟩
    case tgo =>
      rintro d team handle pc args rfl
      exact ⟨tgo_waits H, fun hrel B hB => ⟨tgo_refused H hrel hB, fun k U hk hU hst _ => tgo_starts H hrel hB hk hU hst⟩⟩
    case tdset =>
      rintro d img rfl
      exact tdset_performed H

end Sys2Proof.Machine.Held
end

section
/-! Vector bit fields, selection, moves and lane numbers (R133, R138, R139). -/

namespace Sys2Proof.Machine.LaneMoves

open OneSource VectorInteger

section Words
variable {s : State} {k : Nat} {T : Team}

theorem vbfx_wrote {o : VBfx} (h : TeamIssuing s (.vbfx o) k T) (hwf : (Instr.vbfx o).wf = true)
    (hl : (T.vOk (tyWide o.ty) o.d && T.vOk (tyWide o.ty) o.a) = true) :
    ∃ t, exec (.vbfx o) s = .next t ∧ WroteV s t k T (T.active o.g.toNat) (tyWide o.ty) o.d.toNat (fun l => laneOf o.ty
      (let f := (lowN o.ty (T.vrd (tyWide o.ty) o.a.toNat l)).extractLsb' o.pos.toNat o.width.toNat
       if tySigned o.ty then f.signExtend _ else f.setWidth _)) 0 8 := by
  simp only [Instr.wf, Bool.and_eq_true, bfOk_iff] at hwf
  obtain ⟨-, ⟨⟨hwidth, -⟩, -⟩, hinside⟩ := hwf
  rw [exec_vbfx]
  exact vec_wroteTy h _ hl o.g.toNat o.ty o.d _ fun l => ofNat_bfxN o.ty hwidth hinside _

theorem vbfi_wrote {o : VBfi} (h : TeamIssuing s (.vbfi o) k T)
    (hl : (T.vOk (tyWide o.ty) o.d && T.vOk (tyWide o.ty) o.a && T.vOk (tyWide o.ty) o.b) = true) :
    ∃ t, exec (.vbfi o) s = .next t ∧ WroteV s t k T (T.active o.g.toNat) (tyWide o.ty) o.d.toNat (fun l => laneOf o.ty
      (let m : BitVec (tyBits o.ty) := (BitVec.allOnes o.width.toNat).setWidth _
       (lowN o.ty (T.vrd (tyWide o.ty) o.a.toNat l) &&& ~~~(m <<< o.pos.toNat)) |||
         ((lowN o.ty (T.vrd (tyWide o.ty) o.b.toNat l) &&& m) <<< o.pos.toNat))) 0 8 := by
  rw [exec_vbfi]
  exact vec_wroteTy h _ hl o.g.toNat o.ty o.d _ fun l => ofNat_bfiN o.ty _ _ _ _

theorem vsel_wrote {o : VSel} (h : TeamIssuing s (.vsel o) k T)
    (hl : (T.vOk (tyWide o.ty) o.d && T.vOk (tyWide o.ty) o.a && T.vOk (tyWide o.ty) o.b) = true) :
    ∃ t, exec (.vsel o) s = .next t ∧ WroteV s t k T (T.active o.g.toNat) (tyWide o.ty) o.d.toNat (fun l => laneOf o.ty
      (lowN o.ty (T.vrd (tyWide o.ty) (if T.pred o.pc.toNat l then o.a.toNat else o.b.toNat) l))) 0 8 := by
  rw [exec_vsel]
  exact vec_wroteTy h _ hl o.g.toNat o.ty o.d _ fun _ => rfl

theorem vmov_wrote {o : VMov} (h : TeamIssuing s (.vmov o) k T)
    (hl : (T.vOk (tyWide o.ty) o.d && T.vsrcOk (tyWide o.ty) o.src) = true) :
    ∃ t, exec (.vmov o) s = .next t ∧ WroteV s t k T (T.active o.g.toNat) (tyWide o.ty) o.d.toNat
      (fun l => laneOf o.ty (lowN o.ty (T.vsrc o.ty l o.src))) 0 (vsrcLen o.src) := by
  rw [exec_vmov]
  exact vec_wroteTy h _ hl o.g.toNat o.ty o.d _ fun _ => rfl

theorem vbcast_wrote {o : VBcast} (h : TeamIssuing s (.vbcast o) k T) (hl : T.vOk (tyWide o.ty) o.d = true) :
    ∃ t, exec (.vbcast o) s = .next t ∧ WroteV s t k T (T.active o.g.toNat) (tyWide o.ty) o.d.toNat
      (fun _ => laneOf o.ty (low o.ty (T.th.rd o.a.toNat))) 0 8 := by
  rw [exec_vbcast]
  exact vec_wroteTy h _ hl o.g.toNat o.ty o.d _ fun _ => (low_eq_ofNat o.ty _).symm

theorem vlane_wrote {o : VLane} (h : TeamIssuing s (.vlane o) k T) (hl : T.vOk (tyWide o.ty) o.d = true) :
    ∃ t, exec (.vlane o) s = .next t ∧ WroteV s t k T (T.active o.g.toNat) (tyWide o.ty) o.d.toNat
      (fun l => laneOf o.ty (lowN o.ty l)) 0 8 := by
  rw [exec_vlane]
  exact vec_wroteTy h _ hl o.g.toNat o.ty o.d _ fun _ => rfl

end Words

/-- Settles O10: each word writes a typed lane value (`vec_wroteTy`); the fields of numbers are those of n-bit vectors (`ofNat_bfxN`,
`ofNat_bfiN`). -/
theorem vectorFieldsMoves : Obligations.VectorFieldsMoves :=
  fun _ _ _ => ⟨fun _ h hwf hl => vbfx_wrote h hwf hl, fun _ h _ hl => vbfi_wrote h hl, fun _ h hl => vsel_wrote h hl,
    fun _ h hl => vmov_wrote h hl, fun _ h hl => vbcast_wrote h hl, fun _ h hl => vlane_wrote h hl⟩

end Sys2Proof.Machine.LaneMoves
end

section
/-! Lane exchanges (R142, R143, R147, R148): every lane value of the result is read from the team as the word issues. -/

namespace Sys2Proof.Machine.LaneExchange

open OneSource Reduction

/-! ### Queued lane results (R133) -/

/-- The queued writes of typed lane results are the lanes' extended values, in the order of the lanes. -/
theorem tyWrites_map (ty : BitVec 3) (d : Nat) (ls : List Nat) (f : Nat → Nat) :
    tyWrites ty d (ls.map fun l => (l, f l)) = ls.flatMap fun l => laneWrites (tyWide ty) d l (laneOf ty (lowN ty (f l))) := by
  simp only [tyWrites, List.flatMap_map, extTo_eq_extend, laneOf, lowN]

/-! ### The lowest lane with a lane's value (R148) -/

/-- The first lane of the list with the value that lane `l` has; `l` itself where there is none. -/
def lowestMatch (ls : List Nat) (v : Nat → Nat) (l : Nat) : Nat := (ls.find? fun j => v j == v l).getD l

/-- In ascending lanes the match is the lowest lane with the value. -/
theorem lowestMatch_spec {ls : List Nat} (hls : ls.Pairwise (· < ·)) (v : Nat → Nat) {l : Nat} (hl : l ∈ ls) :
    lowestMatch ls v l ∈ ls ∧ (v (lowestMatch ls v l) == v l) = true ∧ ∀ j ∈ ls, (v j == v l) = true → lowestMatch ls v l ≤ j := by
  rw [lowestMatch]
  cases hfind : ls.find? fun j => v j == v l with
  | none => exact absurd (BEq.rfl : (v l == v l) = true) (List.find?_eq_none.mp hfind l hl)
  | some m =>
    obtain ⟨hm, pre, post, rfl, hpre⟩ := List.find?_eq_some_iff_append.mp hfind
    refine ⟨by simp, hm, fun j hj hsame => ?_⟩
    obtain ⟨-, hpost, -⟩ := List.pairwise_append.mp hls
    rcases List.mem_append.mp hj with hj | hj
    · exact absurd hsame (by simpa using hpre j hj)
    · rcases List.mem_cons.mp hj with rfl | hj
      · exact le_rfl
      · exact (List.rel_of_pairwise_cons hpost hj).le

/-! ### The words -/

section Words
variable {s : State} {k : Nat} {T : Team}

/-- R143: each active lane takes the value of the lane that it names, 0 where the team has none of that number. -/
theorem vshfl_queued {o : VShfl} (h : TeamIssuing s (.vshfl o) k T)
    (hl : (T.vOk (tyWide o.ty) o.d && T.vOk (tyWide o.ty) o.a && T.vOk false o.b) = true) :
    ∃ t, exec (.vshfl o) s = .next t ∧ Queued s t (.team k) T.th (offLen o.off) [] (.result
      ((T.active o.g.toNat).flatMap fun l =>
        let j : Int := (T.vr o.b.toNat l).toNat + offInt o.off
        laneWrites (tyWide o.ty) o.d.toNat l
          (laneOf o.ty (lowN o.ty (if 0 ≤ j ∧ j < 32 * T.words then T.vrd (tyWide o.ty) o.a.toNat j.toNat else 0)))) 0) := by
  rw [exec_vshfl, ← tyWrites_map]
  exact vecLater_queued h _ _ hl _

/-- R143: rotation takes the values of the lanes in a ring. -/
theorem vrot_queued {o : VRot} (h : TeamIssuing s (.vrot o) k T) (hl : (T.vOk (tyWide o.ty) o.d && T.vOk (tyWide o.ty) o.a) = true) :
    ∃ t, exec (.vrot o) s = .next t ∧ Queued s t (.team k) T.th (offLen o.off) [] (.result
      ((T.active o.g.toNat).flatMap fun l => laneWrites (tyWide o.ty) o.d.toNat l
        (laneOf o.ty (lowN o.ty (T.vrd (tyWide o.ty) o.a.toNat ((l + offInt o.off) % (32 * T.words : Nat)).toNat)))) 0) := by
  rw [exec_vrot, ← tyWrites_map]
  exact vecLater_queued h _ _ hl _

theorem vextract_queued {o : VLaneMove} (h : TeamIssuing s (.vextract o) k T)
    (hl : (T.vOk (tyWide o.ty) o.a && decide (offNat o.lane < 32 * T.words)) = true) :
    ∃ t, exec (.vextract o) s = .next t ∧ Queued s t (.team k) T.th (offLen o.lane) [] (.result
      [.s o.d.toNat (extend o.ty (lowN o.ty (T.vrd (tyWide o.ty) o.a.toNat (offNat o.lane))))] 0) := by
  rw [exec_vextract, lowN, ← extTo_eq_extend]
  exact vecLater_queued h _ _ hl _

theorem vinsert_queued {o : VLaneMove} (h : TeamIssuing s (.vinsert o) k T)
    (hl : (T.vOk (tyWide o.ty) o.d && decide (offNat o.lane < 32 * T.words)) = true) :
    ∃ t, exec (.vinsert o) s = .next t ∧ Queued s t (.team k) T.th (offLen o.lane) [] (.result
      (laneWrites (tyWide o.ty) o.d.toNat (offNat o.lane) (laneOf o.ty (low o.ty (T.th.rd o.a.toNat)))) 0) := by
  have hwrites := tyWrites_map o.ty o.d.toNat [offNat o.lane] fun _ => (T.th.rd o.a.toNat).toNat
  rw [List.flatMap_singleton, lowN, ← low_eq_ofNat] at hwrites
  rw [exec_vinsert, ← hwrites]
  exact vecLater_queued h _ _ hl _

/-- R148: `vmatch` names for each active lane the lowest active lane with its value. -/
theorem vmatch_queued {o : VMatch} (h : TeamIssuing s (.vmatch o) k T) (hl : (T.vOk false o.d && T.vOk (tyWide o.ty) o.a) = true) :
    ∃ t, exec (.vmatch o) s = .next t ∧ Queued s t (.team k) T.th (if o.long then 12 else 8) [] (.result
      ((T.active o.g.toNat).map fun l =>
        .v o.d.toNat l (BitVec.ofNat 32 (lowestMatch (T.active o.g.toNat) (T.vrd (tyWide o.ty) o.a.toNat) l))) 0) := by
  rw [exec_vmatch]
  exact vecLater_queued h _ _ hl _

end Words

/-- Settles O12: each word queues a list of writes computed from the team at issue (`vecLater_queued`, `tyWrites_map`); the lane that
`vmatch` finds first is the lowest, since active lanes ascend (`lowestMatch_spec`). -/
theorem crossLane : Obligations.CrossLane := by
  intro s k T
  refine ⟨fun _ h hl => vshfl_queued h hl, fun _ h hl => vrot_queued h hl, fun _ h hl => vextract_queued h hl,
    fun _ h hl => vinsert_queued h hl, fun o h hl => ?_⟩
  obtain ⟨t, ht, hq⟩ := vmatch_queued h hl
  exact ⟨t, _, ht, hq, fun l hlane => lowestMatch_spec (active_pairwise T o.g.toNat) _ hlane⟩

end Sys2Proof.Machine.LaneExchange
end

section
/-! The smaller and the larger of two numbers (R146, R153). -/

namespace Sys2Proof.Machine.FloatExtremes

open FlaggedLanes Arithmetic

theorem nv_of_number {a : FV} (h : a.isNan = false) : a.nv = 0 := by
  cases a with
  | nan c => cases h
  | inf n => rfl
  | fin n m q => rfl

/-- The second operand is strictly better than the first: above it for the larger one, else below it (R146). -/
def secondWins (F : Fmt) (max : Bool) (x y : Nat) : Bool :=
  if max then (F.val x).below (F.val y) else (F.val y).below (F.val x)

/-- Of two numbers the better one comes out as it is, the first of equals, without a flag (R153). -/
theorem minmax_of_numbers {F : Fmt} {x y : Nat} (hx : (F.val x).isNan = false) (hy : (F.val y).isNan = false) (max : Bool) :
    F.minmax max x y = (if secondWins F max x y then y else x, 0) := by
  simp only [Fmt.minmax, hx, hy, nv_of_number hx, nv_of_number hy]
  cases max <;> simp [secondWins]

/-- A lane register or pair holds every value of its format. -/
theorem laneBits_of_lt {ty : BitVec 3} {x : Nat} (h : x < 2 ^ (fmtOf ty).bits) : laneBits (fWide ty) x = x := by
  have hbits : ∀ c : BitVec 3, (fmtOf c).bits ≤ if fWide c then 64 else 32 := by decide
  have hlt := h.trans_le (Nat.pow_le_pow_right two_pos (hbits ty))
  unfold laneBits
  cases hw : fWide ty <;> rw [hw] at hlt <;> exact Nat.mod_eq_of_lt hlt

/-- What a lane takes of the smaller or larger of two numbers is one of the two, and no flag comes with it. -/
theorem minmax_unchanged {ty : BitVec 3} {x y : Nat} (hx : ((fmtOf ty).val x).isNan = false) (hy : ((fmtOf ty).val y).isNan = false)
    (hxlt : x < 2 ^ (fmtOf ty).bits) (hylt : y < 2 ^ (fmtOf ty).bits) (max : Bool) :
    (laneBits (fWide ty) ((fmtOf ty).minmax max x y).1 = x ∨ laneBits (fWide ty) ((fmtOf ty).minmax max x y).1 = y) ∧
      ((fmtOf ty).minmax max x y).2 = 0 := by
  rw [minmax_of_numbers hx hy]
  refine ⟨?_, rfl⟩
  cases secondWins (fmtOf ty) max x y with
  | true => exact .inr (laneBits_of_lt hylt)
  | false => exact .inl (laneBits_of_lt hxlt)

/-- A `vecMinmax` word on lanes that hold numbers writes one operand of each lane and leaves FPFLAGS alone. -/
theorem vecMinmax_unchanged {s : State} {i : Instr} {k : Nat} {T : Team} {o : VF2} (h : TeamIssuing s i k T) (hl : limVF2 o T = true)
    (hnum : ∀ l ∈ T.active o.g.toNat, (T.fval o.ty o.a.toNat l).isNan = false ∧ (T.fval o.ty o.b.toNat l).isNan = false) (max : Bool) :
    ∃ t T', vecMinmax i o max s = .next t ∧ t.team? k = some T' ∧ T'.th.flags = T.th.flags ∧
      ∀ l ∈ T.active o.g.toNat, T'.vrd (fWide o.ty) o.d.toNat l = T.fbits o.ty o.a.toNat l ∨
        T'.vrd (fWide o.ty) o.d.toNat l = T.fbits o.ty o.b.toNat l := by
  obtain ⟨t, ht, T', -, hteam, hval, -, -, hrest, -⟩ := vec_wroteF h 8 hl o.g.toNat (fWide o.ty) o.d fun T l =>
    (fmtOf o.ty).minmax max (T.fbits o.ty o.a.toNat l) (T.fbits o.ty o.b.toNat l)
  have hlane := fun l (hmem : l ∈ T.active o.g.toNat) =>
    minmax_unchanged (hnum l hmem).1 (hnum l hmem).2 (fbits_lt T o.ty _ l) (fbits_lt T o.ty _ l) max
  refine ⟨t, T', ht, hteam, ?_, fun l hmem => ?_⟩
  · have hflags := congrArg (fun U => U.th.flags) hrest
    rw [foldl_or_zero fun l hmem => (hlane l hmem).2] at hflags
    exact hflags.trans BitVec.or_zero
  · rw [hval l hmem]
    exact (hlane l hmem).1

/-- Settles O19: in each lane `Fmt.minmax` gives one of the two operands without a flag (`minmax_of_numbers`), and the lane holds every
value of the format (`laneBits_of_lt`). -/
theorem floatMinMax : Obligations.FloatMinMax := by
  intro s k T o i hi h hl hnum
  rcases hi with rfl | rfl
  · rw [exec_vfmin]
    exact vecMinmax_unchanged h hl hnum false
  · rw [exec_vfmax]
    exact vecMinmax_unchanged h hl hnum true

end Sys2Proof.Machine.FloatExtremes
end

section
/-! The floating words of the vector and uniform groups (R150 to R162): each writes or queues what its lane function gives, with the
flags (R23). -/

namespace Sys2Proof.Machine.FloatWords

open FlaggedLanes OneSource

/-! ### Vector words of fixed latency (R150 to R153, R157 to R159) -/

/-- A word of `vecF2` writes the lane results of its function. -/
theorem vecF2_wrote {i : VF2 → Instr} {f : Fmt → RMode → Bool → FV → FV → FRes} (hexec : ∀ o s, exec (i o) s = vecF2 (i o) o f s) :
    VecFloat2 i fun o T l => f (fmtOf o.ty) (rmode T.th.rm o.rnd) o.sat (T.fval o.ty o.a.toNat l) (T.fval o.ty o.b.toNat l) := by
  intro s k T o h hl
  rw [hexec]
  exact vec_wroteF h 8 hl o.g.toNat (fWide o.ty) o.d fun T l =>
    f (fmtOf o.ty) (rmode T.th.rm o.rnd) o.sat (T.fval o.ty o.a.toNat l) (T.fval o.ty o.b.toNat l)

/-- A word of `vecMinmax` writes the smaller or larger operand of each lane. -/
theorem vecMinmax_wrote {i : VF2 → Instr} {max : Bool} (hexec : ∀ o s, exec (i o) s = vecMinmax (i o) o max s) :
    VecFloat2 i fun o T l => (fmtOf o.ty).minmax max (T.fbits o.ty o.a.toNat l) (T.fbits o.ty o.b.toNat l) := by
  intro s k T o h hl
  rw [hexec]
  exact vec_wroteF h 8 hl o.g.toNat (fWide o.ty) o.d fun T l =>
    (fmtOf o.ty).minmax max (T.fbits o.ty o.a.toNat l) (T.fbits o.ty o.b.toNat l)

/-- Settles O14: the words with flags by `vec_wroteF`, `vfclass` by the rule of lane results without flags. -/
theorem floatFixed : Obligations.FloatFixed := by
  refine ⟨vecF2_wrote exec_vfadd, vecF2_wrote exec_vfsub, vecF2_wrote exec_vfmul, vecMinmax_wrote exec_vfmin,
    vecMinmax_wrote exec_vfmax, fun s k T o h hl => ?vffma, fun s k T o h hl => ?vfclass, fun s k T o h hl => ?vfscale,
    fun s k T o h hl => ?vfrnd⟩
  case vffma =>
    rw [exec_vffma]
    exact vec_wroteF h 8 hl o.g.toNat (fWide o.ty) o.d fun T l =>
      (fmtOf o.ty).fma (rmode T.th.rm o.rnd) o.sat (T.fval o.ty o.a.toNat l) (T.fval o.ty o.b.toNat l) (T.fval o.ty o.c.toNat l)
  case vfclass =>
    rw [exec_vfclass]
    exact vec_wrote h 8 _ hl o.g.toNat false o.d.toNat o.d.isLt fun T l => (fmtOf o.ty).class (T.fbits o.ty o.a.toNat l)
  case vfscale =>
    rw [exec_vfscale]
    exact vec_wroteF h 8 hl o.g.toNat (fWide o.ty) o.d fun T l =>
      (fmtOf o.ty).scale (rmode T.th.rm o.rnd) o.sat (T.fval o.ty o.a.toNat l) (T.vr o.b.toNat l).toInt
  case vfrnd =>
    rw [exec_vfrnd]
    exact vec_wroteF h 8 hl o.g.toNat (fWide o.ty) o.d fun T l =>
      (fmtOf o.ty).rnd (rmode T.th.rm o.rnd) (T.fbits o.ty o.a.toNat l)

/-! ### Vector words of variable latency (R155, R156, R162) -/

/-- A word of `vecF1Later` queues the lane results of its function. -/
theorem vecF1Later_queued {i : VF1 → Instr} {f : VF1 → Nat → FRes} (hexec : ∀ o s, exec (i o) s = vecF1Later (i o) o (f o) s) :
    VecFloat1Later i f := by
  intro s k T o h hl
  rw [hexec]
  exact vecLater_queued h 8 (limVF1 o) hl _

/-- Settles O16: each word queues what `Team.laterF` collects over the active lanes. -/
theorem floatLater : Obligations.FloatLater := by
  refine ⟨fun s k T o h hl => ?vfdiv, fun s k T o h hl => ?vfsqrt, vecF1Later_queued exec_vfrcp, vecF1Later_queued exec_vfrsq,
    vecF1Later_queued exec_vfex2, vecF1Later_queued exec_vflg2, vecF1Later_queued exec_vfsin, vecF1Later_queued exec_vfcos⟩
  case vfdiv =>
    rw [exec_vfdiv]
    exact vecLater_queued h 8 (limVF2 o) hl _
  case vfsqrt =>
    rw [exec_vfsqrt]
    exact vecLater_queued h 8 (limVF1 o) hl _

/-! ### Uniform words (R161) -/

section Uniform
variable {s : State} {i : Instr} {a : Agent} {th : Thread}

/-- A uniform floating word writes one register and ORs its flags in. -/
theorem uniF_wrote (h : Issuing s i a th) (d : Nat) (f : Thread → W64 × Flg) :
    ∃ t, uniF s i d f = .next t ∧ WroteSF s t a th d (f th).1 (f th).2 8 := by
  refine ⟨_, issue_go h rfl, ((th.wr d (f th).1).orFlags (f th).2).adv 8, ?_, ?_, ?_, ?_, ?_, rfl, sameMem_of_mem (by simp)⟩
  · exact State.onThread_some s a _ h.thread
  · rw [State.onThread_some s a _ h.thread, State.thread?_setThread _ _ _ _ (by simp [h.thread])]; simp
  · simp
  · intro r hr; simp [Thread.rd_wr, hr]
  · exact fun w => Thread.mem_marks_wr th d w (f th).1

/-- The same for results that are known by another name. -/
theorem uniF_wrote_of_eq (h : Issuing s i a th) (d : Nat) {f : Thread → W64 × Flg} {v : W64} {fl : Flg} (hf : f th = (v, fl)) :
    ∃ t, uniF s i d f = .next t ∧ WroteSF s t a th d v fl 8 := by
  have := uniF_wrote h d f
  rwa [hf] at this

end Uniform

/-- Settles O22: each word is `uniF` of its function; a conversion to an integer is extended as R161 says. -/
theorem uniformFloat : Obligations.UniformFloat := by
  intro s a th
  refine ⟨fun o h => ?fadd, fun o h => ?fmul, fun o h => ?ffma, fun o h => ⟨fun hk => ?toFloat, fun hk => ?toInt, fun hk => ?ofInt⟩⟩
  case fadd => exact uniF_wrote h o.d.toNat _
  case fmul => exact uniF_wrote h o.d.toNat _
  case ffma => exact uniF_wrote h o.d.toNat _
  case toFloat =>
    rw [exec_fcvt]
    exact uniF_wrote_of_eq h o.d.toNat (by simp only [hk]; rfl)
  case toInt =>
    intro r
    rw [exec_fcvt, ← extTo_eq_extend]
    exact uniF_wrote_of_eq h o.d.toNat (by simp only [hk]; rfl)
  case ofInt =>
    rw [exec_fcvt]
    exact uniF_wrote_of_eq h o.d.toNat (by simp only [hk]; rfl)

end Sys2Proof.Machine.FloatWords
end

section
/-! The value kept within 2 ulp (R156): a value computed with a known error decides between the device's value and the nearest one. -/

namespace Sys2Proof.Machine.Transcendental

open FloatFormat Rounding Arithmetic

/-! ### One ulp of the f32 format (R155) -/

/-- The format of the transcendental words (R156). -/
theorem shapeF32 : Shape fmtF32 := shape 1#3

/-- One ulp at `y` is 2^E: `y` has at most 24 digits of that weight, and exactly so many above the subnormals. -/
structure UlpExp (y : ℝ) (E : Int) : Prop where
  eq : fmtF32.ulp y = 2 ^ E
  lt : |y| < 2 ^ (E + 24)
  qmin_le : -149 ≤ E
  normal : E = -149 ∨ 2 ^ (E + 23) ≤ |y|

theorem exists_ulpExp {y : ℝ} (hy : y ≠ 0) : ∃ E, UlpExp y E := by
  have hpos : 0 < |y| := abs_pos.mpr hy
  have hlo : (2 : ℝ) ^ Int.log 2 |y| ≤ |y| := by exact_mod_cast Int.zpow_log_le_self (b := 2) one_lt_two hpos
  have hhi : |y| < (2 : ℝ) ^ (Int.log 2 |y| + 1) := by exact_mod_cast Int.lt_zpow_succ_log_self (b := 2) one_lt_two |y|
  refine ⟨max (Int.log 2 |y| - 23) (-149), rfl, hhi.trans_le (zpow_two_le (by omega)), le_max_right _ _, ?_⟩
  rcases le_total (Int.log 2 |y| - 23) (-149) with h | h
  · exact .inl (max_eq_right h)
  · refine .inr (le_trans (zpow_two_le ?_) hlo)
    rw [max_eq_left h]; omega

theorem zpow_two_lt_iff {a b : Int} : (2 : ℝ) ^ a < 2 ^ b ↔ a < b := zpow_lt_zpow_iff_right₀ one_lt_two

section Ulp
variable {y : ℝ} {E : Int}

/-- A value of 2^l or more has an ulp of 2^(l − 23) or more. -/
theorem UlpExp.le_of_le (h : UlpExp y E) {l : Int} (hl : 2 ^ l ≤ |y|) : l - 23 ≤ E := by
  have := zpow_two_lt_iff.mp (hl.trans_lt h.lt)
  omega

/-- Within the range of the format an ulp is at most the top step. -/
theorem UlpExp.le_of_le_largest (h : UlpExp y E) (hy : |y| ≤ fmtF32.largest) : E ≤ 104 := by
  have hlt : fmtF32.largest < 2 ^ (128 : Int) := by
    have := mul_zpow_lt (q := fmtF32.maxQ) (canonical_max shapeF32).lt
    exact this
  rcases h.normal with rfl | hn
  · omega
  · have := zpow_two_lt_iff.mp (hn.trans_lt (hy.trans_lt hlt))
    omega

end Ulp

/-! ### Rounding a magnitude with a sliver to nearest -/

/-- An inexact result raises NX, and UF beside it where it is tiny. -/
theorem flag_cases (tiny : Bool) : (fNX ||| if tiny then fUF else 0) = fNX ∨ (fNX ||| if tiny then fUF else 0) = fNX ||| fUF := by
  cases tiny
  · exact .inl rfl
  · exact .inr rfl

/-- A magnitude with a sliver below its last bit rounds to a value within half a step, inexactly, or overflows. -/
theorem roundNZ_sliver {F : Fmt} (hF : Shape F) (sat neg : Bool) {m : Nat} {q : Int} {u : ℝ} (hm : m ≠ 0) (hq : q < stepExp F m q)
    (hs : Sliver m q true u) :
    (F.Overflows 0 ((if neg then -1 else 1) * u) ∧ F.roundNZ 0 sat neg m q true = F.overflow 0 sat neg) ∨
      ((∃ z, F.Finite (F.roundNZ 0 sat neg m q true).1 ((if neg then -1 else 1) * z) ∧ |z - u| ≤ 2 ^ stepExp F m q / 2) ∧
        ((F.roundNZ 0 sat neg m q true).2 = fNX ∨ (F.roundNZ 0 sat neg m q true).2 = fNX ||| fUF)) := by
  have hu := sliver_pos hm hs
  have hc : (0 : ℝ) < 2 ^ stepExp F m q := by positivity
  have hmin : F.qmin ≤ stepExp F m q := by rw [stepExp]; split <;> omega
  have hunit : unitExp F m q ≤ stepExp F m q := by rw [stepExp]; split <;> omega
  have hstep : stepExp F m q ≠ F.qmin → stepExp F m q = unitExp F m q := by rw [stepExp]; split <;> omega
  have hlt : u < 2 ^ ((F.f : Int) + 1 + stepExp F m q) := (lt_unit (F := F) hs).trans_le (zpow_two_le (by omega))
  have hge : stepExp F m q ≠ F.qmin → 2 ^ ((F.f : Int) + stepExp F m q) ≤ u := fun h => by rw [hstep h]; exact le_unit hm hs
  obtain ⟨hn, -⟩ := cutAt_spec (by omega : 0 < 4) neg hs fun _ => hq
  have hnx : (cutAt 0 neg m q (stepExp F m q) true).2 = true := by rw [cutAt, if_neg (not_le.mpr hq)]; simp
  have hover := beyond_max_iff hF hn hu hlt hge
  rw [roundNZ_eq]
  simp only [hnx, if_true, Bool.true_and]
  generalize stepExp F m q = q' at *
  generalize cutAt 0 neg m q q' true = c at *
  by_cases ho : F.maxQ < q' ∨ (q' = F.maxQ ∧ F.maxM < c.1)
  · rw [if_pos ho]
    exact .inl ⟨hover.mp ho, rfl⟩
  · right
    rw [if_neg ho]
    have hx : 0 ≤ u / 2 ^ q' := by positivity
    have hnle : c.1 ≤ 2 ^ (F.f + 1) := hn.le_of_le hx (by
      rw [div_le_iff₀ hc]; push_cast; rw [← zpow_natCast, ← zpow_add₀ two_ne_zero]; exact_mod_cast hlt.le)
    have hnormal : q' = F.qmin ∨ 2 ^ F.f ≤ c.1 := or_iff_not_imp_left.mpr fun h => hn.ge_of_ge hx (by
      rw [le_div_iff₀ hc]; push_cast; rw [← zpow_natCast, ← zpow_add₀ two_ne_zero]; exact hge h)
    obtain ⟨m', q'', hcan, hbits, hval, -⟩ := exists_canonical hF hnle hmin hnormal ho neg
    have hfin := finite_encodeFin (n := neg) hF hcan
    rw [real_fin, hval, ← hbits] at hfin
    refine ⟨⟨_, hfin, ?_⟩, flag_cases _⟩
    have h := (hn.nearest rfl).1
    calc |(c.1 : ℝ) * 2 ^ q' - u| = |(c.1 : ℝ) - u / 2 ^ q'| * 2 ^ q' := by
          rw [← abs_of_pos hc, ← abs_mul, abs_of_pos hc, sub_mul, div_mul_cancel₀ _ hc.ne']
      _ ≤ 1 / 2 * 2 ^ q' := mul_le_mul_of_nonneg_right h hc.le
      _ = 2 ^ q' / 2 := by ring

/-! ### The choice of `near2ulp` -/

/-- The exponent of the ulp that the test allows: that of the least magnitude within `e` units of `v`. -/
def testExp (v q : Int) (e : Nat) : Int :=
  if q + Nat.log2 (v.natAbs - e) - 23 < -149 then -149 else q + Nat.log2 (v.natAbs - e) - 23

/-- The nearest value to `v · 2^q` and a sliver. -/
def nearest (sat : Bool) (v q : Int) : FRes := fmtF32.round 0 sat (decide (v < 0)) v.natAbs q true

/-- The model's integer test compares the distance of two values with 2 steps of 2^u. -/
theorem test_iff (n : Bool) (m : Nat) (qx v q u : Int) :
    let d := addDy n m qx (decide (0 < v)) v.natAbs q
    d.1.natAbs * 2 ^ (d.2 - (if d.2 < u then d.2 else u)).toNat ≤ 2 * 2 ^ (u - (if d.2 < u then d.2 else u)).toNat ↔
      |(FV.fin n m qx).real - v * 2 ^ q| ≤ 2 * 2 ^ u := by
  intro d
  have hd : (d.1 : ℝ) * 2 ^ d.2 = (FV.fin n m qx).real - v * 2 ^ q := by
    have hneg : (FV.fin (decide (0 < v)) v.natAbs q).real = -(v * 2 ^ q) := by
      have := real_of_int (-v) q
      rw [Int.natAbs_neg] at this
      simpa using this
    rw [addDy_real, hneg, sub_eq_add_neg]
  generalize hw : (if d.2 < u then d.2 else u) = w
  have h1 : w ≤ d.2 := by rw [← hw]; split <;> omega
  have h2 : w ≤ u := by rw [← hw]; split <;> omega
  have hpow : ∀ k : Int, w ≤ k → ((2 ^ (k - w).toNat : Nat) : ℝ) * 2 ^ w = 2 ^ k := fun k hk => by
    push_cast
    rw [← zpow_natCast, Int.toNat_of_nonneg (by omega), ← zpow_add₀ two_ne_zero, sub_add_cancel]
  have hw0 : (0 : ℝ) < 2 ^ w := by positivity
  rw [← hd, abs_mul, abs_of_pos (by positivity : (0 : ℝ) < 2 ^ d.2), ← hpow _ h1, ← hpow _ h2, ← mul_assoc, ← mul_assoc,
    mul_le_mul_iff_left₀ hw0, ← Int.cast_abs, Int.abs_eq_natAbs]
  exact_mod_cast Iff.rfl

/-- The result is the nearest value, or the device's one where that is a finite value within the test's 2 ulp of `v · 2^q`. -/
theorem near2ulp_cases (x : W32) (sat : Bool) (v q : Int) (e : Nat) :
    near2ulp x sat v q e = nearest sat v q ∨
      ((nearest sat v q).2 &&& fOF = 0 ∧ near2ulp x sat v q e = (x.toNat, (nearest sat v q).2 ||| fNX) ∧
        ∃ z, fmtF32.Finite x.toNat z ∧ |z - v * 2 ^ q| ≤ 2 * 2 ^ testExp v q e) := by
  have hr : near2ulp x sat v q e = if (nearest sat v q).2 &&& fOF ≠ 0 then nearest sat v q else
      match fmtF32.val (nearest sat v q).1, fmtF32.val x.toNat with
      | .fin _ _ _, .fin n m qx =>
        let d := addDy n m qx (decide (0 < v)) v.natAbs q
        let u := testExp v q e
        if d.1.natAbs * 2 ^ (d.2 - (if d.2 < u then d.2 else u)).toNat ≤ 2 * 2 ^ (u - (if d.2 < u then d.2 else u)).toNat ∧ v ≠ 0
        then (x.toNat, (nearest sat v q).2 ||| fNX) else nearest sat v q
      | _, _ => nearest sat v q := rfl
  rw [hr]
  split
  · exact .inl rfl
  · next hof =>
    split
    · next n m qx _ hval =>
      have htest := test_iff n m qx v q (testExp v q e)
      simp only at htest
      simp only [htest]
      by_cases h : |(FV.fin n m qx).real - v * 2 ^ q| ≤ 2 * 2 ^ testExp v q e ∧ v ≠ 0
      · rw [if_pos h]
        exact .inr ⟨not_not.mp hof, rfl, _, ⟨x.isLt, n, m, qx, hval, rfl⟩, h.1⟩
      · rw [if_neg h]
        exact .inl rfl
    · exact .inl rfl

section Near
variable {v q : Int} {e : Nat} {y : ℝ} {E : Int}

/-- An error of at most 2^−30 ulp leaves `v · 2^q` enough digits for its rounding, to within half an ulp. -/
theorem stepExp_bounds (hE : UlpExp y E) (hv : v ≠ 0) (hy : |(v : ℝ) * 2 ^ q - y| ≤ 2 ^ (E - 30)) (hq : q ≤ E - 30) :
    q < stepExp fmtF32 v.natAbs q ∧ stepExp fmtF32 v.natAbs q ≤ E + 1 := by
  have hm : v.natAbs ≠ 0 := Int.natAbs_ne_zero.mpr hv
  have habs : |(v : ℝ) * 2 ^ q| = v.natAbs * 2 ^ q := by
    rw [abs_mul, abs_of_pos (by positivity : (0 : ℝ) < 2 ^ q), ← Int.cast_abs, Int.abs_eq_natAbs]; rfl
  have hnear := (abs_le.mp ((abs_abs_sub_abs_le_abs_sub ((v : ℝ) * 2 ^ q) y).trans hy))
  rw [habs] at hnear
  have hlo := le_mul_zpow (q := q) (Nat.log2_self_le hm)
  have hhi := mul_zpow_lt (q := q) (Nat.lt_log2_self (n := v.natAbs))
  have hunit : unitExp fmtF32 v.natAbs q = q + Nat.log2 v.natAbs - 23 := by
    rw [unitExp, show fmtF32.f = 23 from rfl]; push_cast; ring
  have hqmin : fmtF32.qmin = -149 := rfl
  have hsmall : (2 : ℝ) ^ (E - 30) ≤ 2 ^ (E + 22) := zpow_two_le (by omega)
  have hmono : ∀ k : Int, (2 : ℝ) ^ (k + 1) = 2 ^ k + 2 ^ k := fun k => by rw [zpow_add_one₀ two_ne_zero]; ring
  have hmin := hE.qmin_le
  have h22 := hmono (E + 22)
  have h24 := hmono (E + 24)
  have h2224 : (2 : ℝ) ^ (E + 22) ≤ 2 ^ (E + 24) := zpow_two_le (by omega)
  rw [show E + 22 + 1 = E + 23 by ring] at h22
  rw [stepExp, hunit, hqmin]
  have htop : Nat.log2 v.natAbs + q < E + 25 := by
    rw [← zpow_two_lt_iff]
    refine hlo.trans_lt ?_
    rw [show E + 25 = E + 24 + 1 by ring]
    linarith [hE.lt]
  have hbot : E = -149 ∨ E + 22 < Nat.log2 v.natAbs + 1 + q := by
    refine hE.normal.imp id fun h => ?_
    rw [← zpow_two_lt_iff]
    refine lt_of_le_of_lt ?_ (by exact_mod_cast hhi)
    linarith
  split <;> omega

/-- What the test calls an ulp is none too large: it is at most an ulp of a value within `e` units of `v · 2^q`. -/
theorem testExp_le (hE : UlpExp y E) (hy : |(v : ℝ) * 2 ^ q - y| ≤ e * 2 ^ q) (hq : q ≤ E - 30) : testExp v q e ≤ E := by
  have hmin := hE.qmin_le
  rw [testExp]
  split
  · exact hmin
  · by_cases h0 : v.natAbs - e = 0
    · rw [h0, show Nat.log2 0 = 0 by decide]; omega
    · have hlo := le_mul_zpow (q := q) (Nat.log2_self_le h0)
      have habs : |(v : ℝ) * 2 ^ q| = v.natAbs * 2 ^ q := by
        rw [abs_mul, abs_of_pos (by positivity : (0 : ℝ) < 2 ^ q), ← Int.cast_abs, Int.abs_eq_natAbs]; rfl
      have hnear := (abs_le.mp ((abs_abs_sub_abs_le_abs_sub ((v : ℝ) * 2 ^ q) y).trans hy)).2
      rw [habs] at hnear
      rw [Nat.cast_sub (by omega), sub_mul] at hlo
      have := hE.le_of_le (l := Nat.log2 (v.natAbs - e) + q) (by linarith)
      omega

/-- The error is far below a value beyond the largest finite one. -/
theorem UlpExp.error_lt (hE : UlpExp y E) (hy : fmtF32.largest < |y|) : (2 : ℝ) ^ (E - 30) < |y| := by
  rcases hE.normal with rfl | h
  · refine lt_trans ?_ hy
    rw [Fmt.largest, show fmtF32.maxQ = 104 from rfl, show fmtF32.maxM = 16777215 from rfl]
    norm_num
  · exact lt_of_lt_of_le (zpow_two_lt_iff.mpr (by omega)) h

/-- Twice the error does not reach from the largest finite value to where the rounding overflows. -/
theorem UlpExp.largest_lt (hE : UlpExp y E) {u : ℝ} (hu : fmtF32.Overflows 0 u) (h : |u - y| ≤ 2 * 2 ^ (E - 30)) :
    fmtF32.largest < |y| := by
  have htop : fmtF32.topStep / 2 = 2 ^ (103 : ℤ) := by
    rw [Fmt.topStep, show fmtF32.maxQ = 104 from rfl]; norm_num
  have hT : fmtF32.largest + 2 ^ (103 : ℤ) ≤ |u| := by
    rw [← htop]
    rcases hu with ⟨-, h | ⟨h, -⟩⟩ | ⟨h, -⟩ | ⟨h, -⟩
    · exact h.le
    · exact h.ge
    · exact absurd rfl h
    · exact absurd rfl h
  by_contra hc
  have hE104 := hE.le_of_le_largest (not_lt.mp hc)
  have h1 : (2 : ℝ) ^ (E - 30) ≤ 2 ^ (74 : ℤ) := zpow_two_le (by omega)
  have h2 : 2 * (2 : ℝ) ^ (74 : ℤ) < 2 ^ (103 : ℤ) := by norm_num
  have := (abs_le.mp ((abs_abs_sub_abs_le_abs_sub _ _).trans h)).2
  linarith

/-- The nearest value to `v · 2^q` and a sliver is within an ulp and the error of `y`, inexactly, or overflows as `y` does. -/
theorem nearest_cases (sat : Bool) (hE : UlpExp y E) (hv : v ≠ 0) (hy : |(v : ℝ) * 2 ^ q - y| ≤ 2 ^ (E - 30)) (hq : q ≤ E - 30) :
    (fmtF32.largest < |y| ∧ nearest sat v q = fmtF32.overflow 0 sat (decide (v < 0))) ∨
      ((∃ z, fmtF32.Finite (nearest sat v q).1 z ∧ |z - y| ≤ 2 ^ E + 2 * 2 ^ (E - 30)) ∧
        ((nearest sat v q).2 = fNX ∨ (nearest sat v q).2 = fNX ||| fUF)) := by
  have hm : v.natAbs ≠ 0 := Int.natAbs_ne_zero.mpr hv
  have hq0 : (0 : ℝ) < 2 ^ q := by positivity
  have hqE : (2 : ℝ) ^ q ≤ 2 ^ (E - 30) := zpow_two_le hq
  obtain ⟨hdigits, hstep⟩ := stepExp_bounds hE hv hy hq
  have hpow : (2 : ℝ) ^ stepExp fmtF32 v.natAbs q ≤ 2 ^ (E + 1) := zpow_two_le hstep
  rw [zpow_add_one₀ two_ne_zero] at hpow
  -- the sliver in the middle of the last unit
  have hs : Sliver v.natAbs q true ((v.natAbs + 1 / 2 : ℝ) * 2 ^ q) :=
    ⟨mul_le_mul_of_nonneg_right (by linarith) hq0.le, mul_lt_mul_of_pos_right (by linarith) hq0, by simp [hq0.ne']⟩
  have hcases := roundNZ_sliver shapeF32 sat (decide (v < 0)) hm hdigits hs
  rw [show fmtF32.roundNZ 0 sat (decide (v < 0)) v.natAbs q true = nearest sat v q by rw [nearest, Fmt.round, if_neg hm]] at hcases
  obtain ⟨σ, hσ, hσ1, hσv⟩ : ∃ σ : ℝ, (if decide (v < 0) then -1 else 1) = σ ∧ |σ| = 1 ∧ σ * v.natAbs = v :=
    ⟨_, rfl, by split <;> simp, by simpa [real_fin] using real_of_int v 0⟩
  rw [hσ] at hcases
  generalize hu : ((v.natAbs : ℝ) + 1 / 2) * 2 ^ q = u at hcases
  have hdist : |σ * u - y| ≤ 2 * 2 ^ (E - 30) := by
    have hsplit : σ * u - y = (v * 2 ^ q - y) + σ * (1 / 2 * 2 ^ q) := by rw [← hσv, ← hu]; ring
    rw [hsplit]
    refine (abs_add_le _ _).trans ?_
    rw [abs_mul σ, hσ1, abs_of_pos (by positivity : (0 : ℝ) < 1 / 2 * 2 ^ q)]
    linarith
  rcases hcases with ⟨hover, hres⟩ | ⟨⟨z, hz, hzu⟩, hflags⟩
  · exact .inl ⟨hE.largest_lt hover hdist, hres⟩
  · refine .inr ⟨⟨_, hz, ?_⟩, hflags⟩
    refine (abs_sub_le _ (σ * u) _).trans ?_
    rw [← mul_sub, abs_mul, hσ1]
    linarith

/-- Where `v · 2^q` is within `e` units of a value `y` that is not zero, and these are at most 2^−30 ulp, `near2ulp` gives a result
within 2 ulp of `y`, inexactly (R156). -/
theorem within_near2ulp (x : W32) (sat : Bool) (hv : v ≠ 0) (he : 1 ≤ e) (hy0 : y ≠ 0) (hrange : -fmtF32.largest ≤ y)
    (hy : |(v : ℝ) * 2 ^ q - y| ≤ e * 2 ^ q) (herr : (e : ℝ) * 2 ^ q ≤ 2 ^ (-30 : ℤ) * fmtF32.ulp y) :
    Within2Ulp sat y (near2ulp x sat v q e) := by
  obtain ⟨E, hE⟩ := exists_ulpExp hy0
  have hq0 : (0 : ℝ) < 2 ^ q := by positivity
  have hE0 : (0 : ℝ) < 2 ^ E := by positivity
  have hE30 : (2 : ℝ) ^ (E - 30) = 2 ^ (-30 : ℤ) * 2 ^ E := by rw [← zpow_add₀ two_ne_zero]; congr 1; ring
  rw [hE.eq, ← hE30] at herr
  have hunit : (2 : ℝ) ^ q ≤ e * 2 ^ q := le_mul_of_one_le_left hq0.le (by exact_mod_cast he)
  have hq : q ≤ E - 30 := (zpow_le_zpow_iff_right₀ one_lt_two).mp (hunit.trans herr)
  rw [Within2Ulp, hE.eq, add_mul, ← hE30]
  rcases nearest_cases sat hE hv (hy.trans herr) hq with ⟨hlarge, hres⟩ | ⟨⟨z, hz, hzy⟩, hflags⟩
  · -- the nearest value overflows
    have hy2 : fmtF32.largest < y := (lt_abs.mp hlarge).resolve_right fun h => by linarith
    have hv0 : decide (v < 0) = false := by
      rw [decide_eq_false_iff_not]
      intro hc
      have hvq : (v : ℝ) * 2 ^ q < 0 := mul_neg_of_neg_of_pos (by exact_mod_cast hc) hq0
      have hpos : 0 < y := lt_trans (by rw [Fmt.largest, show fmtF32.maxM = 16777215 from rfl]; positivity) hy2
      have hlt := hE.error_lt hlarge
      rw [abs_of_pos hpos] at hlt
      have := (abs_le.mp (hy.trans herr)).1
      linarith
    rw [hv0] at hres
    rcases near2ulp_cases x sat v q e with h | ⟨h, -⟩
    · exact .inr ⟨hy2, h.trans hres⟩
    · rw [hres] at h
      exact absurd h (by simp only [Fmt.overflow]; decide)
  · left
    rcases near2ulp_cases x sat v q e with h | ⟨-, h, w, hw, hwv⟩
    · refine ⟨⟨z, h ▸ hz, ?_⟩, by rw [h]; rcases hflags with h | h <;> rw [h] <;> decide⟩
      have h30 : (2 : ℝ) ^ (E - 30) ≤ 1 / 4 * 2 ^ E := hE30.trans_le (mul_le_mul_of_nonneg_right (by norm_num) hE0.le)
      linarith
    · have hnx : ((nearest sat v q).2 ||| fNX) &&& fNX = fNX := by rcases hflags with h | h <;> rw [h] <;> decide
      refine ⟨⟨w, h ▸ hw, ?_⟩, by rw [h]; exact hnx⟩
      have hpow : (2 : ℝ) ^ testExp v q e ≤ 2 ^ E := zpow_two_le (testExp_le hE hy hq)
      refine (abs_sub_le _ ((v : ℝ) * 2 ^ q) _).trans ?_
      linarith [hy.trans herr]

end Near

end Sys2Proof.Machine.Transcendental
end

section
/-! Fixed-point arithmetic with 192 fractional bits, and 2^a by its exponential series (R156). -/

namespace Sys2Proof.Machine.Transcendental

open FloatFormat Rounding Arithmetic

/-! ### Fixed-point values -/

/-- The weight of a fixed-point value: 1 stands as 2^192. -/
noncomputable def fxOne : ℝ := 2 ^ 192

theorem fxOne_pos : 0 < fxOne := by unfold fxOne; positivity

theorem cast_fxOne : (((2 ^ fxP : Nat) : Int) : ℝ) = fxOne := by rw [fxOne, fxP]; norm_cast

theorem cast_fxOne_nat : ((2 ^ fxP : Nat) : ℝ) = fxOne := by exact_mod_cast cast_fxOne

theorem two_pow_le_fxOne : (2 : ℝ) ^ 100 ≤ fxOne := by rw [fxOne]; norm_num

theorem abs_mul_fxOne (z : ℝ) : |z| * fxOne = |z * fxOne| := by rw [abs_mul, abs_of_pos fxOne_pos]

/-- A difference of at most 2^−192 is at most a unit. -/
theorem fxOne_mul_sub_le {A B : ℝ} (h : |A - B| ≤ 1 / fxOne) : |fxOne * A - fxOne * B| ≤ 1 := by
  have hS := fxOne_pos
  rw [← mul_sub, mul_comm, ← abs_mul_fxOne]
  rwa [le_div_iff₀ hS] at h

/-- A quotient of integers is cut by less than one. -/
theorem abs_ediv_sub_le (a : Int) {b : Int} (hb : 0 < b) : |((a / b : Int) : ℝ) - a / b| ≤ 1 := by
  have hb' : (0 : ℝ) < b := by exact_mod_cast hb
  have h1 : ((a / b : Int) : ℝ) * b ≤ a := by exact_mod_cast Int.ediv_mul_le a hb.ne'
  have h2 : (a : ℝ) < ((a / b : Int) + 1) * b := by exact_mod_cast Int.lt_ediv_add_one_mul_self a hb
  rw [← le_div_iff₀ hb'] at h1
  rw [← div_lt_iff₀ hb'] at h2
  rw [abs_le]
  constructor <;> linarith

theorem abs_natDiv_sub_le (a : Nat) {b : Nat} (hb : 0 < b) : |((a / b : Nat) : ℝ) - a / b| ≤ 1 := by
  have := abs_ediv_sub_le a (b := b) (by exact_mod_cast hb)
  simpa only [← Int.natCast_ediv, Int.cast_natCast] using this

/-- A product of fixed-point values is cut by less than one unit. -/
theorem abs_fxMul_sub_le (a b : Int) : |(fxMul a b : ℝ) - a * b / fxOne| ≤ 1 := by
  have := abs_ediv_sub_le (a * b) (b := ((2 ^ fxP : Nat) : Int)) (by norm_num [fxP])
  rwa [cast_fxOne, Int.cast_mul] at this

/-- A product divided by a number is cut once. -/
theorem abs_fxMul_ediv_sub_le (a b : Int) {n : Int} (hn : 0 < n) : |((fxMul a b / n : Int) : ℝ) - a * b / fxOne / n| ≤ 1 := by
  have hS : (0 : Int) < ((2 ^ fxP : Nat) : Int) := by norm_num [fxP]
  have := abs_ediv_sub_le (a * b) (mul_pos hS hn)
  rwa [← Int.ediv_ediv_of_nonneg hS.le, Int.cast_mul, Int.cast_mul, cast_fxOne, ← div_div] at this

/-! ### The exponential series -/

/-- Each term of `fxExp` is within 4 units of the exact one, where the first is. -/
theorem fxExp_error {x : Int} {X : ℝ} (hx : (x : ℝ) = X * fxOne) (h0 : 0 ≤ X) (h1 : X ≤ 3 / 4) (k i : Nat) (t : Int)
    (ht : |(t : ℝ) - fxOne * (X ^ i / i.factorial)| ≤ 4) :
    |(fxExp x k i t : ℝ) - fxOne * ∑ j ∈ Finset.range k, X ^ (i + j) / (i + j).factorial| ≤ 4 * k := by
  induction k generalizing i t with
  | zero => simp [fxExp]
  | succ k ih =>
    have hS := fxOne_pos
    have hnext : |((fxMul t x / ((i : Int) + 1) : Int) : ℝ) - fxOne * (X ^ (i + 1) / (i + 1).factorial)| ≤ 4 := by
      have hcut := abs_fxMul_ediv_sub_le t x (n := (i : Int) + 1) (by omega)
      have hterm : fxOne * (X ^ (i + 1) / (i + 1).factorial) = fxOne * (X ^ i / i.factorial) * X / (i + 1) := by
        rw [Nat.factorial_succ, pow_succ]; push_cast; field_simp
      have hquot : (t : ℝ) * x / fxOne / ((i : Int) + 1 : Int) = t * X / (i + 1) := by
        rw [hx]; push_cast; field_simp
      rw [hquot] at hcut
      rw [hterm]
      refine (abs_sub_le _ (t * X / (i + 1)) _).trans ?_
      rw [← sub_div, ← sub_mul, abs_div, abs_mul, abs_of_nonneg h0, abs_of_nonneg (by positivity : (0 : ℝ) ≤ i + 1)]
      have hle : |(t : ℝ) - fxOne * (X ^ i / i.factorial)| * X / (i + 1) ≤ 4 * (3 / 4) := by
        refine (div_le_self (by positivity) (by linarith [(Nat.cast_nonneg i : (0 : ℝ) ≤ i)])).trans ?_
        exact mul_le_mul ht h1 h0 (by norm_num)
      linarith
    have hrest := ih (i + 1) _ hnext
    rw [Finset.sum_range_succ', mul_add, fxExp]
    have hidx : ∑ j ∈ Finset.range k, X ^ (i + (j + 1)) / (i + (j + 1)).factorial =
        ∑ j ∈ Finset.range k, X ^ (i + 1 + j) / (i + 1 + j).factorial :=
      Finset.sum_congr rfl fun j _ => by rw [show i + (j + 1) = i + 1 + j by omega]
    rw [hidx, Nat.add_zero i, Int.cast_add, add_comm (fxOne * _), add_sub_add_comm, Nat.cast_succ]
    refine (abs_add_le _ _).trans ?_
    linarith

/-- `fxExp` gives e^X within 241 units. -/
theorem fxExp_near_exp {x : Int} {X : ℝ} (hx : (x : ℝ) = X * fxOne) (h0 : 0 ≤ X) (h1 : X ≤ 3 / 4) :
    |(fxExp x 60 0 ((2 ^ fxP : Nat) : Int) : ℝ) - fxOne * Real.exp X| ≤ 241 := by
  have hsum := fxExp_error hx h0 h1 60 0 ((2 ^ fxP : Nat) : Int) (by rw [cast_fxOne]; simp)
  simp only [Nat.zero_add] at hsum
  have htail := Real.exp_bound (x := X) (by rw [abs_of_nonneg h0]; linarith) (n := 60) (by norm_num)
  have hsmall : |X| ^ 60 * ((60 : Nat).succ / ((60 : Nat).factorial * (60 : Nat))) ≤ 1 / fxOne := by
    have : |X| ^ 60 ≤ 1 := pow_le_one₀ (abs_nonneg _) (by rw [abs_of_nonneg h0]; linarith)
    refine (mul_le_of_le_one_left (by positivity) this).trans ?_
    rw [fxOne]
    norm_num [Nat.factorial]
  rw [abs_sub_comm] at htail
  refine (abs_sub_le _ _ _).trans ((add_le_add hsum (fxOne_mul_sub_le (htail.trans hsmall))).trans ?_)
  norm_num

/-! ### ln 2 -/

/-- `fxLn2` loses at most a unit for each term of the series. -/
theorem fxLn2_error (K : Nat) : |(fxLn2 K : ℝ) - fxOne * ∑ i ∈ Finset.range K, (1 / 2 : ℝ) ^ (i + 1) / (i + 1)| ≤ K := by
  induction K with
  | zero => simp [fxLn2]
  | succ K ih =>
    have hcut := abs_natDiv_sub_le (2 ^ fxP) (b := (K + 1) * 2 ^ (K + 1)) (by positivity)
    have hterm : fxOne * ((1 / 2 : ℝ) ^ (K + 1) / (K + 1)) = ((2 ^ fxP : Nat) : ℝ) / (((K + 1) * 2 ^ (K + 1) : Nat) : ℝ) := by
      rw [cast_fxOne_nat, one_div, inv_pow]; push_cast; field_simp
    rw [Finset.sum_range_succ, mul_add, hterm, fxLn2, Int.cast_add, Int.cast_natCast, add_comm (fxOne * _), add_sub_add_comm,
      Nat.cast_succ]
    refine (abs_add_le _ _).trans ?_
    linarith

/-- `fxLn2 200` is ln 2 within 201 units. -/
theorem fxLn2_near : |(fxLn2 200 : ℝ) - fxOne * Real.log 2| ≤ 201 := by
  have htail := Real.abs_log_sub_add_sum_range_le (x := 1 / 2) (by norm_num [abs_of_pos]) 200
  rw [show (1 : ℝ) - 1 / 2 = 2⁻¹ by norm_num, Real.log_inv, ← sub_eq_add_neg] at htail
  have hsmall : |(1 / 2 : ℝ)| ^ (200 + 1) / (1 - |1 / 2|) ≤ 1 / fxOne := by
    rw [fxOne, abs_of_pos (by norm_num : (0 : ℝ) < 1 / 2)]; norm_num
  refine (abs_sub_le _ _ _).trans ((add_le_add (fxLn2_error 200) (fxOne_mul_sub_le (htail.trans hsmall))).trans ?_)
  norm_num

/-! ### Powers of two with a fraction -/

section Fraction
variable {f : Int}

/-- The exponent of a fraction `f` of a power of two, f · ln 2, within 202 units. -/
theorem fxMul_ln2_near (h0 : 0 ≤ f) (h1 : (f : ℝ) ≤ fxOne) :
    0 ≤ fxMul f (fxLn2 200) ∧ |(fxMul f (fxLn2 200) : ℝ) - f / fxOne * Real.log 2 * fxOne| ≤ 202 := by
  have hS := fxOne_pos
  have hln := fxLn2_near
  have hL0 : 0 ≤ (fxLn2 200 : ℝ) := by
    have := (abs_le.mp hln).1
    have := Real.log_two_gt_d9
    have := two_pow_le_fxOne
    nlinarith
  have hf0 : 0 ≤ (f : ℝ) / fxOne := div_nonneg (by exact_mod_cast h0) hS.le
  refine ⟨Int.ediv_nonneg (mul_nonneg h0 (by exact_mod_cast hL0)) (by positivity), ?_⟩
  have hcut := abs_fxMul_sub_le f (fxLn2 200)
  rw [mul_div_right_comm] at hcut
  have hmul : |(f : ℝ) / fxOne * fxLn2 200 - f / fxOne * (fxOne * Real.log 2)| ≤ 201 := by
    rw [← mul_sub, abs_mul, abs_of_nonneg hf0]
    exact (mul_le_of_le_one_left (abs_nonneg _) (div_le_one_of_le₀ h1 hS.le)).trans hln
  rw [show (f : ℝ) / fxOne * Real.log 2 * fxOne = f / fxOne * (fxOne * Real.log 2) by ring]
  refine (abs_sub_le _ _ _).trans ((add_le_add hcut hmul).trans ?_)
  norm_num

/-- Near 0 the exponential departs from 1 hardly more than its argument from 0. -/
theorem abs_exp_sub_one_le_of_small {d : ℝ} (hd : |d| ≤ 1 / 100) : |Real.exp d - 1| ≤ |d| * (1 + 1 / 100) := by
  have hone := Real.abs_exp_sub_one_sub_id_le (x := d) (by linarith)
  calc |Real.exp d - 1| = |(Real.exp d - 1 - d) + d| := by ring_nf
    _ ≤ d ^ 2 + |d| := (abs_add_le _ _).trans (by linarith)
    _ = |d| * (|d| + 1) := by rw [← sq_abs]; ring
    _ ≤ |d| * (1 + 1 / 100) := mul_le_mul_of_nonneg_left (by linarith) (abs_nonneg _)

/-- Exponents that differ by 202 units give powers of at most 2 that differ by at most 409 units. -/
theorem exp_near_pow {X φ : ℝ} (hφ : φ ≤ 1) (hd : |X - φ * Real.log 2| * fxOne ≤ 202) :
    |fxOne * Real.exp X - fxOne * 2 ^ φ| ≤ 409 := by
  have hS := fxOne_pos
  have hpow : (2 : ℝ) ^ φ ≤ 2 := (Real.rpow_le_rpow_of_exponent_le one_le_two hφ).trans_eq (Real.rpow_one 2)
  obtain ⟨d, rfl⟩ : ∃ d, X = φ * Real.log 2 + d := ⟨X - φ * Real.log 2, by ring⟩
  rw [add_sub_cancel_left] at hd
  have hsmall : |d| ≤ 1 / 100 := by
    by_contra hc
    have := mul_le_mul (not_le.mp hc).le two_pow_le_fxOne (by positivity) (abs_nonneg _)
    linarith
  have hfac : fxOne * Real.exp (φ * Real.log 2 + d) - fxOne * 2 ^ φ = 2 ^ φ * ((Real.exp d - 1) * fxOne) := by
    rw [Real.rpow_def_of_pos two_pos, Real.exp_add, mul_comm (Real.log 2)]; ring
  rw [hfac, abs_mul, abs_of_pos (by positivity : (0 : ℝ) < 2 ^ φ), ← abs_mul_fxOne]
  calc 2 ^ φ * (|Real.exp d - 1| * fxOne) ≤ 2 * (|d| * (1 + 1 / 100) * fxOne) :=
        mul_le_mul hpow (mul_le_mul_of_nonneg_right (abs_exp_sub_one_le_of_small hsmall) hS.le)
          (mul_nonneg (abs_nonneg _) hS.le) zero_le_two
    _ = 2 * (1 + 1 / 100) * (|d| * fxOne) := by ring
    _ ≤ 2 * (1 + 1 / 100) * 202 := mul_le_mul_of_nonneg_left hd (by norm_num)
    _ ≤ 409 := by norm_num

/-- The series for a fraction `f` gives 2^f within 1024 units. -/
theorem fxExp_near_pow (h0 : 0 ≤ f) (h1 : (f : ℝ) ≤ fxOne) :
    |(fxExp (fxMul f (fxLn2 200)) 60 0 ((2 ^ fxP : Nat) : Int) : ℝ) - fxOne * 2 ^ ((f : ℝ) / fxOne)| ≤ 1024 := by
  have hS := fxOne_pos
  have hφ : (f : ℝ) / fxOne ≤ 1 := div_le_one_of_le₀ h1 hS.le
  obtain ⟨hx0, hx⟩ := fxMul_ln2_near h0 h1
  obtain ⟨X, hX⟩ : ∃ X : ℝ, (fxMul f (fxLn2 200) : ℝ) = X * fxOne := ⟨_, (div_mul_cancel₀ _ hS.ne').symm⟩
  have hX0 : 0 ≤ X := nonneg_of_mul_nonneg_left (hX ▸ by exact_mod_cast hx0) hS
  rw [hX, ← sub_mul, ← abs_mul_fxOne] at hx
  have hX1 : X ≤ 3 / 4 := by
    by_contra hc
    have hle : (f : ℝ) / fxOne * Real.log 2 ≤ 1 * 0.7 :=
      mul_le_mul hφ (by linarith [Real.log_two_lt_d9]) (by linarith [Real.log_two_gt_d9]) zero_le_one
    have hdist : 1 / 100 ≤ |X - f / fxOne * Real.log 2| := le_trans (by linarith) (le_abs_self _)
    have := mul_le_mul hdist two_pow_le_fxOne (by positivity) (abs_nonneg _)
    linarith
  refine (abs_sub_le _ _ _).trans ((add_le_add (fxExp_near_exp hX hX0 hX1) (exp_near_pow hφ hx)).trans ?_)
  norm_num

end Fraction

end Sys2Proof.Machine.Transcendental
end

section
/-! 2^a of a finite operand (R156): exact at the integers whose power is representable, else by the series, else out of range. -/

namespace Sys2Proof.Machine.Transcendental

open FloatFormat Rounding Arithmetic

/-! ### Bounds on what 2^−30 ulp is -/

section Error
variable {y : ℝ}

theorem error_le_subnormal (hy : y ≠ 0) : (2 : ℝ) ^ (-179 : ℤ) ≤ 2 ^ (-30 : ℤ) * fmtF32.ulp y := by
  obtain ⟨E, hE⟩ := exists_ulpExp hy
  rw [hE.eq, ← zpow_add₀ two_ne_zero]
  exact zpow_two_le (by have := hE.qmin_le; omega)

theorem error_le_of_le {l : Int} (hl : 2 ^ l ≤ |y|) : (2 : ℝ) ^ (l - 53) ≤ 2 ^ (-30 : ℤ) * fmtF32.ulp y := by
  have hy : y ≠ 0 := abs_pos.mp (lt_of_lt_of_le (by positivity) hl)
  obtain ⟨E, hE⟩ := exists_ulpExp hy
  rw [hE.eq, ← zpow_add₀ two_ne_zero]
  exact zpow_two_le (by have := hE.le_of_le hl; omega)

end Error

/-! ### The range of the format -/

/-- A finite magnitude of the format: at most 24 bits at an exponent from −149 to 104. -/
theorem f32_range {x : Nat} (hx : x < 2 ^ 32) {n : Bool} {m : Nat} {q : Int} (hval : fmtF32.val x = .fin n m q) :
    m < 2 ^ 24 ∧ -149 ≤ q ∧ q ≤ 104 := by
  obtain ⟨hcan, -⟩ := canonical_of_val shapeF32 (x := x) hx hval
  exact ⟨hcan.lt, hcan.qmin_le, hcan.le_maxQ⟩

theorem real_nonneg (m : Nat) (q : Int) : (FV.fin false m q).real = m * 2 ^ q := by
  rw [real_fin, if_neg Bool.false_ne_true, one_mul]

theorem real_neg (m : Nat) (q : Int) : (FV.fin true m q).real = -(m * 2 ^ q) := by rw [real_fin, if_pos rfl, neg_one_mul]

theorem largest_lt_two_pow : fmtF32.largest < 2 ^ (128 : Int) := mul_zpow_lt (canonical_max shapeF32).lt

theorem neg_largest_le {y : ℝ} (hy : -(2 : ℝ) ^ (127 : Int) ≤ y) : -fmtF32.largest ≤ y := by
  refine le_trans (neg_le_neg ?_) hy
  rw [Fmt.largest, show fmtF32.maxQ = 104 from rfl, show fmtF32.maxM = 16777215 from rfl]
  norm_num

/-! ### The results -/

/-- The result for 2^k is that value, exactly. -/
theorem round_two_pow {k : Int} (h0 : -149 ≤ k) (h1 : k ≤ 127) (sat : Bool) :
    fmtF32.Finite (fmtF32.round 0 sat false 1 k false).1 ((2 : ℝ) ^ k) ∧ (fmtF32.round 0 sat false 1 k false).2 = 0 := by
  obtain ⟨d, hd⟩ : ∃ d, d = min 23 (k + 149).toNat := ⟨_, rfl⟩
  have hcan : Canonical fmtF32 (2 ^ d) (k - d) := by
    have hM : fmtF32.maxM = 16777215 := rfl
    have hQ : fmtF32.maxQ = 104 := rfl
    have hf : fmtF32.f = 23 := rfl
    have hq : fmtF32.qmin = -149 := rfl
    have hpow : 2 ^ d ≤ 2 ^ 23 := Nat.pow_le_pow_right two_pos (by omega)
    refine ⟨?_, by omega, ?_, by omega, fun _ => by omega⟩
    · rw [hf]; omega
    · rw [hf, hq]
      rcases le_total 23 (k + 149).toNat with h | h
      · right; rw [hd, min_eq_left h]
      · left; omega
  have hfin := finite_encodeFin (n := false) shapeF32 hcan
  have hreal : (FV.fin false (2 ^ d) (k - d)).real = 2 ^ k := by
    rw [real_nonneg]
    push_cast
    rw [← zpow_natCast, ← zpow_add₀ two_ne_zero, add_sub_cancel]
  rw [hreal] at hfin
  have hround := rounded_exact (m := 1) (q := k) shapeF32 (by omega : 0 < 4) sat false one_ne_zero
  rw [real_nonneg, Nat.cast_one, one_mul] at hround
  rw [rounded_eq_of_finite shapeF32 (by omega) hround hfin (by positivity)]
  exact ⟨hfin, rfl⟩

/-- 2^k with k > 127 overflows. -/
theorem round_two_pow_overflow {k : Int} (hk : 127 < k) (sat : Bool) :
    fmtF32.round 0 sat false 1 k false = fmtF32.overflow 0 sat false := by
  have hstep : fmtF32.maxQ < stepExp fmtF32 1 k := by
    have h1 : unitExp fmtF32 1 k = k - 23 := by
      rw [unitExp, show fmtF32.f = 23 from rfl, show Nat.log2 1 = 0 by decide]; push_cast; ring
    rw [stepExp, h1, show fmtF32.maxQ = 104 from rfl, show fmtF32.qmin = -149 from rfl]
    split <;> omega
  rw [Fmt.round, if_neg one_ne_zero, roundNZ_eq]
  exact if_pos (.inl hstep)

/-- The largest finite value lies below 2^a for a ≥ 128. -/
theorem largest_lt_rpow {a : ℝ} (ha : 128 ≤ a) : fmtF32.largest < 2 ^ a := by
  refine largest_lt_two_pow.trans_le ?_
  calc (2 : ℝ) ^ (128 : Int) = 2 ^ (128 : ℝ) := by norm_num
    _ ≤ 2 ^ a := Real.rpow_le_rpow_of_exponent_le one_le_two ha

section Exponential
variable {n : Bool} {m : Nat} {q : Int}

/-- The magnitude of the operand of `vfex2` as a fixed-point value, and the operand itself. -/
def exMag (m : Nat) (q : Int) : Int :=
  if 0 ≤ q then ((m * 2 ^ (q.toNat + fxP) : Nat) : Int) else ((m * 2 ^ fxP / 2 ^ (-q).toNat : Nat) : Int)

def exArg (n : Bool) (m : Nat) (q : Int) : Int := if n then -exMag m q else exMag m q

theorem exMag_real (hq : -149 ≤ q) : (exMag m q : ℝ) = m * 2 ^ q * fxOne := by
  rw [exMag]
  split
  · next h =>
    push_cast
    rw [pow_add, ← zpow_natCast, Int.toNat_of_nonneg h, fxOne, fxP, mul_assoc]
  · next h =>
    have hsplit : m * 2 ^ fxP / 2 ^ (-q).toNat = m * 2 ^ (fxP - (-q).toNat) := by
      rw [show fxP = fxP - (-q).toNat + (-q).toNat by rw [fxP]; omega, pow_add, ← Nat.mul_assoc,
        Nat.mul_div_cancel _ (Nat.two_pow_pos _), Nat.add_sub_cancel]
    rw [hsplit]
    push_cast
    rw [← zpow_natCast, Nat.cast_sub (by rw [fxP]; omega), Int.toNat_of_nonneg (by omega), sub_neg_eq_add, zpow_add₀ two_ne_zero,
      zpow_natCast, fxOne, fxP]
    ring

theorem exArg_real (hq : -149 ≤ q) : (exArg n m q : ℝ) = (FV.fin n m q).real * fxOne := by
  rw [exArg, real_fin, mul_assoc, ← exMag_real hq]
  cases n <;> simp

/-- `vfex2` of a finite value that is not zero: far from 0, at an integer in range, and elsewhere. -/
theorem fEx2_of_fin {x : Nat} (hval : fmtF32.val x = .fin n m q) (hm : m ≠ 0) (sat : Bool) :
    fEx2 sat x =
      let k := exArg n m q / ((2 ^ fxP : Nat) : Int)
      let f := exArg n m q % ((2 ^ fxP : Nat) : Int)
      if (10 : Int) ≤ q + Nat.log2 m then (if n then near2ulp (Config.ex2 (BitVec.ofNat 32 x)) sat 1 (-1000) 1 else fmtF32.overflow 0 sat false)
      else if f = 0 ∧ (cutAt 1 n m q 0 false).2 = false ∧ -149 ≤ k then fmtF32.round 0 sat false 1 k false
      else near2ulp (Config.ex2 (BitVec.ofNat 32 x)) sat (fxExp (fxMul f (fxLn2 200)) 60 0 ((2 ^ fxP : Nat) : Int)) (k - fxP) 1024 := by
  have hval' : (fmtOf 1).val x = .fin n m q := hval
  simp only [fEx2, hval', if_neg hm]
  rfl

theorem real_eq_exArg (hq : -149 ≤ q) : (FV.fin n m q).real =
    ((exArg n m q / ((2 ^ fxP : Nat) : Int) : Int) : ℝ) + ((exArg n m q % ((2 ^ fxP : Nat) : Int) : Int) : ℝ) / fxOne := by
  have h : ((((2 ^ fxP : Nat) : Int) : ℝ)) * ((exArg n m q / ((2 ^ fxP : Nat) : Int) : Int) : ℝ) +
      ((exArg n m q % ((2 ^ fxP : Nat) : Int) : Int) : ℝ) = exArg n m q := by
    exact_mod_cast Int.mul_ediv_add_emod (exArg n m q) ((2 ^ fxP : Nat) : Int)
  rw [cast_fxOne, exArg_real hq] at h
  have hS := fxOne_pos
  field_simp
  linarith

/-- The fraction of the operand is 0 exactly at the integers, which are then cut without a loss. -/
theorem exArg_of_int (hq : -149 ≤ q) {k : Int} (hk : (FV.fin n m q).real = k) :
    exArg n m q % ((2 ^ fxP : Nat) : Int) = 0 ∧ (cutAt 1 n m q 0 false).2 = false ∧ exArg n m q / ((2 ^ fxP : Nat) : Int) = k := by
  have hS : (0 : Int) < ((2 ^ fxP : Nat) : Int) := by norm_num [fxP]
  have harg : exArg n m q = k * ((2 ^ fxP : Nat) : Int) := by
    have h := exArg_real (n := n) (m := m) hq
    rw [hk, ← cast_fxOne] at h
    exact_mod_cast h
  refine ⟨by rw [harg, Int.mul_emod_left], ?_, by rw [harg, Int.mul_ediv_cancel _ hS.ne']⟩
  obtain ⟨hint, hexact⟩ := roundInt_spec (by omega : 1 < 4) n m q
  have h2 : (roundInt 1 n m q).2 = (cutAt 1 n m q 0 false).2 := rfl
  rw [← h2, hexact, hk]
  rw [hk] at hint
  obtain ⟨hpos, hneg⟩ := hint.2.1 rfl
  rcases le_or_gt 0 (k : ℝ) with h | h
  · rw [hpos h, Int.floor_intCast]
  · rw [hneg h, Int.ceil_intCast]

/-- 2^a for a = k + f / 2^192, where it is computed by the series. -/
theorem within_fxExp (x : W32) (sat : Bool) {a : ℝ} {k f : Int} (ha : a = k + f / fxOne) (h0 : 0 ≤ f) (h1 : (f : ℝ) ≤ fxOne) :
    Within2Ulp sat ((2 : ℝ) ^ a)
      (near2ulp x sat (fxExp (fxMul f (fxLn2 200)) 60 0 ((2 ^ fxP : Nat) : Int)) (k - fxP) 1024) := by
  have hS := fxOne_pos
  have hnear := fxExp_near_pow h0 h1
  have hone : (1 : ℝ) ≤ 2 ^ ((f : ℝ) / fxOne) := Real.one_le_rpow one_le_two (by positivity)
  generalize hv : fxExp (fxMul f (fxLn2 200)) 60 0 ((2 ^ fxP : Nat) : Int) = v at hnear ⊢
  have hq : (2 : ℝ) ^ (k - (fxP : Int)) = 2 ^ k / fxOne := by rw [zpow_sub₀ two_ne_zero, zpow_natCast, fxOne, fxP]
  have hy : (2 : ℝ) ^ a = 2 ^ k * 2 ^ ((f : ℝ) / fxOne) := by rw [ha, Real.rpow_add two_pos, Real.rpow_intCast]
  have hk : (0 : ℝ) < 2 ^ k := by positivity
  have hle : (2 : ℝ) ^ k ≤ |(2 : ℝ) ^ a| := by
    rw [abs_of_pos (by positivity), hy]; exact le_mul_of_one_le_right hk.le hone
  have hSbig := two_pow_le_fxOne
  refine within_near2ulp x sat ?_ (by norm_num) (by positivity) ?_ ?_ ?_
  · rintro rfl
    have := (abs_le.mp hnear).1
    rw [Int.cast_zero] at this
    nlinarith
  · exact neg_largest_le (by have : (0 : ℝ) < 2 ^ a := by positivity
                             have : (0 : ℝ) < 2 ^ (127 : Int) := by positivity
                             linarith)
  · have hsplit : (v : ℝ) * 2 ^ (k - (fxP : Int)) - 2 ^ a = (v - fxOne * 2 ^ ((f : ℝ) / fxOne)) * 2 ^ (k - (fxP : Int)) := by
      rw [hq, hy]; field_simp
    rw [hsplit, abs_mul, abs_of_pos (by positivity : (0 : ℝ) < 2 ^ (k - (fxP : Int)))]
    exact mul_le_mul_of_nonneg_right (by exact_mod_cast hnear) (by positivity)
  · refine le_trans ?_ (error_le_of_le hle)
    rw [show ((1024 : Nat) : ℝ) = 2 ^ (10 : Int) by norm_num, ← zpow_add₀ two_ne_zero]
    exact zpow_two_le (by rw [fxP]; omega)

/-- 2^a for a ≤ −1024 is far below the subnormals. -/
theorem within_tiny (x : W32) (sat : Bool) {a : ℝ} (ha : a ≤ -1024) : Within2Ulp sat ((2 : ℝ) ^ a) (near2ulp x sat 1 (-1000) 1) := by
  have hpos : (0 : ℝ) < 2 ^ a := by positivity
  have hle : (2 : ℝ) ^ a ≤ 2 ^ (-1000 : Int) := by
    rw [← Real.rpow_intCast]
    exact Real.rpow_le_rpow_of_exponent_le one_le_two (by push_cast; linarith)
  refine within_near2ulp x sat one_ne_zero le_rfl hpos.ne' ?_ ?_ ?_
  · exact neg_largest_le (by have : (0 : ℝ) < 2 ^ (127 : Int) := by positivity
                             linarith)
  · rw [Int.cast_one, Nat.cast_one, one_mul, abs_le]
    constructor <;> linarith
  · rw [Nat.cast_one, one_mul]
    exact (zpow_two_le (by norm_num)).trans (error_le_subnormal hpos.ne')

/-- 2^0 is 1, exactly. -/
theorem fEx2_zero {x : Nat} (hval : fmtF32.val x = .fin n 0 q) (sat : Bool) :
    fmtF32.Finite (fEx2 sat x).1 ((2 : ℝ) ^ (0 : ℤ)) ∧ (fEx2 sat x).2 = 0 := by
  have hval' : (fmtOf 1).val x = .fin n 0 q := hval
  have hr : fEx2 sat x = (0x3F800000, 0) := by
    simp only [fEx2, hval']
    rfl
  rw [hr]
  refine ⟨⟨by decide, false, 2 ^ 23, -23, by decide, ?_⟩, rfl⟩
  rw [real_nonneg]; norm_num

/-- Beyond ± 1024 the result is far below the subnormals, or overflows. -/
theorem within_far (x : W32) (sat : Bool) (h : (1024 : ℝ) ≤ |(FV.fin n m q).real|) :
    Within2Ulp sat ((2 : ℝ) ^ (FV.fin n m q).real) (if n then near2ulp x sat 1 (-1000) 1 else fmtF32.overflow 0 sat false) := by
  have hpos : (0 : ℝ) ≤ m * 2 ^ q := by positivity
  cases n with
  | true =>
    rw [real_neg, abs_neg, abs_of_nonneg hpos] at h
    rw [if_pos rfl, real_neg]
    exact within_tiny x sat (by linarith)
  | false =>
    rw [real_nonneg, abs_of_nonneg hpos] at h
    rw [if_neg Bool.false_ne_true, real_nonneg]
    exact .inr ⟨largest_lt_rpow (by linarith), rfl⟩

/-- `vfex2` of a finite operand: exact at the integers in range, elsewhere within 2 ulp of 2^a (R156). -/
theorem fEx2_spec {x : Nat} (hx : x < 2 ^ 32) (hval : fmtF32.val x = .fin n m q) (sat : Bool) :
    let a := (FV.fin n m q).real
    (∀ k : ℤ, a = k → -149 ≤ k → k ≤ 127 → fmtF32.Finite (fEx2 sat x).1 ((2 : ℝ) ^ k) ∧ (fEx2 sat x).2 = 0) ∧
      ((∀ k : ℤ, a = k → k < -149 ∨ 127 < k) → Within2Ulp sat ((2 : ℝ) ^ a) (fEx2 sat x)) := by
  intro a
  obtain ⟨-, hqmin, -⟩ := f32_range hx hval
  by_cases hm : m = 0
  · have ha : a = (0 : ℤ) := by rw [Int.cast_zero]; exact real_eq_zero.mpr hm
    refine ⟨fun k hk _ _ => ?_, fun h => absurd (h 0 ha) (by omega)⟩
    obtain rfl : k = 0 := by exact_mod_cast hk.symm.trans ha
    exact fEx2_zero (hm ▸ hval) sat
  have hsum : a = _ := real_eq_exArg (n := n) (m := m) hqmin
  have hint := fun k => exArg_of_int (n := n) (m := m) (k := k) hqmin
  have hS : (0 : Int) < ((2 ^ fxP : Nat) : Int) := by norm_num [fxP]
  have hf0 := Int.emod_nonneg (exArg n m q) hS.ne'
  have hf1 := Int.emod_lt_of_pos (exArg n m q) hS
  rw [fEx2_of_fin hval hm]
  simp only
  generalize exArg n m q / ((2 ^ fxP : Nat) : Int) = K at *
  generalize exArg n m q % ((2 ^ fxP : Nat) : Int) = f at *
  by_cases hfar : (10 : Int) ≤ q + Nat.log2 m
  · rw [if_pos hfar]
    have hbig : (1024 : ℝ) ≤ |a| := by
      rw [show a = (FV.fin n m q).real from rfl, real_fin, abs_signed (by positivity), show (1024 : ℝ) = 2 ^ (10 : Int) by norm_num]
      exact (zpow_two_le (by omega)).trans (le_mul_zpow (Nat.log2_self_le hm))
    refine ⟨fun k hk h0 h1 => absurd hbig (not_le.mpr ?_), fun _ => within_far _ sat hbig⟩
    rw [hk, ← Int.cast_abs]
    have : |k| < 1024 := abs_lt.mpr ⟨by omega, by omega⟩
    exact_mod_cast this
  · rw [if_neg hfar]
    by_cases hexact : f = 0 ∧ (cutAt 1 n m q 0 false).2 = false ∧ -149 ≤ K
    · rw [if_pos hexact]
      obtain ⟨hf, -, hK⟩ := hexact
      have ha : a = K := by rw [hsum, hf]; simp
      refine ⟨fun k hk h0 h1 => ?_, fun h => ?_⟩
      · obtain rfl : k = K := by exact_mod_cast hk.symm.trans ha
        exact round_two_pow h0 h1 sat
      · have hlarge : 127 < K := (h K ha).resolve_left (by omega)
        refine .inr ⟨largest_lt_rpow ?_, round_two_pow_overflow hlarge sat⟩
        rw [ha]
        exact_mod_cast hlarge
    · rw [if_neg hexact]
      refine ⟨fun k hk h0 h1 => ?_, fun _ => ?_⟩
      · obtain ⟨h2, h3, h4⟩ := hint k hk
        exact absurd ⟨h2, h3, by omega⟩ hexact
      · refine within_fxExp _ sat hsum hf0 ?_
        rw [← cast_fxOne]
        exact_mod_cast hf1.le

end Exponential

end Sys2Proof.Machine.Transcendental
end

section
/-! The binary logarithm by repeated squaring (R156). -/

namespace Sys2Proof.Machine.Transcendental

open FloatFormat Rounding Arithmetic

/-! ### Bits of a logarithm -/

/-- Cutting a number of at least 2^192 to an integer lowers its logarithm by at most 2 / 2^192. -/
theorem logb_cut {w : ℝ} {n : Nat} (hn : (n : ℝ) ≤ w) (hw : w < n + 1) (h : fxOne ≤ n) :
    Real.logb 2 n ≤ Real.logb 2 w ∧ Real.logb 2 w ≤ Real.logb 2 n + 2 / fxOne := by
  have hS := fxOne_pos
  have hn0 : (0 : ℝ) < n := hS.trans_le h
  have hw0 : 0 < w := hn0.trans_le hn
  refine ⟨(Real.logb_le_logb one_lt_two hn0 hw0).mpr hn, ?_⟩
  have hratio : Real.logb 2 w = Real.logb 2 n + Real.logb 2 (w / n) := by
    rw [← Real.logb_mul hn0.ne' (by positivity), mul_div_cancel₀ _ hn0.ne']
  have hlog : Real.log (w / n) ≤ 1 / fxOne := by
    refine (Real.log_le_sub_one_of_pos (by positivity)).trans ?_
    rw [div_sub_one hn0.ne', div_le_div_iff₀ hn0 hS]
    nlinarith
  have hl2 := Real.log_two_gt_d9
  rw [hratio]
  refine add_le_add le_rfl ?_
  rw [Real.logb, div_le_iff₀ (by linarith)]
  refine hlog.trans ?_
  rw [div_mul_eq_mul_div, div_le_div_iff_of_pos_right hS]
  linarith

/-- One squaring doubles the logarithm; a halving takes the bit `b` from it. -/
theorem logb_square {y y' b : Nat} (hy : fxOne ≤ y) (hy' : fxOne ≤ y') (hle : (y' : ℝ) ≤ y * y / fxOne / 2 ^ b)
    (hlt : (y : ℝ) * y / fxOne / 2 ^ b < y' + 1) :
    Real.logb 2 (y' / fxOne) + b ≤ 2 * Real.logb 2 (y / fxOne) ∧
      2 * Real.logb 2 (y / fxOne) ≤ Real.logb 2 (y' / fxOne) + b + 2 / fxOne := by
  have hS := fxOne_pos
  have hy0 : (y : ℝ) ≠ 0 := (hS.trans_le hy).ne'
  have hy0' : (y' : ℝ) ≠ 0 := (hS.trans_le hy').ne'
  obtain ⟨h1, h2⟩ := logb_cut hle hlt hy'
  have hw : Real.logb 2 (y * y / fxOne / 2 ^ b) = 2 * Real.logb 2 y - Real.logb 2 fxOne - b := by
    rw [Real.logb_div (by positivity) (by positivity), Real.logb_div (by positivity) hS.ne', Real.logb_mul hy0 hy0, Real.logb_pow,
      Real.logb_self_eq_one one_lt_two]
    ring
  rw [hw] at h1 h2
  rw [Real.logb_div hy0 hS.ne', Real.logb_div hy0' hS.ne']
  constructor <;> linarith

theorem natDiv_bounds (a b : Nat) : ((a / b : Nat) : ℝ) ≤ a / b ∧ (a : ℝ) / b < ((a / b : Nat) : ℝ) + 1 :=
  ⟨Nat.cast_div_le, by rw [← Nat.floor_div_eq_div (K := ℝ)]; exact Nat.lt_floor_add_one _⟩

/-- `R` holds the bits of `acc` and `k` more, those of the logarithm `L`. -/
def HasLogBits (R k acc : Nat) (L : ℝ) : Prop :=
  (R : ℝ) ≤ 2 ^ k * (acc + L) ∧ 2 ^ k * (acc + L) ≤ R + (1 + 2 ^ k * (2 / fxOne))

/-- One more bit in front. -/
theorem HasLogBits.step {R k acc b : Nat} {L L' : ℝ} (h : HasLogBits R k (2 * acc + b) L') (hlow : L' + b ≤ 2 * L)
    (hhigh : 2 * L ≤ L' + b + 2 / fxOne) : HasLogBits R (k + 1) acc L := by
  obtain ⟨i1, i2⟩ := h
  have hk : (0 : ℝ) < 2 ^ k := by positivity
  have m1 := mul_le_mul_of_nonneg_left hlow hk.le
  have m2 := mul_le_mul_of_nonneg_left hhigh hk.le
  push_cast at i1 i2
  rw [HasLogBits, pow_succ]
  constructor <;> linarith

theorem fxOne_le_cast {c : Nat} : fxOne ≤ (c : ℝ) ↔ 2 ^ fxP ≤ c := by rw [← cast_fxOne_nat]; exact Nat.cast_le

/-- The next mantissa of a mantissa in [1, 2), with its bit. -/
theorem exists_next_mantissa {y : Nat} (h0 : 2 ^ fxP ≤ y) (h1 : y < 2 ^ (fxP + 1)) (k acc : Nat) : ∃ y' b : Nat,
    2 ^ fxP ≤ y' ∧ y' < 2 ^ (fxP + 1) ∧ fxLog2 (k + 1) y acc = fxLog2 k y' (2 * acc + b) ∧
      (y' : ℝ) ≤ y * y / fxOne / 2 ^ b ∧ (y : ℝ) * y / fxOne / 2 ^ b < y' + 1 := by
  obtain ⟨z, hz⟩ : ∃ z, z = y * y / 2 ^ fxP := ⟨_, rfl⟩
  have hzlow : 2 ^ fxP ≤ z := by
    rw [hz, Nat.le_div_iff_mul_le (Nat.two_pow_pos _)]; exact Nat.mul_le_mul h0 h0
  have hzhigh : z < 2 ^ (fxP + 1) * 2 := by
    rw [hz, Nat.div_lt_iff_lt_mul (Nat.two_pow_pos _)]
    calc y * y < 2 ^ (fxP + 1) * 2 ^ (fxP + 1) := Nat.mul_lt_mul'' h1 h1
      _ = 2 ^ (fxP + 1) * 2 * 2 ^ fxP := by rw [Nat.mul_assoc, ← Nat.pow_succ']
  by_cases hbit : 2 ^ (fxP + 1) ≤ z
  · obtain ⟨b1, b2⟩ := natDiv_bounds (y * y) (2 ^ fxP * 2)
    rw [← Nat.div_div_eq_div_mul, ← hz, Nat.cast_mul, Nat.cast_mul, cast_fxOne_nat, Nat.cast_ofNat, ← div_div] at b1 b2
    refine ⟨z / 2, 1, ?_, by omega, by rw [fxLog2, ← hz, if_pos hbit], by rwa [pow_one], by rwa [pow_one]⟩
    rw [pow_succ] at hbit; omega
  · obtain ⟨b1, b2⟩ := natDiv_bounds (y * y) (2 ^ fxP)
    rw [← hz, Nat.cast_mul, cast_fxOne_nat] at b1 b2
    exact ⟨z, 0, hzlow, not_le.mp hbit, by rw [fxLog2, ← hz, if_neg hbit, Nat.add_zero], by rwa [pow_zero, div_one],
      by rwa [pow_zero, div_one]⟩

/-- `fxLog2` appends the bits of the logarithm of a mantissa in [1, 2) to `acc`. -/
theorem fxLog2_bits (k y acc : Nat) (h0 : 2 ^ fxP ≤ y) (h1 : y < 2 ^ (fxP + 1)) :
    HasLogBits (fxLog2 k y acc) k acc (Real.logb 2 (y / fxOne)) := by
  induction k generalizing y acc with
  | zero =>
    have hS := fxOne_pos
    have hy0 : fxOne ≤ y := fxOne_le_cast.mpr h0
    have hy1 : (y : ℝ) ≤ 2 * fxOne := by
      rw [← cast_fxOne_nat, mul_comm]; rw [pow_succ] at h1; exact_mod_cast h1.le
    have hl0 : 0 ≤ Real.logb 2 (y / fxOne) := Real.logb_nonneg one_lt_two (by rwa [le_div_iff₀ hS, one_mul])
    have hl1 : Real.logb 2 (y / fxOne) ≤ 1 := by
      rwa [Real.logb_le_iff_le_rpow one_lt_two (div_pos (hS.trans_le hy0) hS), Real.rpow_one, div_le_iff₀ hS]
    have : 0 < 2 / fxOne := by positivity
    rw [HasLogBits, fxLog2, pow_zero, one_mul, one_mul]
    constructor <;> linarith
  | succ k ih =>
    obtain ⟨y', b, hy0, hy1, hrec, hle, hlt⟩ := exists_next_mantissa h0 h1 k acc
    obtain ⟨s1, s2⟩ := logb_square (fxOne_le_cast.mpr h0) (fxOne_le_cast.mpr hy0) hle hlt
    rw [hrec]
    exact (ih y' (2 * acc + b) hy0 hy1).step s1 s2

section Logarithm
variable {n : Bool} {m : Nat} {q : Int}

/-- The logarithm of a mantissa of at most 24 bits that is no power of two keeps away from 0 and from 1. -/
theorem mantissa_log {m l : Nat} (hl : l ≤ 23) (h0 : 2 ^ l < m) (h1 : m < 2 ^ (l + 1)) :
    (2 : ℝ) ^ (-24 : Int) ≤ Real.logb 2 (m / 2 ^ l) ∧ Real.logb 2 (m / 2 ^ l) ≤ 1 - 2 ^ (-24 : Int) := by
  have hl2 := Real.log_two_gt_d9
  have hl2' := Real.log_two_lt_d9
  have hp : (0 : ℝ) < 2 ^ l := by positivity
  have hm0 : (0 : ℝ) < m := by exact_mod_cast (Nat.two_pow_pos l).trans h0
  have hlow : (2 : ℝ) ^ l + 1 ≤ m := by exact_mod_cast h0
  have hhigh : (m : ℝ) + 1 ≤ 2 * 2 ^ l := by rw [pow_succ] at h1; exact_mod_cast (by omega : m + 1 ≤ 2 * 2 ^ l)
  have hpl : (2 : ℝ) ^ l ≤ 2 ^ 23 := pow_le_pow_right₀ one_le_two hl
  have h24 : (2 : ℝ) ^ (-24 : Int) = 1 / 2 ^ 24 := by norm_num
  constructor
  · have hlog := Real.one_sub_inv_le_log_of_pos (div_pos hm0 hp)
    rw [Real.logb, le_div_iff₀ (by linarith)]
    refine le_trans ?_ hlog
    have hinv : (2 : ℝ) ^ l / m ≤ 1 - 1 / 2 ^ 24 := by rw [div_le_iff₀ hm0]; linarith
    rw [inv_div, h24]
    linarith
  · have hlog := Real.log_le_sub_one_of_pos (x := m / 2 ^ l / 2) (by positivity)
    have hhalf : Real.logb 2 (m / 2 ^ l) = 1 + Real.log (m / 2 ^ l / 2) / Real.log 2 := by
      rw [Real.log_div (by positivity) two_ne_zero, Real.logb, sub_div, div_self (by linarith)]; ring
    have hle : (m : ℝ) / 2 ^ l / 2 ≤ 1 - 1 / 2 ^ 24 := by rw [div_div, div_le_iff₀ (by positivity)]; linarith
    have hquot : Real.log (m / 2 ^ l / 2) / Real.log 2 ≤ -(1 / 2 ^ 24) := by rw [div_le_iff₀ (by linarith)]; linarith
    rw [hhalf, h24]
    linarith

/-- `vflg2` of a positive finite value: exact at the powers of two, elsewhere by the bits of the mantissa's logarithm. -/
theorem fLg2_of_fin {x : Nat} (hval : fmtF32.val x = .fin n m q) : fLg2 x =
    if m = 0 then (fmtF32.infBits true, fDZ)
    else if n then (fmtF32.nan, fNV)
    else if m = 2 ^ Nat.log2 m then fmtF32.ofInt 0 false (q + Nat.log2 m)
    else near2ulp (Config.lg2 (BitVec.ofNat 32 x)) false
      ((q + Nat.log2 m) * ((2 ^ 120 : Nat) : Int) + (fxLog2 120 (m * 2 ^ (fxP - Nat.log2 m)) 0 : Int)) (-120) 16 := by
  have hval' : (fmtOf 1).val x = .fin n m q := hval
  simp only [fLg2, hval']
  rfl

theorem logb_two_zpow (k : Int) : Real.logb 2 ((2 : ℝ) ^ k) = k := by
  rw [← Real.rpow_intCast, Real.logb_rpow two_pos (by norm_num)]

/-- The logarithm of a value is its exponent and the logarithm of its mantissa. -/
theorem logb_real (hm : m ≠ 0) : Real.logb 2 (FV.fin false m q).real =
    ((q + Nat.log2 m : Int) : ℝ) + Real.logb 2 (m / 2 ^ Nat.log2 m) := by
  have hm0 : (m : ℝ) ≠ 0 := by exact_mod_cast hm
  rw [real_nonneg, Real.logb_mul hm0 (by positivity), logb_two_zpow,
    Real.logb_div hm0 (by positivity), Real.logb_pow, Real.logb_self_eq_one one_lt_two]
  push_cast
  ring

/-- A result that is an integer of at most 24 bits is exact. -/
theorem ofInt_exact {k : Int} (hk : k.natAbs < 2 ^ 24) :
    fmtF32.Finite (fmtF32.ofInt 0 false k).1 k ∧ (fmtF32.ofInt 0 false k).2 = 0 ∧ (k = 0 → (fmtF32.ofInt 0 false k).1 = 0) := by
  by_cases h0 : k = 0
  · subst h0
    refine ⟨⟨by decide, false, 0, -149, by decide, ?_⟩, by decide, fun _ => by decide⟩
    rw [real_fin]; simp
  · obtain ⟨b, hb⟩ := exists_finite_natCast shapeF32 (decide (k < 0)) (Int.natAbs_ne_zero.mpr h0) hk
    have hval := real_of_int k 0
    rw [real_fin, zpow_zero, mul_one, mul_one] at hval
    rw [hval] at hb
    rw [rounded_eq_of_finite shapeF32 (by omega) (ofInt_spec shapeF32 (by omega) false h0) hb (by exact_mod_cast h0)]
    exact ⟨hb, rfl, fun h => absurd h h0⟩

/-- The logarithm within 2 ulp, where the operand is no power of two. -/
theorem within_fxLog2 (x : W32) {k : Int} (hk : -149 ≤ k) {l : Nat} (hl : l ≤ 23) (h0 : 2 ^ l < m) (h1 : m < 2 ^ (l + 1)) :
    Within2Ulp false (k + Real.logb 2 (m / 2 ^ l))
      (near2ulp x false (k * ((2 ^ 120 : Nat) : Int) + (fxLog2 120 (m * 2 ^ (fxP - l)) 0 : Int)) (-120) 16) := by
  have hS := fxOne_pos
  obtain ⟨L0, L1⟩ := mantissa_log hl h0 h1
  have hpow : 2 ^ fxP = 2 ^ l * 2 ^ (fxP - l) := by rw [← pow_add]; congr 1; rw [fxP]; omega
  have hmant : ((m * 2 ^ (fxP - l) : Nat) : ℝ) / fxOne = m / 2 ^ l := by
    rw [← cast_fxOne_nat, hpow]; push_cast; field_simp
  obtain ⟨e1, e2⟩ := fxLog2_bits 120 (m * 2 ^ (fxP - l)) 0 (by rw [hpow]; exact Nat.mul_le_mul_right _ h0.le)
    (by rw [pow_succ, hpow, Nat.mul_right_comm, ← pow_succ]; exact Nat.mul_lt_mul_of_pos_right h1 (Nat.two_pow_pos _))
  rw [hmant, Nat.cast_zero, zero_add] at e1 e2
  generalize fxLog2 120 (m * 2 ^ (fxP - l)) 0 = frac at e1 e2 ⊢
  generalize Real.logb 2 (m / 2 ^ l) = L at *
  have hsmall : (2 : ℝ) ^ 120 * (2 / fxOne) ≤ 1 := by rw [fxOne]; norm_num
  have hkey : (2 : ℝ) ^ (-24 : Int) ≤ |(k : ℝ) + L| := by
    rcases le_or_gt 0 k with h | h
    · have : (0 : ℝ) ≤ k := by exact_mod_cast h
      exact le_trans (by linarith) (le_abs_self _)
    · have : (k : ℝ) ≤ -1 := by exact_mod_cast (by omega : k ≤ -1)
      exact le_trans (by linarith) (neg_le_abs _)
  have hy0 : (k : ℝ) + L ≠ 0 := abs_pos.mp (lt_of_lt_of_le (by positivity) hkey)
  have hv : |((k * ((2 ^ 120 : Nat) : Int) + (frac : Int) : Int) : ℝ) - (k + L) * 2 ^ 120| ≤ 2 := by
    push_cast
    rw [abs_le]
    constructor <;> linarith
  refine within_near2ulp x false ?_ (by norm_num) hy0 ?_ ?_ ?_
  · intro hc
    rw [hc, Int.cast_zero, zero_sub, abs_neg, abs_mul, abs_of_pos (by positivity : (0 : ℝ) < 2 ^ 120)] at hv
    have := mul_le_mul_of_nonneg_right hkey (by positivity : (0 : ℝ) ≤ 2 ^ 120)
    norm_num at this hv
    linarith
  · have hk' : (-149 : ℝ) ≤ k := by exact_mod_cast hk
    have : (0 : ℝ) < 2 ^ (-24 : Int) := by positivity
    exact neg_largest_le (le_trans (by norm_num) (by linarith : (-149 : ℝ) ≤ k + L))
  · have hsplit : ∀ v : ℝ, v * 2 ^ (-120 : Int) - (k + L) = (v - (k + L) * 2 ^ 120) * 2 ^ (-120 : Int) := fun v => by
      rw [sub_mul, mul_assoc _ ((2 : ℝ) ^ 120)]; norm_num
    rw [hsplit, abs_mul, abs_of_pos (by positivity : (0 : ℝ) < 2 ^ (-120 : Int))]
    exact mul_le_mul_of_nonneg_right (hv.trans (by norm_num)) (by positivity)
  · exact le_trans (by norm_num) (error_le_of_le hkey)

/-- A value whose mantissa is no power of two is no power of two. -/
theorem real_ne_zpow (hm : m < 2 ^ 24) (hpow : 2 ^ Nat.log2 m < m) (k : Int) : (FV.fin false m q).real ≠ (2 : ℝ) ^ k := by
  intro hk
  have hm0 : m ≠ 0 := Nat.ne_zero_of_lt hpow
  obtain ⟨L0, L1⟩ := mantissa_log (Nat.lt_succ_iff.mp ((Nat.log2_lt hm0).mpr hm)) hpow (Nat.lt_log2_self (n := m))
  have hlog := logb_real (q := q) hm0
  rw [hk, logb_two_zpow] at hlog
  have hpos : (0 : ℝ) < 2 ^ (-24 : Int) := by positivity
  have h1 : ((q + Nat.log2 m : Int) : ℝ) < k := by linarith
  have h2 : (k : ℝ) < ((q + Nat.log2 m + 1 : Int) : ℝ) := by push_cast at hlog ⊢; linarith
  have h1' := Int.cast_lt.mp h1
  have h2' := Int.cast_lt.mp h2
  omega

/-- `vflg2` of a positive operand. -/
theorem fLg2_pos {x : Nat} (hx : x < 2 ^ 32) (hval : fmtF32.val x = .fin false m q) (hm : m ≠ 0) :
    let a := (FV.fin false m q).real
    (∀ k : ℤ, a = (2 : ℝ) ^ k → fmtF32.Finite (fLg2 x).1 k ∧ (fLg2 x).2 = 0 ∧ (k = 0 → (fLg2 x).1 = 0)) ∧
      ((∀ k : ℤ, a ≠ (2 : ℝ) ^ k) → Within2Ulp false (Real.logb 2 a) (fLg2 x)) := by
  intro a
  obtain ⟨hm24, hq0, hq1⟩ := f32_range hx hval
  have hl : Nat.log2 m ≤ 23 := Nat.lt_succ_iff.mp ((Nat.log2_lt hm).mpr hm24)
  rw [fLg2_of_fin hval, if_neg hm, if_neg Bool.false_ne_true]
  by_cases hpow : m = 2 ^ Nat.log2 m
  · rw [if_pos hpow]
    have hreal : a = (2 : ℝ) ^ (q + (Nat.log2 m : Int)) := by
      have : (m : ℝ) = 2 ^ Nat.log2 m := by exact_mod_cast hpow
      rw [show a = _ from real_nonneg m q, zpow_add₀ two_ne_zero, zpow_natCast, ← this, mul_comm]
    refine ⟨fun k hk => ?_, fun h => absurd hreal (h _)⟩
    obtain rfl : k = q + Nat.log2 m := zpow_right_injective₀ two_pos (by norm_num) (hk.symm.trans hreal)
    exact ofInt_exact (by omega)
  · have hgt : 2 ^ Nat.log2 m < m := lt_of_le_of_ne (Nat.log2_self_le hm) (Ne.symm hpow)
    rw [if_neg hpow]
    refine ⟨fun k hk => absurd hk (real_ne_zpow hm24 hgt k), fun _ => ?_⟩
    rw [show Real.logb 2 a = _ from logb_real hm]
    exact within_fxLog2 _ (by omega) hl hgt Nat.lt_log2_self

/-- `vflg2` of a finite operand (R156). -/
theorem fLg2_spec {x : Nat} (hx : x < 2 ^ 32) (hval : fmtF32.val x = .fin n m q) :
    let a := (FV.fin n m q).real
    (∀ k : ℤ, a = (2 : ℝ) ^ k → fmtF32.Finite (fLg2 x).1 k ∧ (fLg2 x).2 = 0 ∧ (k = 0 → (fLg2 x).1 = 0)) ∧
      (0 < a → (∀ k : ℤ, a ≠ (2 : ℝ) ^ k) → Within2Ulp false (Real.logb 2 a) (fLg2 x)) ∧
      (a = 0 → fLg2 x = (fmtF32.infBits true, fDZ)) ∧ (a < 0 → fLg2 x = (fmtF32.nan, fNV)) := by
  intro a
  have hzpow : ∀ k : Int, (0 : ℝ) < 2 ^ k := fun k => by positivity
  by_cases hm : m = 0
  · have ha : a = 0 := real_eq_zero.mpr hm
    refine ⟨fun k hk => absurd (ha.symm.trans hk) (hzpow k).ne, fun h => absurd ha h.ne', fun _ => ?_, fun h => absurd ha h.ne⟩
    rw [fLg2_of_fin hval, if_pos hm]
  have hpos : (0 : ℝ) < m * 2 ^ q := by have := Nat.pos_of_ne_zero hm; positivity
  cases n with
  | true =>
    have ha : a < 0 := by rw [show a = _ from real_neg m q]; linarith
    refine ⟨fun k hk => absurd (hzpow k) (not_lt.mpr (hk ▸ ha.le)), fun h => absurd h ha.not_gt, fun h => absurd h ha.ne, fun _ => ?_⟩
    rw [fLg2_of_fin hval, if_neg hm, if_pos rfl]
  | false =>
    have ha : 0 < a := by rw [show a = _ from real_nonneg m q]; exact hpos
    obtain ⟨hexact, hnear⟩ := fLg2_pos hx hval hm
    exact ⟨hexact, fun _ => hnear, fun h => absurd h ha.ne', fun h => absurd h ha.not_gt⟩

end Logarithm

end Sys2Proof.Machine.Transcendental
end

section
/-! π with 400 fractional bits by Machin's formula (R156). -/

namespace Sys2Proof.Machine.Transcendental

open FloatFormat Rounding Arithmetic

/-- The weight of a value with 400 fractional bits. -/
noncomputable def piOne : ℝ := 2 ^ 400

theorem piOne_pos : 0 < piOne := pow_pos two_pos _

theorem cast_piOne : ((2 ^ 400 : Nat) : ℝ) = piOne := by rw [piOne, Nat.cast_pow, Nat.cast_ofNat]

/-- The model's sum of `K` terms for arctan (1 / n), with 400 fractional bits. -/
def arctanSum (n K : Nat) : Int :=
  (List.range K).foldl (fun a i =>
    let t : Int := ((2 ^ 400 / (n ^ (2 * i + 1) * (2 * i + 1)) : Nat) : Int)
    if i % 2 = 0 then a + t else a - t) 0

theorem pi400_eq : pi400 = (16 * arctanSum 5 180 - 4 * arctanSum 239 180).toNat := rfl

/-- Each term of the sum is cut by less than a unit. -/
theorem arctanSum_error {n : Nat} (hn : 0 < n) (K : Nat) :
    |(arctanSum n K : ℝ) - piOne * ∑ i ∈ Finset.range K, (-1 : ℝ) ^ i * (1 / n : ℝ) ^ (2 * i + 1) / ((2 * i + 1 : Nat) : ℝ)| ≤ (K : ℝ) := by
  induction K with
  | zero => rw [arctanSum, List.range_zero, List.foldl_nil]; simp
  | succ K ih =>
    have hn0 : (0 : ℝ) < n := by exact_mod_cast hn
    have hcut := abs_natDiv_sub_le (2 ^ 400) (b := n ^ (2 * K + 1) * (2 * K + 1)) (by positivity)
    have hterm : piOne * ((-1) ^ K * (1 / n : ℝ) ^ (2 * K + 1) / ((2 * K + 1 : Nat) : ℝ)) =
        (-1) ^ K * (((2 ^ 400 : Nat) : ℝ) / ((n ^ (2 * K + 1) * (2 * K + 1) : Nat) : ℝ)) := by
      rw [one_div, inv_pow, cast_piOne]; push_cast; field_simp
    have hsum : (arctanSum n (K + 1) : ℝ) =
        arctanSum n K + (-1) ^ K * ((2 ^ 400 / (n ^ (2 * K + 1) * (2 * K + 1)) : Nat) : ℝ) := by
      rw [arctanSum, List.range_succ, List.foldl_append, ← arctanSum, List.foldl_cons, List.foldl_nil]
      generalize 2 ^ 400 / (n ^ (2 * K + 1) * (2 * K + 1)) = t
      rcases Nat.mod_two_eq_zero_or_one K with h | h
      · rw [if_pos h, (Nat.even_iff.mpr h).neg_one_pow]; push_cast; ring
      · rw [if_neg (by omega), (Nat.odd_iff.mpr h).neg_one_pow]; push_cast; ring
    rw [Finset.sum_range_succ, mul_add, hterm, hsum, add_sub_add_comm, ← mul_sub, Nat.cast_succ]
    refine (abs_add_le _ _).trans (add_le_add ih ?_)
    rw [abs_mul, abs_pow, abs_neg, abs_one, one_pow, one_mul]
    exact hcut

/-- `arctanSum n 180` is arctan (1 / n) within 181 units, for n ≥ 5. -/
theorem arctanSum_near {n : Nat} (hn : 5 ≤ n) : |(arctanSum n 180 : ℝ) - piOne * Real.arctan (n : ℝ)⁻¹| ≤ 181 := by
  have hn0 : (5 : ℝ) ≤ n := by exact_mod_cast hn
  have hx1 : (1 / n : ℝ) ≤ 1 / 5 := one_div_le_one_div_of_le (by norm_num) hn0
  have hx0 : (0 : ℝ) ≤ 1 / n := by positivity
  have hsum := Real.hasSum_arctan (x := 1 / n) (by rw [Real.norm_of_nonneg hx0]; linarith)
  have hterm : ∀ i : Nat, ‖(-1) ^ i * (1 / n : ℝ) ^ (2 * i + 1) / ((2 * i + 1 : Nat) : ℝ)‖ ≤ 1 * (1 / 25) ^ i := fun i => by
    rw [norm_div, norm_mul, norm_pow, norm_neg, norm_one, one_pow, one_mul, Real.norm_of_nonneg (by positivity), one_mul,
      Real.norm_of_nonneg (by positivity)]
    calc (1 / n : ℝ) ^ (2 * i + 1) / ((2 * i + 1 : Nat) : ℝ) ≤ (1 / n : ℝ) ^ (2 * i + 1) :=
          div_le_self (by positivity) (by exact_mod_cast Nat.succ_pos _)
      _ ≤ (1 / 5) ^ (2 * i + 1) := pow_le_pow_left₀ hx0 hx1 _
      _ ≤ (1 / 5) ^ (2 * i) := pow_le_pow_of_le_one (by norm_num) (by norm_num) (by omega)
      _ = (1 / 25) ^ i := by rw [pow_mul]; norm_num
  have htail := norm_sub_le_of_geometric_bound_of_hasSum (by norm_num) hterm hsum 180
  rw [one_div, Real.norm_eq_abs] at htail
  have hcut : |piOne * ∑ i ∈ Finset.range 180, (-1 : ℝ) ^ i * (1 / n : ℝ) ^ (2 * i + 1) / ((2 * i + 1 : Nat) : ℝ) -
      piOne * Real.arctan (n : ℝ)⁻¹| ≤ 1 := by
    have hpow : piOne ≤ 16 ^ 180 := by
      rw [piOne, show (16 : ℝ) = 2 ^ 4 by norm_num, ← pow_mul]; exact pow_le_pow_right₀ one_le_two (by norm_num)
    rw [← mul_sub, abs_mul, abs_of_pos piOne_pos, one_div]
    refine (mul_le_mul hpow htail (abs_nonneg _) (by positivity)).trans ?_
    norm_num
  refine (abs_sub_le _ _ _).trans ((add_le_add (arctanSum_error (by omega) 180) hcut).trans ?_)
  norm_num

/-- `pi400` is π within 2^12 units. -/
theorem pi400_near : |(pi400 : ℝ) - piOne * Real.pi| ≤ 2 ^ 12 := by
  have h5 := abs_le.mp (arctanSum_near (n := 5) (by norm_num))
  have h239 := abs_le.mp (arctanSum_near (n := 239) (by norm_num))
  have hmachin := Real.four_mul_arctan_inv_5_sub_arctan_inv_239
  push_cast at h5 h239
  have hpi := Real.pi_gt_three
  have hbig : (2 : ℝ) ^ 12 ≤ piOne := pow_le_pow_right₀ one_le_two (by norm_num)
  have hval : |(((16 * arctanSum 5 180 - 4 * arctanSum 239 180 : Int)) : ℝ) - piOne * Real.pi| ≤ 2 ^ 12 := by
    push_cast
    rw [show Real.pi = 16 * Real.arctan 5⁻¹ - 4 * Real.arctan 239⁻¹ by linarith, abs_le]
    constructor <;> linarith
  have hpos : (0 : ℝ) ≤ ((16 * arctanSum 5 180 - 4 * arctanSum 239 180 : Int) : ℝ) := by
    have := (abs_le.mp hval).1
    nlinarith
  have hcast : (pi400 : ℝ) = ((16 * arctanSum 5 180 - 4 * arctanSum 239 180 : Int) : ℝ) := by
    rw [pi400_eq]
    exact_mod_cast Int.toNat_of_nonneg (by exact_mod_cast hpos)
  rwa [hcast]

end Sys2Proof.Machine.Transcendental
end

section
/-! The sine and cosine of an angle of at most π/4 by their series (R156). -/

namespace Sys2Proof.Machine.Transcendental

open FloatFormat Rounding Arithmetic

/-! ### The series -/

/-- The terms of e^(θ i) in pairs. -/
theorem exp_terms (θ : ℝ) (n : Nat) : ∑ m ∈ Finset.range (2 * n), ((θ : ℂ) * Complex.I) ^ m / (m.factorial : ℂ) =
    ((∑ j ∈ Finset.range n, (-1) ^ j * (θ ^ (2 * j) / (2 * j).factorial) : ℝ) : ℂ) +
      ((∑ j ∈ Finset.range n, (-1) ^ j * (θ ^ (1 + 2 * j) / (1 + 2 * j).factorial) : ℝ) : ℂ) * Complex.I := by
  induction n with
  | zero => simp
  | succ n ih =>
    have hI : Complex.I ^ (2 * n) = (-1) ^ n := by rw [pow_mul, Complex.I_sq]
    rw [show 2 * (n + 1) = 2 * n + 1 + 1 by ring, Finset.sum_range_succ, Finset.sum_range_succ, ih, Finset.sum_range_succ,
      Finset.sum_range_succ, Nat.add_comm 1 (2 * n)]
    push_cast
    rw [mul_pow, mul_pow, pow_succ Complex.I, hI]
    ring

/-- The sums of 60 terms are the cosine and the sine but for less than 2^−192. -/
theorem cos_sin_terms {θ : ℝ} (hθ : |θ| ≤ 1) :
    |∑ j ∈ Finset.range 60, (-1) ^ j * (θ ^ (2 * j) / (2 * j).factorial) - Real.cos θ| ≤ 1 / fxOne ∧
      |∑ j ∈ Finset.range 60, (-1) ^ j * (θ ^ (1 + 2 * j) / (1 + 2 * j).factorial) - Real.sin θ| ≤ 1 / fxOne := by
  have hnorm : ‖(θ : ℂ) * Complex.I‖ = |θ| := by rw [norm_mul, Complex.norm_I, mul_one, Complex.norm_real, Real.norm_eq_abs]
  have hbound := Complex.exp_bound (x := (θ : ℂ) * Complex.I) (by rwa [hnorm]) (n := 2 * 60) (by norm_num)
  rw [exp_terms, Complex.exp_mul_I, hnorm, ← Complex.ofReal_cos, ← Complex.ofReal_sin] at hbound
  have hsmall : |θ| ^ (2 * 60) * (((2 * 60 : Nat).succ : ℝ) * (((2 * 60 : Nat).factorial : ℝ) * ((2 * 60 : Nat) : ℝ))⁻¹) ≤ 1 / fxOne := by
    refine (mul_le_of_le_one_left (by positivity) (pow_le_one₀ (abs_nonneg _) hθ)).trans ?_
    rw [fxOne]
    norm_num [Nat.factorial]
  have hle := hbound.trans hsmall
  generalize ∑ j ∈ Finset.range 60, (-1) ^ j * (θ ^ (2 * j) / (2 * j).factorial) = C at hle ⊢
  generalize ∑ j ∈ Finset.range 60, (-1) ^ j * (θ ^ (1 + 2 * j) / (1 + 2 * j).factorial) = D at hle ⊢
  have hre := (Complex.abs_re_le_norm _).trans hle
  have him := (Complex.abs_im_le_norm _).trans hle
  simp only [Complex.sub_re, Complex.add_re, Complex.re_ofReal_mul, Complex.ofReal_re, Complex.I_re, mul_zero,
    add_zero] at hre
  simp only [Complex.sub_im, Complex.add_im, Complex.im_ofReal_mul, Complex.ofReal_im, Complex.I_im, mul_one, zero_add] at him
  rw [abs_sub_comm C, abs_sub_comm D]
  exact ⟨hre, him⟩

section Series
variable {x2 t : Int} {θ σ : ℝ} {i : Nat}

/-- The exact terms are at most 1. -/
theorem abs_term_le (hθ : |θ| ≤ 1) (hσ : |σ| ≤ 1) (i : Nat) : |fxOne * (σ * (θ ^ i / i.factorial))| ≤ fxOne := by
  have hf : (1 : ℝ) ≤ i.factorial := by exact_mod_cast Nat.one_le_iff_ne_zero.mpr (Nat.factorial_ne_zero i)
  have hpow : |θ ^ i / i.factorial| ≤ 1 := by
    rw [abs_div, abs_pow, Nat.abs_cast]
    exact div_le_one_of_le₀ ((pow_le_one₀ (abs_nonneg _) hθ).trans hf) (by linarith)
  rw [abs_mul, abs_mul, abs_of_pos fxOne_pos]
  exact mul_le_of_le_one_right fxOne_pos.le (mul_le_one₀ hσ (abs_nonneg _) hpow)

/-- A term times the square of the angle, within 16 units where the term is within 10. -/
theorem term_mul_sq_near {T : ℝ} (hθ : |θ| ≤ 4 / 5) (h0 : 0 ≤ x2) (h2 : |(x2 : ℝ) - θ ^ 2 * fxOne| ≤ 9) (hT : |T| ≤ fxOne)
    (ht : |(t : ℝ) - T| ≤ 10) : |(t : ℝ) * x2 / fxOne - T * θ ^ 2| ≤ 16 := by
  have hS := fxOne_pos
  obtain ⟨c, hc⟩ : ∃ c : ℝ, (x2 : ℝ) = c * fxOne := ⟨_, (div_mul_cancel₀ _ hS.ne').symm⟩
  have hc0 : 0 ≤ c := nonneg_of_mul_nonneg_left (hc ▸ by exact_mod_cast h0) hS
  rw [hc, ← sub_mul, ← abs_mul_fxOne] at h2
  have hc1 : c ≤ 7 / 10 := by
    have hsq : θ ^ 2 ≤ 16 / 25 := by rw [← sq_abs]; nlinarith [abs_nonneg θ]
    by_contra hcon
    have hdist : 6 / 100 ≤ |c - θ ^ 2| := le_trans (by linarith) (le_abs_self _)
    have := mul_le_mul hdist two_pow_le_fxOne (by positivity) (abs_nonneg _)
    linarith
  rw [hc, show (t : ℝ) * (c * fxOne) / fxOne - T * θ ^ 2 = (t - T) * c + T * (c - θ ^ 2) by field_simp; ring]
  refine (abs_add_le _ _).trans ?_
  rw [abs_mul, abs_mul, abs_of_nonneg hc0]
  have h1 : |(t : ℝ) - T| * c ≤ 10 * (7 / 10) := mul_le_mul ht hc1 hc0 (by norm_num)
  have h3 : |T| * |c - θ ^ 2| ≤ 9 := (mul_le_mul_of_nonneg_right hT (abs_nonneg _)).trans (by rwa [mul_comm])
  linarith

/-- The next term is within 10 units of the exact one, where a term is. -/
theorem fxTrig_next (hθ : |θ| ≤ 4 / 5) (h0 : 0 ≤ x2) (h2 : |(x2 : ℝ) - θ ^ 2 * fxOne| ≤ 9) (hσ : |σ| ≤ 1)
    (ht : |(t : ℝ) - fxOne * (σ * (θ ^ i / i.factorial))| ≤ 10) :
    |((-(fxMul t x2 / (((i + 1) * (i + 2) : Nat) : Int)) : Int) : ℝ) - fxOne * (-σ * (θ ^ (i + 2) / (i + 2).factorial))| ≤ 10 := by
  have hcut := abs_fxMul_ediv_sub_le t x2 (n := (((i + 1) * (i + 2) : Nat) : Int)) (by positivity)
  have hprod := term_mul_sq_near hθ h0 h2 (abs_term_le (by linarith) hσ i) ht
  have hterm : fxOne * (-σ * (θ ^ (i + 2) / (i + 2).factorial)) =
      -(fxOne * (σ * (θ ^ i / i.factorial)) * θ ^ 2 / (((i + 1) * (i + 2) : Nat) : ℝ)) := by
    rw [Nat.factorial_succ, Nat.factorial_succ, pow_add]; push_cast; field_simp; ring
  rw [hterm, Int.cast_neg, neg_sub_neg, abs_sub_comm]
  rw [Int.cast_natCast] at hcut
  have hD : (2 : ℝ) ≤ (((i + 1) * (i + 2) : Nat) : ℝ) := by exact_mod_cast (by nlinarith : 2 ≤ (i + 1) * (i + 2))
  generalize (((i + 1) * (i + 2) : Nat) : ℝ) = D at hcut hD ⊢
  have hlast : |(t : ℝ) * x2 / fxOne / D - fxOne * (σ * (θ ^ i / i.factorial)) * θ ^ 2 / D| ≤ 8 := by
    rw [← sub_div, abs_div, abs_of_pos (by linarith : 0 < D), div_le_iff₀ (by linarith)]
    linarith
  refine (abs_sub_le _ _ _).trans ((add_le_add hcut hlast).trans ?_)
  norm_num

/-- `fxTrig` of `k` terms is within 10 k units of their exact sum. -/
theorem fxTrig_error (hθ : |θ| ≤ 4 / 5) (h0 : 0 ≤ x2) (h2 : |(x2 : ℝ) - θ ^ 2 * fxOne| ≤ 9) (k i : Nat) (t : Int) (hσ : |σ| ≤ 1)
    (ht : |(t : ℝ) - fxOne * (σ * (θ ^ i / i.factorial))| ≤ 10) :
    |(fxTrig x2 k i t : ℝ) - fxOne * ∑ j ∈ Finset.range k, σ * (-1) ^ j * (θ ^ (i + 2 * j) / (i + 2 * j).factorial)| ≤ 10 * k := by
  induction k generalizing i t σ with
  | zero => simp [fxTrig]
  | succ k ih =>
    have hrest := ih (i + 2) _ (by rwa [abs_neg]) (fxTrig_next hθ h0 h2 hσ ht)
    have hidx : ∑ j ∈ Finset.range k, σ * (-1) ^ (j + 1) * (θ ^ (i + 2 * (j + 1)) / (i + 2 * (j + 1)).factorial) =
        ∑ j ∈ Finset.range k, -σ * (-1) ^ j * (θ ^ (i + 2 + 2 * j) / (i + 2 + 2 * j).factorial) :=
      Finset.sum_congr rfl fun j _ => by rw [show i + 2 * (j + 1) = i + 2 + 2 * j by ring, pow_succ]; ring
    rw [Finset.sum_range_succ', mul_add, fxTrig, hidx, pow_zero, mul_one, Nat.mul_zero, Nat.add_zero i, Int.cast_add,
      add_comm (fxOne * _), add_sub_add_comm, Nat.cast_succ]
    refine (abs_add_le _ _).trans ?_
    linarith

end Series

/-! ### The first quarter turn -/

/-- The angle of `r` in units of π/2, as a fixed-point value. -/
def fxAngle (r : Nat) : Int := ((r * pi400 / 2 ^ 401 : Nat) : Int)

/-- The sine of `r` quarter turns, by the series of the sine or of the cosine. -/
def fxSinQuarter (r : Nat) : Int :=
  if r ≤ 2 ^ (fxP - 1) then fxTrig (fxMul (fxAngle r) (fxAngle r)) 60 1 (fxAngle r)
  else fxTrig (fxMul (fxAngle (2 ^ fxP - r)) (fxAngle (2 ^ fxP - r))) 60 0 ((2 ^ fxP : Nat) : Int)

/-- The angle is π/2 times the fraction within 5 units, where the fraction is `r` within 2. -/
theorem fxAngle_near {r : Nat} (hr : (r : ℝ) ≤ fxOne) {ρ : ℝ} (hρ : |(r : ℝ) - ρ * fxOne| ≤ 2) :
    |(fxAngle r : ℝ) - ρ * (Real.pi / 2) * fxOne| ≤ 5 := by
  have hpi := pi400_near
  have hpi4 := Real.pi_lt_d2
  have hpi3 := Real.pi_gt_three
  have hS := fxOne_pos
  have hr0 : (0 : ℝ) ≤ r := Nat.cast_nonneg r
  have hcut := abs_natDiv_sub_le (r * pi400) (b := 2 ^ 401) (Nat.two_pow_pos _)
  have hP : ((2 ^ 401 : Nat) : ℝ) = 2 * piOne := by rw [piOne, ← pow_succ', Nat.cast_pow, Nat.cast_ofNat]
  have hP0 := piOne_pos
  have hbig : fxOne * 2 ^ 12 ≤ 1 / 2 * (2 * piOne) := by
    rw [← mul_assoc, show (1 / 2 : ℝ) * 2 = 1 by norm_num, one_mul, fxOne, piOne, ← pow_add]
    exact pow_le_pow_right₀ one_le_two (by norm_num)
  have h1 : |((r * pi400 : Nat) : ℝ) / ((2 ^ 401 : Nat) : ℝ) - r * (Real.pi / 2)| ≤ 1 / 2 := by
    rw [hP, Nat.cast_mul]
    generalize (pi400 : ℝ) = p at hpi ⊢
    generalize piOne = P at hpi hP0 hbig ⊢
    rw [show (r : ℝ) * p / (2 * P) - r * (Real.pi / 2) = r * (p - P * Real.pi) / (2 * P) by field_simp, abs_div, abs_mul,
      abs_of_nonneg hr0, abs_of_pos (by linarith : 0 < 2 * P), div_le_iff₀ (by linarith)]
    exact (mul_le_mul hr hpi (abs_nonneg _) hS.le).trans hbig
  have h2 : |(r : ℝ) * (Real.pi / 2) - ρ * (Real.pi / 2) * fxOne| ≤ 2 * (3.15 / 2) := by
    rw [show (r : ℝ) * (Real.pi / 2) - ρ * (Real.pi / 2) * fxOne = (r - ρ * fxOne) * (Real.pi / 2) by ring, abs_mul,
      abs_of_pos (by linarith : 0 < Real.pi / 2)]
    exact mul_le_mul hρ (by linarith) (by linarith) (by norm_num)
  have hcast : (fxAngle r : ℝ) = ((r * pi400 / 2 ^ 401 : Nat) : ℝ) := by rw [fxAngle, Int.cast_natCast]
  rw [hcast]
  refine (abs_sub_le _ (((r * pi400 : Nat) : ℝ) / ((2 ^ 401 : Nat) : ℝ)) _).trans ?_
  have h3 := abs_sub_le (((r * pi400 : Nat) : ℝ) / ((2 ^ 401 : Nat) : ℝ)) (r * (Real.pi / 2)) (ρ * (Real.pi / 2) * fxOne)
  linarith

/-- The square of an angle that is near `θ`. -/
theorem fxMul_self_near {x : Int} {θ : ℝ} (hθ : |θ| ≤ 4 / 5 - 1 / 100) (hx : |(x : ℝ) - θ * fxOne| ≤ 5) :
    |(fxMul x x : ℝ) - θ ^ 2 * fxOne| ≤ 9 := by
  have hS := fxOne_pos
  have hSbig := two_pow_le_fxOne
  have hcut := abs_fxMul_sub_le x x
  have hsum : |(x : ℝ) + θ * fxOne| ≤ (8 / 5) * fxOne := by
    rw [show (x : ℝ) + θ * fxOne = (x - θ * fxOne) + 2 * (θ * fxOne) by ring]
    refine (abs_add_le _ _).trans ?_
    rw [abs_mul, abs_mul θ, abs_two, abs_of_pos hS]
    have := mul_le_mul_of_nonneg_right hθ hS.le
    linarith
  have hsq : |(x : ℝ) * x / fxOne - θ ^ 2 * fxOne| ≤ 8 := by
    rw [show (x : ℝ) * x / fxOne - θ ^ 2 * fxOne = (x - θ * fxOne) * (x + θ * fxOne) / fxOne by field_simp; ring, abs_div, abs_mul,
      abs_of_pos hS, div_le_iff₀ hS]
    refine (mul_le_mul hx hsum (abs_nonneg _) (by norm_num)).trans ?_
    linarith
  refine (abs_sub_le _ _ _).trans ((add_le_add hcut hsq).trans ?_)
  norm_num

/-- Half of a quarter turn is less than 79 / 100. -/
theorem abs_angle_le {r : Nat} (hr : r ≤ 2 ^ (fxP - 1)) {ρ : ℝ} (hρ : |(r : ℝ) - ρ * fxOne| ≤ 2) :
    |ρ * (Real.pi / 2)| ≤ 4 / 5 - 1 / 100 := by
  have hS := fxOne_pos
  have hSbig := two_pow_le_fxOne
  have hpi0 := Real.pi_pos
  have hhalf : (r : ℝ) ≤ 1 / 2 * fxOne := by
    have h1 : (r : ℝ) ≤ ((2 ^ (fxP - 1) : Nat) : ℝ) := by exact_mod_cast hr
    refine h1.trans (le_of_eq ?_)
    rw [fxOne, fxP]; norm_num
  have hmul : |ρ| * fxOne ≤ 1 / 2 * fxOne + 2 := by
    rw [abs_mul_fxOne, show ρ * fxOne = r - (r - ρ * fxOne) by ring]
    refine (abs_sub _ _).trans ?_
    rw [Nat.abs_cast]
    linarith
  have hρ1 : |ρ| ≤ 1 / 2 + 1 / 1000 := by
    by_contra hc
    have := mul_le_mul_of_nonneg_right (not_le.mp hc).le hS.le
    linarith
  rw [abs_mul, abs_of_pos (by linarith : 0 < Real.pi / 2)]
  nlinarith [abs_nonneg ρ, Real.pi_lt_d2]

/-- The series for an angle of at most half of a quarter turn. -/
theorem fxTrig_near {r : Nat} (hr : r ≤ 2 ^ (fxP - 1)) {ρ : ℝ} (hρ : |(r : ℝ) - ρ * fxOne| ≤ 2) :
    |(fxTrig (fxMul (fxAngle r) (fxAngle r)) 60 1 (fxAngle r) : ℝ) - fxOne * Real.sin (ρ * (Real.pi / 2))| ≤ 601 ∧
      |(fxTrig (fxMul (fxAngle r) (fxAngle r)) 60 0 ((2 ^ fxP : Nat) : Int) : ℝ) - fxOne * Real.cos (ρ * (Real.pi / 2))| ≤ 601 := by
  have hθ := abs_angle_le hr hρ
  have hr' : (r : ℝ) ≤ fxOne := by
    rw [← cast_fxOne_nat]; exact_mod_cast hr.trans (Nat.pow_le_pow_right two_pos (Nat.sub_le _ _))
  have hx := fxAngle_near hr' hρ
  generalize fxAngle r = x at hx ⊢
  generalize ρ * (Real.pi / 2) = θ at hx hθ ⊢
  have hsq := fxMul_self_near hθ hx
  have hsq0 : 0 ≤ fxMul x x := Int.ediv_nonneg (mul_self_nonneg x) (by positivity)
  obtain ⟨hcos, hsin⟩ := cos_sin_terms (θ := θ) (by linarith)
  constructor
  · have hsum := fxTrig_error (by linarith : |θ| ≤ 4 / 5) hsq0 hsq 60 1 x (σ := 1) (by norm_num)
      (by rw [one_mul, pow_one, Nat.factorial_one, Nat.cast_one, div_one, mul_comm]; linarith)
    simp only [one_mul] at hsum
    refine (abs_sub_le _ _ _).trans ((add_le_add hsum (fxOne_mul_sub_le hsin)).trans ?_)
    norm_num
  · have hsum := fxTrig_error (by linarith : |θ| ≤ 4 / 5) hsq0 hsq 60 0 ((2 ^ fxP : Nat) : Int) (σ := 1) (by norm_num)
      (by rw [cast_fxOne]; norm_num)
    simp only [one_mul, Nat.zero_add] at hsum
    refine (abs_sub_le _ _ _).trans ((add_le_add hsum (fxOne_mul_sub_le hcos)).trans ?_)
    norm_num

/-- `fxSinQuarter` gives the sine of a fraction of a quarter turn within 601 units. -/
theorem fxSinQuarter_near {r : Nat} (hr : r ≤ 2 ^ fxP) {ρ : ℝ} (hρ : |(r : ℝ) - ρ * fxOne| ≤ 2) :
    |(fxSinQuarter r : ℝ) - fxOne * Real.sin (ρ * (Real.pi / 2))| ≤ 601 := by
  rw [fxSinQuarter]
  split
  · next h => exact (fxTrig_near h hρ).1
  · next h =>
    have hsin : Real.sin (ρ * (Real.pi / 2)) = Real.cos ((1 - ρ) * (Real.pi / 2)) := by
      rw [← Real.cos_pi_div_two_sub]; congr 1; ring
    rw [hsin]
    refine (fxTrig_near ?_ ?_).2
    · have : 2 ^ fxP = 2 * 2 ^ (fxP - 1) := by rw [← Nat.pow_succ']; rfl
      omega
    · rw [Nat.cast_sub hr, cast_fxOne_nat, show fxOne - (r : ℝ) - (1 - ρ) * fxOne = -(r - ρ * fxOne) by ring, abs_neg]
      exact hρ

/-! ### Any number of quarter turns -/

/-- The sine after `K` quarter turns and a fraction. -/
theorem sin_quarters (K : Nat) (ρ : ℝ) : Real.sin ((K + ρ) * (Real.pi / 2)) =
    (if K % 4 < 2 then 1 else -1) * (if K % 2 = 0 then Real.sin (ρ * (Real.pi / 2)) else Real.sin ((1 - ρ) * (Real.pi / 2))) := by
  have hcos : Real.sin ((1 - ρ) * (Real.pi / 2)) = Real.cos (ρ * (Real.pi / 2)) := by
    rw [← Real.sin_pi_div_two_sub]; congr 1; ring
  obtain ⟨j, i, hi, rfl⟩ : ∃ j i, i < 4 ∧ K = 4 * j + i := ⟨K / 4, K % 4, by omega, by omega⟩
  have hturn : Real.sin (((4 * j + i : Nat) + ρ) * (Real.pi / 2)) = Real.sin (ρ * (Real.pi / 2) + i * (Real.pi / 2)) := by
    rw [← Real.sin_add_nat_mul_two_pi (ρ * (Real.pi / 2) + i * (Real.pi / 2)) j]; congr 1; push_cast; ring
  rw [hturn, hcos, show (4 * j + i) % 4 = i by omega, show (4 * j + i) % 2 = i % 2 by omega]
  generalize ρ * (Real.pi / 2) = x
  match i, hi with
  | 0, _ => simp
  | 1, _ => simp [Real.sin_add_pi_div_two]
  | 2, _ =>
    rw [show x + ((2 : Nat) : ℝ) * (Real.pi / 2) = x + Real.pi by push_cast; ring, Real.sin_add_pi]
    simp
  | 3, _ =>
    rw [show x + ((3 : Nat) : ℝ) * (Real.pi / 2) = x + Real.pi / 2 + Real.pi by push_cast; ring, Real.sin_add_pi, Real.sin_add_pi_div_two]
    simp

/-- The quarter turns of the magnitude m · 2^q, as a fixed-point value. -/
def fxQuarter (m : Nat) (q : Int) : Nat :=
  if 0 ≤ q then m * 2 ^ (q.toNat + 1 + 400 + fxP) / pi400 else m * 2 ^ (1 + 400 + fxP) / pi400 / 2 ^ (-q).toNat

/-- The sine after `K` quarter turns and the fraction `r`. -/
def fxTurns (K r : Nat) : Int :=
  let v := if K % 2 = 0 then fxSinQuarter r else fxSinQuarter (2 ^ fxP - r)
  if K % 4 < 2 then v else -v

theorem fxSinCos_eq (cosine n : Bool) (m : Nat) (q : Int) : fxSinCos cosine n m q =
    let v := fxTurns (fxQuarter m q / 2 ^ fxP + (if cosine then 1 else 0)) (fxQuarter m q % 2 ^ fxP)
    if n && !cosine then -v else v := rfl

theorem fxTurns_near (K : Nat) {r : Nat} (hr : r ≤ 2 ^ fxP) {ρ : ℝ} (hρ : |(r : ℝ) - ρ * fxOne| ≤ 2) :
    |(fxTurns K r : ℝ) - fxOne * Real.sin ((K + ρ) * (Real.pi / 2))| ≤ 601 := by
  have hrest : |((2 ^ fxP - r : Nat) : ℝ) - (1 - ρ) * fxOne| ≤ 2 := by
    rwa [Nat.cast_sub hr, cast_fxOne_nat, show fxOne - (r : ℝ) - (1 - ρ) * fxOne = -(r - ρ * fxOne) by ring, abs_neg]
  have hv : |((if K % 2 = 0 then fxSinQuarter r else fxSinQuarter (2 ^ fxP - r) : Int) : ℝ) -
      fxOne * (if K % 2 = 0 then Real.sin (ρ * (Real.pi / 2)) else Real.sin ((1 - ρ) * (Real.pi / 2)))| ≤ 601 := by
    split
    · exact fxSinQuarter_near hr hρ
    · exact fxSinQuarter_near (Nat.sub_le _ _) hrest
  rw [fxTurns, sin_quarters]
  generalize (if K % 2 = 0 then fxSinQuarter r else fxSinQuarter (2 ^ fxP - r) : Int) = v at hv ⊢
  generalize (if K % 2 = 0 then Real.sin (ρ * (Real.pi / 2)) else Real.sin ((1 - ρ) * (Real.pi / 2))) = y at hv ⊢
  by_cases hsign : K % 4 < 2
  · simpa only [if_pos hsign, one_mul] using hv
  · simp only [if_neg hsign]
    rwa [neg_one_mul, mul_neg, Int.cast_neg, neg_sub_neg, abs_sub_comm]

theorem pi400_bounds : 2 * piOne ≤ pi400 ∧ 0 < (pi400 : ℝ) := by
  have h := (abs_le.mp pi400_near).1
  have hpi := Real.pi_gt_three
  have hP0 := piOne_pos
  have hbig : (2 : ℝ) ^ 12 ≤ piOne := pow_le_pow_right₀ one_le_two (by norm_num)
  constructor <;> nlinarith

/-- The quarter turns are cut from the quotient by `pi400`. -/
theorem fxQuarter_cut (m : Nat) (q : Int) : |(fxQuarter m q : ℝ) - m * 2 ^ q * (2 * piOne * fxOne) / pi400| ≤ 1 := by
  have hP := pi400_bounds.2
  have hP' : 0 < pi400 := by exact_mod_cast hP
  have hpow : (2 : ℝ) ^ (1 + 400 + fxP) = 2 * piOne * fxOne := by rw [pow_add, pow_add, pow_one, piOne, fxOne, fxP]
  rw [fxQuarter]
  split
  · next h =>
    have hcut := abs_natDiv_sub_le (m * 2 ^ (q.toNat + 1 + 400 + fxP)) hP'
    have hcast : ((m * 2 ^ (q.toNat + 1 + 400 + fxP) : Nat) : ℝ) = m * 2 ^ q * (2 * piOne * fxOne) := by
      rw [show q.toNat + 1 + 400 + fxP = q.toNat + (1 + 400 + fxP) by ring, Nat.cast_mul, Nat.cast_pow, Nat.cast_ofNat, pow_add, hpow,
        ← zpow_natCast, Int.toNat_of_nonneg h, mul_assoc (m : ℝ) (2 ^ q)]
    rwa [hcast] at hcut
  · next h =>
    have hcut := abs_natDiv_sub_le (m * 2 ^ (1 + 400 + fxP)) (b := pi400 * 2 ^ (-q).toNat) (by positivity)
    have hcast : ((m * 2 ^ (1 + 400 + fxP) : Nat) : ℝ) / ((pi400 * 2 ^ (-q).toNat : Nat) : ℝ) =
        m * 2 ^ q * (2 * piOne * fxOne) / pi400 := by
      have hq : ((2 : ℝ) ^ (-q).toNat) = (2 ^ q)⁻¹ := by rw [← zpow_natCast, Int.toNat_of_nonneg (by omega), zpow_neg]
      rw [Nat.cast_mul, Nat.cast_mul, Nat.cast_pow, Nat.cast_pow, Nat.cast_ofNat, hpow, hq, ← div_div, div_inv_eq_mul]
      ring
    rwa [hcast, ← Nat.div_div_eq_div_mul] at hcut

/-- The division by π loses less than 2 units. -/
theorem fxQuarter_near {m : Nat} {q : Int} (hm : m < 2 ^ 24) (hq : q ≤ 104) :
    |(fxQuarter m q : ℝ) - m * 2 ^ q / (Real.pi / 2) * fxOne| ≤ 2 := by
  obtain ⟨hP2, hP0⟩ := pi400_bounds
  have hnear := pi400_near
  have hS := fxOne_pos
  have h1 := piOne_pos
  have hpi := Real.pi_gt_three
  have hα : (m : ℝ) * 2 ^ q ≤ 2 ^ (128 : Nat) := by
    refine (mul_zpow_lt hm).le.trans ?_
    rw [← zpow_natCast]
    exact zpow_two_le (by push_cast; omega)
  have hα0 : 0 ≤ (m : ℝ) * 2 ^ q := mul_nonneg (Nat.cast_nonneg m) (zpow_nonneg zero_le_two q)
  have hcut := fxQuarter_cut m q
  have hbig : (2 : ℝ) ^ (128 : Nat) * (2 * fxOne * 2 ^ 12) ≤ 2 * piOne := by
    rw [fxOne, piOne, ← pow_succ', ← pow_add, ← pow_succ', ← pow_add]
    exact pow_le_pow_right₀ one_le_two (by norm_num)
  generalize (m : ℝ) * 2 ^ q = α at *
  generalize (pi400 : ℝ) = P at *
  have hdiff : |α * (2 * piOne * fxOne) / P - α / (Real.pi / 2) * fxOne| ≤ 1 := by
    rw [show α * (2 * piOne * fxOne) / P - α / (Real.pi / 2) * fxOne = α * (2 * fxOne * -(P - piOne * Real.pi)) / (P * Real.pi) by
      field_simp; ring, abs_div, abs_mul, abs_mul, abs_neg, abs_of_nonneg hα0, abs_of_pos (by linarith : 0 < 2 * fxOne),
      abs_of_pos (mul_pos hP0 Real.pi_pos), div_le_one (mul_pos hP0 Real.pi_pos)]
    calc α * (2 * fxOne * |P - piOne * Real.pi|) ≤ 2 ^ (128 : Nat) * (2 * fxOne * 2 ^ 12) :=
          mul_le_mul hα (mul_le_mul_of_nonneg_left hnear (by linarith)) (mul_nonneg (by linarith) (abs_nonneg _)) (by positivity)
      _ ≤ P := hbig.trans hP2
      _ ≤ P * Real.pi := le_mul_of_one_le_right hP0.le (by linarith)
  refine (abs_sub_le _ _ _).trans ((add_le_add hcut hdiff).trans ?_)
  norm_num

/-- The whole quarter turns of a magnitude and a fraction. -/
theorem exists_turns {m : Nat} {q : Int} (hm : m < 2 ^ 24) (hq : q ≤ 104) : ∃ ρ : ℝ,
    (m : ℝ) * 2 ^ q = ((fxQuarter m q / 2 ^ fxP : Nat) + ρ) * (Real.pi / 2) ∧
      |((fxQuarter m q % 2 ^ fxP : Nat) : ℝ) - ρ * fxOne| ≤ 2 := by
  have hpi := Real.pi_pos
  have hnear := fxQuarter_near hm hq
  have hdiv : ((fxQuarter m q / 2 ^ fxP : Nat) : ℝ) * fxOne + ((fxQuarter m q % 2 ^ fxP : Nat) : ℝ) = fxQuarter m q := by
    rw [← cast_fxOne_nat]; exact_mod_cast Nat.div_add_mod' _ _
  refine ⟨m * 2 ^ q / (Real.pi / 2) - (fxQuarter m q / 2 ^ fxP : Nat), by field_simp; ring, ?_⟩
  generalize fxQuarter m q / 2 ^ fxP = k at hdiv ⊢
  generalize fxQuarter m q % 2 ^ fxP = r at hdiv ⊢
  rwa [sub_mul, show (r : ℝ) - (m * 2 ^ q / (Real.pi / 2) * fxOne - k * fxOne) =
    k * fxOne + r - m * 2 ^ q / (Real.pi / 2) * fxOne by ring, hdiv]

/-- `fxSinCos` gives the sine or the cosine of any finite value within 601 units. -/
theorem fxSinCos_near (cosine n : Bool) {m : Nat} {q : Int} (hm : m < 2 ^ 24) (hq : q ≤ 104) :
    |(fxSinCos cosine n m q : ℝ) -
      fxOne * (if cosine then Real.cos (FV.fin n m q).real else Real.sin (FV.fin n m q).real)| ≤ 601 := by
  obtain ⟨ρ, hα, hρ⟩ := exists_turns hm hq
  have hr : fxQuarter m q % 2 ^ fxP ≤ 2 ^ fxP := (Nat.mod_lt _ (Nat.two_pow_pos _)).le
  rw [fxSinCos_eq, real_fin, hα]
  generalize fxQuarter m q / 2 ^ fxP = k at *
  generalize fxQuarter m q % 2 ^ fxP = r at *
  cases cosine with
  | true =>
    have hcos : Real.cos ((if n then -1 else 1) * ((k + ρ) * (Real.pi / 2))) = Real.sin (((k + 1 : Nat) + ρ) * (Real.pi / 2)) := by
      rw [show (((k + 1 : Nat) : ℝ) + ρ) * (Real.pi / 2) = (k + ρ) * (Real.pi / 2) + Real.pi / 2 by push_cast; ring,
        Real.sin_add_pi_div_two]
      cases n <;> simp
    have hturns := fxTurns_near (k + 1) hr hρ
    rw [← hcos] at hturns
    simpa using hturns
  | false =>
    have hturns := fxTurns_near k hr hρ
    cases n with
    | true =>
      rw [← abs_neg] at hturns
      simpa [sub_eq_add_neg, add_comm] using hturns
    | false => simpa using hturns

end Sys2Proof.Machine.Transcendental
end

section
/-! No finite value but 0 is near a multiple of π/2 (R156): a fraction p / s in lowest terms close to 2^(q+1) / π, with s ≥ 2^26, keeps
the 24-bit multiples of 2^(q+1) / π away from the integers. -/

namespace Sys2Proof.Machine.Transcendental

open FloatFormat Rounding Arithmetic

/-- The first convergent p₁ / s₁ of a continued fraction whose denominator has 27 bits or more; `a / b` is what is left of the number. -/
def convergent : Nat → Nat → Nat → Nat → Nat → Nat → Nat → Nat × Nat
  | 0, _, _, _, p₁, _, s₁ => (p₁, s₁)
  | k + 1, a, b, p₀, p₁, s₀, s₁ =>
    if b = 0 ∨ 2 ^ 26 ≤ s₁ then (p₁, s₁) else convergent k b (a % b) p₁ (a / b * p₁ + p₀) s₁ (a / b * s₁ + s₀)

/-- `p / s` in lowest terms approximates `2^e / P` to within 1 / (2^26 s). -/
def Approximates (P e p s : Nat) : Prop :=
  Nat.gcd p s = 1 ∧ 2 ^ 26 ≤ s ∧ s < 2 ^ 90 ∧ 2 ^ 26 * (2 ^ e * s) ≤ 2 ^ 26 * (p * P) + P ∧ 2 ^ 26 * (p * P) ≤ 2 ^ 26 * (2 ^ e * s) + P

/-- The convergents of 2^(q+1) / π for the exponents q = i − 23 of the values of 1 and more. -/
theorem convergents_approximate : ∀ i < 128, let c := convergent 60 (2 ^ (i + 378)) pi400 0 1 1 0
    Approximates pi400 (i + 378) c.1 c.2 := by
  unfold Approximates
  decide +kernel

section Distance
variable {m : Nat} {q : Int}

/-- The fraction is as close to 2^(q+1) / π itself. -/
theorem exists_fraction (h0 : -23 ≤ q) (h1 : q ≤ 104) : ∃ p s : Nat, Nat.gcd p s = 1 ∧ 2 ^ 26 ≤ s ∧ s < 2 ^ 90 ∧
    |2 ^ q / (Real.pi / 2) * s - (p : ℝ)| ≤ 1 / 2 ^ 25 := by
  obtain ⟨i, hi, hq⟩ : ∃ i : Nat, i < 128 ∧ (i : Int) = q + 23 := ⟨(q + 23).toNat, by omega, by omega⟩
  obtain ⟨hgcd, hs0, hs1, hle, hge⟩ := convergents_approximate i hi
  generalize convergent 60 (2 ^ (i + 378)) pi400 0 1 1 0 = c at *
  refine ⟨c.1, c.2, hgcd, hs0, hs1, ?_⟩
  obtain ⟨hP2, hP0⟩ := pi400_bounds
  have hnear := pi400_near
  have hO := piOne_pos
  have hpi := Real.pi_gt_three
  have hs : (0 : ℝ) ≤ c.2 := Nat.cast_nonneg _
  have hs2 : (c.2 : ℝ) ≤ 2 ^ 90 := by exact_mod_cast hs1.le
  have hle' : 2 ^ 26 * ((2 : ℝ) ^ (i + 378) * c.2) ≤ 2 ^ 26 * (c.1 * pi400) + pi400 := by exact_mod_cast hle
  have hge' : 2 ^ 26 * ((c.1 : ℝ) * pi400) ≤ 2 ^ 26 * (2 ^ (i + 378) * c.2) + pi400 := by exact_mod_cast hge
  have hα : (2 : ℝ) ^ q * (2 * piOne) = 2 ^ (i + 378) := by
    rw [piOne, ← pow_succ', ← zpow_natCast, ← zpow_natCast, ← zpow_add₀ two_ne_zero]
    congr 1; push_cast; omega
  have hbig : (2 : ℝ) ^ (i + 378) * (2 ^ 90 * 2 ^ 12) ≤ 1 / 2 ^ 26 * (2 * piOne * piOne) := by
    rw [one_div_mul_eq_div, le_div_iff₀ (by norm_num), piOne, ← pow_succ', ← pow_add, ← pow_add, ← pow_add, ← pow_add]
    exact pow_le_pow_right₀ one_le_two (by omega)
  rw [show (2 : ℝ) ^ q / (Real.pi / 2) = 2 ^ (i + 378) / (piOne * Real.pi) by rw [← hα]; field_simp]
  generalize (2 : ℝ) ^ (i + 378) = A at *
  generalize (pi400 : ℝ) = P at *
  have hA : 0 ≤ A := by rw [← hα]; exact mul_nonneg (zpow_nonneg zero_le_two q) (by linarith)
  have hcut : |A / P * c.2 - c.1| ≤ 1 / 2 ^ 26 := by
    rw [show A / P * c.2 - c.1 = (A * c.2 - c.1 * P) / P by field_simp, abs_div, abs_of_pos hP0, div_le_iff₀ hP0, abs_le]
    constructor <;> linarith
  have hdiff : |A / (piOne * Real.pi) * c.2 - A / P * c.2| ≤ 1 / 2 ^ 26 := by
    have hden : 0 < piOne * Real.pi * P := mul_pos (mul_pos hO Real.pi_pos) hP0
    rw [show A / (piOne * Real.pi) * c.2 - A / P * c.2 = A * (c.2 * (P - piOne * Real.pi)) / (piOne * Real.pi * P) by field_simp,
      abs_div, abs_mul, abs_mul, abs_of_nonneg hA, abs_of_nonneg hs, abs_of_pos hden, div_le_iff₀ hden]
    calc A * (c.2 * |P - piOne * Real.pi|) ≤ A * (2 ^ 90 * 2 ^ 12) :=
          mul_le_mul_of_nonneg_left (mul_le_mul hs2 hnear (abs_nonneg _) (by positivity)) hA
      _ ≤ 1 / 2 ^ 26 * (2 * piOne * piOne) := hbig
      _ ≤ 1 / 2 ^ 26 * (piOne * Real.pi * P) := by
        refine mul_le_mul_of_nonneg_left ?_ (by positivity)
        calc 2 * piOne * piOne ≤ P * piOne := mul_le_mul_of_nonneg_right hP2 hO.le
          _ ≤ P * piOne * Real.pi := le_mul_of_one_le_right (mul_pos hP0 hO).le (by linarith)
          _ = piOne * Real.pi * P := by ring
  refine (abs_sub_le _ _ _).trans ((add_le_add hdiff hcut).trans ?_)
  norm_num

/-- The quarter turns of a magnitude of 1 or more keep 2^−91 away from every integer. -/
theorem quarters_dist (hm0 : m ≠ 0) (hm : m < 2 ^ 24) (h0 : -23 ≤ q) (h1 : q ≤ 104) (j : Int) :
    (2 : ℝ) ^ (-91 : Int) ≤ |m * 2 ^ q / (Real.pi / 2) - j| := by
  obtain ⟨p, s, hgcd, hs0, hs1, hnear⟩ := exists_fraction h0 h1
  have hs : (0 : ℝ) < s := by exact_mod_cast (by omega : 0 < s)
  have hint : (m : Int) * p - j * s ≠ 0 := fun hc => by
    have hdvd : (s : Int) ∣ (p : Int) * m := ⟨j, by linarith⟩
    have hle := Nat.le_of_dvd (Nat.pos_of_ne_zero hm0) (Nat.Coprime.dvd_of_dvd_mul_left (Nat.Coprime.symm hgcd) (by exact_mod_cast hdvd))
    omega
  have hone : (1 : ℝ) ≤ |(m : ℝ) * p - j * s| := by exact_mod_cast Int.one_le_abs hint
  rw [mul_div_assoc]
  generalize (2 : ℝ) ^ q / (Real.pi / 2) = α at hnear ⊢
  have hm24 : (m : ℝ) ≤ 2 ^ 24 := by exact_mod_cast hm.le
  have hs90 : (s : ℝ) ≤ 2 ^ 90 := by exact_mod_cast hs1.le
  have herr : |(m : ℝ) * (α * s - p)| ≤ 1 / 2 := by
    rw [abs_mul, Nat.abs_cast]
    exact (mul_le_mul hm24 hnear (abs_nonneg _) (by norm_num)).trans (by norm_num)
  have hsplit : |m * α - j| * s = |(m * p - j * s) + m * (α * s - p)| := by
    rw [← abs_of_pos hs, ← abs_mul, abs_of_pos hs]; congr 1; ring
  have hfar : 1 / 2 ≤ |m * α - j| * s := by
    rw [hsplit]
    have := abs_sub_abs_le_abs_sub ((m : ℝ) * p - j * s) (-(m * (α * s - p)))
    rw [abs_neg, sub_neg_eq_add] at this
    linarith
  by_contra hc
  have hnear : |m * α - j| * s < 1 / 2 :=
    calc |m * α - j| * s < 2 ^ (-91 : Int) * s := mul_lt_mul_of_pos_right (not_le.mp hc) hs
      _ ≤ 2 ^ (-91 : Int) * 2 ^ 90 := mul_le_mul_of_nonneg_left hs90 (by positivity)
      _ = 1 / 2 := by norm_num
  linarith

end Distance

/-- A sine is at least the distance of its angle, in quarter turns, from the integers. -/
theorem le_abs_sin {b c : ℝ} (h : ∀ j : Int, c ≤ |b / (Real.pi / 2) - j|) : c ≤ |Real.sin b| := by
  have hpi := Real.pi_pos
  obtain ⟨i, hi⟩ : ∃ i, i = round (b / Real.pi) := ⟨_, rfl⟩
  have hround := abs_sub_round (b / Real.pi)
  rw [← hi] at hround
  have hd : |b - i * Real.pi| ≤ Real.pi / 2 := by
    rw [show b - i * Real.pi = (b / Real.pi - i) * Real.pi by field_simp, abs_mul, abs_of_pos hpi]
    linarith [mul_le_mul_of_nonneg_right hround hpi.le]
  have hsin : |Real.sin b| = |Real.sin (b - i * Real.pi)| := by
    rw [Real.sin_sub_int_mul_pi, abs_mul, abs_zpow, abs_neg, abs_one, one_zpow, one_mul]
  rw [hsin]
  refine le_trans ?_ (Real.mul_abs_le_abs_sin hd)
  refine (h (2 * i)).trans (le_of_eq ?_)
  rw [show b / (Real.pi / 2) - ((2 * i : Int) : ℝ) = 2 / Real.pi * (b - i * Real.pi) by push_cast; field_simp, abs_mul,
    abs_of_pos (by positivity : 0 < 2 / Real.pi)]

end Sys2Proof.Machine.Transcendental
end

section
/-! The sine and cosine of finite values, and the statement about the transcendental words (R156). -/

namespace Sys2Proof.Machine.Transcendental

open FloatFormat Rounding Arithmetic

/-- The sine or the cosine. -/
noncomputable def trig (cosine : Bool) (a : ℝ) : ℝ := if cosine then Real.cos a else Real.sin a

theorem abs_trig_le_one (cosine : Bool) (a : ℝ) : |trig cosine a| ≤ 1 := by
  cases cosine
  · exact Real.abs_sin_le_one a
  · exact Real.abs_cos_le_one a

/-- A sign of the operand changes at most that of the result. -/
theorem abs_trig_signed (cosine n : Bool) (u : ℝ) : |trig cosine ((if n then -1 else 1) * u)| = |trig cosine u| := by
  cases cosine <;> cases n <;> simp [trig]

section Lower
variable {cosine : Bool} {m : Nat} {q : Int}

/-- From 1 on, sines and cosines of finite values are no smaller than 2^−91. -/
theorem trig_lower_of_one_le (hm0 : m ≠ 0) (hm : m < 2 ^ 24) (h0 : -23 ≤ q) (h1 : q ≤ 104) :
    (2 : ℝ) ^ (-91 : Int) ≤ |trig cosine (m * 2 ^ q)| := by
  have hdist := quarters_dist hm0 hm h0 h1
  cases cosine with
  | false => exact le_abs_sin hdist
  | true =>
    rw [trig, if_pos rfl, ← Real.sin_add_pi_div_two]
    refine le_abs_sin fun j => (hdist (j - 1)).trans_eq ?_
    have hpi := Real.pi_pos
    rw [add_div, div_self (by positivity)]
    push_cast
    congr 1; ring

/-- Below 1 a cosine is at least 1 / 2, and a sine more than half of its angle. -/
theorem trig_lower_of_lt_one {u : ℝ} (h0 : 0 < u) (h1 : u < 1) : 1 / 2 ≤ Real.cos u ∧ u / 2 < Real.sin u := by
  constructor
  · have := Real.one_sub_sq_div_two_le_cos (x := u)
    nlinarith
  · have := Real.sin_gt_sub_cube h0
    have : u ^ 3 ≤ u := by
      calc u ^ 3 = u * u ^ 2 := by ring
        _ ≤ u * 1 := mul_le_mul_of_nonneg_left (pow_le_one₀ h0.le h1.le) h0.le
        _ = u := mul_one u
    linarith

/-- The sines that `fTrig` computes by the series, and every cosine, are at least 2^−91. -/
theorem trig_lower (n : Bool) (hm0 : m ≠ 0) (hm : m < 2 ^ 24) (hq : q ≤ 104)
    (hbig : cosine = true ∨ -30 ≤ q + Nat.log2 m) : (2 : ℝ) ^ (-91 : Int) ≤ |trig cosine (FV.fin n m q).real| := by
  rw [real_fin, abs_trig_signed]
  have hpos : (0 : ℝ) < m * 2 ^ q := by have := Nat.pos_of_ne_zero hm0; positivity
  rcases le_or_gt 1 ((m : ℝ) * 2 ^ q) with h | h
  · refine trig_lower_of_one_le hm0 hm ?_ hq
    have hlt := mul_zpow_lt (q := q) hm
    rw [← zpow_zero (2 : ℝ)] at h
    have := zpow_two_lt_iff.mp (h.trans_lt hlt)
    omega
  · obtain ⟨hcos, hsin⟩ := trig_lower_of_lt_one hpos h
    have h91 : (2 : ℝ) ^ (-91 : Int) ≤ 1 / 2 := by norm_num
    cases cosine with
    | true => exact h91.trans (hcos.trans (le_abs_self _))
    | false =>
      have hlog := le_mul_zpow (q := q) (Nat.log2_self_le hm0)
      have hexp : (2 : ℝ) ^ (-30 : Int) ≤ 2 ^ ((Nat.log2 m : Int) + q) :=
        zpow_two_le (by have := hbig.resolve_left Bool.false_ne_true; omega)
      have h91' : (2 : ℝ) ^ (-91 : Int) ≤ 2 ^ (-30 : Int) / 2 := by norm_num
      have hhalf : (2 : ℝ) ^ (-30 : Int) / 2 ≤ m * 2 ^ q / 2 := div_le_div_of_nonneg_right (hexp.trans hlog) zero_le_two
      exact (h91'.trans (hhalf.trans hsin.le)).trans (le_abs_self _)

end Lower

/-! ### The results -/

section Results
variable {n : Bool} {m : Nat} {q : Int}

/-- `fxBelow1` keeps a value near a sine or cosine near it. -/
theorem fxBelow1_near {v : Int} {y : ℝ} (hy : |y| ≤ 1) (hv : |(v : ℝ) - fxOne * y| ≤ 601) : |(fxBelow1 v : ℝ) - fxOne * y| ≤ 602 := by
  have hS := fxOne_pos
  have htop : (((2 ^ fxP - 1 : Nat) : Int) : ℝ) = fxOne - 1 := by
    rw [Int.cast_natCast, Nat.cast_sub Nat.one_le_two_pow, cast_fxOne_nat, Nat.cast_one]
  obtain ⟨y0, y1⟩ := abs_le.mp hy
  have hy1 := mul_le_mul_of_nonneg_left y1 hS.le
  have hy0 := mul_le_mul_of_nonneg_left y0 hS.le
  obtain ⟨v0, v1⟩ := abs_le.mp hv
  rw [abs_le, fxBelow1]
  generalize ((2 ^ fxP - 1 : Nat) : Int) = top at *
  split
  · next h =>
    have : (top : ℝ) < v := by exact_mod_cast h
    constructor <;> linarith
  · split
    · next h =>
      have : (v : ℝ) < ((-top : Int) : ℝ) := by exact_mod_cast h
      push_cast at this ⊢
      constructor <;> linarith
    · constructor <;> linarith

/-- `fTrig` of a finite value that is not zero: small sines by their angle, all else by the series. -/
theorem fTrig_of_fin {x : Nat} (hval : fmtF32.val x = .fin n m q) (cosine : Bool) : fTrig cosine x =
    let free := if cosine then Config.cos (BitVec.ofNat 32 x) else Config.sin (BitVec.ofNat 32 x)
    if m = 0 then (if cosine then 0x3F800000 else x, 0)
    else if cosine = false ∧ q + Nat.log2 m < (-30 : Int) then
      near2ulp free false (if n then -((m * 2 ^ 64 - 1 : Nat) : Int) else ((m * 2 ^ 64 - 1 : Nat) : Int)) (q - 64) (4 * m)
    else near2ulp free false (fxBelow1 (fxSinCos cosine n m q)) (-fxP) 1024 := by
  have hval' : (fmtOf 1).val x = .fin n m q := hval
  simp only [fTrig, hval']

/-- The result by the series. -/
theorem within_series (free : W32) (cosine n : Bool) (hm0 : m ≠ 0) (hm : m < 2 ^ 24) (hq : q ≤ 104)
    (hbig : cosine = true ∨ -30 ≤ q + Nat.log2 m) : Within2Ulp false (trig cosine (FV.fin n m q).real)
      (near2ulp free false (fxBelow1 (fxSinCos cosine n m q)) (-fxP) 1024) := by
  have hS := fxOne_pos
  have hlow := trig_lower n hm0 hm hq hbig
  have hone := abs_trig_le_one cosine (FV.fin n m q).real
  have hnear : |(fxBelow1 (fxSinCos cosine n m q) : ℝ) - fxOne * trig cosine (FV.fin n m q).real| ≤ 602 :=
    fxBelow1_near hone (fxSinCos_near cosine n hm hq)
  generalize fxBelow1 (fxSinCos cosine n m q) = v at hnear ⊢
  generalize trig cosine (FV.fin n m q).real = y at *
  have hy0 : y ≠ 0 := abs_pos.mp (lt_of_lt_of_le (by positivity) hlow)
  have hunit : (2 : ℝ) ^ (-(fxP : Int)) = 1 / fxOne := by rw [zpow_neg, zpow_natCast, fxOne, fxP, one_div]
  refine within_near2ulp free false ?_ (by norm_num) hy0 ?_ ?_ ?_
  · rintro rfl
    rw [Int.cast_zero, zero_sub, abs_neg, abs_mul, abs_of_pos hS] at hnear
    have := mul_le_mul_of_nonneg_left hlow hS.le
    rw [fxOne] at this hnear
    norm_num at this hnear
    linarith
  · have := (abs_le.mp hone).1
    exact neg_largest_le (le_trans (by norm_num) this)
  · rw [hunit, show (v : ℝ) * (1 / fxOne) - y = (v - fxOne * y) * (1 / fxOne) by field_simp, abs_mul,
      abs_of_pos (by positivity : 0 < 1 / fxOne)]
    exact mul_le_mul_of_nonneg_right (hnear.trans (by norm_num)) (by positivity)
  · exact le_trans (by rw [fxP]; norm_num) (error_le_subnormal hy0)

/-- A small magnitude in units of 2^(q − 64), less one, is its sine within 4 m units. -/
theorem sin_small_near (hm0 : m ≠ 0) (hsmall : q + Nat.log2 m < -30) :
    |((m : ℝ) * 2 ^ 64 - 1) * 2 ^ (q - 64) - Real.sin (m * 2 ^ q)| ≤ 4 * (m : ℝ) * 2 ^ (q - 64) ∧
      (2 : ℝ) ^ ((Nat.log2 m : Int) + q - 1) ≤ Real.sin (m * 2 ^ q) := by
  have hmpos := Nat.pos_of_ne_zero hm0
  have hu0 : (0 : ℝ) < m * 2 ^ q := by positivity
  have hu1 : (m : ℝ) * 2 ^ q < 2 ^ (-30 : Int) :=
    (mul_zpow_lt (q := q) (Nat.lt_log2_self (n := m))).trans_le (zpow_two_le (by push_cast; omega))
  have hlt1 : (m : ℝ) * 2 ^ q < 1 := hu1.trans (by norm_num)
  have hlow := (trig_lower_of_lt_one hu0 hlt1).2
  have hup := Real.sin_lt hu0
  have hcube := Real.sin_gt_sub_cube hu0
  have hunit : (2 : ℝ) ^ (q - 64) = 2 ^ q / 2 ^ 64 := by rw [zpow_sub₀ two_ne_zero]; norm_num
  have hcut : ((m : ℝ) * 2 ^ q) ^ 3 / 6 ≤ 4 * m * 2 ^ (q - 64) := by
    have hsq : ((m : ℝ) * 2 ^ q) ^ 2 ≤ (2 ^ (-30 : Int)) ^ 2 := pow_le_pow_left₀ hu0.le hu1.le 2
    calc ((m : ℝ) * 2 ^ q) ^ 3 / 6 = m * 2 ^ q * ((m : ℝ) * 2 ^ q) ^ 2 / 6 := by ring
      _ ≤ m * 2 ^ q * ((m : ℝ) * 2 ^ q) ^ 2 / 4 := by gcongr; norm_num
      _ ≤ m * 2 ^ q * (2 ^ (-30 : Int)) ^ 2 / 4 := by gcongr
      _ = 4 * m * 2 ^ (q - 64) := by rw [hunit]; norm_num; ring
  have hvq : (m : ℝ) * 2 ^ 64 * 2 ^ (q - 64) = m * 2 ^ q := by rw [hunit]; field_simp
  have hm1 : (1 : ℝ) ≤ m := by exact_mod_cast hmpos
  have hone : (2 : ℝ) ^ (q - 64) ≤ 4 * m * 2 ^ (q - 64) := le_mul_of_one_le_left (by positivity) (by linarith)
  have hq0 : (0 : ℝ) < 2 ^ (q - 64) := by positivity
  constructor
  · rw [sub_mul, one_mul, hvq, abs_le]
    constructor <;> linarith
  · have := le_mul_zpow (q := q) (Nat.log2_self_le hm0)
    rw [zpow_sub_one₀ two_ne_zero]
    linarith

/-- 4 m units of 2^(q − 64) are at most 2^−30 ulp of a value of nearly m · 2^q. -/
theorem small_error_le {y : ℝ} (hy : (2 : ℝ) ^ ((Nat.log2 m : Int) + q - 1) ≤ |y|) :
    4 * (m : ℝ) * 2 ^ (q - 64) ≤ 2 ^ (-30 : ℤ) * fmtF32.ulp y := by
  have hm := mul_zpow_lt (q := q - 64) (Nat.lt_log2_self (n := m))
  refine le_trans ?_ (error_le_of_le hy)
  calc 4 * (m : ℝ) * 2 ^ (q - 64) = 2 ^ (2 : Int) * (m * 2 ^ (q - 64)) := by norm_num; ring
    _ ≤ 2 ^ (2 : Int) * 2 ^ (((Nat.log2 m + 1 : Nat) : Int) + (q - 64)) := mul_le_mul_of_nonneg_left hm.le (by norm_num)
    _ ≤ 2 ^ ((Nat.log2 m : Int) + q - 1 - 53) := by rw [← zpow_add₀ two_ne_zero]; exact zpow_two_le (by push_cast; omega)

/-- The result for a small sine. -/
theorem within_small (free : W32) (n : Bool) (hm0 : m ≠ 0) (hsmall : q + Nat.log2 m < -30) :
    Within2Ulp false (Real.sin (FV.fin n m q).real)
      (near2ulp free false (if n then -((m * 2 ^ 64 - 1 : Nat) : Int) else ((m * 2 ^ 64 - 1 : Nat) : Int)) (q - 64) (4 * m)) := by
  obtain ⟨hnear, hlow⟩ := sin_small_near hm0 hsmall
  have hsin : Real.sin (FV.fin n m q).real = (if n then -1 else 1) * Real.sin (m * 2 ^ q) := by
    rw [real_fin]; cases n <;> simp
  have hcast : ((m * 2 ^ 64 - 1 : Nat) : ℝ) = m * 2 ^ 64 - 1 := by
    rw [Nat.cast_sub (by omega), Nat.cast_mul, Nat.cast_pow, Nat.cast_ofNat, Nat.cast_one]
  have hN : m * 2 ^ 64 - 1 ≠ 0 := by omega
  rw [← hcast] at hnear
  generalize m * 2 ^ 64 - 1 = N at *
  have hval : (((if n then -(N : Int) else (N : Int)) : Int) : ℝ) = (if n then -1 else 1) * (N : ℝ) := by cases n <;> simp
  have habs : ∀ z : ℝ, |(if n then -1 else 1) * z| = |z| := fun z => by cases n <;> simp
  have hle : (2 : ℝ) ^ ((Nat.log2 m : Int) + q - 1) ≤ |(if n then -1 else 1) * Real.sin (m * 2 ^ q)| := by
    rw [habs]; exact hlow.trans (le_abs_self _)
  rw [hsin]
  refine within_near2ulp free false ?_ (by omega) (abs_pos.mp (lt_of_lt_of_le (by positivity) hle)) ?_ ?_ ?_
  · cases n <;> simpa using hN
  · have h1 : |(if n then -1 else 1) * Real.sin (m * 2 ^ q)| ≤ 1 := (habs _).trans_le (Real.abs_sin_le_one _)
    exact neg_largest_le (le_trans (by norm_num) (abs_le.mp h1).1)
  · rw [hval, mul_assoc, ← mul_sub, habs]
    exact_mod_cast hnear
  · exact_mod_cast small_error_le hle

/-- `vfsin` and `vfcos` of a finite operand that is not zero (R156). -/
theorem fTrig_spec {x : Nat} (hx : x < 2 ^ 32) (hval : fmtF32.val x = .fin n m q) (hm0 : m ≠ 0) (cosine : Bool) :
    Within2Ulp false (trig cosine (FV.fin n m q).real) (fTrig cosine x) := by
  obtain ⟨hm, -, hq⟩ := f32_range hx hval
  rw [fTrig_of_fin hval]
  simp only
  rw [if_neg hm0]
  by_cases hsmall : cosine = false ∧ q + Nat.log2 m < -30
  · rw [if_pos hsmall]
    obtain ⟨rfl, h⟩ := hsmall
    exact within_small _ n hm0 h
  · rw [if_neg hsmall]
    refine within_series _ cosine n hm0 hm hq ?_
    cases cosine with
    | true => exact .inl rfl
    | false => exact .inr (by simpa using hsmall)

end Results

/-! ### The statement -/

/-- Infinite operands and NaNs by the table of R156. -/
theorem transcendental_inf {x : Nat} {n : Bool} (hval : fmtF32.val x = .inf n) (sat : Bool) :
    fEx2 sat x = (if n then (0, 0) else if sat then (fmtF32.maxBits, 0) else (fmtF32.infBits false, 0)) ∧
      fLg2 x = (if n then (fmtF32.nan, fNV) else (fmtF32.infBits false, 0)) ∧ ∀ c, fTrig c x = (fmtF32.nan, fNV) := by
  have hval' : (fmtOf 1).val x = .inf n := hval
  refine ⟨?_, ?_, fun c => ?_⟩
  · simp only [fEx2, hval']
    cases n <;> cases sat <;> rfl
  · simp only [fLg2, hval']
    rfl
  · simp only [fTrig, hval']
    rfl

theorem transcendental_nan {x : Nat} {c : Bool} (hval : fmtF32.val x = .nan c) (sat : Bool) :
    let r : FRes := (fmtF32.nan, if c then fNV else 0)
    fEx2 sat x = r ∧ fLg2 x = r ∧ ∀ b, fTrig b x = r := by
  have hval' : (fmtOf 1).val x = .nan c := hval
  rw [← nv_nan]
  refine ⟨?_, ?_, fun b => ?_⟩
  · simp only [fEx2, hval']
    rfl
  · simp only [fLg2, hval']
    rfl
  · simp only [fTrig, hval']
    rfl

/-- Settles O21: each function is computed with a known error (`fxExp_near_pow`, `fxLog2_bits`, `fxSinCos_near`) that is far below an ulp,
and `near2ulp` keeps the result within 2 ulp (`within_near2ulp`); sines and cosines do not vanish (`quarters_dist`), so NX is raised. -/
theorem transcendentalBounds : Obligations.TranscendentalBounds := by
  intro x sat hx F
  refine ⟨fun n m q hval => ?_, fun n hval => transcendental_inf hval sat, fun c hval => transcendental_nan hval sat⟩
  intro a
  obtain ⟨hexact, hnear⟩ := fEx2_spec hx hval sat
  obtain ⟨hpow, hlog, hzero, hneg⟩ := fLg2_spec hx hval
  refine ⟨hexact, hnear, hpow, hlog, fun ha => ⟨hzero ha, ?_, ?_⟩, hneg, fun ha => ⟨?_, ?_⟩⟩
  · rw [fTrig_of_fin hval]
    exact if_pos (real_eq_zero.mp ha)
  · rw [fTrig_of_fin hval]
    exact if_pos (real_eq_zero.mp ha)
  · exact fTrig_spec hx hval (mt real_eq_zero.mpr ha) false
  · exact fTrig_spec hx hval (mt real_eq_zero.mpr ha) true

end Sys2Proof.Machine.Transcendental
end
